-- ==== Sys2Proof/Word.lean ====
section
/-!
DEFINITION. The plain data types every other file is written over: bytes, register words and sparse tables.
-/
namespace Sys2Proof

/-- One byte of memory or of a message. -/
abbrev Byte := BitVec 8

/-- One 64-bit register, descriptor or message quadword (R9: little-endian in memory). -/
abbrev Quad := BitVec 64

/-- A sparse table: pairs of a key and a value, keys strictly rising. A key that is not listed reads as the
table's default, which is never listed. The operations are in `Machine/Tbl.lean`. -/
abbrev Tbl (α : Type) := List (Nat × α)

end Sys2Proof
end

