-- ==== Sys2Proof/Syntax.lean ====
section
/-!
DEFINITION. The commands of the block: one constructor of `Instr` per row of spec/opcode_table.json, with the
operands the outside world supplies. The table gives no row any bits, so a command is its constructor.
-/
namespace Sys2Proof

/-- Who makes a register or configuration access (R7 'PF, VF, MGMT'; R29-R31). `port` is 0 for HP0 and 1 for HP1;
a VF is numbered from 1 on its port (R429). -/
inductive Agent where
  | pf (port : Nat)
  | vf (port : Nat) (v : Nat)
  | mgmt
  deriving DecidableEq, Repr

/-- Which part of a 64-bit register an access names (R14, R16, R733). -/
inductive Half where
  | full
  | lo
  | hi
  deriving DecidableEq, Repr

/-- What a register read names: an offset of BAR0 or of the management core path, or a doorbell page of BAR2, which reads zero wherever
it is read (R178). -/
inductive ReadAt where
  | bar0 (off : Nat)
  | bar2
  deriving DecidableEq, Repr

/-- The shape of a BAR2 access (R178): 64 bits to a slot, 32 bits to its lower or upper half, or anything else. -/
inductive DbSize where
  | quad
  | lower
  | upper
  | other
  deriving DecidableEq, Repr

/-- What fuse load places in the block (R7, R433, R527): the variant code, the stepping, the protection frame, the
trip temperature, the depot channels that harvesting left, and whether the load itself met an error (R559 source 0). -/
structure Fuses where
  variant : Nat
  stepping : Nat
  vendorId : Nat
  serial : Nat
  baseMac : Nat
  frame : BitVec 64
  trip : Nat
  channels : List Nat
  loadError : Bool
  deriving DecidableEq, Repr

/-- The answer to a descriptor fetch (R184, R186): the descriptors in ring order, eight quadwords each, or a failed
fetch (error completion, poison, master enable off, unreachable die); `abort` is a Completer Abort on a host port. -/
inductive FetchResult where
  | descs (ds : List (List (BitVec 64)))
  | failed (abort : Bool)
  deriving DecidableEq, Repr

/-- The ECC result of a depot access (R260, R113): good, corrected in the blocks that hold the bytes at some offsets of the access, or uncorrectable at a byte offset of it. -/
inductive Ecc where
  | ok
  | corrected (offs : List Nat)
  | uncorrectable (off : Nat)
  deriving DecidableEq, Repr

/-- A 64 B table line read for a walk (R107): eight entries, or an error or poison, on a host port of the status Completer Abort or another. -/
inductive LineResult where
  | line (qs : List (BitVec 64))
  | error (abort : Bool)
  deriving DecidableEq, Repr

/-- An ATS completion (R117); an error is Completer Abort or another. -/
inductive AtsResult where
  | translation (addr : Nat) (read write : Bool)
  | untranslated
  | error (abort : Bool)
  deriving DecidableEq, Repr

/-- A PRG Response (R119). -/
inductive PrgCode where
  | success
  | invalid
  | failure
  deriving DecidableEq, Repr

/-- A read completion on a host port (R448): data, with the byte offset from which it is poisoned if EP is set, or an
error status, Completer Abort or another. -/
inductive CplResult where
  | data (bytes : List (BitVec 8)) (poison : Option Nat)
  | error (abort : Bool)
  deriving DecidableEq, Repr

/-- The 64 B Flovel transport header (R326). -/
structure Hdr where
  cls : Nat
  epoch : Nat
  enc : Bool
  type : Nat
  flags : Nat
  path : Nat
  dstQp : Nat
  arith : Nat
  srcQp : Nat
  srcNode : Nat
  dstNode : Nat
  psn : Nat
  msn : Nat
  address : Nat
  payloadLen : Nat
  card : Nat
  rank : Nat
  split : Nat
  scale : Nat
  seed : Nat
  element : Nat
  msgLen : Nat
  address2 : Nat
  deriving DecidableEq, Repr

/-- A received frame (R323): its port, the outcome of the FCS and UDP checks that the MAC makes, its ECN mark, its
replay number where the link has a shim (R368), the flow label and UDP source port that a reply copies (R356), the
transport packet, and the interface identifier of its IPv6 destination (R324). -/
structure Frame where
  port : Nat
  fcsOk : Bool
  udpOk : Bool
  ce : Bool
  shim : Option Nat
  flow : Nat
  udpSrc : Nat
  hdr : Hdr
  payload : List (BitVec 8)
  tag : List (BitVec 8)
  crc : BitVec 64
  ifaceId : Nat
  deriving DecidableEq, Repr

/-- The PTP messages (R383). The first four are event messages, which are timestamped. -/
inductive PtpKind where
  | sync
  | delayReq
  | pdelayReq
  | pdelayResp
  | other
  deriving DecidableEq, Repr

/-- A received frame with UDP destination port 319 or 320 (R384): the outcome of the FCS and UDP checks, its replay number where the link
has a shim (R368), whether it is addressed to the node, and the message, which Flovel does not interpret beyond its kind (R383). -/
structure PtpFrame where
  port : Nat
  fcsOk : Bool
  udpOk : Bool
  shim : Option Nat
  udpDst : Nat
  toSelf : Bool
  kind : PtpKind
  payload : List (BitVec 8)
  deriving DecidableEq, Repr

/-- What the management core hands to a fabric port in class MG (R318, R383, R643): a PTP message for the IPv6 address of a node, or a QP 0
datagram. -/
inductive MgMsg where
  | ptp (kind : PtpKind) (dstNode : Nat) (payload : List (BitVec 8))
  | qp0 (dstNode : Nat) (payload : List (BitVec 8))
  deriving DecidableEq, Repr

/-- A cipher engine half or an IDE pipeline (R595, R619). -/
inductive CipherHalf where
  | engine (tile : Nat) (tx : Bool)
  | ide (port : Nat) (tx : Bool)
  deriving DecidableEq, Repr

/-- A result that a check slot finds to mismatch (R616). -/
inductive CipherVictim where
  | sent (item : Nat)
  | readResp (item : Nat)
  | received (part : Nat)
  | control (qp : Nat)
  deriving DecidableEq, Repr

/-- The continuous health tests (R621). -/
inductive HealthTest where
  | rct
  | apt
  deriving DecidableEq, Repr

/-- How a retest ends (R625): passed, or failed by a continuous test, the start-up test or a known-answer test. -/
inductive RetestResult where
  | pass
  | rct
  | apt
  | startUp
  | kat
  deriving DecidableEq, Repr

/-- What the reads of a list met at the memory that holds it: a compute die that gave no answer within DIE_TIMEOUT (R261), a
poison mark from a compute die (R259), and a corrected or uncorrectable ECC error of a depot channel (R260). -/
inductive ReadEvent where
  | dieTimeout (die : Nat)
  | diePoison (die : Nat)
  | depotCorrected (channel : Nat)
  | depotUncorrectable (channel : Nat)
  deriving DecidableEq, Repr

/-- What the schedule load read from memory (R412, R413): the card array in order, as far as it could be read, for each card
index the entries of its contributor list in memory order (none where the list cannot be read), and what the reads met. -/
structure SchedData where
  cards : List (List (BitVec 64))
  lists : List (Nat × Option (List Nat))
  events : List ReadEvent
  deriving DecidableEq, Repr

/-- The deadlines of a partition reset (R510): 50 us, 3 ms and 5 ms. -/
inductive ResetStage where
  | uncommitted
  | committed
  | final
  deriving DecidableEq, Repr

/-- A binding of the dictionary and of SPDM (R643, R647). -/
inductive Binding where
  | i3c
  | vdm (port : Nat)
  | fabric
  | md (port : Nat)
  | doe (port : Nat)
  | mgmtPath
  deriving DecidableEq, Repr

/-- A dictionary message (R638) with the session that carries it, if any (R644). -/
structure DictReq where
  session : Option Nat
  seq : Nat
  index : Nat
  sub : Nat
  count : Nat
  value : Nat
  deriving DecidableEq, Repr

/-- A frame that is discarded before the transport (R320, R323, R327); one that is a frame of Flovel's otherwise carries a replay number
where its class is covered (R368). -/
inductive BadFrame where
  | macControl
  | vlan
  | unknownType (shim : Option Nat)
  | unknownVer (shim : Option Nat)
  deriving DecidableEq, Repr

/-- The commands, in the order of spec/opcode_table.json. -/
inductive Instr where
  /-- POWER_ON (R709). -/
  | powerOn (fuses : Fuses)
  /-- FUSE_LOAD_DONE (R709). -/
  | fuseLoadDone
  /-- DEPOT_TRAINING_DONE (R709). -/
  | depotTrainingDone
  /-- DEPOT_ZERO_DONE (R709). -/
  | depotZeroDone
  /-- DICTIONARY_LOAD_DONE (R709). -/
  | dictionaryLoadDone (us : Nat)
  /-- DEFAULTED (R711). -/
  | defaulted (us : Nat)
  /-- BLOCK_RESET (R708). -/
  | blockReset
  /-- REGISTER_WRITE (R12). -/
  | registerWrite (who : Agent) (off : Nat) (half : Half) (val : BitVec 64)
  /-- BAD_REGISTER_ACCESS (R15). -/
  | badRegisterAccess (who : Agent) (off : Nat) (read : Bool)
  /-- TAIL_DOORBELL (R175). -/
  | tailDoorbell (who : Agent) (slot : Nat) (size : DbSize) (val : BitVec 64)
  /-- HEAD_DOORBELL (R189). -/
  | headDoorbell (who : Agent) (slot : Nat) (size : DbSize) (val : BitVec 64)
  /-- PORTAL_TAIL_DOORBELL (R180). -/
  | portalTailDoorbell (die portal : Nat) (msg : BitVec 64)
  /-- PORTAL_HEAD_DOORBELL (R180). -/
  | portalHeadDoorbell (die portal : Nat) (msg : BitVec 64)
  /-- DESCRIPTOR_FETCH_DONE (R184). -/
  | descriptorFetchDone (txn : Nat) (res : FetchResult)
  /-- RING_CONTEXT_LOAD (R212). -/
  | ringContextLoad (cq : Bool) (ring : Nat)
  /-- NOP (R169). -/
  | nop (item : Nat)
  /-- COPY (R169). -/
  | copy (item : Nat)
  /-- WRITE_REMOTE (R169). -/
  | writeRemote (item : Nat)
  /-- READ_REMOTE (R169). -/
  | readRemote (item : Nat)
  /-- COMBINE_LOCAL (R287). -/
  | combineLocal (item : Nat)
  /-- COMBINE_REMOTE (R169). -/
  | combineRemote (item : Nat)
  /-- QUANTIZE_SEND (R169). -/
  | quantizeSend (item : Nat)
  /-- DIGEST (R312). -/
  | digest (item : Nat)
  /-- FENCE_ONLY (R194). -/
  | fenceOnly (item : Nat)
  /-- FENCE_ONLY_WAIT (R202). -/
  | fenceOnlyWait (item : Nat)
  /-- FENCE_ONLY_REARM (R198). -/
  | fenceOnlyRearm (item : Nat)
  /-- TILE_WALK_DECLARE (R133). -/
  | tileWalkDeclare (item : Nat)
  /-- WAIT_FENCE_POLL (R202). -/
  | waitFencePoll (item : Nat)
  /-- RING_WATCHDOG (R551). -/
  | ringWatchdog (item : Nat)
  /-- DIE_READ_DATA (R235). -/
  | dieReadData (txn : Nat) (data : List (BitVec 8)) (poison : Option Nat)
  /-- DIE_WRITE_ACK (R251). -/
  | dieWriteAck (txn : Nat)
  /-- DEPOT_READ_DATA (R260). -/
  | depotReadData (txn : Nat) (ecc : Ecc)
  /-- DEPOT_WRITE_ACK (R251). -/
  | depotWriteAck (txn : Nat) (ecc : Ecc)
  /-- DIE_TIMEOUT (R261). -/
  | dieTimeout (txn : Nat)
  /-- STRANDED_POP (R274). -/
  | strandedPop (who : Agent) (half : Half) (val : BitVec 64)
  /-- PARTITION_WEIGHT_WRITE (R246). -/
  | partitionWeightWrite (who : Agent) (part : Nat) (half : Half) (val : BitVec 64)
  /-- DIE_LINK_UP (R54). -/
  | dieLinkUp (die hbmBytes sramBytes : Nat)
  /-- DIE_LINK_DOWN (R265). -/
  | dieLinkDown (die : Nat)
  /-- DIE_RESET_ANNOUNCE (R265). -/
  | dieResetAnnounce (die : Nat)
  /-- TRANSLATION_SLOT_LOADED (R82). -/
  | translationSlotLoaded (part asn : Nat)
  /-- WALK_READ_DONE (R107). -/
  | walkReadDone (txn : Nat) (res : LineResult)
  /-- HOLD_TIMEOUT (R153). -/
  | holdTimeout (access : Nat)
  /-- ACCESS_COUNTER_DECAY (R146). -/
  | accessCounterDecay (part asn : Nat)
  /-- AS_CONTROL_WRITE (R87). -/
  | asControlWrite (who : Agent) (half : Half) (val : BitVec 64)
  /-- SEGMENT_COMMIT (R95). -/
  | segmentCommit (who : Agent) (seg : Nat) (half : Half) (val : BitVec 64)
  /-- SEGMENT_REMOVE (R94). -/
  | segmentRemove (who : Agent) (seg : Nat) (half : Half) (val : BitVec 64)
  /-- SEGMENT_COMMIT_DONE (R95). -/
  | segmentCommitDone (part asn seg : Nat) (list : Option (List Nat)) (events : List ReadEvent)
  /-- INVALIDATE_RANGE (R124). -/
  | invalidateRange (who : Agent) (half : Half) (val : BitVec 64)
  /-- INVALIDATE_ADDRESS_SPACE (R124). -/
  | invalidateAddressSpace (who : Agent) (half : Half) (val : BitVec 64)
  /-- INVALIDATE_PARTITION (R124). -/
  | invalidatePartition (who : Agent) (half : Half) (val : BitVec 64)
  /-- INVALIDATION_COMPLETE (R129). -/
  | invalidationComplete (inv : Nat)
  /-- ATS_COMPLETION (R117). -/
  | atsCompletion (txn : Nat) (res : AtsResult)
  /-- PRG_RESPONSE (R119): a group by 512 × function number + its index. -/
  | prgResponse (prg : Nat) (code : PrgCode)
  /-- PRI_TIMEOUT (R119): a group by 512 × function number + its index. -/
  | priTimeout (prg : Nat)
  /-- ATS_INVALIDATE_REQUEST (R120). -/
  | atsInvalidateRequest (port fn : Nat) (pasid : Option Nat) (addr len itag : Nat)
  /-- SQ_CREATE (R215). -/
  | sqCreate (who : Agent) (half : Half) (val : BitVec 64)
  /-- SQ_BIND (R215). -/
  | sqBind (who : Agent) (half : Half) (val : BitVec 64)
  /-- SQ_PAUSE (R208). -/
  | sqPause (who : Agent) (half : Half) (val : BitVec 64)
  /-- SQ_RESUME (R208). -/
  | sqResume (who : Agent) (half : Half) (val : BitVec 64)
  /-- SQ_TEARDOWN (R218). -/
  | sqTeardown (who : Agent) (half : Half) (val : BitVec 64)
  /-- TEARDOWN_SOURCE_DEADLINE (R218). -/
  | teardownSourceDeadline (ring : Nat)
  /-- TEARDOWN_DEADLINE (R218). -/
  | teardownDeadline (ring : Nat)
  /-- CQ_CREATE (R215). -/
  | cqCreate (who : Agent) (half : Half) (val : BitVec 64)
  /-- CQ_TEARDOWN (R215). -/
  | cqTeardown (who : Agent) (half : Half) (val : BitVec 64)
  /-- QP_CREATE (R333). -/
  | qpCreate (who : Agent) (half : Half) (val : BitVec 64)
  /-- QP_DESTROY (R335). -/
  | qpDestroy (who : Agent) (half : Half) (val : BitVec 64)
  /-- QP_DESTROY_DEADLINE (R335). -/
  | qpDestroyDeadline (qp : Nat)
  /-- QP_CONTEXT_LOAD (R338). -/
  | qpContextLoad (qp : Nat)
  /-- PACKET_SEND (R364). -/
  | packetSend (qp : Nat) (fullPorts : Nat)
  /-- WRITE (R336). -/
  | write (frame : Frame)
  /-- COMBINE (R305). -/
  | combine (frame : Frame)
  /-- FENCE (R253). -/
  | fence (frame : Frame)
  /-- READ_REQ (R350). -/
  | readReq (frame : Frame)
  /-- READ_RESP (R350). -/
  | readResp (frame : Frame)
  /-- ACK (R342). -/
  | ack (frame : Frame)
  /-- NAK (R329). -/
  | nak (frame : Frame)
  /-- APPLIED (R345). -/
  | applied (frame : Frame)
  /-- CREDIT (R308). -/
  | credit (frame : Frame)
  /-- PROBE (R354). -/
  | probe (frame : Frame)
  /-- PROBE_REPLY (R354). -/
  | probeReply (frame : Frame)
  /-- SKIP (R327). -/
  | skip (frame : Frame)
  /-- MGMT (R327). -/
  | mgmt (frame : Frame)
  /-- RTO_EXPIRY (R347). -/
  | rtoExpiry (qp psn : Nat)
  /-- DELIVERY_TIMEOUT (R348). -/
  | deliveryTimeout (qp psn : Nat)
  /-- READ_RETRY (R350). -/
  | readRetry (qp psn : Nat)
  /-- READ_DELIVERY_TIMEOUT (R350). -/
  | readDeliveryTimeout (qp psn : Nat)
  /-- NO_PATH_TIMEOUT (R355). -/
  | noPathTimeout (item : Nat)
  /-- APPLIED_PROBE_TIMER (R346). -/
  | appliedProbeTimer (qp msn : Nat)
  /-- LABEL_PROBE_TIMER (R354). -/
  | labelProbeTimer (set label qp : Nat)
  /-- COOLDOWN_EXPIRY (R354). -/
  | cooldownExpiry (set label : Nat)
  /-- ACK_DELAY_EXPIRY (R345). -/
  | ackDelayExpiry (qp : Nat)
  /-- BASE_RTT_RESET (R363). -/
  | baseRttReset (qp : Nat)
  /-- LLR_ACK (R369). -/
  | llrAck (port seq : Nat)
  /-- LLR_NAK (R369). -/
  | llrNak (port seq : Nat)
  /-- LLR_ACK_TIMER (R369). -/
  | llrAckTimer (port : Nat)
  /-- PORT_LINK_DOWN (R376). -/
  | portLinkDown (port : Nat)
  /-- PORT_TRAINED (R377). -/
  | portTrained (port : Nat)
  /-- TRAINING_RETRY (R375). -/
  | trainingRetry (port : Nat)
  /-- LINK_HOLD_EXPIRY (R377). -/
  | linkHoldExpiry (port : Nat)
  /-- EPOCH_SWITCH_ARM (R358). -/
  | epochSwitchArm (who : Agent) (half : Half) (val : BitVec 64)
  /-- EPOCH_SWITCH (R358). -/
  | epochSwitch
  /-- LOAD (R609). -/
  | load (who : Agent) (half : Half) (val : BitVec 64)
  /-- STAGE (R602). -/
  | stage (who : Agent) (half : Half) (val : BitVec 64)
  /-- ZERO (R609). -/
  | zero (who : Agent) (half : Half) (val : BitVec 64)
  /-- KEY_SWITCH_COMMIT (R604). -/
  | keySwitchCommit (slot : Nat)
  /-- CHECK_SLOT (R615). -/
  | checkSlot (unit : CipherHalf) (flagged : Bool) (parityOk : Bool) (mismatch : List CipherVictim)
  /-- MASK_SET_EXPIRY (R613). -/
  | maskSetExpiry (unit : CipherHalf) (copyB : Bool)
  /-- HEALTH_TEST_FAILURE (R625). -/
  | healthTestFailure (test : HealthTest)
  /-- RETEST_DONE (R625). -/
  | retestDone (res : RetestResult)
  /-- RETEST_TIMEOUT (R625). -/
  | retestTimeout
  /-- RESTART (R628). -/
  | restart (who : Agent) (half : Half) (val : BitVec 64)
  /-- DRBG_RESEED (R623). -/
  | drbgReseed
  /-- DRBG_REQUEST_SERVED (R624). -/
  | drbgRequestServed
  /-- PTP_FRAME (R384). -/
  | ptpFrame (frame : PtpFrame)
  /-- TIME_STATE_REPORT (R386). -/
  | timeStateReport (time : Nat) (offset : Int)
  /-- SYNC_MISS (R386). -/
  | syncMiss
  /-- HOLDOVER_EXPIRY (R386). -/
  | holdoverExpiry
  /-- PITCH_START (R420). -/
  | pitchStart
  /-- ROPED_PHASE_START (R392). -/
  | ropedPhaseStart
  /-- ROPED_PHASE_END (R419). -/
  | ropedPhaseEnd
  /-- SLACK_PHASE_START (R421). -/
  | slackPhaseStart
  /-- ROUND_RELEASE (R405). -/
  | roundRelease (card : Nat)
  /-- ROUND_ABANDON (R423). -/
  | roundAbandon (card : Nat) (round : Nat)
  /-- SCHEDULE_SWAP_ARM (R413). -/
  | scheduleSwapArm (who : Agent) (half : Half) (val : BitVec 64)
  /-- SCHEDULE_CHECK_DONE (R412). -/
  | scheduleCheckDone (res : SchedData)
  /-- SCHEDULE_ACTIVATE (R414). -/
  | scheduleActivate
  /-- CONFIG_READ (R434). -/
  | configRead (port fn off : Nat)
  /-- CONFIG_WRITE (R434). -/
  | configWrite (port fn off : Nat) (mask val : BitVec 32)
  /-- BUS_MASTER_CLEAR (R460). -/
  | busMasterClear (port fn : Nat)
  /-- BUS_MASTER_SET (R461). -/
  | busMasterSet (port fn : Nat)
  /-- FUNCTION_LEVEL_RESET (R455). -/
  | functionLevelReset (port fn : Nat)
  /-- FLR_SOURCE_DEADLINE (R455). -/
  | flrSourceDeadline (port fn : Nat)
  /-- FLR_DEADLINE (R455). -/
  | flrDeadline (port fn : Nat)
  /-- VF_DISABLE (R453). -/
  | vfDisable (port : Nat) (vfEnable : Bool) (numVfs : Nat)
  /-- SET_D3HOT (R462). -/
  | setD3hot (port : Nat)
  /-- SET_D0 (R462). -/
  | setD0 (port : Nat)
  /-- BAR_SIZE_WRITE (R436). -/
  | barSizeWrite (port : Nat) (vf : Bool) (size : Nat)
  /-- PERST_ASSERT (R453). -/
  | perstAssert (port : Nat)
  /-- PERST_RELEASE (R457). -/
  | perstRelease (port : Nat)
  /-- HOT_RESET (R453). -/
  | hotReset (port : Nat)
  /-- DL_DOWN (R467). -/
  | dlDown (port : Nat)
  /-- LINK_UP (R469). -/
  | linkUp (port rate width : Nat) (cxl : Bool)
  /-- TLP_ERROR (R28). -/
  | tlpError (port fn : Nat)
  /-- BAR4_READ (R441). -/
  | bar4Read (port fn off len : Nat)
  /-- BAR4_WRITE (R446). -/
  | bar4Write (port fn off : Nat) (data : List (BitVec 8))
  /-- WINDOW_READ_TIMEOUT (R443). -/
  | windowReadTimeout (access : Nat)
  /-- WINDOW_CONTROL_WRITE (R439). -/
  | windowControlWrite (who : Agent) (win : Nat) (half : Half) (val : BitVec 64)
  /-- HOST_READ_COMPLETION (R448). -/
  | hostReadCompletion (txn : Nat) (res : CplResult)
  /-- HOST_COMPLETION_TIMEOUT (R448). -/
  | hostCompletionTimeout (txn : Nat)
  /-- L1_ENTRY (R463). -/
  | l1Entry (port : Nat)
  /-- L0P_NARROW (R464). -/
  | l0pNarrow (port : Nat)
  /-- IDE_INTEGRITY_FAILURE (R473). -/
  | ideIntegrityFailure (port stream : Nat)
  /-- TDISP_STOP_INTERFACE (R474). -/
  | tdispStopInterface (port vf : Nat)
  /-- KEY_PROG (R619). -/
  | keyProg (port slot : Nat) (key : BitVec 256) (session : Bool)
  /-- K_SET_GO (R619). -/
  | kSetGo (port stream sub dir set : Nat) (session : Bool)
  /-- K_SET_STOP (R619). -/
  | kSetStop (port stream sub dir set : Nat) (session : Bool)
  /-- GRANT_CONTROL_WRITE (R72). -/
  | grantControlWrite (who : Agent) (grant : Nat) (half : Half) (val : BitVec 64)
  /-- BIND (R496). -/
  | bind (who : Agent) (half : Half) (val : BitVec 64)
  /-- REBIND (R503). -/
  | rebind (who : Agent) (half : Half) (val : BitVec 64)
  /-- PARK (R479). -/
  | park (who : Agent) (half : Half) (val : BitVec 64)
  /-- ADOPT (R518). -/
  | adopt (who : Agent) (half : Half) (val : BitVec 64)
  /-- RESET (R510). -/
  | reset (who : Agent) (half : Half) (val : BitVec 64)
  /-- PARTITION_RESET_DEADLINE (R510). -/
  | partitionResetDeadline (part : Nat) (stage : ResetStage)
  /-- RELEASE (R511). -/
  | release (who : Agent) (half : Half) (val : BitVec 64)
  /-- RECOMPOSE (R514). -/
  | recompose (who : Agent) (half : Half) (val : BitVec 64)
  /-- RECOMPOSE_MOVE_DONE (R514). -/
  | recomposeMoveDone
  /-- BELAY_DEADLINE (R503). -/
  | belayDeadline (part : Nat)
  /-- HANDOVER (R505). -/
  | handover (part : Nat)
  /-- BIVOUAC_HOLD_EXPIRY (R517). -/
  | bivouacHoldExpiry (part : Nat)
  /-- MAILBOX_SEND (R520). -/
  | mailboxSend (who : Agent) (half : Half) (val : BitVec 64)
  /-- MAILBOX_ACK (R520). -/
  | mailboxAck (who : Agent) (half : Half) (val : BitVec 64)
  /-- GETS (R537). -/
  | gets (line tile : Nat)
  /-- GETM (R537). -/
  | getm (line tile : Nat)
  /-- UPGRADE (R538). -/
  | upgrade (line tile : Nat)
  /-- PUTM (R540). -/
  | putm (line tile : Nat)
  /-- PUTO (R540). -/
  | puto (line tile : Nat)
  /-- PUTE (R540). -/
  | pute (line tile : Nat)
  /-- NCREAD (R537). -/
  | ncread (line agent : Nat)
  /-- NCWRITE (R537). -/
  | ncwrite (line agent : Nat) (hint : Option Nat)
  /-- FWDGETS (R539). -/
  | fwdgets (line tile : Nat)
  /-- FWDGETM (R539). -/
  | fwdgetm (line tile : Nat)
  /-- FWDRECALL (R537). -/
  | fwdrecall (line tile : Nat)
  /-- INV (R540). -/
  | inv (line tile : Nat)
  /-- INVACK (R537). -/
  | invack (line tile : Nat)
  /-- FWDDONE (R537). -/
  | fwddone (line tile : Nat)
  /-- NACK (R542). -/
  | nack (line agent : Nat)
  /-- NACK_RETRY (R542). -/
  | nackRetry (line agent : Nat)
  /-- WBGRANT (R540). -/
  | wbgrant (line tile : Nat)
  /-- PUTACK (R540). -/
  | putack (line tile : Nat)
  /-- GRANT (R537). -/
  | grant (line tile : Nat)
  /-- DATA (R532). -/
  | data (line agent : Nat) (excl : Bool)
  /-- WBDATA (R540). -/
  | wbdata (line tile : Nat)
  /-- HOME_TIMEOUT (R544). -/
  | homeTimeout (line : Nat)
  /-- REACT_TIMER_EXPIRY (R564). -/
  | reactTimerExpiry (src : Nat)
  /-- FAULT_EXIT (R571). -/
  | faultExit (who : Agent) (src : Nat) (half : Half) (val : BitVec 64)
  /-- FAULT_INJECT (R576). -/
  | faultInject (who : Agent) (half : Half) (val : BitVec 64)
  /-- SIGNAL_REPEND (R582). -/
  | signalRepend
  /-- INTERRUPT_CLAIM (R583). -/
  | interruptClaim (who : Agent) (target : Option Nat) (half : Half)
  /-- INTERRUPT_COMPLETE (R584). -/
  | interruptComplete (who : Agent) (target : Option Nat) (half : Half) (val : BitVec 64)
  /-- SW_TRIGGER (R594). -/
  | swTrigger (who : Agent) (half : Half) (val : BitVec 64)
  /-- SOURCE_CONFIG_WRITE (R580). -/
  | sourceConfigWrite (who : Agent) (src : Nat) (half : Half) (val : BitVec 64)
  /-- MASK_WRITE (R588). -/
  | maskWrite (who : Agent) (word : Nat) (half : Half) (val : BitVec 64)
  /-- PENDING_WRITE (R589). -/
  | pendingWrite (who : Agent) (word : Nat) (half : Half) (val : BitVec 64)
  /-- GET (R639). -/
  | get (bnd : Binding) (req : DictReq)
  /-- SET (R635). -/
  | set (bnd : Binding) (req : DictReq)
  /-- STORE (R634). -/
  | store (bnd : Binding) (req : DictReq) (storeOk : Bool)
  /-- DEFAULT (R639). -/
  | default (bnd : Binding) (req : DictReq)
  /-- NEXT (R639). -/
  | next (bnd : Binding) (req : DictReq)
  /-- MD_SEND (R645). -/
  | mdSend (who : Agent) (half : Half) (val : BitVec 64) (storeOk : Bool)
  /-- GET_VERSION (R647). -/
  | getVersion (bnd : Binding)
  /-- GET_CAPABILITIES (R647). -/
  | getCapabilities (bnd : Binding)
  /-- NEGOTIATE_ALGORITHMS (R647). -/
  | negotiateAlgorithms (bnd : Binding)
  /-- GET_DIGESTS (R647). -/
  | getDigests (bnd : Binding)
  /-- GET_CERTIFICATE (R647). -/
  | getCertificate (bnd : Binding) (slot : Nat)
  /-- CHALLENGE (R650). -/
  | challenge (bnd : Binding) (slot : Nat)
  /-- GET_MEASUREMENTS (R648). -/
  | getMeasurements (bnd : Binding) (index : Nat) (signed : Bool)
  /-- KEY_EXCHANGE (R649). -/
  | keyExchange (bnd : Binding)
  /-- FINISH (R647). -/
  | finish (bnd : Binding) (session : Nat)
  /-- HEARTBEAT (R647). -/
  | heartbeat (bnd : Binding) (session : Nat)
  /-- KEY_UPDATE (R647). -/
  | keyUpdate (bnd : Binding) (session : Nat)
  /-- END_SESSION (R649). -/
  | endSession (bnd : Binding) (session : Nat)
  /-- VENDOR_DEFINED_REQUEST (R644). -/
  | vendorDefinedRequest (bnd : Binding) (session op : Nat) (req : DictReq) (storeOk : Bool)
  /-- TRACE_DRAIN (R660). -/
  | traceDrain (tile : Nat)
  /-- TRACE_SINK_ENABLE (R666). -/
  | traceSinkEnable (who : Agent) (half : Half) (val : BitVec 64)
  /-- EVENT_RECORD_CAPTURE (R657). -/
  | eventRecordCapture (who : Agent) (half : Half)
  /-- DIGEST_CLEAR (R670). -/
  | digestClear (who : Agent) (half : Half) (val : BitVec 64)
  /-- NOW (R683). -/
  | now (who : Agent) (half : Half) (val : BitVec 64)
  /-- THAW (R682). -/
  | thaw (who : Agent) (half : Half) (val : BitVec 64)
  /-- ARM (R683). -/
  | arm (who : Agent) (half : Half) (val : BitVec 64)
  /-- TIMED_FREEZE (R680). -/
  | timedFreeze
  /-- DUMP (R694). -/
  | dump (who : Agent) (half : Half) (val : BitVec 64)
  /-- HANG_DUMP_COMPLETE (R688). -/
  | hangDumpComplete
  /-- DUMP_SLOT_RELEASE (R695). -/
  | dumpSlotRelease (who : Agent) (slot : Nat) (half : Half) (val : BitVec 64)
  /-- TILE_FREQUENCY_CHANGE (R703). -/
  | tileFrequencyChange (tile : Nat)
  /-- TEMPERATURE_REPORT (R722). -/
  | temperatureReport (tile celsius : Nat)
  /-- THROTTLE_STEP (R722). -/
  | throttleStep (tile : Nat)
  /-- SUPPLY (R723). -/
  | supply (island : Nat)
  /-- TILE_GATE (R713). -/
  | tileGate (tile : Nat)
  /-- TILE_WAKE (R713). -/
  | tileWake (tile : Nat)
  /-- DEPOT_POWER_DOWN (R714). -/
  | depotPowerDown (channel : Nat)
  /-- GOVERNOR_TICK (R717). -/
  | governorTick (blkMicroW : Nat)
  /-- POWER_REPORT (R716). -/
  | powerReport (die work maxBallast : Nat)
  /-- POWER_REPORT_MISSING (R719). -/
  | powerReportMissing (die : Nat)
  /-- BALLAST (R718). -/
  | ballast (die : Nat)
  /-- READ_CLEAR (R12): a register read, or the read of a doorbell page (R178). -/
  | readClear (who : Agent) (off : ReadAt) (half : Half)
  /-- MAC_CONTROL_FRAME (R320). -/
  | macControlFrame (port : Nat) (kind : BadFrame)
  /-- FEC_RESULT (R379). -/
  | fecResult (port corrected uncorrected : Nat)
  /-- CORRECTABLE_ERROR (R559). -/
  | correctableError (port : Nat)
  /-- PARITY_ERROR (R559). -/
  | parityError (tile : Option Nat)
  /-- MESH_LINK_ERROR (R559). -/
  | meshLinkError (tile : Nat)
  /-- ROPED_EXTENSION (R421). -/
  | ropedExtension
  /-- TDISP_REQUEST (R474). -/
  | tdispRequest (port vf : Nat) (start : Bool)
  /-- MG_FRAME_SEND (R383). -/
  | mgFrameSend (port : Nat) (msg : MgMsg)
  deriving DecidableEq, Repr

end Sys2Proof
end

