-- ==== Sys2Proof/Decode.lean ====
section
/-!
DEFINITION. The commands that a word spells. The table of this block gives no command any bits (every row of
spec/opcode_table.json has an empty list of fields), so no word spells one (log entry 40).
-/
namespace Sys2Proof

/-- The command that `nbits` bits of value `w` spell by the table: none, since no row of the table has bits. -/
def decodeTableWord (_nbits _w : Nat) : Option Instr := none

end Sys2Proof
end

