-- ==== Sys2Proof/Machine/Tbl.lean ====
section
/-!
DEFINITION. Operations on sparse tables (`Tbl`) and on sets of numbers kept as rising lists. One canonical form: keys
strictly rising. `tset` also drops an entry equal to the table's default, so that equal tables are equal data.
-/
namespace Sys2Proof.Machine

/-- The entry of a key, if there is one. -/
def tfind {α : Type} (t : Tbl α) (k : Nat) : Option α :=
  match t with
  | [] => none
  | (k', v) :: r => if k' = k then some v else tfind r k

/-- The value of a key, `d` where it is not listed. -/
def tget {α : Type} (d : α) (t : Tbl α) (k : Nat) : α :=
  match tfind t k with
  | some v => v
  | none => d

/-- The table without a key. -/
def tdel {α : Type} (t : Tbl α) (k : Nat) : Tbl α :=
  match t with
  | [] => []
  | (k', v) :: r => if k' = k then r else (k', v) :: tdel r k

/-- The table with a key at a value; keys stay in rising order. -/
def tput {α : Type} (t : Tbl α) (k : Nat) (v : α) : Tbl α :=
  match t with
  | [] => [(k, v)]
  | (k', v') :: r =>
    if k < k' then (k, v) :: (k', v') :: r
    else if k' = k then (k, v) :: r
    else (k', v') :: tput r k v

/-- The table with a key at a value, where the default value is never listed. -/
def tset {α : Type} [DecidableEq α] (d : α) (t : Tbl α) (k : Nat) (v : α) : Tbl α :=
  if v = d then tdel t k else tput t k v

/-- The table with the entry of a key changed; unchanged where the key is not listed. -/
def tmod {α : Type} (t : Tbl α) (k : Nat) (f : α → α) : Tbl α :=
  match t with
  | [] => []
  | (k', v) :: r => if k' = k then (k', f v) :: r else (k', v) :: tmod r k f

/-- The entries that a test keeps. -/
def tfilter {α : Type} (p : Nat → α → Bool) (t : Tbl α) : Tbl α := t.filter (fun e => p e.1 e.2)

/-- The first key whose entry passes a test. -/
def tfirst {α : Type} (p : Nat → α → Bool) (t : Tbl α) : Option Nat := (t.find? (fun e => p e.1 e.2)).map (·.1)

/-- How many entries pass a test. -/
def tcount {α : Type} (p : Nat → α → Bool) (t : Tbl α) : Nat := t.countP (fun e => p e.1 e.2)

/-- The keys of the entries that pass a test, in rising order. -/
def tkeys {α : Type} (p : Nat → α → Bool) (t : Tbl α) : List Nat := (t.filter (fun e => p e.1 e.2)).map (·.1)

/-- Insertion into a rising list of numbers without repeats. -/
def sins (x : Nat) (l : List Nat) : List Nat :=
  match l with
  | [] => [x]
  | y :: r => if x < y then x :: y :: r else if x = y then y :: r else y :: sins x r

/-- Removal from such a list. -/
def srem (x : Nat) (l : List Nat) : List Nat := l.filter (fun y => y != x)

/-- The list with its element at an index replaced. -/
def lset {α : Type} (l : List α) (i : Nat) (v : α) : List α := l.set i v

/-- Apply a state change for each element in order. -/
def each {σ α : Type} (l : List α) (f : α → σ → σ) (s : σ) : σ :=
  match l with
  | [] => s
  | a :: r => each r f (f a s)

/-- Apply a state change for each number below `n`, in rising order. -/
def eachN {σ : Type} (n : Nat) (f : Nat → σ → σ) (s : σ) : σ := each (List.range n) f s

/-- Run `f` while it reports progress, at most `n` times. -/
def loop {σ : Type} (n : Nat) (f : σ → Option σ) (s : σ) : σ :=
  match n with
  | 0 => s
  | m + 1 =>
    match f s with
    | some s' => loop m f s'
    | none => s

end Sys2Proof.Machine
end

