-- ==== Sys2Proof/Machine/Mem.lean ====
section
/-!
DEFINITION. The depot data areas as memory: one list of cells, keyed by 2^27 × partition + offset (an aperture is 128 MiB, R56),
in canonical form: keys strictly rising, no byte that is 0. A byte that is not listed reads 0, as the depot is zeroed
at start-up (R709).
-/
namespace Sys2Proof.Machine

open Sys2Proof

/-- The key of byte `x` of the data area of partition `p`. -/
def depotAt (p x : Nat) : Nat := 2 ^ 27 * p + x

/-- What a byte reads as. -/
def memByte (d : List Host.Cell) (a : Nat) : BitVec 8 := tget 0#8 d a

/-- Write a byte; a byte that becomes 0 is not listed. -/
def memPut (d : List Host.Cell) (a : Nat) (v : BitVec 8) : List Host.Cell := tset 0#8 d a v

/-- Read `n` bytes from a key on. -/
def memRead (d : List Host.Cell) (a n : Nat) : List (BitVec 8) := (List.range n).map (fun i => memByte d (a + i))

/-- Write bytes from a key on. -/
def memWrite (d : List Host.Cell) (a : Nat) : List (BitVec 8) → List Host.Cell
  | [] => d
  | v :: l => memWrite (memPut d a v) (a + 1) l

/-- Are the keys of a table strictly rising, and all at least `lo`? -/
def keysFrom {α : Type} (lo : Nat) : Tbl α → Bool
  | [] => true
  | (k, _) :: t => lo ≤ k && keysFrom (k + 1) t

/-- The canonical form of the depot. -/
def Memory.wf (d : List Host.Cell) : Bool := keysFrom 0 d && d.all (fun c => c.2 != 0#8)

end Sys2Proof.Machine
end

