-- ==== Sys2Proof/Machine/Bits.lean ====
section
/-!
DEFINITION. Bit fields, bytes and numbers: what every unit uses to take a word apart and to put one together.
-/
namespace Sys2Proof.Machine

/-- The field `[hi:lo]` of a number. -/
def bits (x hi lo : Nat) : Nat := (x >>> lo) % 2 ^ (hi + 1 - lo)

/-- One bit of a number. -/
def bit (x i : Nat) : Bool := (x >>> i) % 2 == 1

/-- 1 or 0. -/
def b2n (b : Bool) : Nat := if b then 1 else 0

/-- The field `[hi:lo]` of a register word. -/
def qbits (w : BitVec 64) (hi lo : Nat) : Nat := bits w.toNat hi lo

/-- A mask with ones in bits `[hi:lo]`. -/
def fmask (hi lo : Nat) : BitVec 64 := BitVec.ofNat 64 ((2 ^ (hi + 1 - lo) - 1) <<< lo)

/-- A register word with its field `[hi:lo]` set to the low bits of a number. -/
def qset (w : BitVec 64) (hi lo v : Nat) : BitVec 64 :=
  (w &&& ~~~ (fmask hi lo)) ||| (BitVec.ofNat 64 ((v % 2 ^ (hi + 1 - lo)) <<< lo))

/-- The bytes of a number, lowest first (R9). -/
def leBytes (n x : Nat) : List (BitVec 8) :=
  match n with
  | 0 => []
  | m + 1 => BitVec.ofNat 8 x :: leBytes m (x / 256)

/-- The number that bytes hold, lowest first (R9). -/
def leNat (l : List (BitVec 8)) : Nat :=
  match l with
  | [] => 0
  | b :: r => b.toNat + 256 * leNat r

/-- The bytes of a number, highest first (R10). -/
def beBytes (n x : Nat) : List (BitVec 8) := (leBytes n x).reverse

/-- The 64-bit words of a byte string, lowest byte first; a short tail is padded with zeros. -/
def leQuads (n : Nat) (l : List (BitVec 8)) : List (BitVec 64) :=
  match n with
  | 0 => []
  | m + 1 => BitVec.ofNat 64 (leNat (l.take 8)) :: leQuads m (l.drop 8)

/-- The bytes of 64-bit words in memory order. -/
def quadBytes (l : List (BitVec 64)) : List (BitVec 8) :=
  match l with
  | [] => []
  | q :: r => leBytes 8 q.toNat ++ quadBytes r

/-- Addition that stays within a limit. -/
def satAdd (max a b : Nat) : Nat := if a + b < max then a + b else max

/-- Round down to a multiple. -/
def alignDown (a m : Nat) : Nat := a / m * m

/-- Round up to a multiple. -/
def alignUp (a m : Nat) : Nat := (a + m - 1) / m * m

/-- The two's complement reading of a word of `n` bits. -/
def toSigned (n x : Nat) : Int := if x % 2 ^ n < 2 ^ (n - 1) then (x % 2 ^ n : Nat) else (x % 2 ^ n : Nat) - 2 ^ n

/-- Do two half-open ranges `[a, a+n)` and `[b, b+m)` share a byte? -/
def overlaps (a n b m : Nat) : Bool := a < b + m && b < a + n

/-- Is `[a, a+n)` inside `[b, b+m)`? -/
def inside (a n b m : Nat) : Bool := b ≤ a && a + n ≤ b + m

end Sys2Proof.Machine
end

