-- ==== Sys2Proof/Config.lean ====
section
/-!
DEFINITION. What an implementation fixes and the values that the spec leaves open. The `opaque` constants are free
values: they have no body, so nothing in Lean can evaluate them or prove what they are (log entry 3).
-/
namespace Sys2Proof

/-- One row of the variant table (R1), with the fields that ID_VARIANT reports (R7). `combineFull` is false on the
variants with sum only; `hostMax` 1 is PCIe 6.x and 2 is 7.0; `fabRate` 1 is 200G only and 2 is 448G. -/
structure Variant where
  hostPorts : Nat
  hostMax : Nat
  fabPorts : Nat
  fabRate : Nat
  depotGib : Nat
  partitions : Nat
  vfs : Nat
  combineFull : Bool
  cipher : Bool
  pitch : Bool
  watts : Nat
  deriving DecidableEq, Repr

/-- The variant table (R1). A code outside the table is read as FV-24A (DESIGN CHOICE, log entry 2: no such part is
sold). -/
def variantOf (code : Nat) : Variant :=
  match code with
  | 0x02 => ⟨2, 2, 24, 2, 32, 16, 120, true, false, true, 198⟩
  | 0x03 => ⟨2, 2, 24, 2, 16, 16, 120, true, true, true, 190⟩
  | 0x04 => ⟨2, 2, 24, 1, 32, 16, 120, true, true, true, 185⟩
  | 0x05 => ⟨2, 2, 16, 2, 32, 16, 120, true, true, true, 170⟩
  | 0x06 => ⟨1, 2, 16, 2, 16, 8, 120, true, true, true, 150⟩
  | 0x07 => ⟨1, 1, 16, 1, 16, 8, 120, true, true, true, 140⟩
  | 0x08 => ⟨2, 2, 12, 2, 32, 16, 120, true, true, true, 150⟩
  | 0x09 => ⟨1, 2, 12, 2, 16, 8, 120, false, true, true, 130⟩
  | 0x0A => ⟨1, 2, 8, 2, 8, 4, 60, true, true, false, 110⟩
  | 0x0B => ⟨1, 1, 8, 1, 8, 4, 60, false, true, false, 95⟩
  | 0x0C => ⟨2, 2, 0, 0, 32, 16, 120, true, true, false, 120⟩
  | _ => ⟨2, 2, 24, 2, 32, 16, 120, true, true, true, 205⟩

namespace Config

/-- The words that the DRBG serves (R623-R624): output number `n` of the entropy source. -/
opaque random : Nat → BitVec 32

/-- A signature of the device key (R647), by the number of the free value that it takes. -/
opaque signature : Nat → BitVec 768

/-- SHA-384 of a byte string, which the spec takes from its standard (R647). -/
opaque sha384 : List (BitVec 8) → BitVec 384

/-- The digests of the management core's boot ROM (1) and firmware (2), which the spec does not give (R648). -/
opaque firmware : Nat → BitVec 384

/-- The certificate chain of slot 0 (R647). -/
opaque certificateChain : List (BitVec 8)

/-- The supply that CK_TILE.MV reports for a tile at an effective frequency (R705), which the spec does not state. -/
opaque millivolts : Nat → Nat → BitVec 10

/-- The capability ID of the 128.0 GT/s physical layer (R431), which neither the spec nor the published layouts that this
model presumes give. -/
opaque capId128 : BitVec 16

/-- The bytes of an overlap of an item's source and destination, which the spec leaves undefined (R231). -/
opaque overlapByte : Nat → BitVec 8

/-- The bytes of a block that is written with the poison mark in place of a combine's result, which the spec does not give
(R259). -/
opaque poisonByte : Nat → BitVec 8

/-- The depot channel of a translation-mirror line, by partition, address space, level and index: the spec does not place the
mirror in the depot (R111, R113). -/
opaque mirrorChannel : Nat → Nat → Nat → Nat → Nat

/-- The function that the requester ID of an unexpected completion names, by its number: the command carries neither it nor the
port on which the completion came (R28). -/
opaque strayFn : Nat → Nat

end Config

end Sys2Proof
end

