-- ==== Sys2Proof/Machine/RegTable.lean ====
section
/-!
DEFINITION. The register map: one constructor per register of the chapters, with its offset from its unit's base, the
functions that see it, and its fields with their access codes and reset values (R11, R12, R29). A field whose Reset
column says "dict" has the default of R636 here; "fuse" fields and other live fields are 0 here and are supplied when
the register is read (`Machine/RegRead.lean`). Generated once from the register tables of the spec.
-/
namespace Sys2Proof.Machine

/-- The access codes of R12; a reserved field has no entry. -/
inductive Acc where
  | ro | rw | rwi | w1c | w1s | wo | rc
  deriving DecidableEq, Repr

/-- The units of R29, in the order that numbers the ignored-write counters (R33). -/
inductive UnitId where
  | id | hp | tu | sq | he | cx | ft | ps | pt | cc | fh | sg | ce | en | md | tc | ck
  deriving DecidableEq, Repr

/-- The registers. -/
inductive Reg where
  | idVariant | idIgnored | idBlock | idNode | idCmemDie | ptGrantBase | ptGrantLimit | ptGrantCtl
  | ptRefused | tuAsSel | tuAsCtl | tuAsRoot | tuPartCtl | tuSegBase | tuSegLen | tuSegMap | tuSegList
  | tuSegCtl | tuInvVa | tuInvCtl | tuInvStatus | tuHotqBase | tuHotqCtl | tuHotqPtr | tuFaultVa
  | tuFaultInfo | tuCounts | sqCmd | sqCmdArg | sqCmdStatus | sqRingSel | sqRingInfo | sqMalformed
  | sqIgnored | sqPortalMap | hePartWeight | heLimits | heTileLoad | heSpecDiscard | heStrandSel
  | heStrandStatus | heStrandCtl | heStrandEntry | cxPartSel | cxEvents | cxEabStatus | cxPartCtl | ftQpSel
  | ftQpStatus | ftQpCtx | ftXport | ftPathShadow | ftPathActive | ftEpochCtl | ftEpochAt | ftCc
  | ftPortStatus | ftPortFec | ftRxErrors | ftRxDrops | psTime | psTimeCtl | psOffset | psPitchLen
  | psPitchLenAct | psPhases | psPhasesAct | psCycle | psCycleAct | psSchedBase | psSwapAt | psSwapCtl
  | psStatus | psCardSel | psCardStatus | psEvents | hpWinBase | hpWinLen | hpWinCtl | hpFnSel | hpFnPasid
  | hpFnStatus | hpPmCtl | hpPortCtl | hpPortStatus | hpEvents | ptCmem | ptVfMap | ptPartSel | ptPartStatus
  | ptPartCfg | ptCarve | ptCmd | ptCmdArg | ptCmdStatus | ptStageVf | ptStageReq | ptStageCarve | ptBivouac
  | ptMbxSel | ptMbxCtl | ptMbxSend | ptMbxRecv | ptMbxPending | idProtFrame | ccCtl | ccEvents | ccWatchdog
  | ccPoison | fhCtl | fhFirst | fhFirstTime | fhSrcStatus | fhSrcCtl | fhInject | sgMask | sgPending
  | sgCount | sgSrcCfg | sgClaim | sgComplete | sgClaimT | sgCompleteT | sgSwTrigger | sgStatus | ceKeySel
  | ceKeyData | ceKeySwitch | ceKeyCmd | ceKeyStatus | ceEngineStatus | ceEvents | enStatus | enCtl
  | enCounts | mdCtl | mdReq | mdRsp | tcEvtSel | tcPartSel | tcPartCtl | tcSinkBase | tcSinkCtl | tcSinkPtr
  | tcDigSel | tcDigCfg | tcDigAcc | tcCntSel | tcCntCfg | tcCntVal | tcCntOwn | tcFreeze | tcFreezeAt
  | tcFreezeTime | tcDumpCtl | tcDumpStatus | tcDumpWinSel | ckTile | ckLimits | ckStart | ckGovCtl
  | ckGovStatus | ckThermal | tcEvtData | tcDumpWin | hpMsixAddr | hpMsixData | hpPba
  deriving DecidableEq, Repr

/-- A field of a register: its bits, its access code and its value at reset. -/
structure Fld where
  reg : Reg
  hi : Nat
  lo : Nat
  acc : Acc
  reset : Nat
  deriving DecidableEq, Repr

/-- Where a register lies (R29, R30) and who sees it (R31): `off` from the unit's base, `count` copies at `stride`. -/
structure RegSpec where
  unit : UnitId
  off : Nat
  count : Nat
  stride : Nat
  pf : Bool
  vf : Bool
  mgmt : Bool
  fields : List Fld
  deriving DecidableEq, Repr

/-- ID_VARIANT.MAX_POWER (R7). -/
def F.idVariantMaxPower : Fld := ⟨.idVariant, 55, 48, .ro, 0⟩
/-- ID_VARIANT.DEPOT_GIB (R7). -/
def F.idVariantDepotGib : Fld := ⟨.idVariant, 47, 42, .ro, 0⟩
/-- ID_VARIANT.PITCH (R7). -/
def F.idVariantPitch : Fld := ⟨.idVariant, 41, 41, .ro, 0⟩
/-- ID_VARIANT.CIPHER (R7). -/
def F.idVariantCipher : Fld := ⟨.idVariant, 40, 40, .ro, 0⟩
/-- ID_VARIANT.COMBINE (R7). -/
def F.idVariantCombine : Fld := ⟨.idVariant, 39, 38, .ro, 0⟩
/-- ID_VARIANT.HOST_PORTS (R7). -/
def F.idVariantHostPorts : Fld := ⟨.idVariant, 37, 36, .ro, 0⟩
/-- ID_VARIANT.HOST_MAX (R7). -/
def F.idVariantHostMax : Fld := ⟨.idVariant, 35, 34, .ro, 0⟩
/-- ID_VARIANT.FAB_RATE (R7). -/
def F.idVariantFabRate : Fld := ⟨.idVariant, 33, 32, .ro, 0⟩
/-- ID_VARIANT.FAB_PORTS (R7). -/
def F.idVariantFabPorts : Fld := ⟨.idVariant, 31, 27, .ro, 0⟩
/-- ID_VARIANT.PARTITIONS (R7). -/
def F.idVariantPartitions : Fld := ⟨.idVariant, 26, 22, .ro, 0⟩
/-- ID_VARIANT.VFS_PER_PORT (R7). -/
def F.idVariantVfsPerPort : Fld := ⟨.idVariant, 21, 14, .ro, 0⟩
/-- ID_VARIANT.VARIANT_CODE (R7). -/
def F.idVariantVariantCode : Fld := ⟨.idVariant, 7, 0, .ro, 0⟩
/-- ID_IGNORED.COUNT (R33). -/
def F.idIgnoredCount : Fld := ⟨.idIgnored, 31, 0, .rc, 0⟩
/-- ID_BLOCK.VENDOR_CODE (R34). -/
def F.idBlockVendorCode : Fld := ⟨.idBlock, 63, 48, .ro, 0xa71⟩
/-- ID_BLOCK.BLOCK_CODE (R34). -/
def F.idBlockBlockCode : Fld := ⟨.idBlock, 47, 32, .ro, 0xf10e⟩
/-- ID_BLOCK.GENERATION (R34). -/
def F.idBlockGeneration : Fld := ⟨.idBlock, 31, 24, .ro, 2⟩
/-- ID_BLOCK.MINOR (R34). -/
def F.idBlockMinor : Fld := ⟨.idBlock, 23, 16, .ro, 0⟩
/-- ID_BLOCK.STEPPING (R34). -/
def F.idBlockStepping : Fld := ⟨.idBlock, 15, 8, .ro, 0⟩
/-- ID_NODE.CELL_SIZE_M1 (R52). -/
def F.idNodeCellSizeM1 : Fld := ⟨.idNode, 40, 32, .ro, 511⟩
/-- ID_NODE.VALID (R52). -/
def F.idNodeValid : Fld := ⟨.idNode, 15, 15, .ro, 0⟩
/-- ID_NODE.NODE_ID (R52). -/
def F.idNodeNodeId : Fld := ⟨.idNode, 14, 0, .ro, 0⟩
/-- ID_CMEM_DIE.PRESENT (R55). -/
def F.idCmemDiePresent : Fld := ⟨.idCmemDie, 63, 63, .ro, 0⟩
/-- ID_CMEM_DIE.SRAM_64M (R55). -/
def F.idCmemDieSram64m : Fld := ⟨.idCmemDie, 43, 32, .ro, 0⟩
/-- ID_CMEM_DIE.HBM_64M (R55). -/
def F.idCmemDieHbm64m : Fld := ⟨.idCmemDie, 11, 0, .ro, 0⟩
/-- PT_GRANT_BASE.BASE (R70). -/
def F.ptGrantBaseBase : Fld := ⟨.ptGrantBase, 48, 16, .rw, 0⟩
/-- PT_GRANT_LIMIT.LIMIT (R71). -/
def F.ptGrantLimitLimit : Fld := ⟨.ptGrantLimit, 48, 16, .rw, 0⟩
/-- PT_GRANT_CTL.VALID (R72). -/
def F.ptGrantCtlValid : Fld := ⟨.ptGrantCtl, 63, 63, .rw, 0⟩
/-- PT_GRANT_CTL.NODE_HI (R72). -/
def F.ptGrantCtlNodeHi : Fld := ⟨.ptGrantCtl, 62, 48, .rw, 0⟩
/-- PT_GRANT_CTL.NODE_LO (R72). -/
def F.ptGrantCtlNodeLo : Fld := ⟨.ptGrantCtl, 47, 33, .rw, 0⟩
/-- PT_GRANT_CTL.BAD (R72). -/
def F.ptGrantCtlBad : Fld := ⟨.ptGrantCtl, 32, 32, .ro, 0⟩
/-- PT_GRANT_CTL.IN_USE (R72). -/
def F.ptGrantCtlInUse : Fld := ⟨.ptGrantCtl, 31, 16, .ro, 0⟩
/-- PT_GRANT_CTL.COMBINE (R72). -/
def F.ptGrantCtlCombine : Fld := ⟨.ptGrantCtl, 3, 3, .rw, 0⟩
/-- PT_GRANT_CTL.WRITE (R72). -/
def F.ptGrantCtlWrite : Fld := ⟨.ptGrantCtl, 2, 2, .rw, 0⟩
/-- PT_GRANT_CTL.READ (R72). -/
def F.ptGrantCtlRead : Fld := ⟨.ptGrantCtl, 1, 1, .rw, 0⟩
/-- PT_REFUSED.REFUSED (R75). -/
def F.ptRefusedRefused : Fld := ⟨.ptRefused, 31, 0, .rc, 0⟩
/-- TU_AS_SEL.PARTITION (R86). -/
def F.tuAsSelPartition : Fld := ⟨.tuAsSel, 19, 16, .rw, 0⟩
/-- TU_AS_SEL.AS (R86). -/
def F.tuAsSelAs : Fld := ⟨.tuAsSel, 11, 0, .rw, 0⟩
/-- TU_AS_CTL.VALID (R87). -/
def F.tuAsCtlValid : Fld := ⟨.tuAsCtl, 63, 63, .rw, 0⟩
/-- TU_AS_CTL.PAGES (R87). -/
def F.tuAsCtlPages : Fld := ⟨.tuAsCtl, 62, 62, .rwi, 0⟩
/-- TU_AS_CTL.RESIDENT (R87). -/
def F.tuAsCtlResident : Fld := ⟨.tuAsCtl, 61, 61, .ro, 0⟩
/-- TU_AS_CTL.SLOT (R87). -/
def F.tuAsCtlSlot : Fld := ⟨.tuAsCtl, 60, 55, .ro, 0⟩
/-- TU_AS_CTL.DECAY (R87). -/
def F.tuAsCtlDecay : Fld := ⟨.tuAsCtl, 51, 48, .rw, 0⟩
/-- TU_AS_CTL.HOT_THRESH (R87). -/
def F.tuAsCtlHotThresh : Fld := ⟨.tuAsCtl, 47, 32, .rw, 0⟩
/-- TU_AS_CTL.REFS (R87). -/
def F.tuAsCtlRefs : Fld := ⟨.tuAsCtl, 31, 16, .ro, 0⟩
/-- TU_AS_ROOT.ROOT (R88). -/
def F.tuAsRootRoot : Fld := ⟨.tuAsRoot, 48, 12, .rwi, 0⟩
/-- TU_PART_CTL.HOLD_LIMIT (R89). -/
def F.tuPartCtlHoldLimit : Fld := ⟨.tuPartCtl, 47, 32, .rw, 0x3e8⟩
/-- TU_PART_CTL.DEPTH (R89). -/
def F.tuPartCtlDepth : Fld := ⟨.tuPartCtl, 3, 0, .rw, 3⟩
/-- TU_SEG_BASE.VBASE (R90). -/
def F.tuSegBaseVbase : Fld := ⟨.tuSegBase, 63, 21, .rw, 0⟩
/-- TU_SEG_LEN.LEN (R91). -/
def F.tuSegLenLen : Fld := ⟨.tuSegLen, 63, 21, .rw, 0⟩
/-- TU_SEG_MAP.TARGET (R92). -/
def F.tuSegMapTarget : Fld := ⟨.tuSegMap, 63, 21, .rw, 0⟩
/-- TU_SEG_MAP.NODES_M1 (R92). -/
def F.tuSegMapNodesM1 : Fld := ⟨.tuSegMap, 63, 52, .rw, 0⟩
/-- TU_SEG_MAP.LOCAL_BASE (R92). -/
def F.tuSegMapLocalBase : Fld := ⟨.tuSegMap, 48, 21, .rw, 0⟩
/-- TU_SEG_LIST.LIST (R93). -/
def F.tuSegListList : Fld := ⟨.tuSegList, 48, 6, .rw, 0⟩
/-- TU_SEG_CTL.VALID (R94). -/
def F.tuSegCtlValid : Fld := ⟨.tuSegCtl, 63, 63, .rw, 0⟩
/-- TU_SEG_CTL.PENDING (R94). -/
def F.tuSegCtlPending : Fld := ⟨.tuSegCtl, 62, 62, .ro, 0⟩
/-- TU_SEG_CTL.KIND (R94). -/
def F.tuSegCtlKind : Fld := ⟨.tuSegCtl, 61, 60, .rw, 0⟩
/-- TU_SEG_CTL.STRIPE_LOG2 (R94). -/
def F.tuSegCtlStripeLog2 : Fld := ⟨.tuSegCtl, 54, 50, .rw, 0⟩
/-- TU_SEG_CTL.ERR (R94). -/
def F.tuSegCtlErr : Fld := ⟨.tuSegCtl, 39, 36, .ro, 0⟩
/-- TU_SEG_CTL.COMBINE (R94). -/
def F.tuSegCtlCombine : Fld := ⟨.tuSegCtl, 3, 3, .rw, 0⟩
/-- TU_SEG_CTL.WRITE (R94). -/
def F.tuSegCtlWrite : Fld := ⟨.tuSegCtl, 2, 2, .rw, 0⟩
/-- TU_SEG_CTL.READ (R94). -/
def F.tuSegCtlRead : Fld := ⟨.tuSegCtl, 1, 1, .rw, 0⟩
/-- TU_INV_VA.VA (R123). -/
def F.tuInvVaVa : Fld := ⟨.tuInvVa, 63, 12, .rw, 0⟩
/-- TU_INV_CTL.SCOPE (R124). -/
def F.tuInvCtlScope : Fld := ⟨.tuInvCtl, 63, 62, .wo, 0⟩
/-- TU_INV_CTL.PAGES (R124). -/
def F.tuInvCtlPages : Fld := ⟨.tuInvCtl, 31, 0, .wo, 0⟩
/-- TU_INV_STATUS.ISSUED (R125). -/
def F.tuInvStatusIssued : Fld := ⟨.tuInvStatus, 47, 32, .ro, 0⟩
/-- TU_INV_STATUS.DONE (R125). -/
def F.tuInvStatusDone : Fld := ⟨.tuInvStatus, 15, 0, .ro, 0⟩
/-- TU_HOTQ_BASE.BASE (R149). -/
def F.tuHotqBaseBase : Fld := ⟨.tuHotqBase, 48, 12, .rwi, 0⟩
/-- TU_HOTQ_CTL.ENABLE (R150). -/
def F.tuHotqCtlEnable : Fld := ⟨.tuHotqCtl, 63, 63, .rw, 0⟩
/-- TU_HOTQ_CTL.INT (R150). -/
def F.tuHotqCtlInt : Fld := ⟨.tuHotqCtl, 62, 62, .rw, 0⟩
/-- TU_HOTQ_CTL.SIZE (R150). -/
def F.tuHotqCtlSize : Fld := ⟨.tuHotqCtl, 35, 32, .rwi, 0⟩
/-- TU_HOTQ_CTL.DROPPED (R150). -/
def F.tuHotqCtlDropped : Fld := ⟨.tuHotqCtl, 31, 0, .rc, 0⟩
/-- TU_HOTQ_PTR.TAIL (R151). -/
def F.tuHotqPtrTail : Fld := ⟨.tuHotqPtr, 48, 32, .ro, 0⟩
/-- TU_HOTQ_PTR.HEAD (R151). -/
def F.tuHotqPtrHead : Fld := ⟨.tuHotqPtr, 16, 0, .rw, 0⟩
/-- TU_FAULT_VA.VA (R157). -/
def F.tuFaultVaVa : Fld := ⟨.tuFaultVa, 63, 0, .ro, 0⟩
/-- TU_FAULT_INFO.VALID (R158). -/
def F.tuFaultInfoValid : Fld := ⟨.tuFaultInfo, 63, 63, .w1c, 0⟩
/-- TU_FAULT_INFO.WINDOW (R158). -/
def F.tuFaultInfoWindow : Fld := ⟨.tuFaultInfo, 62, 62, .ro, 0⟩
/-- TU_FAULT_INFO.KIND (R158). -/
def F.tuFaultInfoKind : Fld := ⟨.tuFaultInfo, 61, 60, .ro, 0⟩
/-- TU_FAULT_INFO.COUNT (R158). -/
def F.tuFaultInfoCount : Fld := ⟨.tuFaultInfo, 59, 52, .ro, 0⟩
/-- TU_FAULT_INFO.CAUSE (R158). -/
def F.tuFaultInfoCause : Fld := ⟨.tuFaultInfo, 51, 44, .ro, 0⟩
/-- TU_FAULT_INFO.AS (R158). -/
def F.tuFaultInfoAs : Fld := ⟨.tuFaultInfo, 43, 32, .ro, 0⟩
/-- TU_FAULT_INFO.TAG (R158). -/
def F.tuFaultInfoTag : Fld := ⟨.tuFaultInfo, 31, 0, .ro, 0⟩
/-- TU_COUNTS.WALK_MISS (R159). -/
def F.tuCountsWalkMiss : Fld := ⟨.tuCounts, 63, 48, .rc, 0⟩
/-- TU_COUNTS.SLOT_WAIT (R159). -/
def F.tuCountsSlotWait : Fld := ⟨.tuCounts, 47, 32, .rc, 0⟩
/-- TU_COUNTS.PREFETCH_USED (R159). -/
def F.tuCountsPrefetchUsed : Fld := ⟨.tuCounts, 31, 16, .rc, 0⟩
/-- TU_COUNTS.DISCARD (R159). -/
def F.tuCountsDiscard : Fld := ⟨.tuCounts, 15, 0, .rc, 0⟩
/-- SQ_CMD.OP (R213). -/
def F.sqCmdOp : Fld := ⟨.sqCmd, 63, 56, .wo, 0⟩
/-- SQ_CMD.PARTITION (R213). -/
def F.sqCmdPartition : Fld := ⟨.sqCmd, 51, 48, .wo, 0⟩
/-- SQ_CMD.OBJECT (R213). -/
def F.sqCmdObject : Fld := ⟨.sqCmd, 19, 0, .wo, 0⟩
/-- SQ_CMD_ARG.ARG (R214). -/
def F.sqCmdArgArg : Fld := ⟨.sqCmdArg, 63, 0, .rw, 0⟩
/-- SQ_CMD_STATUS.BUSY (R216). -/
def F.sqCmdStatusBusy : Fld := ⟨.sqCmdStatus, 63, 63, .ro, 0⟩
/-- SQ_CMD_STATUS.RESULT (R216). -/
def F.sqCmdStatusResult : Fld := ⟨.sqCmdStatus, 55, 48, .ro, 0⟩
/-- SQ_CMD_STATUS.ABORTED (R216). -/
def F.sqCmdStatusAborted : Fld := ⟨.sqCmdStatus, 47, 32, .ro, 0⟩
/-- SQ_CMD_STATUS.HEAD (R216). -/
def F.sqCmdStatusHead : Fld := ⟨.sqCmdStatus, 16, 0, .ro, 0⟩
/-- SQ_RING_SEL.CQ (R219). -/
def F.sqRingSelCq : Fld := ⟨.sqRingSel, 63, 63, .rw, 0⟩
/-- SQ_RING_SEL.PARTITION (R219). -/
def F.sqRingSelPartition : Fld := ⟨.sqRingSel, 51, 48, .rw, 0⟩
/-- SQ_RING_SEL.NUMBER (R219). -/
def F.sqRingSelNumber : Fld := ⟨.sqRingSel, 11, 0, .rw, 0⟩
/-- SQ_RING_INFO.STATE (R220). -/
def F.sqRingInfoState : Fld := ⟨.sqRingInfo, 63, 61, .ro, 0⟩
/-- SQ_RING_INFO.HALT_CAUSE (R220). -/
def F.sqRingInfoHaltCause : Fld := ⟨.sqRingInfo, 60, 59, .ro, 0⟩
/-- SQ_RING_INFO.TAIL (R220). -/
def F.sqRingInfoTail : Fld := ⟨.sqRingInfo, 48, 32, .ro, 0⟩
/-- SQ_RING_INFO.INFLIGHT (R220). -/
def F.sqRingInfoInflight : Fld := ⟨.sqRingInfo, 31, 18, .ro, 0⟩
/-- SQ_RING_INFO.HEAD (R220). -/
def F.sqRingInfoHead : Fld := ⟨.sqRingInfo, 16, 0, .ro, 0⟩
/-- SQ_MALFORMED.VALID (R221). -/
def F.sqMalformedValid : Fld := ⟨.sqMalformed, 63, 63, .ro, 0⟩
/-- SQ_MALFORMED.REASON (R221). -/
def F.sqMalformedReason : Fld := ⟨.sqMalformed, 55, 48, .ro, 0⟩
/-- SQ_MALFORMED.CQ (R221). -/
def F.sqMalformedCq : Fld := ⟨.sqMalformed, 44, 44, .ro, 0⟩
/-- SQ_MALFORMED.RING (R221). -/
def F.sqMalformedRing : Fld := ⟨.sqMalformed, 43, 32, .ro, 0⟩
/-- SQ_MALFORMED.INDEX (R221). -/
def F.sqMalformedIndex : Fld := ⟨.sqMalformed, 16, 0, .ro, 0⟩
/-- SQ_IGNORED.COUNT (R222). -/
def F.sqIgnoredCount : Fld := ⟨.sqIgnored, 31, 0, .rc, 0⟩
/-- SQ_PORTAL_MAP.VALID (R223). -/
def F.sqPortalMapValid : Fld := ⟨.sqPortalMap, 63, 63, .rw, 0⟩
/-- SQ_PORTAL_MAP.PARTITION (R223). -/
def F.sqPortalMapPartition : Fld := ⟨.sqPortalMap, 51, 48, .rw, 0⟩
/-- HE_PART_WEIGHT.SPEC_OFF (R246). -/
def F.hePartWeightSpecOff : Fld := ⟨.hePartWeight, 63, 63, .rw, 0⟩
/-- HE_PART_WEIGHT.WEIGHT (R246). -/
def F.hePartWeightWeight : Fld := ⟨.hePartWeight, 7, 0, .rw, 0x10⟩
/-- HE_LIMITS.DIE_TIMEOUT (R247). -/
def F.heLimitsDieTimeout : Fld := ⟨.heLimits, 47, 32, .rw, 0x64⟩
/-- HE_LIMITS.SPEC_CHUNKS (R247). -/
def F.heLimitsSpecChunks : Fld := ⟨.heLimits, 7, 0, .rw, 0x20⟩
/-- HE_TILE_LOAD.ROPED (R248). -/
def F.heTileLoadRoped : Fld := ⟨.heTileLoad, 58, 48, .ro, 0⟩
/-- HE_TILE_LOAD.SPEC (R248). -/
def F.heTileLoadSpec : Fld := ⟨.heTileLoad, 42, 32, .ro, 0⟩
/-- HE_TILE_LOAD.STAGING (R248). -/
def F.heTileLoadStaging : Fld := ⟨.heTileLoad, 23, 16, .ro, 0⟩
/-- HE_TILE_LOAD.ITEMS (R248). -/
def F.heTileLoadItems : Fld := ⟨.heTileLoad, 10, 0, .ro, 0⟩
/-- HE_SPEC_DISCARD.BYTES (R249). -/
def F.heSpecDiscardBytes : Fld := ⟨.heSpecDiscard, 63, 0, .rc, 0⟩
/-- HE_STRAND_SEL.PORT (R272). -/
def F.heStrandSelPort : Fld := ⟨.heStrandSel, 8, 8, .rw, 0⟩
/-- HE_STRAND_SEL.FUNCTION (R272). -/
def F.heStrandSelFunction : Fld := ⟨.heStrandSel, 6, 0, .rw, 0⟩
/-- HE_STRAND_STATUS.USED (R273). -/
def F.heStrandStatusUsed : Fld := ⟨.heStrandStatus, 46, 32, .ro, 0⟩
/-- HE_STRAND_STATUS.INFLIGHT (R273). -/
def F.heStrandStatusInflight : Fld := ⟨.heStrandStatus, 14, 0, .ro, 0⟩
/-- HE_STRAND_CTL.POP (R274). -/
def F.heStrandCtlPop : Fld := ⟨.heStrandCtl, 63, 63, .wo, 0⟩
/-- HE_STRAND_ENTRY.QUADWORD (R275). -/
def F.heStrandEntryQuadword : Fld := ⟨.heStrandEntry, 63, 0, .ro, 0⟩
/-- CX_PART_SEL.PARTITION (R314). -/
def F.cxPartSelPartition : Fld := ⟨.cxPartSel, 3, 0, .rw, 0⟩
/-- CX_EVENTS.NAN_MADE (R315). -/
def F.cxEventsNanMade : Fld := ⟨.cxEvents, 63, 48, .rc, 0⟩
/-- CX_EVENTS.SATURATED (R315). -/
def F.cxEventsSaturated : Fld := ⟨.cxEvents, 47, 32, .rc, 0⟩
/-- CX_EVENTS.MX_NAN_BLOCKS (R315). -/
def F.cxEventsMxNanBlocks : Fld := ⟨.cxEvents, 31, 16, .rc, 0⟩
/-- CX_EVENTS.SEEDS_DRAWN (R315). -/
def F.cxEventsSeedsDrawn : Fld := ⟨.cxEvents, 15, 0, .rc, 0⟩
/-- CX_EAB_STATUS.FALLBACKS (R316). -/
def F.cxEabStatusFallbacks : Fld := ⟨.cxEabStatus, 63, 48, .rc, 0⟩
/-- CX_EAB_STATUS.SHARE (R316). -/
def F.cxEabStatusShare : Fld := ⟨.cxEabStatus, 47, 32, .ro, 0⟩
/-- CX_EAB_STATUS.PEAK (R316). -/
def F.cxEabStatusPeak : Fld := ⟨.cxEabStatus, 31, 16, .rc, 0⟩
/-- CX_EAB_STATUS.USED (R316). -/
def F.cxEabStatusUsed : Fld := ⟨.cxEabStatus, 15, 0, .ro, 0⟩
/-- CX_PART_CTL.FORCE_INORDER (R317). -/
def F.cxPartCtlForceInorder : Fld := ⟨.cxPartCtl, 63, 63, .rw, 0⟩
/-- FT_QP_SEL.QP (R339). -/
def F.ftQpSelQp : Fld := ⟨.ftQpSel, 19, 0, .rw, 0⟩
/-- FT_QP_STATUS.STATE (R340). -/
def F.ftQpStatusState : Fld := ⟨.ftQpStatus, 63, 61, .ro, 0⟩
/-- FT_QP_STATUS.RESIDENT (R340). -/
def F.ftQpStatusResident : Fld := ⟨.ftQpStatus, 60, 60, .ro, 0⟩
/-- FT_QP_STATUS.HOME (R340). -/
def F.ftQpStatusHome : Fld := ⟨.ftQpStatus, 59, 56, .ro, 0⟩
/-- FT_QP_STATUS.CAUSE (R340). -/
def F.ftQpStatusCause : Fld := ⟨.ftQpStatus, 55, 48, .ro, 0⟩
/-- FT_QP_STATUS.CWND (R340). -/
def F.ftQpStatusCwnd : Fld := ⟨.ftQpStatus, 42, 32, .ro, 0⟩
/-- FT_QP_STATUS.OUTSTANDING (R340). -/
def F.ftQpStatusOutstanding : Fld := ⟨.ftQpStatus, 26, 16, .ro, 0⟩
/-- FT_QP_STATUS.SRTT (R340). -/
def F.ftQpStatusSrtt : Fld := ⟨.ftQpStatus, 15, 0, .ro, 0⟩
/-- FT_QP_CTX.QUADWORD (R341). -/
def F.ftQpCtxQuadword : Fld := ⟨.ftQpCtx, 63, 0, .ro, 0⟩
/-- FT_XPORT.DELIVERY_TIMEOUT (R352). -/
def F.ftXportDeliveryTimeout : Fld := ⟨.ftXport, 63, 48, .rw, 0x64⟩
/-- FT_XPORT.RTO_MAX (R352). -/
def F.ftXportRtoMax : Fld := ⟨.ftXport, 47, 32, .rw, 0x3e8⟩
/-- FT_XPORT.RTO_MIN (R352). -/
def F.ftXportRtoMin : Fld := ⟨.ftXport, 31, 16, .rw, 0xc⟩
/-- FT_XPORT.ACK_COALESCE (R352). -/
def F.ftXportAckCoalesce : Fld := ⟨.ftXport, 15, 8, .rw, 0x10⟩
/-- FT_XPORT.ACK_DELAY (R352). -/
def F.ftXportAckDelay : Fld := ⟨.ftXport, 7, 0, .rw, 0xa⟩
/-- FT_PATH_SHADOW.VALID (R353). -/
def F.ftPathShadowValid : Fld := ⟨.ftPathShadow, 63, 63, .rw, 0⟩
/-- FT_PATH_SHADOW.CORDEE (R353). -/
def F.ftPathShadowCordee : Fld := ⟨.ftPathShadow, 62, 62, .rw, 0⟩
/-- FT_PATH_SHADOW.PORT (R353). -/
def F.ftPathShadowPort : Fld := ⟨.ftPathShadow, 56, 52, .rw, 0⟩
/-- FT_PATH_SHADOW.FLOW (R353). -/
def F.ftPathShadowFlow : Fld := ⟨.ftPathShadow, 51, 32, .rw, 0⟩
/-- FT_PATH_SHADOW.UDP_SRC (R353). -/
def F.ftPathShadowUdpSrc : Fld := ⟨.ftPathShadow, 31, 16, .rw, 0⟩
/-- FT_PATH_ACTIVE.VALID (R353). -/
def F.ftPathActiveValid : Fld := ⟨.ftPathActive, 63, 63, .ro, 0⟩
/-- FT_PATH_ACTIVE.CORDEE (R353). -/
def F.ftPathActiveCordee : Fld := ⟨.ftPathActive, 62, 62, .ro, 0⟩
/-- FT_PATH_ACTIVE.PORT (R353). -/
def F.ftPathActivePort : Fld := ⟨.ftPathActive, 56, 52, .ro, 0⟩
/-- FT_PATH_ACTIVE.FLOW (R353). -/
def F.ftPathActiveFlow : Fld := ⟨.ftPathActive, 51, 32, .ro, 0⟩
/-- FT_PATH_ACTIVE.UDP_SRC (R353). -/
def F.ftPathActiveUdpSrc : Fld := ⟨.ftPathActive, 31, 16, .ro, 0⟩
/-- FT_EPOCH_CTL.SWITCH (R361). -/
def F.ftEpochCtlSwitch : Fld := ⟨.ftEpochCtl, 63, 63, .w1s, 0⟩
/-- FT_EPOCH_CTL.PENDING (R361). -/
def F.ftEpochCtlPending : Fld := ⟨.ftEpochCtl, 62, 62, .ro, 0⟩
/-- FT_EPOCH_CTL.RETIRING (R361). -/
def F.ftEpochCtlRetiring : Fld := ⟨.ftEpochCtl, 61, 61, .ro, 0⟩
/-- FT_EPOCH_CTL.OLD_OUTSTANDING (R361). -/
def F.ftEpochCtlOldOutstanding : Fld := ⟨.ftEpochCtl, 47, 16, .ro, 0⟩
/-- FT_EPOCH_CTL.EPOCH (R361). -/
def F.ftEpochCtlEpoch : Fld := ⟨.ftEpochCtl, 15, 0, .ro, 0⟩
/-- FT_EPOCH_AT.AT (R362). -/
def F.ftEpochAtAt : Fld := ⟨.ftEpochAt, 63, 0, .rwi, 0⟩
/-- FT_CC.CWND_INIT (R366). -/
def F.ftCcCwndInit : Fld := ⟨.ftCc, 63, 48, .rw, 0x40⟩
/-- FT_CC.AI (R366). -/
def F.ftCcAi : Fld := ⟨.ftCc, 47, 40, .rw, 4⟩
/-- FT_CC.G_LOG2 (R366). -/
def F.ftCcGLog2 : Fld := ⟨.ftCc, 39, 36, .rw, 4⟩
/-- FT_CC.BETA_LOG2 (R366). -/
def F.ftCcBetaLog2 : Fld := ⟨.ftCc, 35, 32, .rw, 1⟩
/-- FT_CC.TARGET (R366). -/
def F.ftCcTarget : Fld := ⟨.ftCc, 31, 24, .rw, 8⟩
/-- FT_CC.COOLDOWN (R366). -/
def F.ftCcCooldown : Fld := ⟨.ftCc, 23, 16, .rw, 0x10⟩
/-- FT_CC.RX_MARK (R366). -/
def F.ftCcRxMark : Fld := ⟨.ftCc, 15, 8, .rw, 0x4b⟩
/-- FT_CC.LABEL_FAIL (R366). -/
def F.ftCcLabelFail : Fld := ⟨.ftCc, 7, 4, .rw, 3⟩
/-- FT_PORT_STATUS.UP (R378). -/
def F.ftPortStatusUp : Fld := ⟨.ftPortStatus, 63, 63, .ro, 0⟩
/-- FT_PORT_STATUS.MODE (R378). -/
def F.ftPortStatusMode : Fld := ⟨.ftPortStatus, 62, 60, .ro, 0⟩
/-- FT_PORT_STATUS.LLR (R378). -/
def F.ftPortStatusLlr : Fld := ⟨.ftPortStatus, 59, 59, .ro, 0⟩
/-- FT_PORT_STATUS.LLR_ALL (R378). -/
def F.ftPortStatusLlrAll : Fld := ⟨.ftPortStatus, 58, 58, .ro, 0⟩
/-- FT_PORT_STATUS.PLANE (R378). -/
def F.ftPortStatusPlane : Fld := ⟨.ftPortStatus, 57, 55, .ro, 0⟩
/-- FT_PORT_STATUS.DOWN_EVENTS (R378). -/
def F.ftPortStatusDownEvents : Fld := ⟨.ftPortStatus, 47, 32, .rc, 0⟩
/-- FT_PORT_STATUS.REPLAYS (R378). -/
def F.ftPortStatusReplays : Fld := ⟨.ftPortStatus, 31, 0, .rc, 0⟩
/-- FT_PORT_FEC.CORRECTED (R379). -/
def F.ftPortFecCorrected : Fld := ⟨.ftPortFec, 63, 32, .rc, 0⟩
/-- FT_PORT_FEC.UNCORRECTED (R379). -/
def F.ftPortFecUncorrected : Fld := ⟨.ftPortFec, 31, 0, .rc, 0⟩
/-- FT_RX_ERRORS.CRC (R381). -/
def F.ftRxErrorsCrc : Fld := ⟨.ftRxErrors, 63, 48, .rc, 0⟩
/-- FT_RX_ERRORS.NO_QP (R381). -/
def F.ftRxErrorsNoQp : Fld := ⟨.ftRxErrors, 47, 32, .rc, 0⟩
/-- FT_RX_ERRORS.BAD_EPOCH (R381). -/
def F.ftRxErrorsBadEpoch : Fld := ⟨.ftRxErrors, 31, 16, .rc, 0⟩
/-- FT_RX_ERRORS.MISDIRECTED (R381). -/
def F.ftRxErrorsMisdirected : Fld := ⟨.ftRxErrors, 15, 0, .rc, 0⟩
/-- FT_RX_DROPS.OVERFLOW (R382). -/
def F.ftRxDropsOverflow : Fld := ⟨.ftRxDrops, 63, 32, .rc, 0⟩
/-- FT_RX_DROPS.AUTH (R382). -/
def F.ftRxDropsAuth : Fld := ⟨.ftRxDrops, 31, 0, .rc, 0⟩
/-- PS_TIME.TIME (R388). -/
def F.psTimeTime : Fld := ⟨.psTime, 63, 0, .ro, 0⟩
/-- PS_TIME_CTL.LIMIT (R389). -/
def F.psTimeCtlLimit : Fld := ⟨.psTimeCtl, 63, 48, .rw, 0x14⟩
/-- PS_TIME_CTL.HOLDOVER (R389). -/
def F.psTimeCtlHoldover : Fld := ⟨.psTimeCtl, 47, 32, .rw, 0x64⟩
/-- PS_TIME_CTL.RELOCK (R389). -/
def F.psTimeCtlRelock : Fld := ⟨.psTimeCtl, 31, 24, .rw, 0x10⟩
/-- PS_TIME_CTL.MISS (R389). -/
def F.psTimeCtlMiss : Fld := ⟨.psTimeCtl, 23, 16, .rw, 3⟩
/-- PS_OFFSET.OFFSET (R390). -/
def F.psOffsetOffset : Fld := ⟨.psOffset, 63, 32, .ro, 0⟩
/-- PS_OFFSET.SYNCS (R390). -/
def F.psOffsetSyncs : Fld := ⟨.psOffset, 15, 0, .ro, 0⟩
/-- PS_PITCH_LEN.LEN (R395). -/
def F.psPitchLenLen : Fld := ⟨.psPitchLen, 10, 0, .rw, 0x20⟩
/-- PS_PITCH_LEN_ACT.LEN (R395). -/
def F.psPitchLenActLen : Fld := ⟨.psPitchLenAct, 10, 0, .ro, 0x20⟩
/-- PS_PHASES.GUARD (R396). -/
def F.psPhasesGuard : Fld := ⟨.psPhases, 59, 40, .rw, 0xfa⟩
/-- PS_PHASES.ROPED (R396). -/
def F.psPhasesRoped : Fld := ⟨.psPhases, 39, 20, .rw, 0x4e20⟩
/-- PS_PHASES.FREE (R396). -/
def F.psPhasesFree : Fld := ⟨.psPhases, 19, 0, .rw, 0x1f40⟩
/-- PS_PHASES_ACT.GUARD (R396). -/
def F.psPhasesActGuard : Fld := ⟨.psPhasesAct, 59, 40, .ro, 0xfa⟩
/-- PS_PHASES_ACT.ROPED (R396). -/
def F.psPhasesActRoped : Fld := ⟨.psPhasesAct, 39, 20, .ro, 0x4e20⟩
/-- PS_PHASES_ACT.FREE (R396). -/
def F.psPhasesActFree : Fld := ⟨.psPhasesAct, 19, 0, .ro, 0x1f40⟩
/-- PS_CYCLE.REPEAT (R397). -/
def F.psCycleRepeat : Fld := ⟨.psCycle, 63, 63, .rw, 0⟩
/-- PS_CYCLE.ABANDON (R397). -/
def F.psCycleAbandon : Fld := ⟨.psCycle, 55, 48, .rw, 0x40⟩
/-- PS_CYCLE.CYCLE (R397). -/
def F.psCycleCycle : Fld := ⟨.psCycle, 15, 0, .rw, 1⟩
/-- PS_CYCLE_ACT.REPEAT (R397). -/
def F.psCycleActRepeat : Fld := ⟨.psCycleAct, 63, 63, .ro, 0⟩
/-- PS_CYCLE_ACT.ABANDON (R397). -/
def F.psCycleActAbandon : Fld := ⟨.psCycleAct, 55, 48, .ro, 0x40⟩
/-- PS_CYCLE_ACT.CYCLE (R397). -/
def F.psCycleActCycle : Fld := ⟨.psCycleAct, 15, 0, .ro, 1⟩
/-- PS_SCHED_BASE.COUNT (R416). -/
def F.psSchedBaseCount : Fld := ⟨.psSchedBase, 63, 51, .rw, 0⟩
/-- PS_SCHED_BASE.BASE (R416). -/
def F.psSchedBaseBase : Fld := ⟨.psSchedBase, 48, 6, .rw, 0⟩
/-- PS_SCHED_BASE.PARTITION (R416). -/
def F.psSchedBasePartition : Fld := ⟨.psSchedBase, 3, 0, .rw, 0⟩
/-- PS_SWAP_AT.AT (R417). -/
def F.psSwapAtAt : Fld := ⟨.psSwapAt, 63, 0, .rwi, 0⟩
/-- PS_SWAP_CTL.SWAP (R418). -/
def F.psSwapCtlSwap : Fld := ⟨.psSwapCtl, 63, 63, .w1s, 0⟩
/-- PS_SWAP_CTL.PENDING (R418). -/
def F.psSwapCtlPending : Fld := ⟨.psSwapCtl, 62, 62, .ro, 0⟩
/-- PS_SWAP_CTL.RETIRING (R418). -/
def F.psSwapCtlRetiring : Fld := ⟨.psSwapCtl, 61, 61, .ro, 0⟩
/-- PS_SWAP_CTL.ERR (R418). -/
def F.psSwapCtlErr : Fld := ⟨.psSwapCtl, 55, 52, .ro, 0⟩
/-- PS_SWAP_CTL.ERR_CARD (R418). -/
def F.psSwapCtlErrCard : Fld := ⟨.psSwapCtl, 43, 32, .ro, 0⟩
/-- PS_SWAP_CTL.GEN (R418). -/
def F.psSwapCtlGen : Fld := ⟨.psSwapCtl, 15, 0, .ro, 0⟩
/-- PS_STATUS.TIME_STATE (R425). -/
def F.psStatusTimeState : Fld := ⟨.psStatus, 63, 62, .ro, 3⟩
/-- PS_STATUS.PHASE (R425). -/
def F.psStatusPhase : Fld := ⟨.psStatus, 61, 60, .ro, 0⟩
/-- PS_STATUS.EXTENDED (R425). -/
def F.psStatusExtended : Fld := ⟨.psStatus, 59, 59, .ro, 0⟩
/-- PS_STATUS.ACTIVE (R425). -/
def F.psStatusActive : Fld := ⟨.psStatus, 58, 58, .ro, 0⟩
/-- PS_STATUS.LAG (R425). -/
def F.psStatusLag : Fld := ⟨.psStatus, 57, 32, .ro, 0⟩
/-- PS_STATUS.PITCH (R425). -/
def F.psStatusPitch : Fld := ⟨.psStatus, 31, 0, .ro, 0⟩
/-- PS_CARD_SEL.CARD (R426). -/
def F.psCardSelCard : Fld := ⟨.psCardSel, 11, 0, .rw, 0⟩
/-- PS_CARD_STATUS.STATE (R427). -/
def F.psCardStatusState : Fld := ⟨.psCardStatus, 63, 61, .ro, 0⟩
/-- PS_CARD_STATUS.LATE (R427). -/
def F.psCardStatusLate : Fld := ⟨.psCardStatus, 60, 60, .ro, 0⟩
/-- PS_CARD_STATUS.BOUND (R427). -/
def F.psCardStatusBound : Fld := ⟨.psCardStatus, 47, 32, .ro, 0⟩
/-- PS_CARD_STATUS.ROUND (R427). -/
def F.psCardStatusRound : Fld := ⟨.psCardStatus, 31, 0, .ro, 0⟩
/-- PS_EVENTS.EXTENDED (R428). -/
def F.psEventsExtended : Fld := ⟨.psEvents, 63, 48, .rc, 0⟩
/-- PS_EVENTS.LATE (R428). -/
def F.psEventsLate : Fld := ⟨.psEvents, 47, 32, .rc, 0⟩
/-- PS_EVENTS.ABANDONED (R428). -/
def F.psEventsAbandoned : Fld := ⟨.psEvents, 31, 16, .rc, 0⟩
/-- PS_EVENTS.IGNORED (R428). -/
def F.psEventsIgnored : Fld := ⟨.psEvents, 11, 8, .rc, 0⟩
/-- PS_EVENTS.REFUSED (R428). -/
def F.psEventsRefused : Fld := ⟨.psEvents, 7, 4, .rc, 0⟩
/-- PS_EVENTS.STALE (R428). -/
def F.psEventsStale : Fld := ⟨.psEvents, 3, 0, .rc, 0⟩
/-- HP_WIN_BASE.VA (R437). -/
def F.hpWinBaseVa : Fld := ⟨.hpWinBase, 55, 12, .rw, 0⟩
/-- HP_WIN_LEN.LEN (R438). -/
def F.hpWinLenLen : Fld := ⟨.hpWinLen, 32, 12, .rw, 0⟩
/-- HP_WIN_CTL.VALID (R439). -/
def F.hpWinCtlValid : Fld := ⟨.hpWinCtl, 63, 63, .rw, 0⟩
/-- HP_WIN_CTL.BUSY (R439). -/
def F.hpWinCtlBusy : Fld := ⟨.hpWinCtl, 62, 62, .ro, 0⟩
/-- HP_WIN_CTL.QP (R439). -/
def F.hpWinCtlQp : Fld := ⟨.hpWinCtl, 55, 32, .rw, 0⟩
/-- HP_WIN_CTL.PARTITION (R439). -/
def F.hpWinCtlPartition : Fld := ⟨.hpWinCtl, 31, 28, .rw, 0⟩
/-- HP_WIN_CTL.AS (R439). -/
def F.hpWinCtlAs : Fld := ⟨.hpWinCtl, 27, 16, .rw, 0⟩
/-- HP_WIN_CTL.WRITE (R439). -/
def F.hpWinCtlWrite : Fld := ⟨.hpWinCtl, 2, 2, .rw, 0⟩
/-- HP_WIN_CTL.READ (R439). -/
def F.hpWinCtlRead : Fld := ⟨.hpWinCtl, 1, 1, .rw, 0⟩
/-- HP_FN_SEL.FUNCTION (R450). -/
def F.hpFnSelFunction : Fld := ⟨.hpFnSel, 6, 0, .rw, 0⟩
/-- HP_FN_PASID.VALID (R451). -/
def F.hpFnPasidValid : Fld := ⟨.hpFnPasid, 63, 63, .rw, 0⟩
/-- HP_FN_PASID.PRIV (R451). -/
def F.hpFnPasidPriv : Fld := ⟨.hpFnPasid, 62, 62, .rw, 0⟩
/-- HP_FN_PASID.PASID (R451). -/
def F.hpFnPasidPasid : Fld := ⟨.hpFnPasid, 19, 0, .rw, 0⟩
/-- HP_FN_STATUS.DSTATE (R452). -/
def F.hpFnStatusDstate : Fld := ⟨.hpFnStatus, 63, 62, .ro, 0⟩
/-- HP_FN_STATUS.MSE (R452). -/
def F.hpFnStatusMse : Fld := ⟨.hpFnStatus, 61, 61, .ro, 0⟩
/-- HP_FN_STATUS.BME (R452). -/
def F.hpFnStatusBme : Fld := ⟨.hpFnStatus, 60, 60, .ro, 0⟩
/-- HP_FN_STATUS.FLR_ACTIVE (R452). -/
def F.hpFnStatusFlrActive : Fld := ⟨.hpFnStatus, 59, 59, .ro, 0⟩
/-- HP_FN_STATUS.ENABLED (R452). -/
def F.hpFnStatusEnabled : Fld := ⟨.hpFnStatus, 58, 58, .ro, 0⟩
/-- HP_FN_STATUS.TDI (R452). -/
def F.hpFnStatusTdi : Fld := ⟨.hpFnStatus, 57, 56, .ro, 0⟩
/-- HP_FN_STATUS.INFLIGHT (R452). -/
def F.hpFnStatusInflight : Fld := ⟨.hpFnStatus, 16, 0, .ro, 0⟩
/-- HP_PM_CTL.L1_ALLOW (R465). -/
def F.hpPmCtlL1Allow : Fld := ⟨.hpPmCtl, 63, 63, .rw, 1⟩
/-- HP_PM_CTL.L0P_ALLOW (R465). -/
def F.hpPmCtlL0pAllow : Fld := ⟨.hpPmCtl, 62, 62, .rw, 1⟩
/-- HP_PM_CTL.L1_IDLE (R465). -/
def F.hpPmCtlL1Idle : Fld := ⟨.hpPmCtl, 47, 32, .rw, 0x40⟩
/-- HP_PM_CTL.L0P_IDLE (R465). -/
def F.hpPmCtlL0pIdle : Fld := ⟨.hpPmCtl, 31, 16, .rw, 0x10⟩
/-- HP_PORT_CTL.LEGACY_FLR (R466). -/
def F.hpPortCtlLegacyFlr : Fld := ⟨.hpPortCtl, 63, 63, .rwi, 0⟩
/-- HP_PORT_CTL.PERST_BLOCK (R466). -/
def F.hpPortCtlPerstBlock : Fld := ⟨.hpPortCtl, 62, 62, .ro, 0⟩
/-- HP_PORT_CTL.CXL (R466). -/
def F.hpPortCtlCxl : Fld := ⟨.hpPortCtl, 61, 61, .ro, 0⟩
/-- HP_PORT_CTL.HOST_LIMIT (R466). -/
def F.hpPortCtlHostLimit : Fld := ⟨.hpPortCtl, 43, 12, .ro, 0x80000000⟩
/-- HP_PORT_STATUS.LINK_UP (R470). -/
def F.hpPortStatusLinkUp : Fld := ⟨.hpPortStatus, 63, 63, .ro, 0⟩
/-- HP_PORT_STATUS.PROTO (R470). -/
def F.hpPortStatusProto : Fld := ⟨.hpPortStatus, 62, 60, .ro, 0⟩
/-- HP_PORT_STATUS.RATE (R470). -/
def F.hpPortStatusRate : Fld := ⟨.hpPortStatus, 59, 56, .ro, 0⟩
/-- HP_PORT_STATUS.WIDTH (R470). -/
def F.hpPortStatusWidth : Fld := ⟨.hpPortStatus, 55, 51, .ro, 0⟩
/-- HP_PORT_STATUS.LSTATE (R470). -/
def F.hpPortStatusLstate : Fld := ⟨.hpPortStatus, 50, 48, .ro, 0⟩
/-- HP_PORT_STATUS.REMOVED (R470). -/
def F.hpPortStatusRemoved : Fld := ⟨.hpPortStatus, 47, 47, .w1c, 0⟩
/-- HP_PORT_STATUS.DL_DOWNS (R470). -/
def F.hpPortStatusDlDowns : Fld := ⟨.hpPortStatus, 39, 32, .rc, 0⟩
/-- HP_PORT_STATUS.LANDING (R470). -/
def F.hpPortStatusLanding : Fld := ⟨.hpPortStatus, 15, 0, .ro, 0⟩
/-- HP_EVENTS.WIN_UR (R471). -/
def F.hpEventsWinUr : Fld := ⟨.hpEvents, 63, 48, .rc, 0⟩
/-- HP_EVENTS.WIN_FAIL (R471). -/
def F.hpEventsWinFail : Fld := ⟨.hpEvents, 47, 32, .rc, 0⟩
/-- HP_EVENTS.WIN_TIMEOUT (R471). -/
def F.hpEventsWinTimeout : Fld := ⟨.hpEvents, 31, 16, .rc, 0⟩
/-- HP_EVENTS.CPL_DISCARD (R471). -/
def F.hpEventsCplDiscard : Fld := ⟨.hpEvents, 15, 0, .rc, 0⟩
/-- PT_CMEM.VALID (R485). -/
def F.ptCmemValid : Fld := ⟨.ptCmem, 63, 63, .rwi, 0⟩
/-- PT_CMEM.LIMIT (R485). -/
def F.ptCmemLimit : Fld := ⟨.ptCmem, 45, 32, .rwi, 0⟩
/-- PT_CMEM.BASE (R485). -/
def F.ptCmemBase : Fld := ⟨.ptCmem, 13, 0, .rwi, 0⟩
/-- PT_VF_MAP.VALID (R489). -/
def F.ptVfMapValid : Fld := ⟨.ptVfMap, 63, 63, .ro, 0⟩
/-- PT_VF_MAP.PARTITION (R489). -/
def F.ptVfMapPartition : Fld := ⟨.ptVfMap, 3, 0, .ro, 0⟩
/-- PT_PART_SEL.PARTITION (R490). -/
def F.ptPartSelPartition : Fld := ⟨.ptPartSel, 3, 0, .rw, 0⟩
/-- PT_PART_STATUS.STATE (R491). -/
def F.ptPartStatusState : Fld := ⟨.ptPartStatus, 63, 61, .ro, 0⟩
/-- PT_PART_STATUS.MALFORMED (R491). -/
def F.ptPartStatusMalformed : Fld := ⟨.ptPartStatus, 60, 60, .ro, 0⟩
/-- PT_PART_STATUS.BELAY (R491). -/
def F.ptPartStatusBelay : Fld := ⟨.ptPartStatus, 59, 59, .ro, 0⟩
/-- PT_PART_STATUS.SEALED (R491). -/
def F.ptPartStatusSealed : Fld := ⟨.ptPartStatus, 58, 58, .ro, 0⟩
/-- PT_PART_STATUS.MGR_PORT (R491). -/
def F.ptPartStatusMgrPort : Fld := ⟨.ptPartStatus, 57, 57, .ro, 0⟩
/-- PT_PART_STATUS.REQ1_VALID (R491). -/
def F.ptPartStatusReq1Valid : Fld := ⟨.ptPartStatus, 55, 55, .ro, 0⟩
/-- PT_PART_STATUS.REQ1_FN (R491). -/
def F.ptPartStatusReq1Fn : Fld := ⟨.ptPartStatus, 54, 48, .ro, 0⟩
/-- PT_PART_STATUS.REQ0_VALID (R491). -/
def F.ptPartStatusReq0Valid : Fld := ⟨.ptPartStatus, 47, 47, .ro, 0⟩
/-- PT_PART_STATUS.REQ0_FN (R491). -/
def F.ptPartStatusReq0Fn : Fld := ⟨.ptPartStatus, 46, 40, .ro, 0⟩
/-- PT_PART_STATUS.INFLIGHT (R491). -/
def F.ptPartStatusInflight : Fld := ⟨.ptPartStatus, 12, 0, .ro, 0⟩
/-- PT_PART_CFG.BIVOUAC_EN (R492). -/
def F.ptPartCfgBivouacEn : Fld := ⟨.ptPartCfg, 63, 63, .rw, 1⟩
/-- PT_PART_CFG.MGR_PORT (R492). -/
def F.ptPartCfgMgrPort : Fld := ⟨.ptPartCfg, 62, 62, .rw, 0⟩
/-- PT_PART_CFG.HOLD (R492). -/
def F.ptPartCfgHold : Fld := ⟨.ptPartCfg, 15, 0, .rw, 0x258⟩
/-- PT_CARVE.DATA_64K (R493). -/
def F.ptCarveData64k : Fld := ⟨.ptCarve, 59, 48, .ro, 0⟩
/-- PT_CARVE.QP_USED (R493). -/
def F.ptCarveQpUsed : Fld := ⟨.ptCarve, 43, 24, .ro, 0⟩
/-- PT_CARVE.QP_SHARE (R493). -/
def F.ptCarveQpShare : Fld := ⟨.ptCarve, 19, 0, .ro, 0⟩
/-- PT_CMD.OP (R494). -/
def F.ptCmdOp : Fld := ⟨.ptCmd, 63, 56, .wo, 0⟩
/-- PT_CMD.PARTITION (R494). -/
def F.ptCmdPartition : Fld := ⟨.ptCmd, 51, 48, .wo, 0⟩
/-- PT_CMD.SCRUB (R494). -/
def F.ptCmdScrub : Fld := ⟨.ptCmd, 0, 0, .wo, 0⟩
/-- PT_CMD_ARG.ARG (R495). -/
def F.ptCmdArgArg : Fld := ⟨.ptCmdArg, 63, 0, .rw, 0⟩
/-- PT_CMD_STATUS.BUSY (R497). -/
def F.ptCmdStatusBusy : Fld := ⟨.ptCmdStatus, 63, 63, .ro, 0⟩
/-- PT_CMD_STATUS.RESULT (R497). -/
def F.ptCmdStatusResult : Fld := ⟨.ptCmdStatus, 55, 48, .ro, 0⟩
/-- PT_CMD_STATUS.ENDED (R497). -/
def F.ptCmdStatusEnded : Fld := ⟨.ptCmdStatus, 47, 32, .ro, 0⟩
/-- PT_CMD_STATUS.STRANDED (R497). -/
def F.ptCmdStatusStranded : Fld := ⟨.ptCmdStatus, 31, 16, .ro, 0⟩
/-- PT_STAGE_VF.VFS (R499). -/
def F.ptStageVfVfs : Fld := ⟨.ptStageVf, 63, 0, .rw, 0⟩
/-- PT_STAGE_REQ.VALID1 (R500). -/
def F.ptStageReqValid1 : Fld := ⟨.ptStageReq, 15, 15, .rw, 0⟩
/-- PT_STAGE_REQ.FN1 (R500). -/
def F.ptStageReqFn1 : Fld := ⟨.ptStageReq, 14, 8, .rw, 0⟩
/-- PT_STAGE_REQ.VALID0 (R500). -/
def F.ptStageReqValid0 : Fld := ⟨.ptStageReq, 7, 7, .rw, 0⟩
/-- PT_STAGE_REQ.FN0 (R500). -/
def F.ptStageReqFn0 : Fld := ⟨.ptStageReq, 6, 0, .rw, 0⟩
/-- PT_STAGE_CARVE.DATA_64K (R501). -/
def F.ptStageCarveData64k : Fld := ⟨.ptStageCarve, 59, 48, .rw, 0⟩
/-- PT_STAGE_CARVE.QP_SHARE (R501). -/
def F.ptStageCarveQpShare : Fld := ⟨.ptStageCarve, 19, 0, .rw, 0⟩
/-- PT_BIVOUAC.GEN (R519). -/
def F.ptBivouacGen : Fld := ⟨.ptBivouac, 63, 32, .ro, 0⟩
/-- PT_BIVOUAC.HOLD_LEFT (R519). -/
def F.ptBivouacHoldLeft : Fld := ⟨.ptBivouac, 15, 0, .ro, 0⟩
/-- PT_MBX_SEL.VF (R522). -/
def F.ptMbxSelVf : Fld := ⟨.ptMbxSel, 6, 0, .rw, 0⟩
/-- PT_MBX_CTL.SEND (R523). -/
def F.ptMbxCtlSend : Fld := ⟨.ptMbxCtl, 63, 63, .w1s, 0⟩
/-- PT_MBX_CTL.PENDING (R523). -/
def F.ptMbxCtlPending : Fld := ⟨.ptMbxCtl, 62, 62, .ro, 0⟩
/-- PT_MBX_CTL.FULL (R523). -/
def F.ptMbxCtlFull : Fld := ⟨.ptMbxCtl, 61, 61, .ro, 0⟩
/-- PT_MBX_CTL.ACK (R523). -/
def F.ptMbxCtlAck : Fld := ⟨.ptMbxCtl, 60, 60, .w1s, 0⟩
/-- PT_MBX_CTL.PEER_RESET (R523). -/
def F.ptMbxCtlPeerReset : Fld := ⟨.ptMbxCtl, 59, 59, .w1c, 0⟩
/-- PT_MBX_CTL.PART_EVENT (R523). -/
def F.ptMbxCtlPartEvent : Fld := ⟨.ptMbxCtl, 58, 58, .w1c, 0⟩
/-- PT_MBX_CTL.IGNORED (R523). -/
def F.ptMbxCtlIgnored : Fld := ⟨.ptMbxCtl, 15, 0, .rc, 0⟩
/-- PT_MBX_SEND.QUADWORD (R524). -/
def F.ptMbxSendQuadword : Fld := ⟨.ptMbxSend, 63, 0, .rw, 0⟩
/-- PT_MBX_RECV.QUADWORD (R524). -/
def F.ptMbxRecvQuadword : Fld := ⟨.ptMbxRecv, 63, 0, .ro, 0⟩
/-- PT_MBX_PENDING.FULL (R525). -/
def F.ptMbxPendingFull : Fld := ⟨.ptMbxPending, 63, 0, .ro, 0⟩
/-- ID_PROT_FRAME.NO_BIVOUAC (R527). -/
def F.idProtFrameNoBivouac : Fld := ⟨.idProtFrame, 63, 63, .ro, 0⟩
/-- ID_PROT_FRAME.FORCE_SCRUB (R527). -/
def F.idProtFrameForceScrub : Fld := ⟨.idProtFrame, 62, 62, .ro, 0⟩
/-- ID_PROT_FRAME.NO_HOST_GRANTS (R527). -/
def F.idProtFrameNoHostGrants : Fld := ⟨.idProtFrame, 61, 61, .ro, 0⟩
/-- ID_PROT_FRAME.SEALED (R527). -/
def F.idProtFrameSealed : Fld := ⟨.idProtFrame, 47, 32, .ro, 0⟩
/-- ID_PROT_FRAME.PF_ONLY (R527). -/
def F.idProtFramePfOnly : Fld := ⟨.idProtFrame, 31, 16, .ro, 0⟩
/-- ID_PROT_FRAME.FRAME_ID (R527). -/
def F.idProtFrameFrameId : Fld := ⟨.idProtFrame, 15, 0, .ro, 0⟩
/-- CC_CTL.HOME_TIMEOUT (R553). -/
def F.ccCtlHomeTimeout : Fld := ⟨.ccCtl, 63, 48, .rw, 0x64⟩
/-- CC_CTL.BACKOFF_MIN (R553). -/
def F.ccCtlBackoffMin : Fld := ⟨.ccCtl, 47, 40, .rw, 2⟩
/-- CC_CTL.BACKOFF_MAX (R553). -/
def F.ccCtlBackoffMax : Fld := ⟨.ccCtl, 39, 32, .rw, 0x80⟩
/-- CC_CTL.STARVE (R553). -/
def F.ccCtlStarve : Fld := ⟨.ccCtl, 31, 28, .rw, 8⟩
/-- CC_CTL.PUSH_EN (R553). -/
def F.ccCtlPushEn : Fld := ⟨.ccCtl, 27, 27, .rw, 1⟩
/-- CC_EVENTS.NACKS (R554). -/
def F.ccEventsNacks : Fld := ⟨.ccEvents, 63, 48, .rc, 0⟩
/-- CC_EVENTS.RESERVED (R554). -/
def F.ccEventsReserved : Fld := ⟨.ccEvents, 47, 32, .rc, 0⟩
/-- CC_EVENTS.TIMEOUTS (R554). -/
def F.ccEventsTimeouts : Fld := ⟨.ccEvents, 31, 16, .rc, 0⟩
/-- CC_EVENTS.PUSH_DECLINED (R554). -/
def F.ccEventsPushDeclined : Fld := ⟨.ccEvents, 15, 0, .rc, 0⟩
/-- CC_WATCHDOG.WATCHDOG (R555). -/
def F.ccWatchdogWatchdog : Fld := ⟨.ccWatchdog, 47, 32, .rw, 0x3e8⟩
/-- CC_WATCHDOG.EXPIRED (R555). -/
def F.ccWatchdogExpired : Fld := ⟨.ccWatchdog, 15, 0, .rc, 0⟩
/-- CC_POISON.VALID (R556). -/
def F.ccPoisonValid : Fld := ⟨.ccPoison, 63, 63, .w1c, 0⟩
/-- CC_POISON.KIND (R556). -/
def F.ccPoisonKind : Fld := ⟨.ccPoison, 62, 60, .ro, 0⟩
/-- CC_POISON.CAUSE (R556). -/
def F.ccPoisonCause : Fld := ⟨.ccPoison, 59, 59, .ro, 0⟩
/-- CC_POISON.COUNT (R556). -/
def F.ccPoisonCount : Fld := ⟨.ccPoison, 58, 51, .ro, 0⟩
/-- CC_POISON.OBJECT (R556). -/
def F.ccPoisonObject : Fld := ⟨.ccPoison, 23, 0, .ro, 0⟩
/-- FH_CTL.STOPPED (R572). -/
def F.fhCtlStopped : Fld := ⟨.fhCtl, 63, 63, .ro, 0⟩
/-- FH_CTL.PCIE_FATAL (R572). -/
def F.fhCtlPcieFatal : Fld := ⟨.fhCtl, 62, 62, .ro, 0⟩
/-- FH_CTL.REACT (R572). -/
def F.fhCtlReact : Fld := ⟨.fhCtl, 19, 0, .rw, 0x7d0⟩
/-- FH_FIRST.VALID (R573). -/
def F.fhFirstValid : Fld := ⟨.fhFirst, 63, 63, .w1c, 0⟩
/-- FH_FIRST.CLASS (R573). -/
def F.fhFirstClass : Fld := ⟨.fhFirst, 62, 61, .ro, 0⟩
/-- FH_FIRST.PARTITION (R573). -/
def F.fhFirstPartition : Fld := ⟨.fhFirst, 47, 44, .ro, 0⟩
/-- FH_FIRST.SOURCE (R573). -/
def F.fhFirstSource : Fld := ⟨.fhFirst, 8, 0, .ro, 0⟩
/-- FH_FIRST_TIME.TIME (R573). -/
def F.fhFirstTimeTime : Fld := ⟨.fhFirstTime, 63, 0, .ro, 0⟩
/-- FH_SRC_STATUS.CAPTURED (R574). -/
def F.fhSrcStatusCaptured : Fld := ⟨.fhSrcStatus, 63, 63, .w1c, 0⟩
/-- FH_SRC_STATUS.CLASS (R574). -/
def F.fhSrcStatusClass : Fld := ⟨.fhSrcStatus, 62, 61, .ro, 0⟩
/-- FH_SRC_STATUS.RUNG (R574). -/
def F.fhSrcStatusRung : Fld := ⟨.fhSrcStatus, 60, 58, .ro, 0⟩
/-- FH_SRC_STATUS.ESCALATING (R574). -/
def F.fhSrcStatusEscalating : Fld := ⟨.fhSrcStatus, 57, 57, .ro, 0⟩
/-- FH_SRC_STATUS.COUNT (R574). -/
def F.fhSrcStatusCount : Fld := ⟨.fhSrcStatus, 55, 48, .ro, 0⟩
/-- FH_SRC_STATUS.PARTITION (R574). -/
def F.fhSrcStatusPartition : Fld := ⟨.fhSrcStatus, 47, 44, .ro, 0⟩
/-- FH_SRC_STATUS.KIND (R574). -/
def F.fhSrcStatusKind : Fld := ⟨.fhSrcStatus, 43, 40, .ro, 0⟩
/-- FH_SRC_STATUS.OBJECT (R574). -/
def F.fhSrcStatusObject : Fld := ⟨.fhSrcStatus, 31, 0, .ro, 0⟩
/-- FH_SRC_CTL.ENABLE (R575). -/
def F.fhSrcCtlEnable : Fld := ⟨.fhSrcCtl, 63, 63, .rw, 1⟩
/-- FH_SRC_CTL.CEILING (R575). -/
def F.fhSrcCtlCeiling : Fld := ⟨.fhSrcCtl, 62, 60, .rw, 0⟩
/-- FH_SRC_CTL.START (R575). -/
def F.fhSrcCtlStart : Fld := ⟨.fhSrcCtl, 59, 57, .ro, 0⟩
/-- FH_SRC_CTL.CLASS (R575). -/
def F.fhSrcCtlClass : Fld := ⟨.fhSrcCtl, 56, 55, .ro, 0⟩
/-- FH_SRC_CTL.TOTAL (R575). -/
def F.fhSrcCtlTotal : Fld := ⟨.fhSrcCtl, 31, 0, .rc, 0⟩
/-- FH_INJECT.INJECT (R576). -/
def F.fhInjectInject : Fld := ⟨.fhInject, 63, 63, .wo, 0⟩
/-- FH_INJECT.PARTITION (R576). -/
def F.fhInjectPartition : Fld := ⟨.fhInject, 12, 9, .wo, 0⟩
/-- FH_INJECT.SOURCE (R576). -/
def F.fhInjectSource : Fld := ⟨.fhInject, 8, 0, .wo, 0⟩
/-- SG_MASK.MASK (R589). -/
def F.sgMaskMask : Fld := ⟨.sgMask, 63, 0, .rw, 0xffffffffffffffff⟩
/-- SG_PENDING.PENDING (R589). -/
def F.sgPendingPending : Fld := ⟨.sgPending, 63, 0, .rw, 0⟩
/-- SG_COUNT.COUNTS (R590). -/
def F.sgCountCounts : Fld := ⟨.sgCount, 63, 0, .ro, 0⟩
/-- SG_SRC_CFG.TARGET (R591). -/
def F.sgSrcCfgTarget : Fld := ⟨.sgSrcCfg, 63, 59, .rwi, 0⟩
/-- SG_SRC_CFG.PRIORITY (R591). -/
def F.sgSrcCfgPriority : Fld := ⟨.sgSrcCfg, 58, 56, .rwi, 0⟩
/-- SG_SRC_CFG.FUNCTION (R591). -/
def F.sgSrcCfgFunction : Fld := ⟨.sgSrcCfg, 38, 32, .rwi, 0⟩
/-- SG_SRC_CFG.VECTOR (R591). -/
def F.sgSrcCfgVector : Fld := ⟨.sgSrcCfg, 10, 0, .rwi, 0⟩
/-- SG_CLAIM.VALID (R592). -/
def F.sgClaimValid : Fld := ⟨.sgClaim, 63, 63, .rc, 0⟩
/-- SG_CLAIM.COUNT (R592). -/
def F.sgClaimCount : Fld := ⟨.sgClaim, 55, 48, .rc, 0⟩
/-- SG_CLAIM.SOURCE (R592). -/
def F.sgClaimSource : Fld := ⟨.sgClaim, 10, 0, .rc, 0⟩
/-- SG_COMPLETE.SOURCE (R592). -/
def F.sgCompleteSource : Fld := ⟨.sgComplete, 10, 0, .wo, 0⟩
/-- SG_CLAIM_T.VALID (R593). -/
def F.sgClaimTValid : Fld := ⟨.sgClaimT, 63, 63, .rc, 0⟩
/-- SG_CLAIM_T.COUNT (R593). -/
def F.sgClaimTCount : Fld := ⟨.sgClaimT, 55, 48, .rc, 0⟩
/-- SG_CLAIM_T.SOURCE (R593). -/
def F.sgClaimTSource : Fld := ⟨.sgClaimT, 10, 0, .rc, 0⟩
/-- SG_COMPLETE_T.SOURCE (R593). -/
def F.sgCompleteTSource : Fld := ⟨.sgCompleteT, 10, 0, .wo, 0⟩
/-- SG_SW_TRIGGER.SOURCE (R594). -/
def F.sgSwTriggerSource : Fld := ⟨.sgSwTrigger, 10, 0, .wo, 0⟩
/-- SG_STATUS.IGNORED (R594). -/
def F.sgStatusIgnored : Fld := ⟨.sgStatus, 31, 0, .rc, 0⟩
/-- CE_KEY_SEL.SLOT (R606). -/
def F.ceKeySelSlot : Fld := ⟨.ceKeySel, 15, 0, .rw, 0⟩
/-- CE_KEY_DATA.KEY (R607). -/
def F.ceKeyDataKey : Fld := ⟨.ceKeyData, 63, 0, .wo, 0⟩
/-- CE_KEY_SWITCH.TX_PSN (R608). -/
def F.ceKeySwitchTxPsn : Fld := ⟨.ceKeySwitch, 63, 32, .rw, 0⟩
/-- CE_KEY_SWITCH.RX_PSN (R608). -/
def F.ceKeySwitchRxPsn : Fld := ⟨.ceKeySwitch, 31, 0, .rw, 0⟩
/-- CE_KEY_CMD.OP (R609). -/
def F.ceKeyCmdOp : Fld := ⟨.ceKeyCmd, 63, 56, .wo, 0⟩
/-- CE_KEY_STATUS.STATE (R610). -/
def F.ceKeyStatusState : Fld := ⟨.ceKeyStatus, 63, 62, .ro, 0⟩
/-- CE_KEY_STATUS.NEXT (R610). -/
def F.ceKeyStatusNext : Fld := ⟨.ceKeyStatus, 61, 61, .ro, 0⟩
/-- CE_KEY_STATUS.RESULT (R610). -/
def F.ceKeyStatusResult : Fld := ⟨.ceKeyStatus, 55, 48, .ro, 0⟩
/-- CE_KEY_STATUS.GEN (R610). -/
def F.ceKeyStatusGen : Fld := ⟨.ceKeyStatus, 47, 32, .ro, 0⟩
/-- CE_KEY_STATUS.QP (R610). -/
def F.ceKeyStatusQp : Fld := ⟨.ceKeyStatus, 23, 0, .ro, 0⟩
/-- CE_ENGINE_STATUS.FENCED (R617). -/
def F.ceEngineStatusFenced : Fld := ⟨.ceEngineStatus, 63, 63, .ro, 0⟩
/-- CE_ENGINE_STATUS.SERVED_BY (R617). -/
def F.ceEngineStatusServedBy : Fld := ⟨.ceEngineStatus, 62, 59, .ro, 0⟩
/-- CE_ENGINE_STATUS.MISMATCHES (R617). -/
def F.ceEngineStatusMismatches : Fld := ⟨.ceEngineStatus, 47, 32, .rc, 0⟩
/-- CE_ENGINE_STATUS.CHECKS (R617). -/
def F.ceEngineStatusChecks : Fld := ⟨.ceEngineStatus, 31, 0, .rc, 0⟩
/-- CE_EVENTS.RX_DISCARDED (R618). -/
def F.ceEventsRxDiscarded : Fld := ⟨.ceEvents, 63, 48, .rc, 0⟩
/-- CE_EVENTS.ZEROED (R618). -/
def F.ceEventsZeroed : Fld := ⟨.ceEvents, 47, 32, .rc, 0⟩
/-- CE_EVENTS.MASK_STALLS (R618). -/
def F.ceEventsMaskStalls : Fld := ⟨.ceEvents, 31, 16, .rc, 0⟩
/-- CE_EVENTS.REKEYS (R618). -/
def F.ceEventsRekeys : Fld := ⟨.ceEvents, 15, 0, .rc, 0⟩
/-- EN_STATUS.STATE (R627). -/
def F.enStatusState : Fld := ⟨.enStatus, 63, 61, .ro, 0⟩
/-- EN_STATUS.CAUSE (R627). -/
def F.enStatusCause : Fld := ⟨.enStatus, 60, 58, .ro, 0⟩
/-- EN_STATUS.QUEUED (R627). -/
def F.enStatusQueued : Fld := ⟨.enStatus, 47, 40, .ro, 0⟩
/-- EN_STATUS.RETESTS (R627). -/
def F.enStatusRetests : Fld := ⟨.enStatus, 31, 16, .ro, 0⟩
/-- EN_CTL.RESTART (R628). -/
def F.enCtlRestart : Fld := ⟨.enCtl, 63, 63, .w1s, 0⟩
/-- EN_CTL.RESEED_MS (R628). -/
def F.enCtlReseedMs : Fld := ⟨.enCtl, 47, 32, .rw, 0xa⟩
/-- EN_COUNTS.RCT_FAIL (R629). -/
def F.enCountsRctFail : Fld := ⟨.enCounts, 63, 48, .rc, 0⟩
/-- EN_COUNTS.APT_FAIL (R629). -/
def F.enCountsAptFail : Fld := ⟨.enCounts, 47, 32, .rc, 0⟩
/-- EN_COUNTS.UNAVAILABLE (R629). -/
def F.enCountsUnavailable : Fld := ⟨.enCounts, 31, 0, .rc, 0⟩
/-- MD_CTL.SEND (R645). -/
def F.mdCtlSend : Fld := ⟨.mdCtl, 63, 63, .w1s, 0⟩
/-- MD_CTL.BUSY (R645). -/
def F.mdCtlBusy : Fld := ⟨.mdCtl, 62, 62, .ro, 0⟩
/-- MD_CTL.DONE (R645). -/
def F.mdCtlDone : Fld := ⟨.mdCtl, 61, 61, .w1c, 0⟩
/-- MD_CTL.IGNORED (R645). -/
def F.mdCtlIgnored : Fld := ⟨.mdCtl, 15, 0, .rc, 0⟩
/-- MD_REQ.QUADWORD (R646). -/
def F.mdReqQuadword : Fld := ⟨.mdReq, 63, 0, .rw, 0⟩
/-- MD_RSP.QUADWORD (R646). -/
def F.mdRspQuadword : Fld := ⟨.mdRsp, 63, 0, .ro, 0⟩
/-- TC_EVT_SEL.TILE (R657). -/
def F.tcEvtSelTile : Fld := ⟨.tcEvtSel, 15, 12, .rw, 0⟩
/-- TC_EVT_SEL.ENGINE (R657). -/
def F.tcEvtSelEngine : Fld := ⟨.tcEvtSel, 11, 8, .rw, 0⟩
/-- TC_EVT_SEL.AGE (R657). -/
def F.tcEvtSelAge : Fld := ⟨.tcEvtSel, 6, 0, .rw, 0⟩
/-- TC_PART_SEL.PARTITION (R662). -/
def F.tcPartSelPartition : Fld := ⟨.tcPartSel, 3, 0, .rw, 0⟩
/-- TC_PART_CTL.EVENTS (R663). -/
def F.tcPartCtlEvents : Fld := ⟨.tcPartCtl, 3, 3, .rw, 0⟩
/-- TC_PART_CTL.DIGREC (R663). -/
def F.tcPartCtlDigrec : Fld := ⟨.tcPartCtl, 2, 2, .rw, 0⟩
/-- TC_PART_CTL.END (R663). -/
def F.tcPartCtlEnd : Fld := ⟨.tcPartCtl, 1, 1, .rw, 0⟩
/-- TC_PART_CTL.BEGIN (R663). -/
def F.tcPartCtlBegin : Fld := ⟨.tcPartCtl, 0, 0, .rw, 0⟩
/-- TC_SINK_BASE.BASE (R664). -/
def F.tcSinkBaseBase : Fld := ⟨.tcSinkBase, 48, 12, .rwi, 0⟩
/-- TC_SINK_CTL.ENABLE (R665). -/
def F.tcSinkCtlEnable : Fld := ⟨.tcSinkCtl, 63, 63, .rw, 0⟩
/-- TC_SINK_CTL.INT (R665). -/
def F.tcSinkCtlInt : Fld := ⟨.tcSinkCtl, 62, 62, .rw, 0⟩
/-- TC_SINK_CTL.SIZE (R665). -/
def F.tcSinkCtlSize : Fld := ⟨.tcSinkCtl, 51, 48, .rwi, 0⟩
/-- TC_SINK_CTL.LOST (R665). -/
def F.tcSinkCtlLost : Fld := ⟨.tcSinkCtl, 47, 32, .rc, 0⟩
/-- TC_SINK_CTL.WATERMARK (R665). -/
def F.tcSinkCtlWatermark : Fld := ⟨.tcSinkCtl, 15, 0, .rw, 0⟩
/-- TC_SINK_PTR.TAIL (R666). -/
def F.tcSinkPtrTail : Fld := ⟨.tcSinkPtr, 53, 32, .ro, 0⟩
/-- TC_SINK_PTR.HEAD (R666). -/
def F.tcSinkPtrHead : Fld := ⟨.tcSinkPtr, 21, 0, .rw, 0⟩
/-- TC_DIG_SEL.SLOT (R669). -/
def F.tcDigSelSlot : Fld := ⟨.tcDigSel, 3, 0, .rw, 0⟩
/-- TC_DIG_CFG.VALID (R670). -/
def F.tcDigCfgValid : Fld := ⟨.tcDigCfg, 63, 63, .rw, 0⟩
/-- TC_DIG_CFG.CLEAR (R670). -/
def F.tcDigCfgClear : Fld := ⟨.tcDigCfg, 62, 62, .w1s, 0⟩
/-- TC_DIG_CFG.FAILED (R670). -/
def F.tcDigCfgFailed : Fld := ⟨.tcDigCfg, 55, 48, .ro, 0⟩
/-- TC_DIG_CFG.COUNT (R670). -/
def F.tcDigCfgCount : Fld := ⟨.tcDigCfg, 47, 32, .ro, 0⟩
/-- TC_DIG_CFG.OPERATOR (R670). -/
def F.tcDigCfgOperator : Fld := ⟨.tcDigCfg, 31, 16, .rw, 0⟩
/-- TC_DIG_CFG.LAYER (R670). -/
def F.tcDigCfgLayer : Fld := ⟨.tcDigCfg, 15, 0, .rw, 0⟩
/-- TC_DIG_ACC.ACC (R671). -/
def F.tcDigAccAcc : Fld := ⟨.tcDigAcc, 63, 0, .ro, 0⟩
/-- TC_CNT_SEL.COUNTER (R676). -/
def F.tcCntSelCounter : Fld := ⟨.tcCntSel, 12, 0, .rw, 0⟩
/-- TC_CNT_CFG.ENABLE (R677). -/
def F.tcCntCfgEnable : Fld := ⟨.tcCntCfg, 63, 63, .rw, 0⟩
/-- TC_CNT_CFG.INT (R677). -/
def F.tcCntCfgInt : Fld := ⟨.tcCntCfg, 62, 62, .rw, 0⟩
/-- TC_CNT_CFG.FREEZE_OVF (R677). -/
def F.tcCntCfgFreezeOvf : Fld := ⟨.tcCntCfg, 61, 61, .rw, 0⟩
/-- TC_CNT_CFG.FILTER (R677). -/
def F.tcCntCfgFilter : Fld := ⟨.tcCntCfg, 60, 60, .rw, 0⟩
/-- TC_CNT_CFG.PARTITION (R677). -/
def F.tcCntCfgPartition : Fld := ⟨.tcCntCfg, 59, 56, .rw, 0⟩
/-- TC_CNT_CFG.EVENT (R677). -/
def F.tcCntCfgEvent : Fld := ⟨.tcCntCfg, 11, 0, .rw, 0⟩
/-- TC_CNT_VAL.OVF (R678). -/
def F.tcCntValOvf : Fld := ⟨.tcCntVal, 63, 63, .w1c, 0⟩
/-- TC_CNT_VAL.COUNT (R678). -/
def F.tcCntValCount : Fld := ⟨.tcCntVal, 47, 0, .rw, 0⟩
/-- TC_CNT_OWN.VALID (R679). -/
def F.tcCntOwnValid : Fld := ⟨.tcCntOwn, 63, 63, .rw, 0⟩
/-- TC_CNT_OWN.PARTITION (R679). -/
def F.tcCntOwnPartition : Fld := ⟨.tcCntOwn, 3, 0, .rw, 0⟩
/-- TC_FREEZE.NOW (R683). -/
def F.tcFreezeNow : Fld := ⟨.tcFreeze, 63, 63, .w1s, 0⟩
/-- TC_FREEZE.THAW (R683). -/
def F.tcFreezeThaw : Fld := ⟨.tcFreeze, 62, 62, .w1s, 0⟩
/-- TC_FREEZE.ARM (R683). -/
def F.tcFreezeArm : Fld := ⟨.tcFreeze, 61, 61, .w1s, 0⟩
/-- TC_FREEZE.FROZEN (R683). -/
def F.tcFreezeFrozen : Fld := ⟨.tcFreeze, 60, 60, .ro, 0⟩
/-- TC_FREEZE.ARMED (R683). -/
def F.tcFreezeArmed : Fld := ⟨.tcFreeze, 59, 59, .ro, 0⟩
/-- TC_FREEZE.CAUSE (R683). -/
def F.tcFreezeCause : Fld := ⟨.tcFreeze, 58, 56, .ro, 0⟩
/-- TC_FREEZE.EXTRA (R683). -/
def F.tcFreezeExtra : Fld := ⟨.tcFreeze, 55, 48, .rc, 0⟩
/-- TC_FREEZE_AT.AT (R684). -/
def F.tcFreezeAtAt : Fld := ⟨.tcFreezeAt, 63, 0, .rwi, 0⟩
/-- TC_FREEZE_TIME.TIME (R685). -/
def F.tcFreezeTimeTime : Fld := ⟨.tcFreezeTime, 63, 0, .ro, 0⟩
/-- TC_DUMP_CTL.DUMP (R694). -/
def F.tcDumpCtlDump : Fld := ⟨.tcDumpCtl, 63, 63, .w1s, 0⟩
/-- TC_DUMP_CTL.BUSY (R694). -/
def F.tcDumpCtlBusy : Fld := ⟨.tcDumpCtl, 62, 62, .ro, 0⟩
/-- TC_DUMP_CTL.IGNORED (R694). -/
def F.tcDumpCtlIgnored : Fld := ⟨.tcDumpCtl, 15, 0, .rc, 0⟩
/-- TC_DUMP_STATUS.VALID (R695). -/
def F.tcDumpStatusValid : Fld := ⟨.tcDumpStatus, 63, 63, .w1c, 0⟩
/-- TC_DUMP_STATUS.COMPLETE (R695). -/
def F.tcDumpStatusComplete : Fld := ⟨.tcDumpStatus, 62, 62, .ro, 0⟩
/-- TC_DUMP_STATUS.REASON (R695). -/
def F.tcDumpStatusReason : Fld := ⟨.tcDumpStatus, 58, 56, .ro, 0⟩
/-- TC_DUMP_STATUS.GEN (R695). -/
def F.tcDumpStatusGen : Fld := ⟨.tcDumpStatus, 47, 32, .ro, 0⟩
/-- TC_DUMP_WIN_SEL.SLOT (R696). -/
def F.tcDumpWinSelSlot : Fld := ⟨.tcDumpWinSel, 63, 63, .rw, 0⟩
/-- TC_DUMP_WIN_SEL.PAGE (R696). -/
def F.tcDumpWinSelPage : Fld := ⟨.tcDumpWinSel, 13, 0, .rw, 0⟩
/-- CK_TILE.TEMP (R705). -/
def F.ckTileTemp : Fld := ⟨.ckTile, 63, 56, .ro, 0⟩
/-- CK_TILE.GATED (R705). -/
def F.ckTileGated : Fld := ⟨.ckTile, 55, 55, .ro, 0⟩
/-- CK_TILE.THROTTLED (R705). -/
def F.ckTileThrottled : Fld := ⟨.ckTile, 54, 54, .ro, 0⟩
/-- CK_TILE.MV (R705). -/
def F.ckTileMv : Fld := ⟨.ckTile, 53, 44, .ro, 0⟩
/-- CK_TILE.EFFECTIVE (R705). -/
def F.ckTileEffective : Fld := ⟨.ckTile, 43, 32, .ro, 0⟩
/-- CK_TILE.TARGET (R705). -/
def F.ckTileTarget : Fld := ⟨.ckTile, 11, 0, .rw, 0x708⟩
/-- CK_LIMITS.F_MAX (R706). -/
def F.ckLimitsFMax : Fld := ⟨.ckLimits, 43, 32, .ro, 0x7d0⟩
/-- CK_LIMITS.F_MIN (R706). -/
def F.ckLimitsFMin : Fld := ⟨.ckLimits, 11, 0, .ro, 0x4b0⟩
/-- CK_START.PHASE (R712). -/
def F.ckStartPhase : Fld := ⟨.ckStart, 63, 61, .ro, 0⟩
/-- CK_START.COLD (R712). -/
def F.ckStartCold : Fld := ⟨.ckStart, 60, 60, .ro, 0⟩
/-- CK_START.DEFAULTED (R712). -/
def F.ckStartDefaulted : Fld := ⟨.ckStart, 59, 59, .ro, 0⟩
/-- CK_START.READY_US (R712). -/
def F.ckStartReadyUs : Fld := ⟨.ckStart, 31, 0, .ro, 0⟩
/-- CK_GOV_CTL.BALLAST_EN (R720). -/
def F.ckGovCtlBallastEn : Fld := ⟨.ckGovCtl, 63, 63, .rw, 1⟩
/-- CK_GOV_CTL.SHELF_RISE (R720). -/
def F.ckGovCtlShelfRise : Fld := ⟨.ckGovCtl, 47, 32, .rw, 0xfa⟩
/-- CK_GOV_CTL.SHELF_FALL (R720). -/
def F.ckGovCtlShelfFall : Fld := ⟨.ckGovCtl, 31, 16, .rw, 0xfa⟩
/-- CK_GOV_CTL.E_MOVE (R720). -/
def F.ckGovCtlEMove : Fld := ⟨.ckGovCtl, 7, 0, .rw, 0x22⟩
/-- CK_GOV_STATUS.LOAD (R721). -/
def F.ckGovStatusLoad : Fld := ⟨.ckGovStatus, 63, 48, .ro, 0⟩
/-- CK_GOV_STATUS.BALLAST (R721). -/
def F.ckGovStatusBallast : Fld := ⟨.ckGovStatus, 47, 32, .ro, 0⟩
/-- CK_GOV_STATUS.HELD (R721). -/
def F.ckGovStatusHeld : Fld := ⟨.ckGovStatus, 31, 16, .rc, 0⟩
/-- CK_GOV_STATUS.RAMP (R721). -/
def F.ckGovStatusRamp : Fld := ⟨.ckGovStatus, 15, 0, .rc, 0⟩
/-- CK_THERMAL.TRIP (R724). -/
def F.ckThermalTrip : Fld := ⟨.ckThermal, 63, 56, .ro, 0⟩
/-- CK_THERMAL.THROTTLE (R724). -/
def F.ckThermalThrottle : Fld := ⟨.ckThermal, 55, 48, .rw, 0x69⟩
/-- CK_THERMAL.THROTTLES (R724). -/
def F.ckThermalThrottles : Fld := ⟨.ckThermal, 15, 0, .rc, 0⟩
/-- TC_EVT_DATA.DATA (R657). -/
def F.tcEvtDataData : Fld := ⟨.tcEvtData, 63, 0, .ro, 0⟩
/-- TC_DUMP_WIN.QUADWORD (R696). -/
def F.tcDumpWinQuadword : Fld := ⟨.tcDumpWin, 63, 0, .ro, 0⟩
/-- HP_MSIX_ADDR.ADDR (R435). -/
def F.hpMsixAddrAddr : Fld := ⟨.hpMsixAddr, 63, 2, .rw, 0⟩
/-- HP_MSIX_DATA.MASK (R435). -/
def F.hpMsixDataMask : Fld := ⟨.hpMsixData, 32, 32, .rw, 1⟩
/-- HP_MSIX_DATA.DATA (R435). -/
def F.hpMsixDataData : Fld := ⟨.hpMsixData, 31, 0, .rw, 0⟩
/-- HP_PBA.PENDING (R435). -/
def F.hpPbaPending : Fld := ⟨.hpPba, 63, 0, .ro, 0⟩

/-- The register tables of the chapters. -/
def Reg.spec : Reg → RegSpec
  | .idVariant => ⟨.id, 0x8, 1, 8, true, true, true,
    [F.idVariantMaxPower, F.idVariantDepotGib, F.idVariantPitch, F.idVariantCipher, F.idVariantCombine, F.idVariantHostPorts, F.idVariantHostMax, F.idVariantFabRate, F.idVariantFabPorts, F.idVariantPartitions, F.idVariantVfsPerPort, F.idVariantVariantCode]⟩
  | .idIgnored => ⟨.id, 0x100, 17, 8, true, false, true,
    [F.idIgnoredCount]⟩
  | .idBlock => ⟨.id, 0x0, 1, 8, true, true, true,
    [F.idBlockVendorCode, F.idBlockBlockCode, F.idBlockGeneration, F.idBlockMinor, F.idBlockStepping]⟩
  | .idNode => ⟨.id, 0x10, 1, 8, true, true, true,
    [F.idNodeCellSizeM1, F.idNodeValid, F.idNodeNodeId]⟩
  | .idCmemDie => ⟨.id, 0x20, 4, 8, true, true, true,
    [F.idCmemDiePresent, F.idCmemDieSram64m, F.idCmemDieHbm64m]⟩
  | .ptGrantBase => ⟨.pt, 0x10000, 256, 32, true, false, true,
    [F.ptGrantBaseBase]⟩
  | .ptGrantLimit => ⟨.pt, 0x10008, 256, 32, true, false, true,
    [F.ptGrantLimitLimit]⟩
  | .ptGrantCtl => ⟨.pt, 0x10010, 256, 32, true, false, true,
    [F.ptGrantCtlValid, F.ptGrantCtlNodeHi, F.ptGrantCtlNodeLo, F.ptGrantCtlBad, F.ptGrantCtlInUse, F.ptGrantCtlCombine, F.ptGrantCtlWrite, F.ptGrantCtlRead]⟩
  | .ptRefused => ⟨.pt, 0x60, 1, 8, true, true, true,
    [F.ptRefusedRefused]⟩
  | .tuAsSel => ⟨.tu, 0x0, 1, 8, true, true, true,
    [F.tuAsSelPartition, F.tuAsSelAs]⟩
  | .tuAsCtl => ⟨.tu, 0x8, 1, 8, true, true, false,
    [F.tuAsCtlValid, F.tuAsCtlPages, F.tuAsCtlResident, F.tuAsCtlSlot, F.tuAsCtlDecay, F.tuAsCtlHotThresh, F.tuAsCtlRefs]⟩
  | .tuAsRoot => ⟨.tu, 0x10, 1, 8, true, true, false,
    [F.tuAsRootRoot]⟩
  | .tuPartCtl => ⟨.tu, 0x18, 1, 8, true, true, true,
    [F.tuPartCtlHoldLimit, F.tuPartCtlDepth]⟩
  | .tuSegBase => ⟨.tu, 0x100, 16, 64, true, true, false,
    [F.tuSegBaseVbase]⟩
  | .tuSegLen => ⟨.tu, 0x108, 16, 64, true, true, false,
    [F.tuSegLenLen]⟩
  | .tuSegMap => ⟨.tu, 0x110, 16, 64, true, true, false,
    [F.tuSegMapTarget, F.tuSegMapNodesM1, F.tuSegMapLocalBase]⟩
  | .tuSegList => ⟨.tu, 0x118, 16, 64, true, true, false,
    [F.tuSegListList]⟩
  | .tuSegCtl => ⟨.tu, 0x120, 16, 64, true, true, false,
    [F.tuSegCtlValid, F.tuSegCtlPending, F.tuSegCtlKind, F.tuSegCtlStripeLog2, F.tuSegCtlErr, F.tuSegCtlCombine, F.tuSegCtlWrite, F.tuSegCtlRead]⟩
  | .tuInvVa => ⟨.tu, 0x800, 1, 8, true, true, false,
    [F.tuInvVaVa]⟩
  | .tuInvCtl => ⟨.tu, 0x808, 1, 8, true, true, false,
    [F.tuInvCtlScope, F.tuInvCtlPages]⟩
  | .tuInvStatus => ⟨.tu, 0x810, 1, 8, true, true, false,
    [F.tuInvStatusIssued, F.tuInvStatusDone]⟩
  | .tuHotqBase => ⟨.tu, 0xa00, 1, 8, true, true, false,
    [F.tuHotqBaseBase]⟩
  | .tuHotqCtl => ⟨.tu, 0xa08, 1, 8, true, true, false,
    [F.tuHotqCtlEnable, F.tuHotqCtlInt, F.tuHotqCtlSize, F.tuHotqCtlDropped]⟩
  | .tuHotqPtr => ⟨.tu, 0xa10, 1, 8, true, true, false,
    [F.tuHotqPtrTail, F.tuHotqPtrHead]⟩
  | .tuFaultVa => ⟨.tu, 0x900, 1, 8, true, true, false,
    [F.tuFaultVaVa]⟩
  | .tuFaultInfo => ⟨.tu, 0x908, 1, 8, true, true, false,
    [F.tuFaultInfoValid, F.tuFaultInfoWindow, F.tuFaultInfoKind, F.tuFaultInfoCount, F.tuFaultInfoCause, F.tuFaultInfoAs, F.tuFaultInfoTag]⟩
  | .tuCounts => ⟨.tu, 0xa20, 1, 8, true, true, false,
    [F.tuCountsWalkMiss, F.tuCountsSlotWait, F.tuCountsPrefetchUsed, F.tuCountsDiscard]⟩
  | .sqCmd => ⟨.sq, 0x0, 1, 8, true, true, false,
    [F.sqCmdOp, F.sqCmdPartition, F.sqCmdObject]⟩
  | .sqCmdArg => ⟨.sq, 0x8, 3, 8, true, true, false,
    [F.sqCmdArgArg]⟩
  | .sqCmdStatus => ⟨.sq, 0x20, 1, 8, true, true, false,
    [F.sqCmdStatusBusy, F.sqCmdStatusResult, F.sqCmdStatusAborted, F.sqCmdStatusHead]⟩
  | .sqRingSel => ⟨.sq, 0x28, 1, 8, true, true, false,
    [F.sqRingSelCq, F.sqRingSelPartition, F.sqRingSelNumber]⟩
  | .sqRingInfo => ⟨.sq, 0x30, 1, 8, true, true, false,
    [F.sqRingInfoState, F.sqRingInfoHaltCause, F.sqRingInfoTail, F.sqRingInfoInflight, F.sqRingInfoHead]⟩
  | .sqMalformed => ⟨.sq, 0x38, 1, 8, true, true, false,
    [F.sqMalformedValid, F.sqMalformedReason, F.sqMalformedCq, F.sqMalformedRing, F.sqMalformedIndex]⟩
  | .sqIgnored => ⟨.sq, 0x40, 1, 8, true, true, false,
    [F.sqIgnoredCount]⟩
  | .sqPortalMap => ⟨.sq, 0x1000, 256, 8, true, false, true,
    [F.sqPortalMapValid, F.sqPortalMapPartition]⟩
  | .hePartWeight => ⟨.he, 0x100, 16, 8, true, false, true,
    [F.hePartWeightSpecOff, F.hePartWeightWeight]⟩
  | .heLimits => ⟨.he, 0x0, 1, 8, false, false, true,
    [F.heLimitsDieTimeout, F.heLimitsSpecChunks]⟩
  | .heTileLoad => ⟨.he, 0x200, 12, 8, true, false, true,
    [F.heTileLoadRoped, F.heTileLoadSpec, F.heTileLoadStaging, F.heTileLoadItems]⟩
  | .heSpecDiscard => ⟨.he, 0x300, 1, 8, true, false, true,
    [F.heSpecDiscardBytes]⟩
  | .heStrandSel => ⟨.he, 0x1000, 1, 8, true, false, true,
    [F.heStrandSelPort, F.heStrandSelFunction]⟩
  | .heStrandStatus => ⟨.he, 0x1008, 1, 8, true, false, true,
    [F.heStrandStatusUsed, F.heStrandStatusInflight]⟩
  | .heStrandCtl => ⟨.he, 0x1010, 1, 8, true, false, true,
    [F.heStrandCtlPop]⟩
  | .heStrandEntry => ⟨.he, 0x1040, 8, 8, true, false, true,
    [F.heStrandEntryQuadword]⟩
  | .cxPartSel => ⟨.cx, 0x0, 1, 8, true, true, false,
    [F.cxPartSelPartition]⟩
  | .cxEvents => ⟨.cx, 0x8, 1, 8, true, true, false,
    [F.cxEventsNanMade, F.cxEventsSaturated, F.cxEventsMxNanBlocks, F.cxEventsSeedsDrawn]⟩
  | .cxEabStatus => ⟨.cx, 0x10, 1, 8, true, true, false,
    [F.cxEabStatusFallbacks, F.cxEabStatusShare, F.cxEabStatusPeak, F.cxEabStatusUsed]⟩
  | .cxPartCtl => ⟨.cx, 0x100, 16, 8, true, false, true,
    [F.cxPartCtlForceInorder]⟩
  | .ftQpSel => ⟨.ft, 0x0, 1, 8, true, true, false,
    [F.ftQpSelQp]⟩
  | .ftQpStatus => ⟨.ft, 0x8, 1, 8, true, true, false,
    [F.ftQpStatusState, F.ftQpStatusResident, F.ftQpStatusHome, F.ftQpStatusCause, F.ftQpStatusCwnd, F.ftQpStatusOutstanding, F.ftQpStatusSrtt]⟩
  | .ftQpCtx => ⟨.ft, 0x100, 64, 8, true, false, true,
    [F.ftQpCtxQuadword]⟩
  | .ftXport => ⟨.ft, 0x800, 1, 8, false, false, true,
    [F.ftXportDeliveryTimeout, F.ftXportRtoMax, F.ftXportRtoMin, F.ftXportAckCoalesce, F.ftXportAckDelay]⟩
  | .ftPathShadow => ⟨.ft, 0x200000, 65536, 8, true, false, true,
    [F.ftPathShadowValid, F.ftPathShadowCordee, F.ftPathShadowPort, F.ftPathShadowFlow, F.ftPathShadowUdpSrc]⟩
  | .ftPathActive => ⟨.ft, 0x280000, 65536, 8, true, false, true,
    [F.ftPathActiveValid, F.ftPathActiveCordee, F.ftPathActivePort, F.ftPathActiveFlow, F.ftPathActiveUdpSrc]⟩
  | .ftEpochCtl => ⟨.ft, 0x1000, 1, 8, true, false, true,
    [F.ftEpochCtlSwitch, F.ftEpochCtlPending, F.ftEpochCtlRetiring, F.ftEpochCtlOldOutstanding, F.ftEpochCtlEpoch]⟩
  | .ftEpochAt => ⟨.ft, 0x1008, 1, 8, true, false, true,
    [F.ftEpochAtAt]⟩
  | .ftCc => ⟨.ft, 0x808, 1, 8, false, false, true,
    [F.ftCcCwndInit, F.ftCcAi, F.ftCcGLog2, F.ftCcBetaLog2, F.ftCcTarget, F.ftCcCooldown, F.ftCcRxMark, F.ftCcLabelFail]⟩
  | .ftPortStatus => ⟨.ft, 0x2000, 24, 8, true, false, true,
    [F.ftPortStatusUp, F.ftPortStatusMode, F.ftPortStatusLlr, F.ftPortStatusLlrAll, F.ftPortStatusPlane, F.ftPortStatusDownEvents, F.ftPortStatusReplays]⟩
  | .ftPortFec => ⟨.ft, 0x2100, 24, 8, true, false, true,
    [F.ftPortFecCorrected, F.ftPortFecUncorrected]⟩
  | .ftRxErrors => ⟨.ft, 0x3000, 1, 8, true, false, true,
    [F.ftRxErrorsCrc, F.ftRxErrorsNoQp, F.ftRxErrorsBadEpoch, F.ftRxErrorsMisdirected]⟩
  | .ftRxDrops => ⟨.ft, 0x3008, 1, 8, true, false, true,
    [F.ftRxDropsOverflow, F.ftRxDropsAuth]⟩
  | .psTime => ⟨.ps, 0x0, 1, 8, true, true, true,
    [F.psTimeTime]⟩
  | .psTimeCtl => ⟨.ps, 0x10, 1, 8, false, false, true,
    [F.psTimeCtlLimit, F.psTimeCtlHoldover, F.psTimeCtlRelock, F.psTimeCtlMiss]⟩
  | .psOffset => ⟨.ps, 0x18, 1, 8, true, false, true,
    [F.psOffsetOffset, F.psOffsetSyncs]⟩
  | .psPitchLen => ⟨.ps, 0x100, 1, 8, true, false, true,
    [F.psPitchLenLen]⟩
  | .psPitchLenAct => ⟨.ps, 0x180, 1, 8, true, false, true,
    [F.psPitchLenActLen]⟩
  | .psPhases => ⟨.ps, 0x108, 1, 8, true, false, true,
    [F.psPhasesGuard, F.psPhasesRoped, F.psPhasesFree]⟩
  | .psPhasesAct => ⟨.ps, 0x188, 1, 8, true, false, true,
    [F.psPhasesActGuard, F.psPhasesActRoped, F.psPhasesActFree]⟩
  | .psCycle => ⟨.ps, 0x110, 1, 8, true, false, true,
    [F.psCycleRepeat, F.psCycleAbandon, F.psCycleCycle]⟩
  | .psCycleAct => ⟨.ps, 0x190, 1, 8, true, false, true,
    [F.psCycleActRepeat, F.psCycleActAbandon, F.psCycleActCycle]⟩
  | .psSchedBase => ⟨.ps, 0x118, 1, 8, true, false, true,
    [F.psSchedBaseCount, F.psSchedBaseBase, F.psSchedBasePartition]⟩
  | .psSwapAt => ⟨.ps, 0x200, 1, 8, true, false, true,
    [F.psSwapAtAt]⟩
  | .psSwapCtl => ⟨.ps, 0x208, 1, 8, true, false, true,
    [F.psSwapCtlSwap, F.psSwapCtlPending, F.psSwapCtlRetiring, F.psSwapCtlErr, F.psSwapCtlErrCard, F.psSwapCtlGen]⟩
  | .psStatus => ⟨.ps, 0x8, 1, 8, true, true, true,
    [F.psStatusTimeState, F.psStatusPhase, F.psStatusExtended, F.psStatusActive, F.psStatusLag, F.psStatusPitch]⟩
  | .psCardSel => ⟨.ps, 0x300, 1, 8, true, true, false,
    [F.psCardSelCard]⟩
  | .psCardStatus => ⟨.ps, 0x308, 1, 8, true, true, false,
    [F.psCardStatusState, F.psCardStatusLate, F.psCardStatusBound, F.psCardStatusRound]⟩
  | .psEvents => ⟨.ps, 0x310, 1, 8, true, false, true,
    [F.psEventsExtended, F.psEventsLate, F.psEventsAbandoned, F.psEventsIgnored, F.psEventsRefused, F.psEventsStale]⟩
  | .hpWinBase => ⟨.hp, 0x1000, 64, 32, true, true, false,
    [F.hpWinBaseVa]⟩
  | .hpWinLen => ⟨.hp, 0x1008, 64, 32, true, true, false,
    [F.hpWinLenLen]⟩
  | .hpWinCtl => ⟨.hp, 0x1010, 64, 32, true, true, false,
    [F.hpWinCtlValid, F.hpWinCtlBusy, F.hpWinCtlQp, F.hpWinCtlPartition, F.hpWinCtlAs, F.hpWinCtlWrite, F.hpWinCtlRead]⟩
  | .hpFnSel => ⟨.hp, 0x100, 1, 8, true, true, false,
    [F.hpFnSelFunction]⟩
  | .hpFnPasid => ⟨.hp, 0x110, 1, 8, true, true, false,
    [F.hpFnPasidValid, F.hpFnPasidPriv, F.hpFnPasidPasid]⟩
  | .hpFnStatus => ⟨.hp, 0x108, 1, 8, true, true, false,
    [F.hpFnStatusDstate, F.hpFnStatusMse, F.hpFnStatusBme, F.hpFnStatusFlrActive, F.hpFnStatusEnabled, F.hpFnStatusTdi, F.hpFnStatusInflight]⟩
  | .hpPmCtl => ⟨.hp, 0x20, 2, 8, false, false, true,
    [F.hpPmCtlL1Allow, F.hpPmCtlL0pAllow, F.hpPmCtlL1Idle, F.hpPmCtlL0pIdle]⟩
  | .hpPortCtl => ⟨.hp, 0x30, 2, 8, false, false, true,
    [F.hpPortCtlLegacyFlr, F.hpPortCtlPerstBlock, F.hpPortCtlCxl, F.hpPortCtlHostLimit]⟩
  | .hpPortStatus => ⟨.hp, 0x0, 2, 8, true, false, true,
    [F.hpPortStatusLinkUp, F.hpPortStatusProto, F.hpPortStatusRate, F.hpPortStatusWidth, F.hpPortStatusLstate, F.hpPortStatusRemoved, F.hpPortStatusDlDowns, F.hpPortStatusLanding]⟩
  | .hpEvents => ⟨.hp, 0x40, 2, 8, true, false, true,
    [F.hpEventsWinUr, F.hpEventsWinFail, F.hpEventsWinTimeout, F.hpEventsCplDiscard]⟩
  | .ptCmem => ⟨.pt, 0x40, 4, 8, true, false, true,
    [F.ptCmemValid, F.ptCmemLimit, F.ptCmemBase]⟩
  | .ptVfMap => ⟨.pt, 0x2000, 256, 8, true, false, true,
    [F.ptVfMapValid, F.ptVfMapPartition]⟩
  | .ptPartSel => ⟨.pt, 0x18, 1, 8, true, true, true,
    [F.ptPartSelPartition]⟩
  | .ptPartStatus => ⟨.pt, 0x20, 1, 8, true, true, true,
    [F.ptPartStatusState, F.ptPartStatusMalformed, F.ptPartStatusBelay, F.ptPartStatusSealed, F.ptPartStatusMgrPort, F.ptPartStatusReq1Valid, F.ptPartStatusReq1Fn, F.ptPartStatusReq0Valid, F.ptPartStatusReq0Fn, F.ptPartStatusInflight]⟩
  | .ptPartCfg => ⟨.pt, 0x38, 1, 8, false, false, true,
    [F.ptPartCfgBivouacEn, F.ptPartCfgMgrPort, F.ptPartCfgHold]⟩
  | .ptCarve => ⟨.pt, 0x28, 1, 8, true, true, true,
    [F.ptCarveData64k, F.ptCarveQpUsed, F.ptCarveQpShare]⟩
  | .ptCmd => ⟨.pt, 0x0, 1, 8, true, false, true,
    [F.ptCmdOp, F.ptCmdPartition, F.ptCmdScrub]⟩
  | .ptCmdArg => ⟨.pt, 0x8, 1, 8, true, false, true,
    [F.ptCmdArgArg]⟩
  | .ptCmdStatus => ⟨.pt, 0x10, 1, 8, true, false, true,
    [F.ptCmdStatusBusy, F.ptCmdStatusResult, F.ptCmdStatusEnded, F.ptCmdStatusStranded]⟩
  | .ptStageVf => ⟨.pt, 0x100, 4, 8, true, false, true,
    [F.ptStageVfVfs]⟩
  | .ptStageReq => ⟨.pt, 0x120, 1, 8, true, false, true,
    [F.ptStageReqValid1, F.ptStageReqFn1, F.ptStageReqValid0, F.ptStageReqFn0]⟩
  | .ptStageCarve => ⟨.pt, 0x200, 16, 8, true, false, true,
    [F.ptStageCarveData64k, F.ptStageCarveQpShare]⟩
  | .ptBivouac => ⟨.pt, 0x30, 1, 8, true, false, true,
    [F.ptBivouacGen, F.ptBivouacHoldLeft]⟩
  | .ptMbxSel => ⟨.pt, 0x400, 1, 8, true, false, false,
    [F.ptMbxSelVf]⟩
  | .ptMbxCtl => ⟨.pt, 0x408, 1, 8, true, true, false,
    [F.ptMbxCtlSend, F.ptMbxCtlPending, F.ptMbxCtlFull, F.ptMbxCtlAck, F.ptMbxCtlPeerReset, F.ptMbxCtlPartEvent, F.ptMbxCtlIgnored]⟩
  | .ptMbxSend => ⟨.pt, 0x440, 8, 8, true, true, false,
    [F.ptMbxSendQuadword]⟩
  | .ptMbxRecv => ⟨.pt, 0x480, 8, 8, true, true, false,
    [F.ptMbxRecvQuadword]⟩
  | .ptMbxPending => ⟨.pt, 0x420, 2, 8, true, false, false,
    [F.ptMbxPendingFull]⟩
  | .idProtFrame => ⟨.id, 0x40, 1, 8, true, true, true,
    [F.idProtFrameNoBivouac, F.idProtFrameForceScrub, F.idProtFrameNoHostGrants, F.idProtFrameSealed, F.idProtFramePfOnly, F.idProtFrameFrameId]⟩
  | .ccCtl => ⟨.cc, 0x0, 1, 8, false, false, true,
    [F.ccCtlHomeTimeout, F.ccCtlBackoffMin, F.ccCtlBackoffMax, F.ccCtlStarve, F.ccCtlPushEn]⟩
  | .ccEvents => ⟨.cc, 0x10, 1, 8, true, false, true,
    [F.ccEventsNacks, F.ccEventsReserved, F.ccEventsTimeouts, F.ccEventsPushDeclined]⟩
  | .ccWatchdog => ⟨.cc, 0x100, 16, 8, true, false, true,
    [F.ccWatchdogWatchdog, F.ccWatchdogExpired]⟩
  | .ccPoison => ⟨.cc, 0x200, 16, 8, true, false, true,
    [F.ccPoisonValid, F.ccPoisonKind, F.ccPoisonCause, F.ccPoisonCount, F.ccPoisonObject]⟩
  | .fhCtl => ⟨.fh, 0x0, 1, 8, false, false, true,
    [F.fhCtlStopped, F.fhCtlPcieFatal, F.fhCtlReact]⟩
  | .fhFirst => ⟨.fh, 0x8, 1, 8, true, false, true,
    [F.fhFirstValid, F.fhFirstClass, F.fhFirstPartition, F.fhFirstSource]⟩
  | .fhFirstTime => ⟨.fh, 0x10, 1, 8, true, false, true,
    [F.fhFirstTimeTime]⟩
  | .fhSrcStatus => ⟨.fh, 0x1000, 512, 8, true, true, true,
    [F.fhSrcStatusCaptured, F.fhSrcStatusClass, F.fhSrcStatusRung, F.fhSrcStatusEscalating, F.fhSrcStatusCount, F.fhSrcStatusPartition, F.fhSrcStatusKind, F.fhSrcStatusObject]⟩
  | .fhSrcCtl => ⟨.fh, 0x2000, 512, 8, true, false, true,
    [F.fhSrcCtlEnable, F.fhSrcCtlCeiling, F.fhSrcCtlStart, F.fhSrcCtlClass, F.fhSrcCtlTotal]⟩
  | .fhInject => ⟨.fh, 0x18, 1, 8, false, false, true,
    [F.fhInjectInject, F.fhInjectPartition, F.fhInjectSource]⟩
  | .sgMask => ⟨.sg, 0x0, 32, 8, true, true, true,
    [F.sgMaskMask]⟩
  | .sgPending => ⟨.sg, 0x100, 32, 8, true, true, true,
    [F.sgPendingPending]⟩
  | .sgCount => ⟨.sg, 0x1000, 256, 8, true, true, true,
    [F.sgCountCounts]⟩
  | .sgSrcCfg => ⟨.sg, 0x4000, 2048, 8, true, true, true,
    [F.sgSrcCfgTarget, F.sgSrcCfgPriority, F.sgSrcCfgFunction, F.sgSrcCfgVector]⟩
  | .sgClaim => ⟨.sg, 0x800, 1, 8, true, true, false,
    [F.sgClaimValid, F.sgClaimCount, F.sgClaimSource]⟩
  | .sgComplete => ⟨.sg, 0x808, 1, 8, true, true, false,
    [F.sgCompleteSource]⟩
  | .sgClaimT => ⟨.sg, 0x900, 20, 16, false, false, true,
    [F.sgClaimTValid, F.sgClaimTCount, F.sgClaimTSource]⟩
  | .sgCompleteT => ⟨.sg, 0x908, 20, 16, false, false, true,
    [F.sgCompleteTSource]⟩
  | .sgSwTrigger => ⟨.sg, 0x810, 1, 8, true, false, true,
    [F.sgSwTriggerSource]⟩
  | .sgStatus => ⟨.sg, 0x818, 1, 8, true, true, true,
    [F.sgStatusIgnored]⟩
  | .ceKeySel => ⟨.ce, 0x0, 1, 8, true, false, true,
    [F.ceKeySelSlot]⟩
  | .ceKeyData => ⟨.ce, 0x8, 4, 8, false, false, true,
    [F.ceKeyDataKey]⟩
  | .ceKeySwitch => ⟨.ce, 0x28, 1, 8, false, false, true,
    [F.ceKeySwitchTxPsn, F.ceKeySwitchRxPsn]⟩
  | .ceKeyCmd => ⟨.ce, 0x30, 1, 8, false, false, true,
    [F.ceKeyCmdOp]⟩
  | .ceKeyStatus => ⟨.ce, 0x38, 1, 8, true, false, true,
    [F.ceKeyStatusState, F.ceKeyStatusNext, F.ceKeyStatusResult, F.ceKeyStatusGen, F.ceKeyStatusQp]⟩
  | .ceEngineStatus => ⟨.ce, 0x100, 12, 8, true, false, true,
    [F.ceEngineStatusFenced, F.ceEngineStatusServedBy, F.ceEngineStatusMismatches, F.ceEngineStatusChecks]⟩
  | .ceEvents => ⟨.ce, 0x200, 1, 8, true, false, true,
    [F.ceEventsRxDiscarded, F.ceEventsZeroed, F.ceEventsMaskStalls, F.ceEventsRekeys]⟩
  | .enStatus => ⟨.en, 0x0, 1, 8, true, false, true,
    [F.enStatusState, F.enStatusCause, F.enStatusQueued, F.enStatusRetests]⟩
  | .enCtl => ⟨.en, 0x8, 1, 8, false, false, true,
    [F.enCtlRestart, F.enCtlReseedMs]⟩
  | .enCounts => ⟨.en, 0x10, 1, 8, true, false, true,
    [F.enCountsRctFail, F.enCountsAptFail, F.enCountsUnavailable]⟩
  | .mdCtl => ⟨.md, 0x0, 1, 8, true, false, false,
    [F.mdCtlSend, F.mdCtlBusy, F.mdCtlDone, F.mdCtlIgnored]⟩
  | .mdReq => ⟨.md, 0x100, 8, 8, true, false, false,
    [F.mdReqQuadword]⟩
  | .mdRsp => ⟨.md, 0x200, 8, 8, true, false, false,
    [F.mdRspQuadword]⟩
  | .tcEvtSel => ⟨.tc, 0x200, 1, 8, true, false, true,
    [F.tcEvtSelTile, F.tcEvtSelEngine, F.tcEvtSelAge]⟩
  | .tcPartSel => ⟨.tc, 0x0, 1, 8, true, true, true,
    [F.tcPartSelPartition]⟩
  | .tcPartCtl => ⟨.tc, 0x8, 1, 8, true, true, true,
    [F.tcPartCtlEvents, F.tcPartCtlDigrec, F.tcPartCtlEnd, F.tcPartCtlBegin]⟩
  | .tcSinkBase => ⟨.tc, 0x10, 1, 8, true, true, true,
    [F.tcSinkBaseBase]⟩
  | .tcSinkCtl => ⟨.tc, 0x18, 1, 8, true, true, true,
    [F.tcSinkCtlEnable, F.tcSinkCtlInt, F.tcSinkCtlSize, F.tcSinkCtlLost, F.tcSinkCtlWatermark]⟩
  | .tcSinkPtr => ⟨.tc, 0x20, 1, 8, true, true, true,
    [F.tcSinkPtrTail, F.tcSinkPtrHead]⟩
  | .tcDigSel => ⟨.tc, 0x40, 1, 8, true, true, true,
    [F.tcDigSelSlot]⟩
  | .tcDigCfg => ⟨.tc, 0x48, 1, 8, true, true, true,
    [F.tcDigCfgValid, F.tcDigCfgClear, F.tcDigCfgFailed, F.tcDigCfgCount, F.tcDigCfgOperator, F.tcDigCfgLayer]⟩
  | .tcDigAcc => ⟨.tc, 0x50, 1, 8, true, true, true,
    [F.tcDigAccAcc]⟩
  | .tcCntSel => ⟨.tc, 0x80, 1, 8, true, true, true,
    [F.tcCntSelCounter]⟩
  | .tcCntCfg => ⟨.tc, 0x88, 1, 8, true, true, true,
    [F.tcCntCfgEnable, F.tcCntCfgInt, F.tcCntCfgFreezeOvf, F.tcCntCfgFilter, F.tcCntCfgPartition, F.tcCntCfgEvent]⟩
  | .tcCntVal => ⟨.tc, 0x90, 1, 8, true, true, true,
    [F.tcCntValOvf, F.tcCntValCount]⟩
  | .tcCntOwn => ⟨.tc, 0x98, 1, 8, true, false, true,
    [F.tcCntOwnValid, F.tcCntOwnPartition]⟩
  | .tcFreeze => ⟨.tc, 0x100, 1, 8, true, true, true,
    [F.tcFreezeNow, F.tcFreezeThaw, F.tcFreezeArm, F.tcFreezeFrozen, F.tcFreezeArmed, F.tcFreezeCause, F.tcFreezeExtra]⟩
  | .tcFreezeAt => ⟨.tc, 0x108, 1, 8, true, false, true,
    [F.tcFreezeAtAt]⟩
  | .tcFreezeTime => ⟨.tc, 0x110, 1, 8, true, true, true,
    [F.tcFreezeTimeTime]⟩
  | .tcDumpCtl => ⟨.tc, 0x400, 1, 8, false, false, true,
    [F.tcDumpCtlDump, F.tcDumpCtlBusy, F.tcDumpCtlIgnored]⟩
  | .tcDumpStatus => ⟨.tc, 0x408, 2, 8, true, false, true,
    [F.tcDumpStatusValid, F.tcDumpStatusComplete, F.tcDumpStatusReason, F.tcDumpStatusGen]⟩
  | .tcDumpWinSel => ⟨.tc, 0x420, 1, 8, true, false, true,
    [F.tcDumpWinSelSlot, F.tcDumpWinSelPage]⟩
  | .ckTile => ⟨.ck, 0x100, 12, 8, true, false, true,
    [F.ckTileTemp, F.ckTileGated, F.ckTileThrottled, F.ckTileMv, F.ckTileEffective, F.ckTileTarget]⟩
  | .ckLimits => ⟨.ck, 0x180, 1, 8, true, false, true,
    [F.ckLimitsFMax, F.ckLimitsFMin]⟩
  | .ckStart => ⟨.ck, 0x0, 1, 8, true, false, true,
    [F.ckStartPhase, F.ckStartCold, F.ckStartDefaulted, F.ckStartReadyUs]⟩
  | .ckGovCtl => ⟨.ck, 0x200, 1, 8, true, false, true,
    [F.ckGovCtlBallastEn, F.ckGovCtlShelfRise, F.ckGovCtlShelfFall, F.ckGovCtlEMove]⟩
  | .ckGovStatus => ⟨.ck, 0x208, 1, 8, true, false, true,
    [F.ckGovStatusLoad, F.ckGovStatusBallast, F.ckGovStatusHeld, F.ckGovStatusRamp]⟩
  | .ckThermal => ⟨.ck, 0x300, 1, 8, true, false, true,
    [F.ckThermalTrip, F.ckThermalThrottle, F.ckThermalThrottles]⟩
  | .tcEvtData => ⟨.tc, 0x208, 2, 8, true, false, true,
    [F.tcEvtDataData]⟩
  | .tcDumpWin => ⟨.tc, 0x800, 64, 8, true, false, true,
    [F.tcDumpWinQuadword]⟩
  | .hpMsixAddr => ⟨.hp, 0x8000, 2048, 16, true, true, false,
    [F.hpMsixAddrAddr]⟩
  | .hpMsixData => ⟨.hp, 0x8008, 2048, 16, true, true, false,
    [F.hpMsixDataMask, F.hpMsixDataData]⟩
  | .hpPba => ⟨.hp, 0x4000, 32, 8, true, true, false,
    [F.hpPbaPending]⟩

/-- A part of the list of registers. -/
def regsA : List Reg :=
  [.idVariant, .idIgnored, .idBlock, .idNode, .idCmemDie, .ptGrantBase, .ptGrantLimit, .ptGrantCtl, .ptRefused,
   .tuAsSel, .tuAsCtl, .tuAsRoot, .tuPartCtl, .tuSegBase, .tuSegLen, .tuSegMap, .tuSegList, .tuSegCtl, .tuInvVa,
   .tuInvCtl]

/-- A part of the list of registers. -/
def regsB : List Reg :=
  [.tuInvStatus, .tuHotqBase, .tuHotqCtl, .tuHotqPtr, .tuFaultVa, .tuFaultInfo, .tuCounts, .sqCmd, .sqCmdArg,
   .sqCmdStatus, .sqRingSel, .sqRingInfo, .sqMalformed, .sqIgnored, .sqPortalMap, .hePartWeight, .heLimits,
   .heTileLoad, .heSpecDiscard, .heStrandSel]

/-- A part of the list of registers. -/
def regsC : List Reg :=
  [.heStrandStatus, .heStrandCtl, .heStrandEntry, .cxPartSel, .cxEvents, .cxEabStatus, .cxPartCtl, .ftQpSel,
   .ftQpStatus, .ftQpCtx, .ftXport, .ftPathShadow, .ftPathActive, .ftEpochCtl, .ftEpochAt, .ftCc, .ftPortStatus,
   .ftPortFec, .ftRxErrors, .ftRxDrops]

/-- A part of the list of registers. -/
def regsD : List Reg :=
  [.psTime, .psTimeCtl, .psOffset, .psPitchLen, .psPitchLenAct, .psPhases, .psPhasesAct, .psCycle, .psCycleAct,
   .psSchedBase, .psSwapAt, .psSwapCtl, .psStatus, .psCardSel, .psCardStatus, .psEvents, .hpWinBase, .hpWinLen,
   .hpWinCtl, .hpFnSel]

/-- A part of the list of registers. -/
def regsE : List Reg :=
  [.hpFnPasid, .hpFnStatus, .hpPmCtl, .hpPortCtl, .hpPortStatus, .hpEvents, .ptCmem, .ptVfMap, .ptPartSel,
   .ptPartStatus, .ptPartCfg, .ptCarve, .ptCmd, .ptCmdArg, .ptCmdStatus, .ptStageVf, .ptStageReq, .ptStageCarve,
   .ptBivouac, .ptMbxSel]

/-- A part of the list of registers. -/
def regsF : List Reg :=
  [.ptMbxCtl, .ptMbxSend, .ptMbxRecv, .ptMbxPending, .idProtFrame, .ccCtl, .ccEvents, .ccWatchdog, .ccPoison, .fhCtl,
   .fhFirst, .fhFirstTime, .fhSrcStatus, .fhSrcCtl, .fhInject, .sgMask, .sgPending, .sgCount, .sgSrcCfg, .sgClaim]

/-- A part of the list of registers. -/
def regsG : List Reg :=
  [.sgComplete, .sgClaimT, .sgCompleteT, .sgSwTrigger, .sgStatus, .ceKeySel, .ceKeyData, .ceKeySwitch, .ceKeyCmd,
   .ceKeyStatus, .ceEngineStatus, .ceEvents, .enStatus, .enCtl, .enCounts, .mdCtl, .mdReq, .mdRsp, .tcEvtSel,
   .tcPartSel]

/-- A part of the list of registers. -/
def regsH : List Reg :=
  [.tcPartCtl, .tcSinkBase, .tcSinkCtl, .tcSinkPtr, .tcDigSel, .tcDigCfg, .tcDigAcc, .tcCntSel, .tcCntCfg, .tcCntVal,
   .tcCntOwn, .tcFreeze, .tcFreezeAt, .tcFreezeTime, .tcDumpCtl, .tcDumpStatus, .tcDumpWinSel, .ckTile, .ckLimits,
   .ckStart]

/-- A part of the list of registers. -/
def regsI : List Reg :=
  [.ckGovCtl, .ckGovStatus, .ckThermal, .tcEvtData, .tcDumpWin, .hpMsixAddr, .hpMsixData, .hpPba]

/-- All registers, in the order of the chapters. -/
def Reg.all : List Reg :=
  regsA ++ (regsB ++ (regsC ++ (regsD ++ (regsE ++ (regsF ++ (regsG ++ (regsH ++ (regsI))))))))

/-- The base and size of a unit's range in PF BAR0, and of its VF view where there is one (R29). -/
def UnitId.range : UnitId → Nat × Nat × Option (Nat × Nat)
  | .id => (0x0000000, 0x100000, some (0x00000, 0x10000))
  | .hp => (0x0100000, 0x100000, some (0x10000, 0x10000))
  | .tu => (0x0200000, 0x200000, some (0x20000, 0x20000))
  | .sq => (0x0400000, 0x200000, some (0x40000, 0x20000))
  | .he => (0x0600000, 0x100000, some (0x60000, 0x10000))
  | .cx => (0x0700000, 0x100000, some (0x70000, 0x10000))
  | .ft => (0x0800000, 0x400000, some (0x80000, 0x20000))
  | .ps => (0x0C00000, 0x100000, some (0xA0000, 0x10000))
  | .pt => (0x0D00000, 0x100000, some (0xB0000, 0x10000))
  | .cc => (0x0E00000, 0x080000, none)
  | .fh => (0x0E80000, 0x080000, some (0xC0000, 0x10000))
  | .sg => (0x0F00000, 0x080000, some (0xD0000, 0x10000))
  | .ce => (0x0F80000, 0x020000, none)
  | .en => (0x0FA0000, 0x020000, none)
  | .md => (0x0FC0000, 0x040000, none)
  | .tc => (0x1000000, 0x800000, some (0xE0000, 0x10000))
  | .ck => (0x1800000, 0x800000, none)

/-- The row of a unit in the table of R29 (R33). -/
def UnitId.row : UnitId → Nat
  | .id => 0 | .hp => 1 | .tu => 2 | .sq => 3 | .he => 4 | .cx => 5 | .ft => 6 | .ps => 7 | .pt => 8
  | .cc => 9 | .fh => 10 | .sg => 11 | .ce => 12 | .en => 13 | .md => 14 | .tc => 15 | .ck => 16

/-- A number of its own for each register, for the key of the register store. -/
def Reg.code : Reg → Nat
  | .idVariant => 0
  | .idIgnored => 1
  | .idBlock => 2
  | .idNode => 3
  | .idCmemDie => 4
  | .ptGrantBase => 5
  | .ptGrantLimit => 6
  | .ptGrantCtl => 7
  | .ptRefused => 8
  | .tuAsSel => 9
  | .tuAsCtl => 10
  | .tuAsRoot => 11
  | .tuPartCtl => 12
  | .tuSegBase => 13
  | .tuSegLen => 14
  | .tuSegMap => 15
  | .tuSegList => 16
  | .tuSegCtl => 17
  | .tuInvVa => 18
  | .tuInvCtl => 19
  | .tuInvStatus => 20
  | .tuHotqBase => 21
  | .tuHotqCtl => 22
  | .tuHotqPtr => 23
  | .tuFaultVa => 24
  | .tuFaultInfo => 25
  | .tuCounts => 26
  | .sqCmd => 27
  | .sqCmdArg => 28
  | .sqCmdStatus => 29
  | .sqRingSel => 30
  | .sqRingInfo => 31
  | .sqMalformed => 32
  | .sqIgnored => 33
  | .sqPortalMap => 34
  | .hePartWeight => 35
  | .heLimits => 36
  | .heTileLoad => 37
  | .heSpecDiscard => 38
  | .heStrandSel => 39
  | .heStrandStatus => 40
  | .heStrandCtl => 41
  | .heStrandEntry => 42
  | .cxPartSel => 43
  | .cxEvents => 44
  | .cxEabStatus => 45
  | .cxPartCtl => 46
  | .ftQpSel => 47
  | .ftQpStatus => 48
  | .ftQpCtx => 49
  | .ftXport => 50
  | .ftPathShadow => 51
  | .ftPathActive => 52
  | .ftEpochCtl => 53
  | .ftEpochAt => 54
  | .ftCc => 55
  | .ftPortStatus => 56
  | .ftPortFec => 57
  | .ftRxErrors => 58
  | .ftRxDrops => 59
  | .psTime => 60
  | .psTimeCtl => 61
  | .psOffset => 62
  | .psPitchLen => 63
  | .psPitchLenAct => 64
  | .psPhases => 65
  | .psPhasesAct => 66
  | .psCycle => 67
  | .psCycleAct => 68
  | .psSchedBase => 69
  | .psSwapAt => 70
  | .psSwapCtl => 71
  | .psStatus => 72
  | .psCardSel => 73
  | .psCardStatus => 74
  | .psEvents => 75
  | .hpWinBase => 76
  | .hpWinLen => 77
  | .hpWinCtl => 78
  | .hpFnSel => 79
  | .hpFnPasid => 80
  | .hpFnStatus => 81
  | .hpPmCtl => 82
  | .hpPortCtl => 83
  | .hpPortStatus => 84
  | .hpEvents => 85
  | .ptCmem => 86
  | .ptVfMap => 87
  | .ptPartSel => 88
  | .ptPartStatus => 89
  | .ptPartCfg => 90
  | .ptCarve => 91
  | .ptCmd => 92
  | .ptCmdArg => 93
  | .ptCmdStatus => 94
  | .ptStageVf => 95
  | .ptStageReq => 96
  | .ptStageCarve => 97
  | .ptBivouac => 98
  | .ptMbxSel => 99
  | .ptMbxCtl => 100
  | .ptMbxSend => 101
  | .ptMbxRecv => 102
  | .ptMbxPending => 103
  | .idProtFrame => 104
  | .ccCtl => 105
  | .ccEvents => 106
  | .ccWatchdog => 107
  | .ccPoison => 108
  | .fhCtl => 109
  | .fhFirst => 110
  | .fhFirstTime => 111
  | .fhSrcStatus => 112
  | .fhSrcCtl => 113
  | .fhInject => 114
  | .sgMask => 115
  | .sgPending => 116
  | .sgCount => 117
  | .sgSrcCfg => 118
  | .sgClaim => 119
  | .sgComplete => 120
  | .sgClaimT => 121
  | .sgCompleteT => 122
  | .sgSwTrigger => 123
  | .sgStatus => 124
  | .ceKeySel => 125
  | .ceKeyData => 126
  | .ceKeySwitch => 127
  | .ceKeyCmd => 128
  | .ceKeyStatus => 129
  | .ceEngineStatus => 130
  | .ceEvents => 131
  | .enStatus => 132
  | .enCtl => 133
  | .enCounts => 134
  | .mdCtl => 135
  | .mdReq => 136
  | .mdRsp => 137
  | .tcEvtSel => 138
  | .tcPartSel => 139
  | .tcPartCtl => 140
  | .tcSinkBase => 141
  | .tcSinkCtl => 142
  | .tcSinkPtr => 143
  | .tcDigSel => 144
  | .tcDigCfg => 145
  | .tcDigAcc => 146
  | .tcCntSel => 147
  | .tcCntCfg => 148
  | .tcCntVal => 149
  | .tcCntOwn => 150
  | .tcFreeze => 151
  | .tcFreezeAt => 152
  | .tcFreezeTime => 153
  | .tcDumpCtl => 154
  | .tcDumpStatus => 155
  | .tcDumpWinSel => 156
  | .ckTile => 157
  | .ckLimits => 158
  | .ckStart => 159
  | .ckGovCtl => 160
  | .ckGovStatus => 161
  | .ckThermal => 162
  | .tcEvtData => 163
  | .tcDumpWin => 164
  | .hpMsixAddr => 165
  | .hpMsixData => 166
  | .hpPba => 167

end Sys2Proof.Machine
end

