-- ==== Sys2Proof/Machine/Dict.lean ====
section
/-!
DEFINITION. The parameter list of the dictionary (R630-R636): which entries exist on a variant, with their types, rights,
classes, defaults, ranges, and the register field that each sets.
-/
namespace Sys2Proof.Machine

open Sys2Proof

/-- The types of R631, in the order of the type codes of NEXT (R639). -/
inductive DType where
  | bool | u8 | u16 | u32 | u64 | mac | key
  deriving DecidableEq, Repr

def DType.code : DType → Nat
  | .bool => 0 | .u8 => 1 | .u16 => 2 | .u32 => 3 | .u64 => 4 | .mac => 5 | .key => 6
def DType.size : DType → Nat
  | .bool => 1 | .u8 => 1 | .u16 => 2 | .u32 => 4 | .u64 => 8 | .mac => 6 | .key => 32
def DType.top : DType → Nat
  | .bool => 1
  | t => 2 ^ (8 * t.size) - 1

/-- The rights of R632. -/
inductive DRight where
  | ro | rw | rwp | rws | ws
  deriving DecidableEq, Repr

def DRight.code : DRight → Nat
  | .ro => 0 | .rw => 1 | .rwp => 2 | .rws => 3 | .ws => 4

/-- The classes of R634. -/
inductive DClass where
  | f | b | s | v
  deriving DecidableEq, Repr

/-- Where an entry's live value is: a register field, the dictionary's own store, the fuses, or a key command (R637). -/
inductive DLoc where
  | field (f : Fld) (i : Nat)
  | own
  | fuse
  | key
  deriving DecidableEq, Repr

/-- An entry (R630-R636): its value lies within `lo` and `hi`. -/
structure Entry where
  ty : DType
  right : DRight
  cls : DClass
  dflt : Nat
  lo : Nat
  hi : Nat
  loc : DLoc
  deriving DecidableEq, Repr

/-- Entry with the whole range of its type. -/
def entAll (t : DType) (r : DRight) (c : DClass) (d : Nat) (l : DLoc) : Entry := ⟨t, r, c, d, 0, t.top, l⟩

/-- The depot data area of a partition by default, in units of 64 KiB (R482). -/
def carveData (v : Variant) : Nat := v.depotGib * 1024 / v.partitions

/-- The default QP share of a partition (R482). -/
def carveQps (v : Variant) : Nat := if v.fabPorts = 0 then 0 else v.depotGib * 32768 / v.partitions - 1

/-- The entries of R636 of indices below 0x4000. Without a fabric the node ID is read-only and reads 0 (R4). -/
def dictLow (v : Variant) (idx sub : Nat) : Option Entry :=
  if idx = 0x1000 ∧ sub < 5 then some (entAll .u64 .ro .f 0 .fuse)
  else if idx = 0x1001 ∧ sub < 2 * v.hostPorts then some (entAll .u16 .rwp .b 0 .own)
  else if idx = 0x2000 ∧ sub = 0 ∧ v.fabPorts = 0 then some (entAll .u16 .ro .f 0 .own)
  else if idx = 0x2000 ∧ sub = 0 then some (entAll .u16 .rwp .b 0xFFFF .own)
  else if idx = 0x2000 ∧ sub = 1 then some ⟨.u16, .rwp, .b, 511, 0, 511, .field F.idNodeCellSizeM1 0⟩
  else if idx = 0x2001 ∧ sub < v.hostPorts then
    some ⟨.u64, .rwp, .b, 0x80000000000, 4096, 2 ^ 43, .field F.hpPortCtlHostLimit sub⟩
  else if 0x2100 ≤ idx ∧ idx ≤ 0x2105 then
    (if v.fabPorts ≤ sub then none
     else match idx with
      | 0x2100 => some (entAll .mac .rwp .s 0 .own)
      | 0x2101 => some ⟨.u8, .rwp, .b, 1, 1, 2, .own⟩
      | 0x2102 => some ⟨.u8, .rwp, .b, 0, 0, 7, .field F.ftPortStatusPlane sub⟩
      | 0x2103 => some (entAll .bool .rwp .b 0 .own)
      | _ => some (entAll .u16 .rwp .s 0 .own))
  else if idx = 0x2110 ∧ sub < 8 then some (entAll .u64 .rwp .b (0xFD00000000000000 + sub) .own)
  else if idx = 0x2120 then
    (match sub with
     | 0 => some (entAll .u16 .rwp .b 0x5F10 .own)
     | 1 => some (entAll .u8 .rwp .b 64 .own)
     | 2 => some ⟨.u8, .rwp, .b, 48, 0, 63, .own⟩
     | 3 => some ⟨.u8, .rwp, .b, 46, 0, 63, .own⟩
     | 4 => some ⟨.u8, .rwp, .b, 10, 0, 63, .own⟩
     | 5 => some ⟨.u8, .rwp, .b, 18, 0, 63, .own⟩
     | 6 => some (entAll .u16 .rw .s 1 .own)
     | _ => none)
  else if 0x2400 ≤ idx ∧ idx < 0x2800 ∧ sub < 64 ∧ v.fabPorts ≠ 0 then
    some (entAll .u64 .rw .s 0 (.field ⟨.ftPathShadow, 63, 0, .rw, 0⟩ (64 * (idx - 0x2400) + sub)))
  else if idx = 0x2800 then
    (match sub with
     | 0 => some (entAll .u8 .rwp .b 0xFF .own)
     | 1 => some ⟨.u8, .rwp, .b, 0, 0, 1, .own⟩
     | 2 => some ⟨.u8, .rwp, .b, 0, 0, 1, .own⟩
     | 3 => some ⟨.u16, .rw, .s, 20, 1, 65535, .field F.psTimeCtlLimit 0⟩
     | 4 => some ⟨.u16, .rw, .s, 100, 1, 65535, .field F.psTimeCtlHoldover 0⟩
     | 5 => some ⟨.u8, .rw, .s, 16, 1, 255, .field F.psTimeCtlRelock 0⟩
     | 6 => some ⟨.u8, .rw, .s, 3, 1, 255, .field F.psTimeCtlMiss 0⟩
     | _ => none)
  else if idx = 0x3000 then
    (match sub with
     | 0 => some ⟨.u16, .rwp, .s, 250, 1, 65535, .field F.ckGovCtlShelfRise 0⟩
     | 1 => some ⟨.u16, .rwp, .s, 250, 1, 65535, .field F.ckGovCtlShelfFall 0⟩
     | 2 => some (entAll .bool .rw .s 1 (.field F.ckGovCtlBallastEn 0))
     | _ => none)
  else if idx = 0x3100 ∧ sub = 0 then some ⟨.u16, .rwp, .b, 1200, 900, 2000, .field F.ckLimitsFMin 0⟩
  else if idx = 0x3100 ∧ sub = 1 then some ⟨.u16, .rwp, .b, 2000, 900, 2000, .field F.ckLimitsFMax 0⟩
  else none

/-- The entries of indices 0x4000 to 0x7FFF. -/
def dictMid (v : Variant) (idx sub : Nat) : Option Entry :=
  let h := sub / 4
  if idx = 0x4000 ∧ h < v.hostPorts then
    (match sub % 4 with
     | 0 => some (entAll .bool .rwp .b 0 (.field F.hpPortCtlPerstBlock h))
     | 1 => some (entAll .bool .rw .s 0 (.field F.hpPortCtlLegacyFlr h))
     | 2 => some (entAll .bool .rwp .b 0 (.field F.hpPortCtlCxl h))
     | _ => some ⟨.u16, .rw, .s, 10, 1, 65535, .own⟩)
  else if idx = 0x4010 ∧ h < v.hostPorts then
    (match sub % 4 with
     | 0 => some (entAll .bool .rw .s 1 (.field F.hpPmCtlL1Allow h))
     | 1 => some (entAll .bool .rw .s 1 (.field F.hpPmCtlL0pAllow h))
     | 2 => some ⟨.u16, .rw, .s, 64, 1, 65535, .field F.hpPmCtlL1Idle h⟩
     | _ => some ⟨.u16, .rw, .s, 16, 1, 65535, .field F.hpPmCtlL0pIdle h⟩)
  else if idx = 0x5000 then
    (match sub with
     | 0 => some ⟨.u16, .rw, .s, 100, 1, 65535, .field F.ftXportDeliveryTimeout 0⟩
     | 1 => some ⟨.u16, .rw, .s, 1000, 1, 65535, .field F.ftXportRtoMax 0⟩
     | 2 => some ⟨.u16, .rw, .s, 12, 1, 65535, .field F.ftXportRtoMin 0⟩
     | 3 => some ⟨.u8, .rw, .s, 16, 1, 255, .field F.ftXportAckCoalesce 0⟩
     | 4 => some ⟨.u8, .rw, .s, 10, 1, 255, .field F.ftXportAckDelay 0⟩
     | _ => none)
  else if idx = 0x5001 then
    (match sub with
     | 0 => some ⟨.u16, .rw, .s, 64, 1, 1024, .field F.ftCcCwndInit 0⟩
     | 1 => some (entAll .u8 .rw .s 4 (.field F.ftCcAi 0))
     | 2 => some ⟨.u8, .rw, .s, 4, 0, 15, .field F.ftCcGLog2 0⟩
     | 3 => some ⟨.u8, .rw, .s, 1, 0, 15, .field F.ftCcBetaLog2 0⟩
     | 4 => some (entAll .u8 .rw .s 8 (.field F.ftCcTarget 0))
     | 5 => some (entAll .u8 .rw .s 16 (.field F.ftCcCooldown 0))
     | 6 => some ⟨.u8, .rw, .s, 75, 1, 100, .field F.ftCcRxMark 0⟩
     | 7 => some ⟨.u8, .rw, .s, 3, 1, 15, .field F.ftCcLabelFail 0⟩
     | _ => none)
  else if idx = 0x5100 ∧ sub = 0 then some ⟨.u16, .rw, .s, 100, 1, 65535, .field F.heLimitsDieTimeout 0⟩
  else if idx = 0x5100 ∧ sub = 1 then some ⟨.u8, .rw, .s, 32, 0, 64, .field F.heLimitsSpecChunks 0⟩
  else if idx = 0x5200 then
    (match sub with
     | 0 => some ⟨.u16, .rw, .s, 100, 1, 65535, .field F.ccCtlHomeTimeout 0⟩
     | 1 => some ⟨.u8, .rw, .s, 2, 1, 255, .field F.ccCtlBackoffMin 0⟩
     | 2 => some ⟨.u8, .rw, .s, 128, 1, 255, .field F.ccCtlBackoffMax 0⟩
     | 3 => some ⟨.u8, .rw, .s, 8, 1, 15, .field F.ccCtlStarve 0⟩
     | 4 => some (entAll .bool .rw .s 1 (.field F.ccCtlPushEn 0))
     | _ => none)
  else if idx = 0x6000 then
    (match sub with
     | 0 => some ⟨.u16, .rw, .s, 32, 4, 1024, .field F.psPitchLenLen 0⟩
     | 1 => some ⟨.u32, .rw, .s, 250, 0, 2 ^ 20 - 1, .field F.psPhasesGuard 0⟩
     | 2 => some ⟨.u32, .rw, .s, 20000, 0, 2 ^ 20 - 1, .field F.psPhasesRoped 0⟩
     | 3 => some ⟨.u32, .rw, .s, 8000, 0, 2 ^ 20 - 1, .field F.psPhasesFree 0⟩
     | 4 => some ⟨.u8, .rw, .s, 64, 1, 255, .field F.psCycleAbandon 0⟩
     | _ => none)
  else if 0x7000 ≤ idx ∧ idx < 0x7000 + v.partitions then
    let p := idx - 0x7000
    (match sub with
     | 0 => some ⟨.u8, .rw, .s, 16, 1, 255, .field F.hePartWeightWeight p⟩
     | 1 => some ⟨.u16, .rw, .s, 1000, 1, 65535, .field F.tuPartCtlHoldLimit p⟩
     | 2 => some ⟨.u16, .rw, .b, carveData v, 0, 2048, .field F.ptCarveData64k p⟩
     | 3 => some ⟨.u32, .rw, .b, carveQps v, 0, 2 ^ 20 - 1, .field F.ptCarveQpShare p⟩
     | 4 | 5 | 6 | 7 => some (entAll .u64 .rw .s 0 (.field ⟨.ptCmem, 63, 0, .rw, 0⟩ (4 * p + (sub - 4))))
     | 8 => some (entAll .bool .rw .s 1 (.field F.ptPartCfgBivouacEn p))
     | 9 => some ⟨.u8, .rw, .s, 0, 0, v.hostPorts - 1, .field F.ptPartCfgMgrPort p⟩
     | 10 => some (entAll .u16 .rw .s 600 (.field F.ptPartCfgHold p))
     | 11 => some ⟨.u16, .rw, .s, 1000, 1, 65535, .field F.ccWatchdogWatchdog p⟩
     | _ => none)
  else none

/-- The default ceiling of a fault source (R559, R560). -/
def fhDefaultCeiling (src : Nat) : Nat :=
  if src < 256 then
    if src = 0 ∨ src = 1 ∨ src = 2 ∨ src = 240 ∨ src = 248 ∨ src = 249 then 5
    else if 176 ≤ src ∧ src < 200 ∧ src % 2 = 0 then 5
    else if src = 3 ∨ src = 229 ∨ src = 230 ∨ src = 232 ∨ src = 235 ∨ src = 250 then 0
    else if 32 ≤ src ∧ src < 96 then (if 1 ≤ src % 32 ∧ src % 32 ≤ 6 then 1 else 0)
    else if 96 ≤ src ∧ src < 128 then (if src % 2 = 1 then 1 else 0)
    else if 200 ≤ src ∧ src < 216 then (if src % 4 = 0 ∨ src % 4 = 2 then 1 else 0)
    else if 216 ≤ src ∧ src < 228 then 1
    else if src = 228 ∨ src = 233 ∨ src = 234 then 1
    else 0
  else
    match src % 16 with
    | 1 => 3 | 2 => 2 | 3 => 2 | 5 => 1 | 6 => 2 | 7 => 1 | 8 => 1 | 9 => 3 | 10 => 1 | 14 => 3
    | _ => 0

/-- The default target and vector of an interrupt source (R578), as the dictionary holds them: TARGET in bits [15:11],
VECTOR in bits [10:0]. The spec gives the vector of a source with a PF target, its own number; a source whose default target is
another has it too (DESIGN CHOICE, log entry 45). -/
def sgDefault (i : Nat) : Nat :=
  (if i < 1024 then 19 <<< 11
   else if i < 1536 then
     (if i - 1024 < 256 then (if fhDefaultCeiling (i - 1024) = 5 then 1 <<< 11 else 0) else 10 <<< 11)
   else if 1778 ≤ i ∧ i < 1794 then 10 <<< 11
   else 0) + i

/-- The entries of indices 0x8000 and above. -/
def dictHigh (v : Variant) (idx sub : Nat) : Option Entry :=
  if idx = 0x8000 ∧ sub = 0 then some ⟨.u32, .rw, .s, 2000, 10, 1000000, .field F.fhCtlReact 0⟩
  else if 0x8100 ≤ idx ∧ idx ≤ 0x8101 then
    let i := 256 * (idx - 0x8100) + sub
    if sub < 256 ∧ (i < 256 ∨ (i - 256) / 16 < v.partitions) then
      some (entAll .u8 .rw .s (128 + fhDefaultCeiling i) (.field ⟨.fhSrcCtl, 63, 60, .rw, 0⟩ i))
    else none
  else if 0x8200 ≤ idx ∧ idx < 0x8208 then
    if sub < 256 then
      some (entAll .u16 .rw .s (sgDefault (256 * (idx - 0x8200) + sub))
        (.field F.sgSrcCfgTarget (256 * (idx - 0x8200) + sub)))
    else none
  else if idx = 0x9000 ∧ sub < v.partitions then
    some (entAll .u32 .rw .v 0 (.field ⟨.tcPartCtl, 31, 0, .rw, 0⟩ sub))
  else if idx = 0xA000 ∧ sub = 0 then some ⟨.u16, .rw, .s, 10, 1, 1000, .field F.enCtlReseedMs 0⟩
  else if idx = 0xA100 ∧ v.cipher then
    (match sub with
     | 0 => some (entAll .u16 .ws .v 0 .key)
     | 1 => some (entAll .key .ws .v 0 .key)
     | 2 => some (entAll .u64 .ws .v 0 .key)
     | 3 => some (entAll .u8 .ws .v 0 .key)
     | 4 => some (entAll .u64 .ro .v 0 .key)
     | _ => none)
  else none

/-- The entry of an index and subindex, if the variant has it (R630, R636). -/
def dictEntry (v : Variant) (idx sub : Nat) : Option Entry :=
  if idx < 0x4000 then dictLow v idx sub else if idx < 0x8000 then dictMid v idx sub else dictHigh v idx sub

/-- The indices of R636, in ascending order. -/
def dictIndices : List Nat :=
  [0x1000, 0x1001, 0x2000, 0x2001, 0x2100, 0x2101, 0x2102, 0x2103, 0x2104, 0x2105, 0x2110, 0x2120]
    ++ (List.range 1024).map (0x2400 + ·) ++ [0x2800, 0x3000, 0x3100, 0x4000, 0x4010, 0x5000, 0x5001, 0x5100, 0x5200, 0x6000]
    ++ (List.range 16).map (0x7000 + ·) ++ [0x8000, 0x8100, 0x8101] ++ (List.range 8).map (0x8200 + ·)
    ++ [0x9000, 0xA000, 0xA100]

/-- The first existing entry after an index and subindex (R639 NEXT). -/
def dictNext (v : Variant) (idx sub : Nat) : Option (Nat × Nat) :=
  let next := fun i lo => ((List.range 256).find? (fun k => lo ≤ k && (dictEntry v i k).isSome)).map (fun k => (i, k))
  match (if idx = 0xFFFF then none else next idx (sub + 1)) with
  | some e => some e
  | none => dictIndices.findSome? (fun i => if idx = 0xFFFF ∨ idx < i then next i 0 else none)

/-- The default of an entry, 0 where it does not exist. -/
def dictDefault (v : Variant) (idx sub : Nat) : Nat := match dictEntry v idx sub with | some e => e.dflt | none => 0

end Sys2Proof.Machine
end

