-- ==== Sys2Proof/Machine/Types.lean ====
section
/-!
DEFINITION. The records of the units: what each piece of the block's state is made of. The state itself is in
`Machine/State.lean`. A *function number* is 128 × port + function (0 for the PF); 256 is the management core path.
-/
namespace Sys2Proof.Machine

open Sys2Proof

/-! ### Addresses, exchanges and messages -/

/-- The access kinds of translation (R79). -/
inductive Kind where
  | read | write | combine
  deriving DecidableEq, Repr

/-- A place of the hall that a global address names (R46, R53). A depot place is relative to the data area of the
partition on whose behalf the access is made (R56); `port` places carry the bus address (R57),
and whether it is a translated one (R449). -/
inductive Place where
  | die (d addr : Nat)
  | depot (x : Nat)
  | port (h bus : Nat) (translated : Bool)
  | remote (node off : Nat)
  deriving DecidableEq, Repr

/-- What an outstanding exchange with a neighbour is for. `item` numbers are item ids, `ctx` numbers receive contexts,
`acc` numbers accesses. -/
inductive Use where
  /-- a source read of an item: the offset in its range, and whether it was issued while speculative -/
  | src (item off : Nat) (spec : Bool)
  /-- the read of a combine's destination operand -/
  | operand (item off : Nat)
  /-- a destination write of an item: offset and length in the destination range -/
  | dst (item off len : Nat)
  /-- the read of the fence word by a WAIT item -/
  | waitRead (item : Nat)
  /-- the fence write of an item -/
  | fence (item : Nat)
  /-- a zero-length read ahead of an item's fence or record (R252) -/
  | flush (item : Nat)
  /-- the completion entry of an item -/
  | entry (item : Nat)
  /-- the tail word of a completion ring, and whether the interrupt follows (R254) -/
  | tail (part cq : Nat) (intr : Bool)
  /-- a zero-length read ahead of the tail word of a completion ring (R252) -/
  | tailFlush (part cq : Nat)
  /-- a zero-length read ahead of the interrupt of a completion ring (R252, R585) -/
  | irqFlush (part cq : Nat)
  /-- a fetch of `n` descriptors of a ring from HEAD -/
  | fetch (part ring n : Nat)
  /-- a table line of a walk -/
  | walk (w : Nat)
  /-- a line of the translation mirror, read from the depot for a walk (R79, R107) -/
  | mirror (w level : Nat)
  /-- a read of a BAR4 window access, at an offset of it -/
  | winRead (acc off : Nat)
  /-- a write of a BAR4 window access -/
  | winWrite (acc off : Nat)
  /-- the placement of a received packet -/
  | rxWrite (ctx off len : Nat)
  /-- the read of a received combine's destination operand -/
  | rxOperand (ctx off : Nat)
  /-- the read that answers a READ_REQ -/
  | rxRead (ctx off : Nat)
  /-- a receive fence of a card (R407) -/
  | rfence (card : Nat)
  /-- a zero-length read ahead of the receive fence of a card (R252, R407) -/
  | rfenceFlush (card : Nat)
  /-- an ATS Translation Request of an access (R116) -/
  | ats (acc : Nat)
  /-- trace records of a tile's buffer for the sink of a partition: how many (R661) -/
  | sink (tile part n : Nat)
  /-- a write that nothing waits for: a hot-page record -/
  | free
  deriving DecidableEq, Repr

/-- An outstanding exchange: its place, the partition and function on whose behalf it runs, its length, the bytes it
writes (none for a read), the virtual range it serves in its address space, and what it is for. -/
structure Txn where
  place : Place
  part : Nat
  fn : Nat
  len : Nat
  data : Option (List (BitVec 8))
  asn : Nat
  va : Nat
  use : Use
  deriving DecidableEq, Repr

/-- One translated piece of a range: the offset and length in the range and the place of its first byte. Where the page
that resolved it is counted (R144), `page` holds the size of the page and the global target of the first byte. -/
structure Span where
  off : Nat
  len : Nat
  place : Place
  page : Option (Nat × Nat)
  deriving DecidableEq, Repr

/-- A translation failure (R156): the cause code and the virtual address at which it failed. -/
structure TuFault where
  cause : Nat
  va : Nat
  deriving DecidableEq, Repr

/-- A range of an item or window access under translation: `upTo` bytes are resolved, `spans` in ascending order. -/
structure Rng where
  va : Nat
  len : Nat
  kind : Kind
  spans : List Span
  upTo : Nat
  bad : Option TuFault
  deriving DecidableEq, Repr

/-- The attributes of an outbound host request (R447): Relaxed Ordering, ID-Based Ordering, whether its address is translated by ATS, and
the PASID prefix with its Privileged Mode bit (R449). -/
structure Attr where
  ro : Bool
  ido : Bool
  translated : Bool
  pasid : Option (Nat × Bool)
  deriving DecidableEq, Repr

/-- How a host request is answered (R434, R442). -/
inductive Cpl where
  | ur
  | ca
  | retry
  | data (bytes : List (BitVec 8)) (ep : Bool)
  deriving DecidableEq, Repr

/-- The SPDM responses (R647-R650). A nonce is the words that the DRBG gave, a signature covers the response (R647), and an
error carries its ErrorCode. `session` numbers are the management core's. -/
inductive SpdmRsp where
  | version
  | capabilities
  | algorithms
  | digests (slot0 : BitVec 384)
  | certificate (chain : List (BitVec 8))
  | challengeAuth (nonce : List (BitVec 32)) (sig : BitVec 768)
  | measurements (blocks : List (Nat × List (BitVec 8))) (signed : Option (List (BitVec 32) × BitVec 768))
  | keyExchange (session : Nat) (nonce : List (BitVec 32)) (sig : BitVec 768)
  | finish (session : Nat)
  | heartbeatAck (session : Nat)
  | keyUpdateAck (session : Nat)
  | endSessionAck (session : Nat)
  | error (code : Nat)
  deriving DecidableEq, Repr

/-- What leaves the block at its boundary: every message to a neighbour, and every answer to a register or configuration
read. -/
inductive Msg where
  /-- the value that a register read returns, to the bank that read it -/
  | regData (bank off : Nat) (val : BitVec 64)
  /-- a read of a compute die or of a partition's depot area, under an exchange number -/
  | memRead (p : Place) (part len txn : Nat)
  /-- a read of a translation-mirror line in the depot: partition, address space, level and index (R111) -/
  | mirrorRead (part asn level idx txn : Nat)
  /-- a write to a compute die or a partition's depot area; `poison` is the die-to-die poison mark (R259) -/
  | memWrite (p : Place) (part : Nat) (data : List (BitVec 8)) (poison : Bool) (txn : Nat)
  /-- a memory read on a host port; length 0 is the zero-length read of R252; `coherent` goes over CXL.cache -/
  | hostRead (fn bus len : Nat) (attr : Attr) (coherent : Bool) (txn : Nat)
  /-- a posted write on a host port -/
  | hostWrite (fn bus : Nat) (data : List (BitVec 8)) (attr : Attr)
  /-- an MSI-X message of a function's vector -/
  | msix (fn vec : Nat) (addr : BitVec 64) (data : Nat) (pasid : Option (Nat × Bool))
  /-- an interrupt to the management core or to compute dies: the target code of R577 -/
  | irq (target : Nat)
  /-- a PCIe error message of a port: 0 ERR_COR, 1 ERR_NONFATAL, 2 ERR_FATAL -/
  | pcieError (port sev : Nat)
  /-- an ATS Translation Request, a Page Request and an Invalidate Completion -/
  | atsRequest (fn bus len : Nat) (pasid : Option (Nat × Bool)) (txn : Nat)
  | pageRequest (fn bus : Nat) (read write last : Bool) (prg : Nat) (pasid : Option (Nat × Bool))
  | invalidateCompletion (fn itag : Nat)
  /-- a frame on a fabric port with its bytes from the destination MAC to the FCS (R323), a replay control frame (LLR_ACK or LLR_NAK) with
  its number and its bytes (R368), a PTP frame with its bytes, of which an event message gives its timestamp to the firmware (R383), and a
  PTP or QP 0 message that a port hands to the time-of-day unit or the management core, with its timestamp -/
  | frame (f : Frame) (wire : List (BitVec 8))
  | llr (port : Nat) (nak : Bool) (seq : Nat) (wire : List (BitVec 8))
  | ptpFrame (port : Nat) (kind : PtpKind) (wire : List (BitVec 8)) (time : Option Nat)
  | ptp (port : Nat) (kind : PtpKind) (payload : List (BitVec 8)) (time : Option Nat)
  | qp0 (port node : Nat) (payload : List (BitVec 8))
  /-- the power messages to compute dies: BALLAST in units of 0.25 W (R716) -/
  | ballast (die power : Nat)
  /-- a dictionary response over a binding, in the session that carried the request (R638) -/
  | dict (bnd : Binding) (session : Option Nat) (op seq idx sub status : Nat) (value : List (BitVec 8))
  /-- an SPDM response over a binding -/
  | spdm (bnd : Binding) (rsp : SpdmRsp)
  /-- a completion on a host port, for a configuration or BAR4 request -/
  | completion (fn : Nat) (c : Cpl)
  /-- an LTR message of a port: the tolerance in ns that it reports (R463) -/
  | ltr (port ns : Nat)
  deriving DecidableEq, Repr

/-! ### Submission: rings, completion rings, items -/

/-- The ring states of R207; a completion ring uses FREE, ACTIVE and DRAINING. -/
inductive RingState where
  | free | created | active | paused | halted | stopped | draining
  deriving DecidableEq, Repr

/-- An entry of a fence shadow (R196); the list that holds it is in least-recently-used order, oldest first. -/
structure Shadow where
  addr : Nat
  good : Nat
  broken : Bool
  deriving DecidableEq, Repr

/-- The directions of R250. -/
inductive Dir where
  | host | compute | depot | fabric
  deriving DecidableEq, Repr

/-- A submission ring (R173-R174, R195-R196, R207-R212). `owner` is a function number; `fetching` is the exchange of
the fetch in progress; `hostWrites` are the requesters whose host-port data writes a later fence must be placed behind
(R252); `teardown` are the banks whose SQ_TEARDOWN runs; `aborted` counts the items it ended; `bound` says that SQ_BIND has
given the ring its completion ring. -/
structure Ring where
  state : RingState
  haltCause : Nat
  base : Nat
  size : Nat
  head : Nat
  tail : Nat
  cq : Nat
  asn : Nat
  owner : Nat
  host : Bool
  resident : Bool
  fetching : Option Nat
  discardFetch : Bool
  shadow : List Shadow
  marks : List Dir
  hostWrites : List Nat
  teardown : List Nat
  expired : Bool
  aborted : Nat
  bound : Bool
  used : Nat
  deriving DecidableEq, Repr

/-- A completion ring (R187-R189). `tail` is the position after the last entry that is written; `issued` are the entries behind
it that await their acknowledgements, in the order of their slots: the item, its INTR flag, and whether the entry is
acknowledged. `owed` are the tail words still to be written, with their interrupts: 0 behind a zero-length read that is still to be
made, 1 behind one that is outstanding, 2 ready. `parked` are the items whose records wait for room, in the order in which they ended; `orphan` holds the strand
reason that a handover or bivouac gave it (R505, R515). -/
structure Cq where
  state : RingState
  base : Nat
  size : Nat
  tailWord : Nat
  irq : Nat
  owner : Nat
  head : Nat
  tail : Nat
  orphan : Nat
  resident : Bool
  issued : List (Nat × Bool × Bool)
  owed : List (Bool × Nat × Nat)
  parked : List Nat
  used : Nat
  deriving DecidableEq, Repr

/-- Where an item stands (R227). `waiting`: accepted and not begun (R233). `active`: it translates, reads and writes.
`draining`: it issues nothing more for its data and its writes run to their ends (R262). `fence`: its fence waits for
what it covers, is written, or is behind a zero-length read. `record`: its completion record waits to be issued.
`written`: the entry has been issued and awaits its acknowledgement. `parked`: R189. -/
inductive Stage where
  | waiting | active | draining | fence | fenceWrite | record | written | parked
  deriving DecidableEq, Repr

/-- An item in flight (R227-R240). `status` and `aux` become the completion entry's; `rd`, `cons` and `dpos` are how
far the source has been requested, consumed and written; `pieces` are staged bytes by source offset, `buf` those
consumed but not yet a whole unit; `comb` are destination blocks whose operand is awaited; `durable` are the
destination ranges known durable (or acknowledged); `hostWrites` the requesters of its host-port data writes. While it is
speculative, `events` and `hits` are its events and counts (tile, code, number) so far, and `made` the arithmetic events of a
digest. `fenced` says that its fence is written, `cqLost` that a reset of a compute die took its completion ring (R265). -/
structure Item where
  part : Nat
  ring : Nat
  fn : Nat
  desc : List (BitVec 64)
  tile : Nat
  engine : Nat
  stage : Stage
  begun : Bool
  committed : Bool
  passed : Bool
  slot : Bool
  status : Nat
  aux : Nat
  digest : Nat
  src : Rng
  dst : Rng
  fen : Rng
  acc : Option Nat
  stopped : Bool
  hold : Option Nat
  rd : Nat
  cons : Nat
  dpos : Nat
  pieces : List (Nat × List (BitVec 8))
  wrote : List (Nat × List (BitVec 8))
  ops : List (Nat × List (BitVec 8))
  comb : List (Nat × List (BitVec 8))
  durable : List (Nat × Nat)
  poisonAt : Option (Nat × Nat)
  opBad : Option (Nat × Nat)
  hostWrites : List Nat
  flushes : Nat
  seed : Option Nat
  released : Bool
  granted : Bool
  round : Nat
  late : Bool
  absmax : Nat
  fenceBroken : Bool
  fencePrior : Option Nat
  fenceWord : Nat
  fenced : Bool
  cqLost : Bool
  entered : Bool
  bytesDone : Option Nat
  retry : Bool
  accepted : Nat
  events : List (Nat × Nat)
  counts : List (Nat × Nat)
  hits : List (Nat × Nat × Nat)
  made : Nat × Nat × Nat
  prefetched : Nat
  walkMiss : Bool
  final : Nat
  deriving DecidableEq, Repr

/-- A stranded completion entry (R269), as its eight quadwords. -/
abbrev Strand := List (BitVec 64)

/-- The submission unit: rings and completion rings by 4,096 × partition + number, the loads of contexts in progress
and the doorbells that wait for them (R212, R728), with the agents that wrote them, in arrival order. -/
structure Sq where
  rings : Tbl Ring
  cqs : Tbl Cq
  loads : List (Bool × Nat)
  waiting : List (Bool × Nat × Nat × Agent)
  deriving DecidableEq, Repr

/-- The haul engines: items by id (the order of acceptance), the stranded logs by function number (oldest entry
first), the deficits of the partition arbiters (R244) by 16 × arbiter + partition and the partition that each last served
(arbiter `t` is the fabric transmit queue of tile `t`, and 12 + `t` its staging pool), and the 64 B blocks that a combine holds
between its operand read and its write (R289), as partition, place and owner. -/
structure He where
  items : Tbl Item
  nextItem : Nat
  logs : Tbl (List Strand)
  deficit : Tbl Nat
  lastServed : Tbl Nat
  blocks : List (Nat × Place × Nat)
  deriving DecidableEq, Repr

/-! ### Translation -/

/-- A segment as it acts (R63, R90-R94). -/
structure Seg where
  vbase : Nat
  len : Nat
  striped : Bool
  target : Nat
  nodes : Nat
  localBase : Nat
  log2 : Nat
  list : List Nat
  rights : Nat
  deriving DecidableEq, Repr

/-- A TLB entry of a tile (R104): the range it maps, the global target of its first byte, its rights (bit 1 read, bit 2
write, bit 3 combine), its COUNT bit and page size, the walk and tile it was prefetched for while unused (R139), the
engines of the tile whose first-level TLB holds it, and the entry of the ATS cache, by requester, PASID and address, that a
prefetched entry took its translated address from (R141). -/
structure Tlb where
  tile : Nat
  part : Nat
  asn : Nat
  va : Nat
  size : Nat
  target : Nat
  rights : Nat
  count : Bool
  page : Nat
  spec : Option (Nat × Nat × Nat)
  first : List Nat
  link : Option (Nat × Option Nat × Nat)
  deriving DecidableEq, Repr

/-- A line of the translation mirror (R111): eight entries of one table level, tagged by its virtual index. -/
structure Mirror where
  part : Nat
  asn : Nat
  level : Nat
  idx : Nat
  line : List (BitVec 64)
  deriving DecidableEq, Repr

/-- An entry of a tile's walk cache (R106): a valid table entry above level 0, by its level and virtual index. -/
structure WalkEnt where
  tile : Nat
  part : Nat
  asn : Nat
  level : Nat
  idx : Nat
  next : Nat
  deriving DecidableEq, Repr

/-- A table walk in progress (R107): `walkOf` is the tile walk it prefetches for; `reread` marks the second read of an
invalid entry. -/
structure Walk where
  tile : Nat
  part : Nat
  asn : Nat
  fn : Nat
  va : Nat
  walkOf : Option (Nat × Nat × Nat)
  level : Nat
  table : Nat
  reread : Bool
  stale : Bool
  deriving DecidableEq, Repr

/-- What an access that cannot proceed waits for. `slot`: a translation slot (R82, R85). `seg`: a pending segment
(R97). `walk`: a table walk. `held`: a held leaf (R153). `ats`, `prg`: the host (R117-R119). `done`: resolved by an ATS
answer that is not cached. `bad`: failed. `again`: what it waited for has come, and it looks up again. `walker`: a walker
of its tile (R106). `stopped`: a speculative lookup that may not go on; it is made again once the item is held no more
(R234). -/
inductive Wait where
  | slot
  | seg
  | walk (w : Nat)
  | held
  | ats (addr len : Nat)
  | prg (addr len prg : Nat)
  | prgQueue (addr len : Nat)
  | done (sp : Span)
  | bad (f : TuFault)
  | again
  | walker
  | stopped
  deriving DecidableEq, Repr

/-- Whose access it is: a range of an item (0 source, 1 destination, 2 fence) or a window access. -/
inductive Owner where
  | item (i which : Nat)
  | win (w : Nat)
  deriving DecidableEq, Repr

/-- An access that waits in the translate stage. `tries` counts Success responses to its Page Requests (R119);
`span` is what it resolved to before the ATS step. -/
structure Access where
  owner : Owner
  part : Nat
  asn : Nat
  va : Nat
  len : Nat
  kind : Kind
  fn : Nat
  tile : Nat
  tries : Nat
  span : Span
  wait : Wait
  deriving DecidableEq, Repr

/-- A declared tile walk (R133-R138): tile `j` begins at `base + j * stride`; tiles below `next` are consumed; `ahead`
is the next tile to prefetch and `pos` the offset in it. -/
structure TileWalk where
  part : Nat
  asn : Nat
  tile : Nat
  fn : Nat
  base : Nat
  size : Nat
  stride : Int
  count : Nat
  depth : Nat
  next : Nat
  ahead : Nat
  pos : Nat
  used : Nat
  deriving DecidableEq, Repr

/-- An access counter (R144-R146): the page, the counts each tile has not yet merged, the merged count and the flag. -/
structure Counter where
  part : Nat
  asn : Nat
  va : Nat
  page : Nat
  target : Nat
  tiles : List Nat
  merged : Nat
  flagged : Bool
  deriving DecidableEq, Repr

/-- What an invalidation covers (R124): a range of an address space, an address space or a partition. -/
inductive Scope where
  | range (asn va len : Nat)
  | space (asn : Nat)
  | partition
  deriving DecidableEq, Repr

/-- An invalidation that has not completed: its function (none for one that Flovel makes itself), the segment commit or
removal that waits for it, if any (R95), and what used an entry that it removed (R129): exchanges, packets (QP and PSN), and
the destination pieces of local combines that were being made (item, offset and length). -/
structure Inval where
  fn : Option Nat
  part : Nat
  scope : Scope
  seg : Option Nat
  complete : Bool
  txns : List Nat
  packets : List (Nat × Nat)
  pieces : List (Nat × Nat × Nat)
  deriving DecidableEq, Repr

/-- An entry of a port's ATS cache (R115-R117), by requester and PASID. -/
structure AtsEntry where
  fn : Nat
  pasid : Option Nat
  addr : Nat
  len : Nat
  target : Nat
  read : Bool
  write : Bool
  deriving DecidableEq, Repr

/-- An ATS Invalidate Request that has not been answered (R120), with the exchanges that must drain first, and the destination pieces
of local combines that must be written first (item and offset). -/
structure AtsInval where
  fn : Nat
  itag : Nat
  txns : List Nat
  pieces : List (Nat × Nat)
  deriving DecidableEq, Repr

/-- The translation unit: translation slots (64, oldest use first for eviction), the active segments by
16 × (4,096 × partition + address space) + segment, and the caches, walks and waiting accesses. `prgs` are the page request
groups that are outstanding, by 512 × function + index, with the access that each serves; `nextPrg` is the index tried next. -/
structure Tu where
  slots : List (Nat × Nat × Nat)
  loading : List (Nat × Nat)
  segs : Tbl Seg
  tlb : List Tlb
  mirror : List Mirror
  wcache : List WalkEnt
  walks : Tbl Walk
  nextWalk : Nat
  accs : Tbl Access
  nextAcc : Nat
  tileWalks : Tbl TileWalk
  counters : List Counter
  invals : Tbl Inval
  nextInval : Nat
  ats : List AtsEntry
  atsInvals : List AtsInval
  prgs : Tbl (Nat × Nat)
  nextPrg : Nat
  priFailed : List Nat
  deriving DecidableEq, Repr

/-! ### Host ports -/

/-- A BAR4 access in progress (R440-R446), under the snapshot of its window taken on arrival. `got` are the bytes that
have arrived, by offset; `done` the offsets and lengths written durably; `after` are the earlier writes of the function
that a read must wait for (R445);
`poison` is the offset from which the data read is poisoned; `old` says that the window's setting has changed since
(R439). -/
structure WinAcc where
  fn : Nat
  win : Nat
  read : Bool
  off : Nat
  len : Nat
  va : Nat
  part : Nat
  asn : Nat
  qp : Nat
  rights : Nat
  data : List (BitVec 8)
  rng : Rng
  acc : Option Nat
  issued : Nat
  got : List (Nat × List (BitVec 8))
  done : List (Nat × Nat)
  poison : Option Nat
  after : List Nat
  answered : Bool
  old : Bool
  deriving DecidableEq, Repr

/-- An effective window (R437-R439): the values that the last write of HP_WIN_CTL put into effect. -/
structure Window where
  base : Nat
  len : Nat
  ctl : BitVec 64
  deriving DecidableEq, Repr

/-- A request to a BAR that waits in a port's receive queue (R446): a register write, a register read, an access that breaks R14, a
doorbell, a read of BAR2, and an access of BAR4, a write where it has data. -/
inductive Posted where
  | write (w : Agent) (reg : Option (Reg × Nat)) (half : Half) (val : BitVec 64) (storeOk : Bool)
  | read (w : Agent) (reg : Option (Reg × Nat)) (off : Nat) (half : Half)
  | bad (w : Agent) (off : Nat) (read : Bool)
  | bar2 (w : Agent) (slot : Nat) (size : DbSize) (val : BitVec 64)
  | bar2Read (w : Agent) (half : Half)
  | bar4 (fn off len : Nat) (data : Option (List (BitVec 8)))
  deriving DecidableEq, Repr

/-- The host ports: configuration space by 1,024 × function number + doubleword, the functions whose FLR_ACTIVE is 1
and those in the legacy form, the effective windows by 64 × function number + window, the BAR4 accesses in progress by
arrival, the TDISP states, the Insecure IDE streams (8 × port + stream), and the ports that answer configuration
requests with Request Retry Status; `ltr` are the ports whose last LTR message reported work (R463), and `trained` the width to which each
port's link trained (R464). `doe` holds, by port, the doublewords of an object that the host writes into its DOE mailbox, and those of the
answer that it has not read (R433); `queue` are the requests that wait at each port behind a full landing buffer (R446). -/
structure Hp where
  cfg : Tbl (BitVec 32)
  flr : List Nat
  windows : Tbl Window
  wins : Tbl WinAcc
  nextWin : Nat
  tdi : Tbl Nat
  insecure : List Nat
  retry : List Nat
  perst : List Nat
  ltr : List Nat
  trained : Tbl Nat
  doe : Tbl (List (BitVec 32) × List (BitVec 32))
  queue : Tbl (List Posted)
  deriving DecidableEq, Repr

/-! ### Partitions -/

/-- The commands of R496. -/
inductive PtOp where
  | bind | rebind | park | adopt | reset | release | recompose
  deriving DecidableEq, Repr

/-- A partition command in progress: the bank it was issued from (none for what loss of host or an expired hold starts).
`vfs` and `req` are the staged binding and `carve` the staged carve-outs; `ended` and `stranded` are the counts of PT_CMD_STATUS;
`masks` the partitions of a RECOMPOSE with the state each returns to; `leaving` the functions that leave the binding; `gone` the
partitions that have lost their host meanwhile (R480). -/
structure PtCmd where
  op : PtOp
  bank : Option Nat
  scrub : Bool
  vfs : List Nat
  req : List (Option Nat)
  carve : List (Nat × Nat × Nat)
  ended : Nat
  stranded : Nat
  masks : List (Nat × Nat)
  leaving : List Nat
  gone : List Nat
  deriving DecidableEq, Repr

/-- The partitions beyond their registers: the commands in progress by partition (a RECOMPOSE under its lowest
partition), the BASE and LIMIT of each grant as its last PT_GRANT_CTL write put them into effect (R74), the functions of the
binding that a partition in BIVOUAC had, and when it entered. -/
structure Pt where
  cmds : Tbl PtCmd
  grants : Tbl (Nat × Nat)
  lost : Tbl (List Nat)
  since : Tbl Nat
  deriving DecidableEq, Repr

/-! ### Trace and counters -/

/-- A trace record that waits in a tile buffer (R658-R660): its partition and its four quadwords. -/
structure TraceRec where
  part : Nat
  words : List (BitVec 64)
  deriving DecidableEq, Repr

end Sys2Proof.Machine
end

