-- ==== Sys2Proof/Machine/TypesFt.lean ====
section
/-!
DEFINITION. The records of the fabric transport, of the pitch sequencer with its order keepers, and of the ramp
governor.
-/
namespace Sys2Proof.Machine

open Sys2Proof

/-! ### Fabric transport -/

/-- Whose packet it is: an item's, a window access's, or of an owner that has ended. -/
inductive Sender where
  | item (i : Nat)
  | win (w : Nat)
  | dead
  deriving DecidableEq, Repr

/-- A sequenced packet that has been sent and is not yet both received and durable (R342-R349). `off` and `len` are the
destination bytes it serves in its owner's range (source bytes for a READ_REQ); `body` and `tag` are as transmitted;
`epoch` is the number of the epoch under which it was last sent (R357); `lossPitch` is the pitch in which the loss of a
roped packet was detected (R421), `touts` counts its consecutive timeouts (R347), and `lostAt` is when its loss was detected, for the
loss order of R421. -/
structure Sent where
  psn : Nat
  hdr : Hdr
  body : List (BitVec 8)
  tag : List (BitVec 8)
  owner : Sender
  off : Nat
  len : Nat
  roped : Bool
  firstAt : Nat
  lastAt : Nat
  tries : Nat
  fastAt : Option Nat
  lossPitch : Option Nat
  resend : Bool
  rcvd : Bool
  epoch : Nat
  touts : Nat
  lostAt : Nat
  deriving DecidableEq, Repr

/-- A READ_REQ whose data has not all arrived (R350): the offset of its first byte in the owner's range, its length,
and the offsets and lengths that have arrived or are asked for by a later request. `firstAt` is when the range was first asked for;
`again` says that what is missing is to be asked for again. -/
structure Rreq where
  psn : Nat
  owner : Sender
  off : Nat
  len : Nat
  firstAt : Nat
  ackedAt : Option Nat
  got : List (Nat × Nat)
  again : Bool
  deriving DecidableEq, Repr

/-- A message that awaits APPLIED (R346): its owner, its length, the bytes applied so far, when its last packet was
acknowledged as received, and its PSNs, by which a NAK of a packet that is acknowledged already finds it (R731). -/
structure Await where
  msn : Nat
  owner : Sender
  len : Nat
  applied : Nat
  rcvdAt : Option Nat
  psns : List Nat
  deriving DecidableEq, Repr

/-- An applied tracker (R338, R345): the bytes applied of a message, its length once known, and where a digest is asked
for the address and bytes that each packet wrote; `rp` says that the message is card-bound (R318), `full` that all of it is applied. -/
structure Tracker where
  msn : Nat
  bytes : Nat
  digest : Bool
  wrote : List (Nat × List (BitVec 8))
  rp : Bool
  full : Bool
  deriving DecidableEq, Repr

/-- What a QP sends once its context is resident again (R338): a packet that is not sequenced, with its body and the label and epoch bit
that it would take, and a PROBE of a label of its set. -/
inductive QpDue where
  | control (h : Hdr) (body : List (BitVec 8)) (l e : Nat)
  | probe (set l : Nat)
  deriving DecidableEq, Repr

/-- A queue pair (R332-R338). `rx` are the PSNs received beyond CUM, `undur` the PSNs received and not yet durable;
`sinceAck` counts the arrivals since the last ACK, `ackBytesCe` those bytes with CE, and `ackRp` says that one of them is
card-bound (R318); `ctl` is the control counter of
R372 and `ctlRx` the lowest one not yet seen from the peer; `lastPath` is the label and epoch bit of the last arrival
(R356); `lastPsns` are the PSNs of packets with LAST that DUR has not passed, with whether they are card-bound (R345, R318); `leftAt` is
when the last sequenced packet left (R364); `dues` is what waits for the context to be resident; `skips` are the SKIP runs that no ACK covers yet;
`curMsn` is the message being sent by an owner; `cc` is FT_CC as the current
round of congestion control began (R366); `destroy` is the bank of a QP_DESTROY in progress; `probes` are the
messages for which an APPLIED answer is due. -/
structure Qp where
  state : Nat
  part : Nat
  peerNode : Nat
  peerQp : Nat
  enc : Bool
  clearOk : Bool
  pathSet : Nat
  resident : Bool
  loading : Bool
  used : Nat
  nextPsn : Nat
  una : Nat
  cumNext : Nat
  dur : Nat
  nextMsn : Nat
  expMsn : Nat
  cwnd : Nat
  alpha : Nat
  rr : Nat
  srtt : Nat
  rttvar : Nat
  base : Option Nat
  baseAt : Nat
  roundStart : Nat
  acked : Nat
  marked : Nat
  loss : Bool
  leftAt : Option Nat
  keySlot : Nat
  keySent : Nat
  ctl : Nat
  ctlRx : Nat
  lastPath : Nat × Nat
  cause : Nat
  causePsn : Nat
  sentCount : Nat
  resentCount : Nat
  rcvdCount : Nat
  dupCount : Nat
  bytesSent : Nat
  bytesRcvd : Nat
  bytesCe : Nat
  rx : List Nat
  undur : List Nat
  lastPsns : List (Nat × Bool)
  trackers : List Tracker
  sinceAck : Nat
  ackBytesCe : Nat
  ackRp : Bool
  gapAckAt : Nat
  sent : List Sent
  reads : List Rreq
  awaits : List Await
  skips : List (Nat × Nat)
  curMsn : List (Sender × Nat × Nat)
  destroy : Option Nat
  dues : List QpDue
  cc : BitVec 64
  deriving DecidableEq, Repr

/-- What a receive context does (R242): it waits for the QP's context, waits in a cipher half for a check slot (R615), places a
packet, or reads for a READ_REQ. -/
inductive RxStage where
  | load
  | check
  | place
  | read
  deriving DecidableEq, Repr

/-- A receive context (R319): the partition of its QP, the packet, the pool it is taken from (the class's reserve or the shared pool), the parts
of its destination as offset in the payload's destination bytes, length and place, what has arrived of the operand or
of the data read, and what has been written. `card` is the
round (generation, card, number) of a card-bound packet, `grant` the grant that admitted it (R72), and `step` how far it
is: 0 not begun, 1 its operand is read, 2 its writes are issued. While an answer to a READ_REQ is sent, `done` says how far. -/
structure Rx where
  qp : Nat
  part : Nat
  tile : Nat
  shared : Bool
  stage : RxStage
  frame : Frame
  parts : List (Nat × Nat × Place)
  operand : List (Nat × List (BitVec 8))
  out : List (BitVec 8)
  done : List (Nat × Nat)
  bad : Option Nat
  poison : Option Nat
  card : Option (Nat × Nat × Nat)
  grant : Option Nat
  step : Nat
  deriving DecidableEq, Repr

/-- A PTP frame that the management core sends (R383). -/
structure PtpOut where
  port : Nat
  kind : PtpKind
  dstNode : Nat
  payload : List (BitVec 8)
  shim : Option Nat
  deriving DecidableEq, Repr

/-- A frame on its way out of a port: a packet or a PTP frame. -/
inductive LinkFrame where
  | packet (f : Frame)
  | ptp (f : PtpOut)
  deriving DecidableEq, Repr

/-- A fabric port (R375-R378) with its link-level replay (R367-R370). `state` is the MODE that FT_PORT_STATUS reports
(1 native, 2 compatibility, 3 training, 4 down); `upAt` is when it last came up; `held` says that its labels wait for
LINK_HOLD since it went down; `tx` is the next replay number, `buf` the frames not yet covered by an LLR_ACK, `wait` those that wait for
room; `rxNext` is the next number expected, `rxUnacked` the frames accepted since the last LLR_ACK, `rxSkip` is set
while frames are discarded until `rxNext` comes; `nak` counts the LLR_NAKs for one number. -/
structure Port where
  state : Nat
  upAt : Nat
  held : Bool
  tx : Nat
  buf : List (Nat × LinkFrame)
  wait : List LinkFrame
  rxNext : Nat
  rxUnacked : Nat
  rxSkip : Bool
  nak : Nat × Nat
  deriving DecidableEq, Repr

/-- The state of a label (R354), common to both epochs; UP with no loss is the default. `cooledTo` is when the COOLDOWN since its last mark
ends. -/
structure Label where
  down : Bool
  losses : Nat
  cooledTo : Option Nat
  deriving DecidableEq, Repr

/-- The fabric transport: QPs by number (those created), ports, labels by 64 × set + label, receive contexts, the
snapshot of FT_QP_CTX by bank, and the packets of a port that went down for which no other label was usable (R376). The number of packets
in each epoch is kept with the packets. -/
structure Ft where
  qps : Tbl Qp
  ports : Tbl Port
  labels : Tbl Label
  rx : Tbl Rx
  nextRx : Nat
  snap : Tbl (List (BitVec 64))
  strays : List Frame
  deriving DecidableEq, Repr

/-! ### The pitch sequencer and the order keepers -/

/-- A card (R398). -/
structure Card where
  valid : Bool
  send : Bool
  recv : Bool
  rfence : Bool
  part : Nat
  pitch : Nat
  offset : Nat
  myRank : Nat
  contrib : Nat
  sendItems : Nat
  book : Nat
  listAt : Nat
  dstBase : Nat
  dstLen : Nat
  dep0 : Nat
  dep1 : Nat
  first : Nat
  alt : Nat
  rfAddr : Nat
  deriving DecidableEq, Repr

/-- A schedule (R391-R399): lengths in ns, its instant O, its cards by index and their expanded lists. -/
structure Sched where
  origin : Nat
  len : Nat
  guard : Nat
  roped : Nat
  free : Nat
  rep : Bool
  abandon : Nat
  cycle : Nat
  cards : Tbl Card
  lists : Tbl (List Nat)
  deriving DecidableEq, Repr

/-- A packet held in an early-arrival buffer (R305), with its QP and partition, and the parts of its destination and the grant under which it was
admitted as it came (R69, R72). -/
structure Held where
  qp : Nat
  part : Nat
  rank : Nat
  frame : Frame
  parts : List (Nat × Nat × Place)
  grant : Option Nat
  deriving DecidableEq, Repr

/-- A round (R401-R423). `gen` is the generation of the schedule it belongs to and `k` its number; `due` says that the
governor's meter admits it (R717), `released` when it released; `items` are those that joined it and `live` those of them
that have not ended; `deadline` is the domain time after which a record of it is late (R410); `done` the bytes (block, rank, bytes) each rank has applied in each order block; `placed` the ranges
that card-bound WRITE packets filled; `held` the early arrivals; `inOrder` is R308's mode; `broken` marks a packet that
failed under R731. -/
structure Round where
  gen : Nat
  card : Nat
  k : Nat
  due : Bool
  deadline : Nat
  released : Option Nat
  items : List Nat
  live : List Nat
  done : List (Nat × Nat × Nat)
  placed : List (Nat × Nat)
  held : List Held
  combine : Bool
  inOrder : Bool
  complete : Bool
  settled : Bool
  abandoned : Bool
  late : Bool
  broken : Bool
  deriving DecidableEq, Repr

/-- A receive fence to be written (R407): its partition, card, word and address, and the zero-length read that goes before it (R252). -/
structure RfDue where
  part : Nat
  card : Nat
  word : Nat
  addr : Nat
  after : Option Nat
  deriving DecidableEq, Repr

/-- The pitch sequencer: the active schedule, the one before it while its rounds retire, the one that was checked and
waits for its instant, whether a check runs, the rounds, the next round number of each card, the last good receive
fence values and broken marks by card, and the pitch clock of R420: the pitch number, its start, its lag, the end of its
roped phase, the phase, and the resend time of the slack phase. `credits` holds the credits received (card, node,
block), `inOrder` the cards and nodes whose receiver runs in order; `misses` counts the sync intervals without a Sync; `relock` says that
releases wait for the next roped phase (R386); `rfDue` are the receive fences that wait (R289, R407). -/
structure Ps where
  sched : Option Sched
  old : Option Sched
  staged : Option Sched
  checking : Bool
  rounds : List Round
  nextK : Tbl Nat
  good : Tbl (Nat × Bool)
  n : Nat
  start : Nat
  lag : Nat
  ropedEnd : Option Nat
  ext : Bool
  phase : Nat
  slackLen : Nat
  credits : List (Nat × Nat × Nat)
  inOrder : List (Nat × Nat)
  misses : Nat
  rfDue : List RfDue
  relock : Bool
  deriving DecidableEq, Repr

/-! ### The governor -/

/-- The ramp governor between ticks (R717), in microwatts: the roped reserve, the load of the last tick, the other load
of the last tick, the released roped power, the block power last measured, the free data committed since the tick (in
bytes) and its power at the tick before, the shares last asked of the dies, each die's report in units of 0.25 W (work,
most ballast) and when it came, the dies whose reports are missing, and the rise that the last tick allows. -/
structure Gov where
  reserve : Nat
  load : Nat
  nat : Nat
  natDie : Nat
  fRel : Nat
  blk : Nat
  freeBytes : Nat
  freePrev : Nat
  tickAt : Nat
  share : Tbl Nat
  reports : Tbl (Nat × Nat × Nat)
  missing : List Nat
  up : Nat
  deriving DecidableEq, Repr

/-! ### Clocks (R697-R714) -/

/-- What the clock registers do not hold: the thermal caps in MHz by tile (a tile that is not listed has F_MAX), the tiles
that are throttled, the depot channels in power-down, and whether a block reset waits for a hang dump (R708). -/
structure Ck where
  caps : Tbl Nat
  hot : List Nat
  down : List Nat
  resetting : Bool
  deriving DecidableEq, Repr

/-! ### Hang dumps and trace (R652-R696) -/

/-- A hang dump (R688-R693): the items and rings that were captured at the trigger with the accesses, QPs
and loads that say what they wait for, and the quadwords of the slot once they are written. -/
structure Dump where
  slot : Nat
  reason : Nat
  gen : Nat
  start : Nat
  items : Tbl Item
  rings : Tbl Ring
  accs : Tbl Access
  qps : Tbl Qp
  gov : Gov
  ended : Nat
  body : Tbl (BitVec 64)
  deriving DecidableEq, Repr

/-- Trace: event rings by 16 × tile + engine (newest first, at most 128), the record captured for TC_EVT_DATA1 by bank,
tile buffers (oldest first), the records a tile has dropped since its last LOST record by 16 × tile + partition, and
the dump slots. -/
structure Tc where
  events : Tbl (List (BitVec 64 × BitVec 64))
  captured : Tbl (BitVec 64)
  bufs : Tbl (List TraceRec)
  dropped : Tbl Nat
  dumps : Tbl Dump
  dumping : Option Nat
  gens : Nat
  deriving DecidableEq, Repr

end Sys2Proof.Machine
end

