-- ==== Sys2Proof/Machine/TypesSys.lean ====
section
/-!
DEFINITION. The records of the cipher engines, of the entropy source, of the management core's dictionary and SPDM sessions,
and of context coherence.
-/
namespace Sys2Proof.Machine

open Sys2Proof

/-! ### Cipher engines (R595-R620) -/

/-- A transport key slot (R599, R602): its state code, its key, its next key with TX_PSN and RX_PSN, the generations
completed and the QP bound to it. Key bytes are a number with byte 0 lowest (R607). -/
structure KeySlot where
  state : Nat
  key : Nat
  next : Option (Nat × Nat × Nat)
  gen : Nat
  qp : Nat
  deriving DecidableEq, Repr

/-- A result that a half has computed and not yet released (R615): a packet of an item or window, a control packet, or a
received packet with the receive context that it holds (R319). -/
inductive Unchecked where
  | sent (owner : Sender) (qp psn : Nat) (f : Frame)
  | control (qp : Nat) (f : Frame) (body : List (BitVec 8))
  | recv (f : Frame) (ctx : Nat)
  deriving DecidableEq, Repr

/-- A half of a cipher engine, or an IDE pipeline: the mask sets that copies A and B hold (R613), whether its request
is queued, and the results that wait for a check slot, oldest first. -/
structure EngineHalf where
  setsA : Nat
  setsB : Nat
  asked : Bool
  outs : List Unchecked
  deriving DecidableEq, Repr

/-- The cipher engines: key slots (those that are not EMPTY or have completed a generation), halves of engines by
2 × tile + (1 for transmit), pipelines by 100 + 2 × port + (1 for transmit), and the IDE key slots by
64 × port + slot with the key set in use by 32 × port + 6 × stream + 2 × sub-stream + direction. `wrap` says that a
wrapping key has been drawn, as output number of the DRBG. -/
structure Ce where
  slots : Tbl KeySlot
  halves : Tbl EngineHalf
  ideKeys : Tbl (BitVec 256)
  ideSet : Tbl Nat
  wrap : Option Nat
  deriving DecidableEq, Repr

/-! ### The entropy source (R621-R629) -/

/-- An SPDM request whose response needs a fresh nonce or fresh key material (R650). -/
inductive SpdmAsk where
  | challenge (slot : Nat)
  | measurements (index : Nat)
  | keyExchange
  deriving DecidableEq, Repr

/-- A request in the consumer queue (R624): mask sets of a half, the seeds of a tile's pool, or words of the management core for
an SPDM response. -/
inductive EnReq where
  | mask (half : Nat)
  | seeds (tile : Nat)
  | mgmt (bnd : Binding) (ask : SpdmAsk)
  deriving DecidableEq, Repr

/-- The entropy source and the DRBG: the queue in order, the seed pools by tile, when the last retest passed, whether a
retest runs, and the generate requests since the last reseed; `asks` are requests of the management core beyond the eight that it may
have outstanding (R624). -/
structure En where
  queue : List EnReq
  seeds : Tbl (List (BitVec 32))
  passedAt : Option Nat
  sinceReseed : Nat
  reseeds : Nat
  asks : List (Binding × SpdmAsk)
  deriving DecidableEq, Repr

/-! ### The dictionary and SPDM (R630-R651) -/

/-- A secure session (R637, R649): its number and binding, whether FINISH has completed it, and what it last set of
KEY_SLOT, KEY and KEY_SWITCH. -/
structure Session where
  id : Nat
  bnd : Binding
  open_ : Bool
  keySlot : Nat
  key : Nat
  keySwitch : Nat
  deriving DecidableEq, Repr

/-- The management core: the live values that no register holds and the stored values, by 256 × index + subindex (an
entry not listed has its default), the sessions, and which SPDM steps a binding has made. -/
structure Md where
  live : Tbl Nat
  stored : Tbl Nat
  sessions : List Session
  nextSession : Nat
  deriving DecidableEq, Repr

/-! ### Context coherence (R529-R547) -/

/-- The requests of R534; an NCWrite may name a hint tile (R543). -/
inductive CcReq where
  | getS | getM | upgrade | putM | putO | putE | ncRead
  | ncWrite (hint : Option Nat)
  deriving DecidableEq, Repr

/-- The messages of the forward, response and data classes (R534). A forward carries the agent it is for; `fwdDone` says
whether the owner remains the owner, and whether it keeps a copy; `putAck` whether it is stale; `data` whether it grants exclusivity. -/
inductive CcMsg where
  | fwdGetS (agent : Nat)
  | fwdGetM (agent : Nat)
  | fwdRecall
  | inv
  | invAck
  | fwdDone (owner keeps : Bool)
  | nack
  | wbGrant
  | putAck (stale : Bool)
  | grant
  | data (excl : Bool)
  | wbData
  deriving DecidableEq, Repr

/-- The states of a line in a context cache, but for I (R531, R532). -/
inductive CcState where
  | m | o | e | s | isD | imD | smD | omA | miA | oiA | eiA
  deriving DecidableEq, Repr

/-- A line in a context cache. `accepted`: the home has taken its request; `data`, `grant`: which of the two that IM_D waits
for have come; `held`: forwards that wait for the data (R539); `retryAt`: when a request that was Nacked is issued
again (R542). -/
structure CcCopy where
  st : CcState
  accepted : Bool
  data : Bool
  grant : Bool
  held : List CcMsg
  retryAt : Option Nat
  deriving DecidableEq, Repr

/-- A request of a non-caching agent that has not ended. -/
structure CcNc where
  req : CcReq
  retryAt : Option Nat
  deriving DecidableEq, Repr

/-- An open transaction at the home (R533): the caches whose InvAck is awaited, and the owner whose FwdDone or WbData
is. -/
structure CcOpen where
  req : CcReq
  agent : Nat
  acks : List Nat
  fwd : Option Nat
  deriving DecidableEq, Repr

/-- A line at the home (R530, R533, R542). -/
structure CcLine where
  owner : Option Nat
  sharers : List Nat
  busy : Option CcOpen
  reserved : Option Nat
  poisoned : Bool
  deriving DecidableEq, Repr

/-- The coherence protocol: lines at their homes, copies and requests of non-caching agents by 16 × line + agent, the
Nacks that a request has received by the same key, and the messages in flight as line, cache or agent, and message. A line
is numbered 4 × object + kind, with the kinds of R556: the QP number, the ring and completion ring by 4,096 × partition +
number, and a mirror line by ((4,096 × partition + address space) × 8 + level) × 2^48 + its index. Agents 0 to 11 are the tiles, 12 the
register path, 13 the management core, 14 the recomposition and scrub engine, 15 the hang-dump engine (R529). What the
lines hold is the state of the objects themselves (DESIGN CHOICE, log entry 27). -/
structure Cc where
  lines : Tbl CcLine
  copies : Tbl CcCopy
  ncs : Tbl CcNc
  nacks : Tbl Nat
  msgs : List (Nat × Nat × CcMsg)
  waiting : List (Nat × Nat × CcReq)
  deriving DecidableEq, Repr

end Sys2Proof.Machine
end

