-- ==== Sys2Proof/Machine/State.lean ====
section
/-!
DEFINITION. The state of the block, the ways a step can stop, and the state at reset.
-/
namespace Sys2Proof.Machine

open Sys2Proof

/-- Why a step stops with a fault. -/
inductive Fault where
  /-- An answer names an exchange that the block never issued: the neighbour violates its specification in a way that
  Flovel does not detect, and R28 promises nothing. Raised by the answers to exchanges; safe. -/
  | noPromise
  deriving DecidableEq, Repr

/-- Why a step is refused. -/
inductive Refusal where
  /-- The command has no meaning yet. Raised by an arm of `exec` only; safe. -/
  | notModelled (mnemonic : String)
  deriving DecidableEq, Repr

/-- The block without its command queue and its depot data areas. `now` is the domain time in ns; `fresh` counts the
free values drawn; `out` is everything that has left the block, newest first; `regs` holds every register field that is
stored as such, by register and index (`Machine/RegTable.lean`): a register that is not listed has its reset value;
`sgServing` are the interrupt sources in service (R581), `fhPart` the fault sources whose capture has a partition, and `halves` what
each agent has still to read of a register whose fields are read at one instant (R16): the copy, the half that it has read, and the
whole word. -/
structure Block where
  now : Nat
  fresh : Nat
  out : List Msg
  regs : Tbl (BitVec 64)
  nextTxn : Nat
  txns : Tbl Txn
  fuses : Fuses
  sgServing : List Nat
  fhPart : List Nat
  halves : Tbl (Nat × Half × BitVec 64)
  sq : Sq
  he : He
  tu : Tu
  hp : Hp
  pt : Pt
  tc : Tc
  ft : Ft
  ps : Ps
  gov : Gov
  ck : Ck
  ce : Ce
  en : En
  md : Md
  cc : Cc
  deriving DecidableEq, Repr

/-- The state: the queue of commands that wait, first in first out; the depot data areas, one per partition at
2^27 × partition, in canonical form with unlisted bytes 0 (the depot is zeroed at start-up, R709); and the rest. -/
structure State where
  pending : List Instr
  depot : List Host.Cell
  blk : Block
  deriving DecidableEq, Repr

/-! ### The state at reset -/

/-- Fuses as a block has them that has loaded none: those of FV-24A with all sixteen depot channels (DESIGN CHOICE, log entry 2);
POWER_ON brings the part's own. -/
def Fuses.blank : Fuses :=
  { variant := 1, stepping := 0, vendorId := 0, serial := 0, baseMac := 0, frame := 0#64, trip := 125,
    channels := List.range 16, loadError := false }

/-- The block with nothing in it: every register at its reset value, every queue empty. The governor allows the rise of one
tick of 32 us at the default slew (DESIGN CHOICE, log entry 34). -/
def Block.empty (f : Fuses) : Block :=
  { now := 0, fresh := 0, out := [], regs := [], nextTxn := 0, txns := [], fuses := f, sgServing := [], fhPart := [], halves := [],
    sq := { rings := [], cqs := [], loads := [], waiting := [] },
    he := { items := [], nextItem := 0, logs := [], deficit := [], lastServed := [], blocks := [] },
    tu := { slots := [], loading := [], segs := [], tlb := [], mirror := [], wcache := [], walks := [], nextWalk := 0, accs := [],
            nextAcc := 0, tileWalks := [], counters := [], invals := [], nextInval := 0, ats := [], atsInvals := [],
            prgs := [], nextPrg := 0, priFailed := [] },
    hp := { cfg := [], flr := [], windows := [], wins := [], nextWin := 0, tdi := [], insecure := [], retry := [0, 1], perst := [], ltr := [], trained := [], doe := [], queue := [] },
    pt := { cmds := [], grants := [], lost := [], since := [] },
    tc := { events := [], captured := [], bufs := [], dropped := [], dumps := [], dumping := none, gens := 0 },
    ft := { qps := [], ports := [], labels := [], rx := [], nextRx := 0, snap := [], strays := [] },
    ps := { sched := none, old := none, staged := none, checking := false, rounds := [], nextK := [], good := [], n := 0,
            start := 0, lag := 0, ropedEnd := none, ext := false, phase := 0, slackLen := 0, credits := [], inOrder := [],
            misses := 0, rfDue := [], relock := false },
    gov := { reserve := 0, load := 0, nat := 0, natDie := 0, fRel := 0, blk := 0, freeBytes := 0, freePrev := 0, tickAt := 0,
             share := [], reports := [], missing := [], up := 8000000 },
    ck := { caps := [], hot := [], down := [], resetting := false },
    ce := { slots := [], halves := [], ideKeys := [], ideSet := [], wrap := none },
    en := { queue := [], seeds := [], passedAt := none, sinceReseed := 0, reseeds := 0, asks := [] },
    md := { live := [], stored := [], sessions := [], nextSession := 0 },
    cc := { lines := [], copies := [], ncs := [], nacks := [], msgs := [], waiting := [] } }

/-- The machine right after reset: no command waits, the depot holds zeros, and start-up is at its first phase (R709, R712). -/
def State.reset : State := { pending := [], depot := [], blk := Block.empty Fuses.blank }

end Sys2Proof.Machine
end

