-- ==== Sys2Proof/Machine/Ops.lean ====
section
/-!
DEFINITION. The named operations on the block that every unit uses: registers and their fields, outgoing messages,
exchanges, and the facts that fuses and functions give.
-/
namespace Sys2Proof.Machine

open Sys2Proof

/-! ### Registers -/

/-- The value that a register has at reset where its table's Reset column depends on its index: the ceilings of
FH_SRC_CTL (R575), and the targets and vectors of SG_SRC_CFG (R578). -/
def regReset (r : Reg) (i : Nat) : BitVec 64 :=
  match r with
  | .fhSrcCtl => qset (qset 0#64 63 63 1) 62 60 (fhDefaultCeiling i)
  | .sgSrcCfg => BitVec.ofNat 64 (((sgDefault i >>> 11) <<< 59) + sgDefault i % 2048)
  | .ftPortStatus => 0#64
  | _ => r.spec.fields.foldl (fun w f => qset w f.hi f.lo f.reset) 0#64

/-- The key of a register in the store. -/
def regKey (r : Reg) (i : Nat) : Nat := r.code * 2 ^ 32 + i

/-- The stored value of register `r`, copy `i`. -/
def rget (b : Block) (r : Reg) (i : Nat) : BitVec 64 :=
  match tfind b.regs (regKey r i) with
  | some v => v
  | none => regReset r i

/-- Store a value in a register. -/
def rput (r : Reg) (i : Nat) (v : BitVec 64) (b : Block) : Block := { b with regs := tput b.regs (regKey r i) v }

/-- A field of a register. -/
def fget (b : Block) (f : Fld) (i : Nat) : Nat := qbits (rget b f.reg i) f.hi f.lo

/-- A one-bit field as a truth value. -/
def fon (b : Block) (f : Fld) (i : Nat) : Bool := fget b f i == 1

/-- Set a field of a register. -/
def fput (f : Fld) (i v : Nat) (b : Block) : Block := rput f.reg i (qset (rget b f.reg i) f.hi f.lo v) b

/-- The largest value a field holds. -/
def Fld.max (f : Fld) : Nat := 2 ^ (f.hi + 1 - f.lo) - 1

/-- Add to a counting field, which saturates. -/
def fbump (f : Fld) (i n : Nat) (b : Block) : Block := fput f i (satAdd f.max (fget b f i) n) b

/-- Return a register to its reset value. -/
def rclear (r : Reg) (i : Nat) (b : Block) : Block := { b with regs := tdel b.regs (regKey r i) }

/-! ### The records of the units -/

def modSq (f : Sq → Sq) (b : Block) : Block := { b with sq := f b.sq }
def modHe (f : He → He) (b : Block) : Block := { b with he := f b.he }
def modTu (f : Tu → Tu) (b : Block) : Block := { b with tu := f b.tu }
def modHp (f : Hp → Hp) (b : Block) : Block := { b with hp := f b.hp }
def modPt (f : Pt → Pt) (b : Block) : Block := { b with pt := f b.pt }
def modTc (f : Tc → Tc) (b : Block) : Block := { b with tc := f b.tc }

def modFt (f : Ft → Ft) (b : Block) : Block := { b with ft := f b.ft }
def modPs (f : Ps → Ps) (b : Block) : Block := { b with ps := f b.ps }
def modGov (f : Gov → Gov) (b : Block) : Block := { b with gov := f b.gov }
def modCk (f : Ck → Ck) (b : Block) : Block := { b with ck := f b.ck }
def modCe (f : Ce → Ce) (b : Block) : Block := { b with ce := f b.ce }
def modEn (f : En → En) (b : Block) : Block := { b with en := f b.en }
def modMd (f : Md → Md) (b : Block) : Block := { b with md := f b.md }
def modCc (f : Cc → Cc) (b : Block) : Block := { b with cc := f b.cc }

/-- Change a QP that is created. -/
def modQp (q : Nat) (f : Qp → Qp) (b : Block) : Block := modFt (fun t => { t with qps := tmod t.qps q f }) b

/-- Change a receive context. -/
def modRx (r : Nat) (f : Rx → Rx) (b : Block) : Block := modFt (fun t => { t with rx := tmod t.rx r f }) b

/-- Change the rounds of the pitch sequencer. -/
def mapRounds (f : Round → Round) (b : Block) : Block := modPs (fun p => { p with rounds := p.rounds.map f }) b

/-- The live value of a dictionary entry that no register holds (R635). -/
def dict (b : Block) (idx sub : Nat) : Nat :=
  match tfind b.md.live (256 * idx + sub) with
  | some v => v
  | none => dictDefault (variantOf b.fuses.variant) idx sub

/-- Change a submission ring, by 4,096 × partition + number; nothing where it is FREE and unlisted. -/
def modRing (key : Nat) (f : Ring → Ring) (b : Block) : Block :=
  modSq (fun q => { q with rings := tmod q.rings key f }) b

/-- Change a completion ring. -/
def modCq (key : Nat) (f : Cq → Cq) (b : Block) : Block := modSq (fun q => { q with cqs := tmod q.cqs key f }) b

/-- Change an item in flight. -/
def modItem (i : Nat) (f : Item → Item) (b : Block) : Block := modHe (fun h => { h with items := tmod h.items i f }) b

/-- Change an access that waits in the translate stage. -/
def modAcc (a : Nat) (f : Access → Access) (b : Block) : Block := modTu (fun t => { t with accs := tmod t.accs a f }) b

/-- The value of a writable doubleword of configuration space after a reset. Those that the spec does not give are PCIe's
(PRESUMED, log entry 13): Relaxed Ordering, No Snoop and 512 B read requests in Device Control, the AER masks and
severities, and 4 KiB pages for VFs. -/
def cfgDflt (fn off : Nat) : BitVec 32 :=
  if fn % 128 = 0 then
    match off with
    | 0x68 => 0x2810#32
    | 0x108 => 0x00400000#32
    | 0x10C => 0x00462030#32
    | 0x114 => 0x00006000#32
    | 0x380 => 1#32
    | 0x3C8 => 0x1200#32
    | 0x3D8 => 0x0C00#32
    | _ => 0#32
  else if off = 0x58 then 0x2810#32 else 0#32

/-- Store a doubleword of configuration space; its value after a reset is not listed. -/
def cfgPut (fn off : Nat) (v : BitVec 32) (b : Block) : Block :=
  modHp (fun h => { h with cfg := tset (cfgDflt fn off) h.cfg (1024 * fn + off / 4) v }) b

/-! ### Context lines (R529-R547) -/

/-- The number of a context line: its kind (R556) and its object. -/
def lineOf (kind obj : Nat) : Nat := 4 * obj + kind

/-- Is a context line POISONED at its home (R533)? -/
def linePoisoned (b : Block) (kind obj : Nat) : Bool :=
  match tfind b.cc.lines (lineOf kind obj) with
  | some l => l.poisoned
  | none => false

/-- The object of a line is gone, written afresh or reset: nothing of the line is cached, awaited or poisoned (R547). -/
def lineForget (line : Nat) (b : Block) : Block :=
  modCc (fun c => { c with
    lines := tdel c.lines line, copies := tfilter (fun k _ => k / 16 != line) c.copies,
    ncs := tfilter (fun k _ => k / 16 != line) c.ncs, nacks := tfilter (fun k _ => k / 16 != line) c.nacks,
    msgs := c.msgs.filter (fun m => m.1 != line) }) b

/-! ### Messages, free values and exchanges -/

/-- A message leaves the block. -/
def emit (m : Msg) (b : Block) : Block := { b with out := m :: b.out }

/-- The next free value of the DRBG (R623). -/
def drawRandom (b : Block) : BitVec 32 × Block := (Config.random b.fresh, { b with fresh := b.fresh + 1 })

/-- A port in L1 returns to L0 with the first request that needs its link (R463), or to L0p where it had narrowed (R464). -/
def hostWake (h : Nat) (b : Block) : Block :=
  if 2 ≤ fget b F.hpPortStatusLstate h ∧ fget b F.hpPortStatusLstate h ≤ 4 then
    fput F.hpPortStatusLstate h (if fget b F.hpPortStatusWidth h < tget 16 b.hp.trained h then 1 else 0) b
  else b

/-- Open an exchange; its number is the block's `nextTxn`. -/
def openTxn (t : Txn) (b : Block) : Block :=
  { b with txns := tput b.txns b.nextTxn t, nextTxn := b.nextTxn + 1 }

/-- Close an exchange: an answer to it that comes later is discarded. -/
def closeTxn (n : Nat) (b : Block) : Block := { b with txns := tdel b.txns n }

/-- Close every exchange that a test picks. -/
def closeTxns (p : Txn → Bool) (b : Block) : Block := { b with txns := b.txns.filter (fun e => !p e.2) }

/-! ### What fuses fix -/

/-- The row of the variant table (R1). -/
def variant (b : Block) : Variant := variantOf b.fuses.variant

/-- Is this FV-00H, the variant without fabric ports? -/
def noFabric (b : Block) : Bool := (variant b).fabPorts == 0

/-- The size of the QP pool, context 0 included (R210); 0 on FV-00H. -/
def qpPool (b : Block) : Nat := if noFabric b then 0 else (variant b).depotGib * 32768

/-- The node's own ID; 0 while none is loaded (R52), and always on FV-00H (R4, R48). -/
def selfNode (b : Block) : Nat := if fon b F.idNodeValid 0 && !noFabric b then fget b F.idNodeNodeId 0 else 0

/-- The home tile of a key (R22). -/
def homeTile (key : Nat) : Nat := (key ^^^ (key >>> 7) ^^^ (key >>> 14)) % 12

/-- The home tile of a ring (R22). -/
def ringTile (part ring : Nat) : Nat := homeTile (part * 4096 + ring)

/-- The tile whose cipher engine serves QPs homed on a tile: the next one that is not fenced off (R23). -/
def servingTile (b : Block) (t : Nat) : Nat :=
  match (List.range 12).find? (fun k => !(fon b F.ceEngineStatusFenced ((t + k) % 12))) with
  | some k => (t + k) % 12
  | none => t

/-- Mesh hops between two tiles (R21). -/
def hops (a c : Nat) : Nat :=
  (if a / 4 ≤ c / 4 then c / 4 - a / 4 else a / 4 - c / 4) + (if a % 4 ≤ c % 4 then c % 4 - a % 4 else a % 4 - c % 4)

/-- The depot channel that holds a byte of a data area: its number among those present on the part (R24, R56). -/
def depotChannel (b : Block) (x : Nat) : Nat :=
  match b.fuses.channels with
  | [] => 0
  | l => l.getD ((x >>> 8) % l.length) 0

/-! ### Functions -/

/-- The bank of a register access: the function number, or 256 for the management core path. -/
def bankOf : Agent → Nat
  | .pf h => 128 * h
  | .vf h v => 128 * h + v
  | .mgmt => 256

/-- A doubleword of a function's configuration space, as stored. -/
def cfgGet (b : Block) (fn off : Nat) : BitVec 32 := tget (cfgDflt fn off) b.hp.cfg (1024 * fn + off / 4)

/-- A bit of a function's configuration space: `off` is the doubleword's offset. -/
def cfgBit (b : Block) (fn off i : Nat) : Bool := bit (cfgGet b fn off).toNat i

/-- Is the port of a function present on the variant (R2)? -/
def portPresent (b : Block) (h : Nat) : Bool := h < (variant b).hostPorts

/-- Is a function enabled? The PF of a port present always is; a VF is while VF Enable is set and it lies within
NumVFs (R434, R452). -/
def fnEnabled (b : Block) (fn : Nat) : Bool :=
  portPresent b (fn / 128) &&
    (fn % 128 == 0 ||
      (cfgBit b (fn / 128 * 128) 0x368 0 && fn % 128 ≤ (cfgGet b (fn / 128 * 128) 0x370).toNat % 65536
        && fn % 128 ≤ (variant b).vfs))

/-- Is a function in reset (FLR_ACTIVE, R452)? -/
def flrActive (b : Block) (fn : Nat) : Bool := b.hp.flr.contains fn

/-- Is the PF of a port in D3hot (R462)? -/
def inD3 (b : Block) (h : Nat) : Bool := bits (cfgGet b (128 * h) 0x44).toNat 1 0 == 3

/-- Bus Master Enable as in effect (R452, R457). -/
def bmeOn (b : Block) (fn : Nat) : Bool := fnEnabled b fn && cfgBit b fn 0x04 2 && !flrActive b fn

/-- Memory Space Enable as in effect: a VF's is VF Memory Space Enable of its PF (R434, R457). -/
def mseOn (b : Block) (fn : Nat) : Bool :=
  fnEnabled b fn && !flrActive b fn &&
    (if fn % 128 = 0 then cfgBit b fn 0x04 1 else cfgBit b (fn / 128 * 128) 0x368 3)

/-- Is PASID Enable set in a function's PASID capability (R431, R432, R449)? -/
def pasidOn (b : Block) (fn : Nat) : Bool := cfgBit b fn (if fn % 128 = 0 then 0x3BC else 0x124) 16

/-- The PASID that a function's requests carry (R449, R451). -/
def pasidOf (b : Block) (fn : Nat) : Option (Nat × Bool) :=
  if pasidOn b fn && fon b F.hpFnPasidValid fn then
    some (fget b F.hpFnPasidPasid fn, fon b F.hpFnPasidPriv fn)
  else none

/-- An error bit of a function's Status register, at its place in the doubleword at 0x04 (R430; the bits are PCIe's, PRESUMED, log entry
13): 24 Master Data Parity Error, 27 Signaled Target Abort, 28 Received Target Abort, 29 Received Master Abort, 30 Signaled System Error,
31 Detected Parity Error. -/
def statusSet (fn i : Nat) (b : Block) : Block := cfgPut fn 0x04 (cfgGet b fn 0x04 ||| BitVec.ofNat 32 (2 ^ i)) b

/-- A request of a function is completed with an error: a Completer Abort or a status that says the request is not supported (R430). -/
def cplError (fn : Nat) (abort : Bool) (b : Block) : Block := statusSet fn (if abort then 28 else 29) b

/-- Poisoned data arrives for a function (R430): Detected Parity Error, and Master Data Parity Error where Parity Error Response is on. -/
def cplPoison (fn : Nat) (b : Block) : Block :=
  let b := statusSet fn 31 b
  if cfgBit b (fn / 128 * 128) 0x04 6 then statusSet fn 24 b else b

/-- Does the RID association block of a selective IDE stream (1 to 4) name a function, and its address association block, where it is
valid, some address (R472)? The blocks lie where the PCIe IDE layout puts them behind the IDE capability at 0x400 (PRESUMED, log
entry 12). -/
def selectiveBound (b : Block) (fn stream : Nat) : Bool :=
  let base := 0x414 + 32 * (stream - 1)
  let dw := fun (k : Nat) => (cfgGet b (fn / 128 * 128) (base + k)).toNat
  let low := bits (dw 0x14) 19 8 + dw 0x1C * 4096
  let high := bits (dw 0x14) 31 20 + dw 0x18 * 4096
  bit (dw 0x10) 0 && bits (dw 0x10) 15 8 ≤ fn % 128 && fn % 128 ≤ bits (dw 0xC) 15 8 && (!bit (dw 0x14) 0 || low ≤ high)

/-- Is a function bound to an IDE stream of its port (R472, R473)? Stream 0 is the Link IDE stream, which carries what no selective stream
does: a function that a selective stream without an address association block serves is not bound to it. -/
def ideBound (b : Block) (fn stream : Nat) : Bool :=
  if stream = 0 then
    !([1, 2, 3, 4].any (fun s => selectiveBound b fn s && !cfgBit b (fn / 128 * 128) (0x414 + 32 * (s - 1) + 0x14) 0))
  else selectiveBound b fn stream

/-- Is a function bound to a stream that is Insecure (R473)? It then issues nothing upstream, and what the port receives for it is
discarded. -/
def ideOff (b : Block) (fn : Nat) : Bool := b.hp.insecure.any (fun s => s / 8 == fn / 128 && ideBound b fn (s % 8))

/-- May a function issue upstream requests? Not while bus mastering is off, in D3hot (R462), while its TDI is in ERROR
(R474), while an IDE stream that it is bound to is Insecure (R473), or while the port's link is down. -/
def mastering (b : Block) (fn : Nat) : Bool :=
  bmeOn b fn && !inD3 b (fn / 128) && tget 0 b.hp.tdi fn != 3
    && !ideOff b fn
    && fon b F.hpPortStatusLinkUp (fn / 128)

/-! ### Partitions -/

/-- Is a partition present on the variant (R3)? -/
def partPresent (b : Block) (p : Nat) : Bool := p < (variant b).partitions

/-- The partition that a VF is mapped to (R487, R489). -/
def vfPart (b : Block) (fn : Nat) : Option Nat :=
  if fon b F.ptVfMapValid fn then some (fget b F.ptVfMapPartition fn) else none

/-- The managing port of a partition (R492). -/
def mgrPort (b : Block) (p : Nat) : Nat := fget b F.ptPartCfgMgrPort p

/-- The requester of a partition on a port, as a function number (R488). -/
def requester (b : Block) (p h : Nat) : Option Nat :=
  if h = 0 then (if fon b F.ptPartStatusReq0Valid p then some (fget b F.ptPartStatusReq0Fn p) else none)
  else (if fon b F.ptPartStatusReq1Valid p then some (128 + fget b F.ptPartStatusReq1Fn p) else none)

/-- Does a partition belong to an agent, for R32 (R486)? -/
def owns (b : Block) (w : Agent) (p : Nat) : Bool :=
  partPresent b p &&
    match w with
    | .pf h => mgrPort b p == h
    | .vf h v => vfPart b (128 * h + v) == some p
    | .mgmt => true

/-- The partition states of R478. -/
def partState (b : Block) (p : Nat) : Nat := fget b F.ptPartStatusState p

end Sys2Proof.Machine
end

