-- ==== Sys2Proof/Machine/Desc.lean ====
section
/-!
DEFINITION. The fields of a descriptor.
-/
namespace Sys2Proof.Machine

open Sys2Proof

/-! ### The descriptor (R160) -/

/-- Quadword `i` of a descriptor. -/
def dquad (d : List (BitVec 64)) (i : Nat) : Nat := (d.getD i 0#64).toNat

def dOpcode (d : List (BitVec 64)) : Nat := bits (dquad d 0) 7 0
def dFlags (d : List (BitVec 64)) : Nat := bits (dquad d 0) 15 8
def dArith (d : List (BitVec 64)) : Nat := bits (dquad d 0) 23 16
def dCipher (d : List (BitVec 64)) : Nat := bits (dquad d 0) 31 24
def dTag (d : List (BitVec 64)) : Nat := bits (dquad d 0) 63 32
def dLength (d : List (BitVec 64)) : Nat := bits (dquad d 1) 31 0
def dLayer (d : List (BitVec 64)) : Nat := bits (dquad d 1) 47 32
def dOperator (d : List (BitVec 64)) : Nat := bits (dquad d 1) 63 48
def dSrc (d : List (BitVec 64)) : Nat := dquad d 2
def dDst (d : List (BitVec 64)) : Nat := dquad d 3
def dQp (d : List (BitVec 64)) : Nat := bits (dquad d 4) 23 0
def dCard (d : List (BitVec 64)) : Nat := bits (dquad d 4) 39 24
def dWalk (d : List (BitVec 64)) : Nat := bits (dquad d 4) 55 40
def dFenceAddr (d : List (BitVec 64)) : Nat := dquad d 5
def dFenceValue (d : List (BitVec 64)) : Nat := bits (dquad d 6) 62 0
def dScale (d : List (BitVec 64)) : Nat := bits (dquad d 7) 31 0
def dSeed (d : List (BitVec 64)) : Nat := bits (dquad d 7) 63 32

def dFence (d : List (BitVec 64)) : Bool := bit (dFlags d) 0
def dIntr (d : List (BitVec 64)) : Bool := bit (dFlags d) 1
def dBarrier (d : List (BitVec 64)) : Bool := bit (dFlags d) 2
def dDigest (d : List (BitVec 64)) : Bool := bit (dFlags d) 3
def dRearm (d : List (BitVec 64)) : Bool := bit (dFlags d) 4
def dWait (d : List (BitVec 64)) : Bool := bit (dFlags d) 5

end Sys2Proof.Machine
end

