-- ==== Sys2Proof/Machine/Sg.lean ====
section
/-!
DEFINITION. The signal controller's delivery (R577-R586, R594), the freeze trigger (R680-R685) and the trigger of a
hang dump (R688-R691), which interrupt sources can reach. The commands on its registers are in `Machine/Sigs.lean`.
-/
namespace Sys2Proof.Machine

open Sys2Proof

/-- Is a source fixed, with no configurable target (R578)? -/
def sgFixed (s : Nat) : Bool := (1536 ≤ s && s < 1778) || (1863 ≤ s && s < 1984)

/-- The target code, function number and MSI-X vector of a source (R577, R578, R591). A target of 20 to 31 is POLL; a
VF vector above 63 is 63. -/
def sgTarget (b : Block) (s : Nat) : Nat × Nat × Nat :=
  if 1536 ≤ s ∧ s < 1656 then (12, s - 1535, 0)
  else if 1656 ≤ s ∧ s < 1776 then (13, 128 + (s - 1655), 0)
  else if s = 1776 then (10, 0, s)
  else if s = 1777 then (11, 128, s)
  else if sgFixed s then (19, 0, 0)
  else
    let t := fget b F.sgSrcCfgTarget s
    let v := fget b F.sgSrcCfgVector s
    let f := fget b F.sgSrcCfgFunction s
    if t = 10 then (10, 0, v)
    else if t = 11 then (11, 128, v)
    else if t = 12 then (12, f, if v < 63 then v else 63)
    else if t = 13 then (13, 128 + f, if v < 63 then v else 63)
    else (if t < 20 then t else 19, 0, v)

/-- Is the target a function, so that a source signals by MSI-X (R577)? -/
def sgToFn (t : Nat) : Bool := 10 ≤ t && t ≤ 13

def sgPendingBit (b : Block) (s : Nat) : Bool := (rget b .sgPending (s / 64)).getLsbD (s % 64)
def sgMaskBit (b : Block) (s : Nat) : Bool := (rget b .sgMask (s / 64)).getLsbD (s % 64)
def sgInService (b : Block) (s : Nat) : Bool := b.sgServing.contains s
def sgCount (b : Block) (s : Nat) : Nat := qbits (rget b .sgCount (s / 8)) (8 * (s % 8) + 7) (8 * (s % 8))

def sgSetPending (s : Nat) (on : Bool) (b : Block) : Block :=
  rput .sgPending (s / 64) (qset (rget b .sgPending (s / 64)) (s % 64) (s % 64) (b2n on)) b
def sgSetMask (s : Nat) (on : Bool) (b : Block) : Block :=
  rput .sgMask (s / 64) (qset (rget b .sgMask (s / 64)) (s % 64) (s % 64) (b2n on)) b
def sgSetCount (s n : Nat) (b : Block) : Block :=
  rput .sgCount (s / 8) (qset (rget b .sgCount (s / 8)) (8 * (s % 8) + 7) (8 * (s % 8)) n) b

/-- Is a source eligible (R581): pending, not masked and not in service? -/
def sgEligible (b : Block) (s : Nat) : Bool := sgPendingBit b s && !sgMaskBit b s && !sgInService b s

/-- The MSI-X Message Control of a function lies at 0x50 in a PF and at 0x40 in a VF (R431, R432). -/
def msixCtl (b : Block) (fn : Nat) : BitVec 32 := cfgGet b fn (if fn % 128 = 0 then 0x50 else 0x40)

/-- May a function's vector be sent now (R585)? MSI-X Enable is the PCIe condition that the spec leaves to PCIe
(PRESUMED, log entry 13). -/
def msixOpen (b : Block) (fn vec : Nat) : Bool :=
  bit (msixCtl b fn).toNat 31 && !bit (msixCtl b fn).toNat 30 && !(fon b F.hpMsixDataMask (2048 * fn + vec))
    && mastering b fn

def pbaBit (b : Block) (fn vec : Nat) : Bool := (rget b .hpPba (32 * fn + vec / 64)).getLsbD (vec % 64)
def pbaSet (fn vec : Nat) (on : Bool) (b : Block) : Block :=
  rput .hpPba (32 * fn + vec / 64) (qset (rget b .hpPba (32 * fn + vec / 64)) (vec % 64) (vec % 64) (b2n on)) b

/-- Is a counter counting events of a code and partition (R673, R675)? -/
def counterMatches (b : Block) (c event : Nat) (part : Option Nat) : Bool :=
  let owned := fon b F.tcCntOwnValid c
  let filter := owned || fon b F.tcCntCfgFilter c
  let p := if owned then fget b F.tcCntOwnPartition c else fget b F.tcCntCfgPartition c
  fon b F.tcCntCfgEnable c && fget b F.tcCntCfgEvent c == event && (!filter || part == some p)

/-- The tile at which a host port attaches (R20, R672). -/
def portTile (h : Nat) : Nat := if h = 0 then 4 else 7

/-- A message of an interrupt or of an error is sent on a host port and counted (R673). It is part of what an interrupt
source does, so a counter that it wraps sets OVF and asserts nothing in turn (DESIGN CHOICE, log entry 36). -/
def emitSignal (h : Nat) (m : Msg) (b : Block) : Block :=
  let b := emit m b
  if fon b F.tcFreezeFrozen 0 then b
  else
    each (tkeys (fun k _ => k / 2 ^ 32 == Reg.code .tcCntCfg && k % 2 ^ 32 / 512 == portTile h) b.regs)
      (fun k b =>
        let c := k % 2 ^ 32
        if counterMatches b c 0x070 none then
          let v := fget b F.tcCntValCount c + 1
          fput F.tcCntValCount c v (if v < 2 ^ 48 then b else fput F.tcCntValOvf c 1 b)
        else b) b

/-- An error message of a port: 0 ERR_COR, 1 ERR_NONFATAL, 2 ERR_FATAL. An uncorrectable one that SERR# Enable lets go is a Signaled System
Error (R430). -/
def errorSend (h sev : Nat) (b : Block) : Block :=
  emitSignal h (.pcieError h sev) (if 1 ≤ sev && cfgBit b (128 * h) 0x04 8 then statusSet (128 * h) 30 b else b)

/-- Signal a function by a vector: the message of its MSI-X table entry, or its PBA bit where the message may not be
sent (R585, R460). -/
def msixSignal (fn vec : Nat) (b : Block) : Block :=
  if msixOpen b fn vec then
    emitSignal (fn / 128) (.msix fn vec (rget b .hpMsixAddr (2048 * fn + vec)) (fget b F.hpMsixDataData (2048 * fn + vec))
      (pasidOf b fn))
      (pbaSet fn vec false (hostWake (fn / 128) b))
  else pbaSet fn vec true b

/-- Send the messages of a function whose PBA bits are set and whose condition has cleared (R585). -/
def msixFlush (fn : Nat) (b : Block) : Block :=
  eachN (if fn % 128 = 0 then 2048 else 64)
    (fun v b => if pbaBit b fn v && msixOpen b fn v then msixSignal fn v b else b) b

/-- What can act through a self-claiming target: an assertion of a source, a freeze with its cause and instant, or a
dump with its reason. -/
inductive Trig where
  | assert (s : Nat)
  | freeze (cause at_ : Nat)
  | dump (reason : Nat)
  deriving DecidableEq, Repr

/-- The slot for a dump (R690): the lowest one that is not VALID, else the one with the older dump, where a dump that
is not a block stop's never takes a valid block-stop dump. -/
def dumpSlot (b : Block) (reason : Nat) : Option Nat :=
  let stop := fun s => fon b F.tcDumpStatusValid s && fget b F.tcDumpStatusReason s == 1
  let busy := fun s => b.tc.dumping == some s
  if !(fon b F.tcDumpStatusValid 0) && !busy 0 then some 0
  else if !(fon b F.tcDumpStatusValid 1) && !busy 1 then some 1
  else
    let age : Nat → Nat := fun s => match tfind b.tc.dumps s with | some d => d.gen | none => 0
    let order := if age 0 ≤ age 1 then [0, 1] else [1, 0]
    order.find? (fun s => !busy s && (reason == 1 || !stop s))

/-- Capture the item list and the ring list in a slot (R688): the dump is then in progress. -/
def dumpBegin (reason slot : Nat) (b : Block) : Block :=
  let gen := (b.tc.gens + 1) % 2 ^ 16
  let d : Dump := { slot := slot, reason := reason, gen := b.tc.gens + 1, start := b.now, items := b.he.items,
                    rings := b.sq.rings, accs := b.tu.accs, qps := b.ft.qps, gov := b.gov, ended := 0, body := [] }
  let b := { b with tc := { b.tc with dumps := tput b.tc.dumps slot d, dumping := some slot, gens := b.tc.gens + 1 } }
  fput F.tcDumpCtlBusy 0 1 <| fput F.tcDumpStatusGen slot gen <| fput F.tcDumpStatusReason slot reason <|
    fput F.tcDumpStatusComplete slot 0 <| fput F.tcDumpStatusValid slot 1 b

/-- A trigger of a dump that is refused is counted by the dumps and by their unit (R33, R690). -/
def dumpRefused (b : Block) : Block := fbump F.tcDumpCtlIgnored 0 1 (fbump F.idIgnoredCount 15 1 b)

/-- Act on a trigger. A freeze asserts source 1,822 and a self-claiming target acts in turn, so the chain is at most
assert, dump, freeze, assert, and a second freeze or dump only counts (R682, R690): five levels are enough. -/
def sgAct (fuel : Nat) (t : Trig) (b : Block) : Block :=
  match fuel with
  | 0 => b
  | n + 1 =>
    match t with
    | .freeze cause at_ =>
      if fon b F.tcFreezeFrozen 0 then fbump F.tcFreezeExtra 0 1 b
      else
        sgAct n (.assert 1822) <| rput .tcFreezeTime 0 (BitVec.ofNat 64 at_) <| fput F.tcFreezeCause 0 cause <|
          fput F.tcFreezeFrozen 0 1 b
    | .dump reason =>
      if b.tc.dumping.isSome && reason != 1 then dumpRefused b
      else
        match dumpSlot b reason with
        | none => dumpRefused b
        | some slot => sgAct n (.freeze 5 b.now) (dumpBegin reason slot b)
    | .assert s =>
      let (t, fn, vec) := sgTarget b s
      if (1863 ≤ s && s < 1984) || 2048 ≤ s then b
      else if sgToFn t && flrActive b fn then b
      else
        let was := sgEligible b s
        let b := sgSetCount s (satAdd 255 (sgCount b s) 1) (sgSetPending s true b)
        if was || !sgEligible b s then b
        else if sgToFn t then msixSignal fn vec b
        else if t < 10 || t == 16 then emit (.irq t) b
        else if t == 14 || t == 15 then
          let sev := if 1024 ≤ s && s < 1536 && 2 ≤ fget b F.fhSrcStatusClass (s - 1024) then 1 else 0
          sgSetCount s 0 (sgSetPending s false (errorSend (t - 14) sev b))
        else if t == 17 then sgAct n (.freeze 3 b.now) (sgSetCount s 0 (sgSetPending s false b))
        else if t == 18 then sgAct n (.dump 2) (sgSetCount s 0 (sgSetPending s false b))
        else b

/-- Assert an interrupt source (R581). -/
def sgAssert (s : Nat) (b : Block) : Block := sgAct 5 (.assert s) b

/-- A freeze trigger (R680), at an instant. -/
def freezeAt (cause at_ : Nat) (b : Block) : Block := sgAct 5 (.freeze cause at_) b

/-- A hang-dump trigger (R688). A block stop during another dump ends that dump with COMPLETE at 0 (R690). -/
def dumpTrigger (reason : Nat) (b : Block) : Block := sgAct 5 (.dump reason) b

/-- Signal a source that has become eligible by an unmask, a pending write or a complete. -/
def sgSignal (s : Nat) (b : Block) : Block :=
  let (t, fn, vec) := sgTarget b s
  if sgToFn t then (if flrActive b fn then b else msixSignal fn vec b)
  else if t < 10 || t == 16 then emit (.irq t) b
  else if t == 14 || t == 15 then
    let sev := if 1024 ≤ s && s < 1536 && 2 ≤ fget b F.fhSrcStatusClass (s - 1024) then 1 else 0
    sgSetCount s 0 (sgSetPending s false (errorSend (t - 14) sev b))
  else if t == 17 then freezeAt 3 b.now (sgSetCount s 0 (sgSetPending s false b))
  else if t == 18 then dumpTrigger 2 (sgSetCount s 0 (sgSetPending s false b))
  else b

/-- After a change that may make sources eligible: signal each source that was not eligible in `old` and now is. -/
def sgNewly (old : Block) (srcs : List Nat) (b : Block) : Block :=
  each srcs (fun s b => if !sgEligible old s && sgEligible b s then sgSignal s b else b) b

/-! ### Counters -/

/-- Add to one counter, with its wrap (R674). -/
def counterAdd (c n : Nat) (b : Block) : Block :=
  let v := fget b F.tcCntValCount c + n
  let b := fput F.tcCntValCount c v b
  if v < 2 ^ 48 then b
  else
    let b := fput F.tcCntValOvf c 1 b
    let b := if fon b F.tcCntCfgInt c then sgAssert (1810 + c / 512) b else b
    if fon b F.tcCntCfgFreezeOvf c then freezeAt 4 b.now b else b

/-- `n` events of a code at a tile (R672, R673); nothing counts while the block is frozen (R681). -/
def tcCount (tile event : Nat) (part : Option Nat) (n : Nat) (b : Block) : Block :=
  if fon b F.tcFreezeFrozen 0 then b
  else
    each (tkeys (fun k _ => k / 2 ^ 32 == Reg.code .tcCntCfg && k % 2 ^ 32 / 512 == tile) b.regs)
      (fun k b => if counterMatches b (k % 2 ^ 32) event part then counterAdd (k % 2 ^ 32) n b else b) b

/-- The domain time, which never decreases (R385), is at least `t`; the clocks of the tiles are counted meanwhile (R673). -/
def timeTo (t : Nat) (b : Block) : Block :=
  if t ≤ b.now then b
  else
    let mhz := fun (k : Nat) => if fon b F.ckTileGated k then 0 else fget b F.ckTileEffective k
    let b' := each (List.range 12) (fun k c => tcCount k 0x001 none (t * mhz k / 1000 - b.now * mhz k / 1000) c) b
    { b' with now := t }

/-- A TLP is sent on a host port for a partition (R673). Those of Flovel's own exchanges belong to the partition that they serve, and
other ones to none (DEDUCED, log entry 113). -/
def emitTlpFor (part : Option Nat) (h : Nat) (m : Msg) (b : Block) : Block := emit m (tcCount (portTile h) 0x070 part 1 b)
def emitTlp (h : Nat) (m : Msg) (b : Block) : Block := emitTlpFor none h m b

/-- A TLP reaches a host port: a port in L1 has returned to L0 (R463), and the TLP is counted (R673). -/
def hostTlpFor (part : Option Nat) (h : Nat) (b : Block) : Block := tcCount (portTile h) 0x071 part 1 (hostWake h b)
def hostTlp (h : Nat) (b : Block) : Block := hostTlpFor none h b

end Sys2Proof.Machine
end

