-- ==== Sys2Proof/Machine/Fh.lean ====
section
/-!
DEFINITION. The fault hub: sources, capture, merging and the effects of rungs (R557-R571), and what ignored writes do
(R33, R560 slot 15). The commands on its registers are in `Machine/Sigs.lean`.
-/
namespace Sys2Proof.Machine

open Sys2Proof

/-- The class of a source (R557, R559, R560): 0 corrected, 1 deferred, 2 contained, 3 fatal; none where no table names
it. -/
def fhClass (s : Nat) : Option Nat :=
  if s ≤ 2 then some 3
  else if s = 3 then some 0
  else if s < 32 then none
  else if s < 96 then
    (if s % 32 = 0 then some 0 else if s % 32 ≤ 6 then some 2 else none)
  else if s < 128 then (if s % 2 = 0 then some 0 else some 2)
  else if s < 176 then some 0
  else if s < 200 then (if s % 2 = 0 then some 3 else some 0)
  else if s < 216 then (match s % 4 with | 0 => some 2 | 1 => some 1 | 2 => some 2 | _ => some 0)
  else if s < 228 then some 2
  else if s = 228 then some 2
  else if s = 229 ∨ s = 230 then some 0
  else if s = 232 ∨ s = 235 then some 0
  else if s = 233 ∨ s = 234 then some 2
  else if s = 240 then some 3
  else if s = 248 ∨ s = 249 then some 3
  else if s = 250 then some 0
  else if s < 256 then none
  else if s < 512 then
    (match s % 16 with
     | 0 | 4 | 11 | 12 | 13 | 15 => some 0
     | _ => some 2)
  else none

/-- The starting rung of a source (R559, R560); 0 for a corrected or deferred one. -/
def fhStart (s : Nat) : Nat :=
  match fhClass s with
  | some 3 => 4
  | some 2 => if 256 ≤ s then (match s % 16 with | 1 => 3 | 3 => 2 | _ => 1) else 1
  | _ => 0

/-- The ceiling of a source in force (R575): never below START, never above 5, and never above 3 for a partition
source. -/
def fhCeiling (b : Block) (s : Nat) : Nat :=
  let c := fget b F.fhSrcCtlCeiling s
  let c := if c < fhStart s then fhStart s else c
  let c := if 5 < c then 5 else c
  if 256 ≤ s ∧ 3 < c then 3 else c

/-- Is a source enabled (R570, R575)? A fatal one always is. -/
def fhEnabled (b : Block) (s : Nat) : Bool := fhClass s == some 3 || fon b F.fhSrcCtlEnable s

/-- Is the block stopped (R566)? -/
def stopped (b : Block) : Bool := fon b F.fhCtlStopped 0

/-- The object of a fault (R574): its kind and number. -/
inductive Obj where
  | none
  | ring (r : Nat)
  | cq (r : Nat)
  | qp (q : Nat)
  | fn (f : Nat)
  | card (c : Nat)
  | port (p : Nat)
  | channel (c : Nat)
  | tile (t : Nat)
  | die (d : Nat)
  deriving DecidableEq, Repr

def Obj.code : Obj → Nat × Nat
  | .none => (0, 0)
  | .ring r => (1, r)
  | .cq r => (2, r)
  | .qp q => (3, q)
  | .fn f => (4, f)
  | .card c => (5, c)
  | .port p => (6, p)
  | .channel c => (7, c)
  | .tile t => (8, t)
  | .die d => (9, d)

/-- Capture the first contained or fatal fault of the block (R561, R573). -/
def fhFirst (s cls part : Nat) (b : Block) : Block :=
  if cls < 2 || fon b F.fhFirstValid 0 then b
  else
    rput .fhFirstTime 0 (BitVec.ofNat 64 b.now) <| fput F.fhFirstSource 0 s <| fput F.fhFirstPartition 0 part <|
      fput F.fhFirstClass 0 cls <| fput F.fhFirstValid 0 1 b

/-- Does the reaction timer of a capture run (R564)? -/
def fhRuns (b : Block) (s : Nat) : Bool :=
  2 ≤ fget b F.fhSrcStatusClass s && fget b F.fhSrcStatusRung s < fhCeiling b s

/-- Capture a fault of a source (R561). `fhPart` remembers whether the fault has a partition (R564). -/
def fhCapture (s cls : Nat) (part : Option Nat) (o : Obj) (b : Block) : Block :=
  let b := { b with fhPart := if part.isSome then sins s b.fhPart else srem s b.fhPart }
  let part := part.getD 0
  let b := fput F.fhSrcStatusObject s o.code.2 <| fput F.fhSrcStatusKind s o.code.1 <|
    fput F.fhSrcStatusPartition s part <| fput F.fhSrcStatusCount s 1 <| fput F.fhSrcStatusRung s (fhStart s) <|
    fput F.fhSrcStatusClass s cls <| fput F.fhSrcStatusCaptured s 1 b
  let b := fput F.fhSrcStatusEscalating s (b2n (fhRuns b s)) b
  sgAssert (1024 + s) (fhFirst s cls part b)

/-- Merge a fault into the capture that is held (R568). -/
def fhMerge (s cls part : Nat) (b : Block) : Block :=
  let b := fbump F.fhSrcStatusCount s 1 b
  let b := if fget b F.fhSrcStatusClass s < cls then fput F.fhSrcStatusClass s cls b else b
  let raised := fget b F.fhSrcStatusRung s < fhStart s
  let b := if raised then fput F.fhSrcStatusRung s (fhStart s) b else b
  let b := if raised then fput F.fhSrcStatusEscalating s (b2n (fhRuns b s)) b else b
  let b := sgAssert (1024 + s) (fhFirst s cls part b)
  if raised then sgAssert (1024 + s) b else b

/-- Record a fault of a source without the effects of its starting rung: it is counted, and captured or merged unless
it is secondary, the source is disabled, or the block is stopped (R561, R568-R570). -/
def fhRecord (s : Nat) (o : Obj) (part : Option Nat) (secondary : Bool) (b : Block) : Block :=
  match fhClass s with
  | none => b
  | some cls =>
    let b := fbump F.fhSrcCtlTotal s 1 b
    if secondary || stopped b || !fhEnabled b s then b
    else
      let p := if 256 ≤ s then some ((s - 256) / 16) else part
      if fon b F.fhSrcStatusCaptured s then fhMerge s cls (p.getD 0) b else fhCapture s cls p o b

/-- A corrected event of a partition slot, or any record with no rung to apply. -/
def fhNote (s : Nat) (o : Obj) (part : Option Nat) (b : Block) : Block := fhRecord s o part false b

/-! ### What rungs reach -/

/-- The VF side of a mailbox sees a change of its partition or map entry (R521): PART_EVENT and its interrupt. -/
def mbxPartEvent (fn : Nat) (b : Block) : Block :=
  sgAssert (if fn < 128 then 1535 + fn else 1655 + (fn - 128)) (fput F.ptMbxCtlPartEvent fn 1 b)

/-- The VFs mapped to a partition, as function numbers. -/
def partVfs (b : Block) (p : Nat) : List Nat :=
  (List.range 256).filter (fun fn => fn % 128 != 0 && vfPart b fn == some p)

/-- Apply a change to every submission ring of a partition. -/
def eachRing (p : Nat) (f : Ring → Ring) (b : Block) : Block :=
  modSq (fun q => { q with rings := q.rings.map (fun e => if e.1 / 4096 = p then (e.1, f e.2) else e) }) b

/-- A ring enters STOPPED, unless it is FREE or DRAINING (R208, R209); a fetch in progress is discarded (R184). -/
def Ring.stop (r : Ring) : Ring :=
  if r.state = .free ∨ r.state = .draining then r
  else { r with state := .stopped, discardFetch := r.fetching.isSome }

/-- A partition enters a state (R479): the STATE slot of the fault hub and the VFs' mailboxes tell of it. With STOPPED all its rings
stop (R205, R208). -/
def ptEnter (p st : Nat) (b : Block) : Block :=
  if partState b p = st then b
  else
    let b := fput F.ptPartStatusState p st b
    let b := if st = 3 then eachRing p Ring.stop b else b
    each (partVfs b p) mbxPartEvent (fhNote (256 + 16 * p + 13) .none (some p) b)

/-- A malformation stops a partition that is BOUND (R205). One that is QUIESCING or in BIVOUAC is STOPPED when it leaves that state
(R480). -/
def ptStop (p : Nat) (b : Block) : Block :=
  if partState b p = 1 ∨ partState b p = 3 then ptEnter p 3 b else b

/-- A ring enters PAUSED as under SQ_PAUSE; in any other state than ACTIVE nothing changes (R563, R570). -/
def ringPause (key : Nat) (b : Block) : Block :=
  modRing key (fun r => if r.state = .active then { r with state := .paused } else r) b

/-- The block stops (R566) and a hang dump is triggered (R688). -/
def blockStop (b : Block) : Block :=
  if stopped b then b else fput F.fhCtlStopped 0 1 (dumpTrigger 1 b)

/-- The AER registers of a port lie at 0x100 (R431); the bits are those of PCIe (PRESUMED, log entry 13). -/
def aerSet (h off i : Nat) (b : Block) : Block :=
  cfgPut (128 * h) off (cfgGet b (128 * h) off ||| BitVec.ofNat 32 (2 ^ i)) b

/-- Each host port whose link is up reports a fatal error (R567). -/
def pcieFatal (src : Nat) (b : Block) : Block :=
  let b := eachN 2 (fun h b =>
    if fon b F.hpPortStatusLinkUp h then
      let b := aerSet h 0x104 22 b
      let b := cfgPut (128 * h) 0x11C (BitVec.ofNat 32 src) b
      let permit := (cfgBit b (128 * h) 0x68 2 || cfgBit b (128 * h) 0x04 8) && !cfgBit b (128 * h) 0x108 22
      if permit then emitTlp h (.pcieError h 2) (if cfgBit b (128 * h) 0x04 8 then statusSet (128 * h) 30 b else b) else b
    else b) b
  fput F.fhCtlPcieFatal 0 1 b

/-- The effects of a rung on a capture, with those of the rungs below it (R563). -/
def rungEffects (s rung : Nat) (b : Block) : Block :=
  let part := fget b F.fhSrcStatusPartition s
  let b := if 2 ≤ rung && fget b F.fhSrcStatusKind s == 1
    then ringPause (4096 * part + fget b F.fhSrcStatusObject s) b else b
  let b := if 3 ≤ rung && b.fhPart.contains s then ptStop part b else b
  let b := if 4 ≤ rung then blockStop b else b
  if 5 ≤ rung then pcieFatal s b else b

/-- Raise a fault (R558-R568): record it, and apply the rung that a capture or a merge puts in force. -/
def fhRaise (s : Nat) (o : Obj) (part : Option Nat) (secondary : Bool) (b : Block) : Block :=
  let was := if fon b F.fhSrcStatusCaptured s then fget b F.fhSrcStatusRung s else 0
  let b := fhRecord s o part secondary b
  let is := fget b F.fhSrcStatusRung s
  if fon b F.fhSrcStatusCaptured s && was < is && 2 ≤ is then rungEffects s is b else b

/-- Raise a fault of a partition slot (R560). -/
def partFault (p slot : Nat) (o : Obj) (b : Block) : Block := fhRaise (256 + 16 * p + slot) o (some p) false b

/-- Record what the reads of a list met (R259, R260, R261), in the order in which they met it. -/
def readEvents (l : List ReadEvent) (b : Block) : Block :=
  l.foldl (fun b e => match e with
    | .dieTimeout d => fhRaise (200 + 4 * d) (.die d) none false b
    | .diePoison d => fhNote (201 + 4 * d) (.die d) none b
    | .depotCorrected c => fhNote (96 + 2 * c) (.channel c) none b
    | .depotUncorrectable c => fhRaise (97 + 2 * c) (.channel c) none false b) b

/-! ### Ignored writes -/

/-- A write, command or doorbell that a unit ignores and counts (R33); where it concerns a partition, that partition's
IGNORED slot tells of it (R560). The object is the function that wrote. -/
def ignored (u : UnitId) (w : Agent) (part : Option Nat) (b : Block) : Block :=
  let b := fbump F.idIgnoredCount u.row 1 b
  let b := match u with
    | .sq =>
      match w with
      | .pf h => fbump F.sqIgnoredCount (128 * h) 1 b
      | .vf h v => fbump F.sqIgnoredCount (128 * h) 1 (fbump F.sqIgnoredCount (128 * h + v) 1 b)
      | .mgmt => b
    | .sg =>
      match w with
      | .pf h => fbump F.sgStatusIgnored (128 * h) 1 b
      | .vf h v => fbump F.sgStatusIgnored (128 * h) 1 (fbump F.sgStatusIgnored (128 * h + v) 1 b)
      | .mgmt => fbump F.sgStatusIgnored 256 1 b
    | _ => b
  let own : Option Nat := match w with | .vf h v => vfPart b (128 * h + v) | _ => none
  match part.or own with
  | some p => if partPresent b p then fhNote (256 + 16 * p + 15) (.fn (bankOf w)) (some p) b else b
  | none => b

end Sys2Proof.Machine
end

