-- ==== Sys2Proof/Machine/Addr.lean ====
section
/-!
DEFINITION. The global address space (R46-R78): the local map, holes and boundaries, striped arithmetic, grants and
admission, and how accesses to a place leave the block.
-/
namespace Sys2Proof.Machine

open Sys2Proof

/-- The node field of a global address (R46). -/
def gNode (g : Nat) : Nat := g >>> 49
/-- The offset field of a global address (R46). -/
def gOff (g : Nat) : Nat := g % 2 ^ 49

/-- The regions of the local map (R53, R54). -/
inductive Region where
  | hbm (d : Nat)
  | sram (d : Nat)
  | depot
  | port (h : Nat)
  | reserved
  deriving DecidableEq, Repr

def depotBase : Nat := 0x0100_0000_0000
def depotSpan : Nat := 0x0800_0000
def portBase (h : Nat) : Nat := 0x1000_0000_0000 + h * 0x0800_0000_0000
def portSpan : Nat := 0x0800_0000_0000
def dieSlot : Nat := 0x0040_0000_0000
def sramAt : Nat := 0x0030_0000_0000

/-- The region that a local offset lies in (R53, R54). -/
def regionOf (off : Nat) : Region :=
  if off < 4 * dieSlot then (if off % dieSlot < sramAt then .hbm (off / dieSlot) else .sram (off / dieSlot))
  else if depotBase ≤ off ∧ off < depotBase + depotSpan then .depot
  else if portBase 0 ≤ off ∧ off < portBase 1 then .port 0
  else if portBase 1 ≤ off ∧ off < portBase 1 + portSpan then .port 1
  else .reserved

/-- Is a 64 MiB unit of compute memory inside a valid range of a partition (R484, R485)? -/
def cmemUnit (b : Block) (p u : Nat) : Bool :=
  (List.range 4).any (fun r => fon b F.ptCmemValid (4 * p + r) && fget b F.ptCmemBase (4 * p + r) ≤ u
    && u ≤ fget b F.ptCmemLimit (4 * p + r))

/-- Does a range of compute memory lie inside the valid ranges of a partition? -/
def cmemCovers (b : Block) (p off len : Nat) : Bool :=
  (List.range ((off + len - 1) / 2 ^ 26 + 1 - off / 2 ^ 26)).all (fun k => cmemUnit b p (off / 2 ^ 26 + k))

/-- The size of a partition's depot data area (R56, R493). -/
def dataSize (b : Block) (p : Nat) : Nat := fget b F.ptCarveData64k p * 65536

/-- The host-address limit of a port (R58, R466). -/
def hostLimit (b : Block) (h : Nat) : Nat := fget b F.hpPortCtlHostLimit h * 4096

/-- The local map (R53-R60, R484) applied to a range for a partition: its place, or none where any part of it lies in a
hole, past a boundary or beyond the host-address limit. -/
def localPlace (b : Block) (p off len : Nat) : Option Place :=
  match regionOf off with
  | .hbm d =>
    if fon b F.idCmemDiePresent d && off % dieSlot + len ≤ fget b F.idCmemDieHbm64m d * 2 ^ 26 && cmemCovers b p off len
    then some (.die d off) else none
  | .sram d =>
    if fon b F.idCmemDiePresent d && off % dieSlot + len ≤ sramAt + fget b F.idCmemDieSram64m d * 2 ^ 26
        && cmemCovers b p off len
    then some (.die d off) else none
  | .depot => if off - depotBase + len ≤ dataSize b p then some (.depot (off - depotBase)) else none
  | .port h =>
    if portPresent b h && off - portBase h + len ≤ hostLimit b h then some (.port h (off - portBase h) false) else none
  | .reserved => none

/-- A place, `n` bytes further on. -/
def Place.add (p : Place) (n : Nat) : Place :=
  match p with
  | .die d a => .die d (a + n)
  | .depot x => .depot (x + n)
  | .port h a t => .port h (a + n) t
  | .remote m a => .remote m (a + n)

/-- The region of a place in the map of its node (R53, R60). -/
def Place.region (p : Place) : Region :=
  match p with
  | .die _ a => regionOf a
  | .depot _ => .depot
  | .port h _ _ => .port h
  | .remote _ a => regionOf a

/-! ### Striped segments -/

/-- Where a virtual address of a segment resolves (R63, R64): the global address. -/
def Seg.resolve (s : Seg) (va : Nat) : Nat :=
  let d := va - s.vbase
  if s.striped then
    let k := d >>> s.log2
    let n := k % s.nodes
    let r := k / s.nodes
    let node := s.list.getD n 0 % 2 ^ 15
    node * 2 ^ 49 + (s.localBase + r * 2 ^ s.log2 + d % 2 ^ s.log2)
  else s.target + d

/-- How many bytes from a virtual address on resolve to one contiguous global range. -/
def Seg.run (s : Seg) (va : Nat) : Nat :=
  let d := va - s.vbase
  if s.striped ∧ s.nodes ≠ 1 then 2 ^ s.log2 - d % 2 ^ s.log2 else s.len - d

/-! ### Grants -/

/-- Is a grant inactive although VALID (R72, R527)? -/
def grantBad (b : Block) (p g : Nat) : Bool :=
  let i := 16 * p + g
  let (base, limit) := tget (0, 0) b.pt.grants i
  let lo := base * 65536
  let hi := limit * 65536 + 65535
  let place := match regionOf lo, regionOf hi with
    | .depot, .depot => true
    | .port h, .port k => h == k && (requester b p h).isSome && !(fon b F.idProtFrameNoHostGrants 0)
    | _, _ => false
  limit < base || !place || fget b F.ptGrantCtlNodeHi i < fget b F.ptGrantCtlNodeLo i

/-- The rights bit of an access kind in a grant, segment or leaf: 1 read, 2 write, 3 combine. -/
def Kind.bit : Kind → Nat
  | .read => 1
  | .write => 2
  | .combine => 3

/-- Does a grant let a packet in (R68)? -/
def grantAdmits (b : Block) (p g node off len : Nat) (k : Kind) : Bool :=
  let i := 16 * p + g
  let (base, limit) := tget (0, 0) b.pt.grants i
  fon b F.ptGrantCtlValid i && !grantBad b p g && fget b F.ptGrantCtlNodeLo i ≤ node && node ≤ fget b F.ptGrantCtlNodeHi i
    && base * 65536 ≤ off && off + len ≤ limit * 65536 + 65536 && bit (rget b .ptGrantCtl i).toNat k.bit

/-! ### Accesses leaving the block -/

/-- The Device Control register of a function's PCI Express capability: 0x60 in a PF, 0x50 in a VF (R431, R432). -/
def devCtl (b : Block) (fn : Nat) : Nat := (cfgGet b fn ((if fn % 128 = 0 then 0x60 else 0x50) + 8)).toNat
def devCtl2 (b : Block) (fn : Nat) : Nat := (cfgGet b fn ((if fn % 128 = 0 then 0x60 else 0x50) + 0x28)).toNat

/-- The attributes of an outbound request (R447): an item's data accesses follow the function's controls, everything
else carries neither. A translated address is marked (R449). -/
def attrOf (b : Block) (fn : Nat) (data translated : Bool) : Attr :=
  { ro := data && bit (devCtl b fn) 4, ido := data && bit (devCtl2 b fn) 8, translated := translated, pasid := pasidOf b fn }

/-- Does a port read descriptors and fence words over CXL.cache (R182, R477)? -/
def cxlReads (b : Block) (h : Nat) : Bool :=
  fget b F.hpPortStatusProto h == 2 && cfgBit b (128 * h) 0x50C 0

/-- How many 64 B blocks a range touches. -/
def blocks64 (x len : Nat) : Nat := if len = 0 then 0 else (x + len - 1) / 64 + 1 - x / 64

/-- The tile at whose stop a depot channel attaches: tiles 0, 3, 8 and 11 carry four channels each, taken in rising
order (R20; the order is DEDUCED, log entry 14). -/
def channelTile (c : Nat) : Nat := [0, 3, 8, 11].getD (c / 4) 0

/-- The pieces of a bus range that stay within multiples of a size, as addresses and lengths. `fuel` bounds them. -/
def tlpSplit (fuel bus len size : Nat) : List (Nat × Nat) :=
  match fuel with
  | 0 => [(bus, len)]
  | n + 1 =>
    let k := size - bus % size
    if len ≤ k then [(bus, len)] else (bus, k) :: tlpSplit n (bus + k) (len - k) size

/-- The Max Payload Size and the Max Read Request Size that the host has programmed (R447), at most the 512 B of R433 for
writes; the places are PCIe's (PRESUMED, log entry 13). -/
def maxPayload (b : Block) (fn : Nat) : Nat := let n := bits (devCtl b fn) 7 5; 128 * 2 ^ (if 2 < n then 2 else n)
def maxRead (b : Block) (fn : Nat) : Nat := let n := bits (devCtl b fn) 14 12; 128 * 2 ^ (if 5 < n then 5 else n)

/-- The TLPs of a posted write, in ascending address order (R263, R447). -/
def hostWrites (part fn bus : Nat) (bytes : List (BitVec 8)) (a : Attr) (b : Block) : Block :=
  each (tlpSplit 1024 bus bytes.length (maxPayload b fn))
    (fun e b => emitTlpFor (some part) (fn / 128) (.hostWrite fn e.1 ((bytes.drop (e.1 - bus)).take e.2) a) b) b

/-- The TLPs of a read (R447): one exchange, answered as a whole. -/
def hostReads (part fn bus len : Nat) (a : Attr) (coherent : Bool) (txn : Nat) (b : Block) : Block :=
  each (tlpSplit 1024 bus len (maxRead b fn)) (fun e b => emitTlpFor (some part) (fn / 128) (.hostRead fn e.1 e.2 a coherent txn) b) b

/-- The 64 B blocks of a depot range, channel by channel (R24, R672): the channel and how many. -/
def depotBlocks (b : Block) (x len : Nat) : List (Nat × Nat) :=
  if len = 0 then []
  else (List.range ((x + len - 1) / 256 + 1 - x / 256)).map (fun k =>
    let lo := if k = 0 then x else (x / 256 + k) * 256
    let hi := if x + len < (x / 256 + k + 1) * 256 then x + len else (x / 256 + k + 1) * 256
    (depotChannel b lo, blocks64 lo (hi - lo)))

/-- The item that an exchange serves. -/
def Use.itemOf (u : Use) : Option Nat :=
  match u with
  | .src i _ _ | .operand i _ | .dst i _ _ | .waitRead i | .fence i | .flush i | .entry i => some i
  | _ => none

/-- `n` events of a code at a tile are counted; those of an item that has not committed are held with it (R37, R672). -/
def countFor (own : Option Nat) (tile code : Nat) (part : Option Nat) (n : Nat) (b : Block) : Block :=
  match own.bind (tfind b.he.items), own with
  | some it, some i =>
    if it.committed then tcCount tile code part n b
    else modItem i (fun it => { it with hits := it.hits ++ [(tile, code, n)] }) b
  | _, _ => tcCount tile code part n b

/-- The 64 B reads or writes of the depot that an exchange makes are counted at the tiles of their channels. `own` is the item
that it serves. -/
def depotCount (own : Option Nat) (code part x len : Nat) (b : Block) : Block :=
  each (depotBlocks b x len) (fun e b => countFor own (channelTile e.1) code (some part) e.2 b) b

/-- Issue a read of a place. `data` marks an item's data access, `coherent` a read that CXL.cache carries. -/
def issueReadFor (own : Option Nat) (p : Place) (part fn len asn va : Nat) (data coherent : Bool) (u : Use) (b : Block) : Block :=
  let n := b.nextTxn
  let b := openTxn ⟨p, part, fn, len, none, asn, va, u⟩ b
  match p with
  | .port h bus x =>
    hostReads part fn bus len (attrOf b fn data x) (coherent && cxlReads b h) n (hostWake h b)
  | .depot x => emit (.memRead p part len n) (depotCount own 0x080 part x len b)
  | _ => emit (.memRead p part len n) b

/-- Issue a read of a place for the item that its use names, if it names one. -/
def issueRead (p : Place) (part fn len asn va : Nat) (data coherent : Bool) (u : Use) (b : Block) : Block :=
  issueReadFor u.itemOf p part fn len asn va data coherent u b

/-- The parts of a range in 64 B blocks, as offsets and lengths (R263); `n` bounds them. -/
def blockSplit (n a off len : Nat) : List (Nat × Nat) :=
  match n with
  | 0 => []
  | m + 1 =>
    let k := 64 - (a + off) % 64
    if len ≤ k then [(off, len)] else (off, k) :: blockSplit m a (off + k) (len - k)

/-- A write of Flovel reached a place: WAIT items whose word lies in a 64 B block of it read again at once (R202). -/
def waitPoke (part : Nat) (p : Place) (len : Nat) (b : Block) : Block :=
  let hit := fun (it : Item) =>
    let at_ : Option Place := (it.fen.spans.head?).map (fun s => s.place)
    it.stage == .active && dWait it.desc && dOpcode it.desc == 0x08 &&
      match at_, p with
      | some (.die d a), .die d' a' => d == d' && overlaps (a / 64 * 64) 64 a' len
      | some (.depot a), .depot a' => it.part == part && overlaps (a / 64 * 64) 64 a' len
      | some (.port h a _), .port h' a' _ => h == h' && overlaps (a / 64 * 64) 64 a' len
      | _, _ => false
  modHe (fun h => { h with items := h.items.map (fun e => if hit e.2 then (e.1, { e.2 with retry := true }) else e) }) b

/-- Issue a write of a place. A write into a host alias is posted and needs no answer (R251); any other opens an
exchange that its acknowledgement closes. A compute die is written in 64 B blocks (R263), which one exchange covers. -/
def issueWrite (p : Place) (part fn : Nat) (bytes : List (BitVec 8)) (asn va : Nat) (data poison : Bool) (u : Use)
    (b : Block) : Block :=
  match p with
  | .port h bus x => hostWrites part fn bus bytes (attrOf b fn data x) (hostWake h (waitPoke part p bytes.length b))
  | .depot x =>
    let n := b.nextTxn
    let b := openTxn ⟨p, part, fn, bytes.length, some bytes, asn, va, u⟩ b
    emit (.memWrite p part bytes poison n) (depotCount u.itemOf 0x081 part x bytes.length b)
  | .die _ a =>
    let n := b.nextTxn
    each (blockSplit (blocks64 a bytes.length) a 0 bytes.length)
      (fun e b => emit (.memWrite (p.add e.1) part ((bytes.drop e.1).take e.2) poison n) b)
      (openTxn ⟨p, part, fn, bytes.length, some bytes, asn, va, u⟩ b)
  | _ =>
    let n := b.nextTxn
    emit (.memWrite p part bytes poison n) (openTxn ⟨p, part, fn, bytes.length, some bytes, asn, va, u⟩ b)

/-- Is a place on a host port (where a write is durable once issued, R251)? -/
def Place.isPort : Place → Bool
  | .port _ _ _ => true
  | _ => false

end Sys2Proof.Machine
end

