-- ==== Sys2Proof/Machine/Arith.lean ====
section
/-!
DEFINITION. Arithmetic in transit (R278-R299, R311-R313): element formats, rounding, operations, MX blocks and digests,
as functions on bytes. Values are exact dyadic numbers until they are rounded.
-/
namespace Sys2Proof.Machine

open Sys2Proof

/-- A floating-point format (R278): exponent and mantissa bits, bias, the code of its largest finite magnitude, the
code of infinity where it has one, and its canonical NaN where it has NaNs (R279). -/
structure Fmt where
  eb : Nat
  mb : Nat
  bias : Nat
  top : Nat
  inf : Option Nat
  nan : Option Nat
  deriving DecidableEq, Repr

def fmtFp32 : Fmt := ⟨8, 23, 127, 0x7F7FFFFF, some 0x7F800000, some 0x7FC00000⟩
def fmtBf16 : Fmt := ⟨8, 7, 127, 0x7F7F, some 0x7F80, some 0x7FC0⟩
def fmtFp16 : Fmt := ⟨5, 10, 15, 0x7BFF, some 0x7C00, some 0x7E00⟩
def fmtE4m3 : Fmt := ⟨4, 3, 7, 0x7E, none, some 0x7F⟩
def fmtE5m2 : Fmt := ⟨5, 2, 15, 0x7B, some 0x7C, some 0x7E⟩
def fmtE3m2 : Fmt := ⟨3, 2, 3, 0x1F, none, none⟩
def fmtE2m3 : Fmt := ⟨2, 3, 1, 0x1F, none, none⟩
def fmtE2m1 : Fmt := ⟨2, 1, 1, 0x7, none, none⟩

/-- A value: a NaN, an infinity, or (-1)^neg * m * 2^e. -/
inductive Val where
  | nan
  | inf (neg : Bool)
  | fin (neg : Bool) (m : Nat) (e : Int)
  deriving DecidableEq, Repr

/-- The sign bit of a code of a format. -/
def Fmt.sign (f : Fmt) : Nat := 2 ^ (f.eb + f.mb)

/-- The exponent of the unit of the smallest subnormal of a format. -/
def Fmt.low (f : Fmt) : Int := 1 - f.bias - f.mb

/-- The value of a code (R278). -/
def Fmt.decode (f : Fmt) (x : Nat) : Val :=
  let neg := bit x (f.eb + f.mb)
  let a := x % f.sign
  if f.inf = some a then .inf neg
  else if f.top < a then .nan
  else
    let e := a / 2 ^ f.mb
    if e = 0 then .fin neg a f.low else .fin neg (a % 2 ^ f.mb + 2 ^ f.mb) (f.low + (e - 1 : Nat))

/-- The code of the magnitude `m * 2^e` rounded to the grid of a format (R291, R292), with the exponent range unbounded
above. `u` is the random number of stochastic rounding, or none for round-to-nearest-even. -/
def Fmt.roundMag (f : Fmt) (u : Option Nat) (m : Nat) (e : Int) : Nat :=
  if m = 0 then 0
  else
    let lg : Int := (Nat.log2 m : Int) + e - f.mb
    let q := if lg < f.low then f.low else lg
    let t :=
      if q ≤ e then m * 2 ^ (e - q).toNat
      else
        let sh := (q - e).toNat
        let t := m >>> sh
        let rem := m % 2 ^ sh
        match u with
        | none => if 2 ^ sh < 2 * rem ∨ (2 * rem = 2 ^ sh ∧ t % 2 = 1) then t + 1 else t
        | some u => if 65536 ≤ (rem * 65536) >>> sh + u then t + 1 else t
    t + (q - f.low).toNat * 2 ^ f.mb

/-- Events of arithmetic, for CX_EVENTS (R315): NaNs made, results that saturated, MX blocks encoded as NaN. -/
structure Ev where
  nans : Nat
  sats : Nat
  mxNans : Nat
  deriving DecidableEq, Repr

def Ev.zero : Ev := ⟨0, 0, 0⟩
def Ev.add (a b : Ev) : Ev := ⟨a.nans + b.nans, a.sats + b.sats, a.mxNans + b.mxNans⟩

/-- Narrow a value to a format with R290's rules: the code, and whether it saturated. FP32, BF16 and FP16 overflow to
infinity; FP8 and MX elements saturate. -/
def Fmt.narrow (f : Fmt) (u : Option Nat) (v : Val) : Nat × Bool :=
  match v with
  | .nan => (f.nan.getD 0, false)
  | .inf neg =>
    (match f.inf with
     | some i => (i + (if neg then f.sign else 0), false)
     | none => (f.nan.getD 0, false))
  | .fin neg m e =>
    let s := if neg then f.sign else 0
    let c := f.roundMag u m e
    if c ≤ f.top then (c + s, false)
    else if f.eb + f.mb < 8 then (f.top + s, true)
    else (f.inf.getD f.top + s, false)

/-- The exact sum of two finite values; a zero sum is negative only where both terms are negative. -/
def finAdd (n1 : Bool) (m1 : Nat) (e1 : Int) (n2 : Bool) (m2 : Nat) (e2 : Int) : Val :=
  let e := if e1 ≤ e2 then e1 else e2
  let a := m1 * 2 ^ (e1 - e).toNat
  let c := m2 * 2 ^ (e2 - e).toNat
  if n1 = n2 then .fin n1 (a + c) e
  else if c < a then .fin n1 (a - c) e
  else if a < c then .fin n2 (c - a) e
  else .fin false 0 e

/-- The sum of two values (R290). -/
def Val.add (x y : Val) : Val :=
  match x, y with
  | .nan, _ => .nan
  | _, .nan => .nan
  | .inf a, .inf c => if a = c then .inf a else .nan
  | .inf a, _ => .inf a
  | _, .inf c => .inf c
  | .fin n1 m1 e1, .fin n2 m2 e2 => finAdd n1 m1 e1 n2 m2 e2

/-- The product of two values (R290: 0 times infinity is a NaN). -/
def Val.mul (x y : Val) : Val :=
  match x, y with
  | .nan, _ => .nan
  | _, .nan => .nan
  | .inf a, .inf c => .inf (a != c)
  | .inf a, .fin n m _ => if m = 0 then .nan else .inf (a != n)
  | .fin n m _, .inf c => if m = 0 then .nan else .inf (n != c)
  | .fin n1 m1 e1, .fin n2 m2 e2 => .fin (n1 != n2) (m1 * m2) (e1 + e2)

/-- An FP32 code as a number that orders as maximum and minimum of IEEE 754-2019 do: -0 below +0. -/
def fp32Key (c : Nat) : Int := if bit c 31 then -1 - (c % 2 ^ 31 : Nat) else (c % 2 ^ 31 : Nat)

/-- Is an FP32 code a NaN? -/
def fp32Nan (c : Nat) : Bool := 0x7F800000 < c % 2 ^ 31

/-- The random bits of element `i` (R293). -/
def srBits (seed i : Nat) : Nat :=
  let x := (seed ^^^ (i * 0x9E3779B9)) % 2 ^ 32
  let x := ((x ^^^ (x >>> 16)) * 0x85EBCA6B) % 2 ^ 32
  let x := ((x ^^^ (x >>> 13)) * 0xC2B2AE35) % 2 ^ 32
  (x ^^^ (x >>> 16)) % 65536

/-! ### Profiles -/

/-- How an element is stored. -/
inductive Elem where
  | fp (f : Fmt)
  | int8
  | int32
  deriving DecidableEq, Repr

/-- Bytes of one element that is stored alone. -/
def Elem.size : Elem → Nat
  | .fp f => (1 + f.eb + f.mb) / 8
  | .int8 => 1
  | .int32 => 4

/-- The narrowing step of a profile (R282). -/
inductive Narrow where
  | none
  | dest
  | wire
  deriving DecidableEq, Repr

/-- A row of R282: the source, the wire and the destination; `wire` is an MX element format where `unit` is 32. -/
structure Profile where
  src : Elem
  wire : Elem
  dst : Elem
  unit : Nat
  narrow : Narrow
  deriving DecidableEq, Repr

def profileOf (p : Nat) : Option Profile :=
  match p with
  | 0x1 => some ⟨.fp fmtFp32, .fp fmtFp32, .fp fmtFp32, 1, .none⟩
  | 0x2 => some ⟨.fp fmtBf16, .fp fmtBf16, .fp fmtBf16, 1, .dest⟩
  | 0x3 => some ⟨.fp fmtFp16, .fp fmtFp16, .fp fmtFp16, 1, .dest⟩
  | 0x4 => some ⟨.fp fmtBf16, .fp fmtBf16, .fp fmtFp32, 1, .none⟩
  | 0x5 => some ⟨.fp fmtFp16, .fp fmtFp16, .fp fmtFp32, 1, .none⟩
  | 0x6 => some ⟨.fp fmtE4m3, .fp fmtE4m3, .fp fmtFp32, 1, .none⟩
  | 0x7 => some ⟨.fp fmtE5m2, .fp fmtE5m2, .fp fmtFp32, 1, .none⟩
  | 0x8 => some ⟨.fp fmtBf16, .fp fmtE4m3, .fp fmtFp32, 32, .wire⟩
  | 0x9 => some ⟨.fp fmtBf16, .fp fmtE5m2, .fp fmtFp32, 32, .wire⟩
  | 0xA => some ⟨.fp fmtBf16, .fp fmtE3m2, .fp fmtFp32, 32, .wire⟩
  | 0xB => some ⟨.fp fmtBf16, .fp fmtE2m3, .fp fmtFp32, 32, .wire⟩
  | 0xC => some ⟨.fp fmtBf16, .fp fmtE2m1, .fp fmtFp32, 32, .wire⟩
  | 0xD => some ⟨.fp fmtFp32, .fp fmtE4m3, .fp fmtFp32, 32, .wire⟩
  | 0xE => some ⟨.int8, .int8, .int32, 1, .none⟩
  | 0xF => some ⟨.int32, .int32, .int32, 1, .none⟩
  | _ => none

/-- Bytes of one unit on the wire (R283, R299). -/
def Profile.wireBytes (p : Profile) : Nat :=
  match p.wire with
  | .fp f => if p.unit = 32 then 1 + 4 * (1 + f.eb + f.mb) else p.wire.size
  | e => e.size

def Profile.srcBytes (p : Profile) : Nat := p.unit * p.src.size
def Profile.dstBytes (p : Profile) : Nat := p.unit * p.dst.size

/-- The operation, rounding and profile of ARITH (R280). -/
def arOp (a : Nat) : Nat := bits a 7 5
def arRnd (a : Nat) : Bool := bit a 4
def arProfile (a : Nat) : Nat := bits a 3 0

/-- Does an operation, as applied, have a narrowing step (R282, R284)? -/
def narrows (op : Nat) (p : Profile) : Bool :=
  match p.narrow with
  | .none => false
  | .dest => op != 5 && op != 6
  | .wire => op != 5

/-- Bytes of one unit at the destination under an operation (R283): PACK stores the wire format. -/
def unitOut (a : Nat) : Nat :=
  match profileOf (arProfile a) with
  | some p => if arOp a = 6 then p.wireBytes else p.dstBytes
  | none => 1
def unitIn (a : Nat) : Nat := match profileOf (arProfile a) with | some p => p.srcBytes | none => 1
def unitWire (a : Nat) : Nat := match profileOf (arProfile a) with | some p => p.wireBytes | none => 1
def unitElems (a : Nat) : Nat := match profileOf (arProfile a) with | some p => p.unit | none => 1

/-- Does an opcode permit an operation (R281)? -/
def opPermitted (opcode op : Nat) : Bool :=
  match opcode with
  | 0x04 | 0x05 => 1 ≤ op && op ≤ 4
  | 0x06 => op == 0 || op == 6
  | 0x07 => op == 0 || op == 5
  | _ => false

/-- Does the variant lack an operation (R285)? -/
def opLacking (v : Variant) (op : Nat) : Bool := !v.combineFull && (2 ≤ op && op ≤ 5)

/-- R284: does an arithmetic item fail with ARITH_FORMAT_INVALID? -/
def arithBad (v : Variant) (opcode arith scale len src dst : Nat) : Bool :=
  match profileOf (arProfile arith) with
  | none => true
  | some p =>
    let op := arOp arith
    op == 7 || !opPermitted opcode op || (op == 4 && 0xE ≤ arProfile arith) || (arRnd arith && !narrows op p)
      || (op == 4 && 0x7F800000 ≤ scale % 2 ^ 31) || len % p.srcBytes != 0 || src % p.src.size != 0
      || (op != 6 && op != 5 && opcode != 0x07 && dst % p.dst.size != 0) || opLacking v op

/-! ### The wire step -/

/-- The FP32 code of a stored element, or the number of an integer one as a 32-bit word. -/
def Elem.widen (t : Elem) (x : Nat) : Nat :=
  match t with
  | .fp f => (fmtFp32.narrow none (f.decode x)).1
  | .int8 => if x % 256 < 128 then x % 256 else 2 ^ 32 - 256 + x % 256
  | .int32 => x % 2 ^ 32

/-- floor(log2) of the largest magnitude of a list of values; none where all are zero. -/
def amaxLog (l : List Val) : Option Int :=
  l.foldl (fun acc v => match v with
    | .fin _ m e => if m = 0 then acc else
        let g : Int := (Nat.log2 m : Int) + e
        (match acc with | some a => some (if a < g then g else a) | none => some g)
    | _ => acc) none

/-- The exponent of the largest normal of an MX element format (R296). -/
def emaxElem (f : Fmt) : Int := (f.top / 2 ^ f.mb : Nat) - (f.bias : Int)

/-- Pack fields of `n` bits, first lowest. -/
def packFields (n : Nat) (l : List Nat) : Nat := l.foldr (fun x acc => x + acc * 2 ^ n) 0

/-- Encode an MX block (R296-R298). -/
def mxEncode (f : Fmt) (rnd : Bool) (seed first : Nat) (vs : List Val) : List (BitVec 8) × Ev :=
  let n := 1 + f.eb + f.mb
  let bad := vs.any (fun v => match v with | .fin _ _ _ => false | _ => true)
  if bad then (0xFF#8 :: List.replicate (4 * n) 0#8, ⟨0, 0, 1⟩)
  else
    let e : Int := match amaxLog vs with
      | none => 0
      | some g => let x := g - emaxElem f; if x < -127 then -127 else if 127 < x then 127 else x
    let ws := vs.zipIdx.map (fun vi => match vi.1 with
      | .fin neg m ex =>
        let u := if rnd then some (srBits seed (first + vi.2)) else none
        f.narrow u (.fin neg m (ex - e))
      | _ => (0, false))
    (BitVec.ofNat 8 (e + 127).toNat :: leBytes (4 * n) (packFields n (ws.map (·.1))),
     ⟨0, ws.countP (·.2), 0⟩)

/-- The FP32 codes that an MX block stands for (R278, R298). -/
def mxDecode (f : Fmt) (bytes : List (BitVec 8)) : List Nat :=
  let n := 1 + f.eb + f.mb
  let s := leNat (bytes.take 1)
  let x := leNat (bytes.drop 1)
  (List.range 32).map (fun i =>
    if s = 0xFF then 0x7FC00000
    else
      match f.decode ((x >>> (n * i)) % 2 ^ n) with
      | .fin neg m e => (fmtFp32.narrow none (.fin neg m (e + (s : Int) - 127))).1
      | .inf neg => if neg then 0xFF800000 else 0x7F800000
      | .nan => 0x7FC00000)

/-- The wire form of one source unit (R287 to_wire); `first` is the index of its first element. -/
def toWire (a seed first : Nat) (unit : List (BitVec 8)) : List (BitVec 8) × Ev :=
  match profileOf (arProfile a) with
  | none => (unit, .zero)
  | some p =>
    (match p.narrow, p.src, p.wire with
     | .wire, .fp fs, .fp fw =>
       mxEncode fw (arRnd a) seed first
         ((List.range 32).map (fun i => fs.decode (leNat ((unit.drop (i * p.src.size)).take p.src.size))))
     | _, _, _ => (unit, .zero))

/-- The FP32 codes, or integers, of one wire unit (R287 widen). -/
def widenWire (p : Profile) (unit : List (BitVec 8)) : List Nat :=
  match p.wire with
  | .fp f => if p.unit = 32 then mxDecode f unit else [p.wire.widen (leNat unit)]
  | e => [e.widen (leNat unit)]

/-! ### Operations -/

/-- Signed saturation of an INT32 sum (R290). -/
def satInt32 (x : Int) : Nat × Bool :=
  if 2147483647 < x then (0x7FFFFFFF, true)
  else if x < -2147483648 then (0x80000000, true)
  else ((x % 4294967296).toNat, false)

/-- An FP32 result (R290): the code, and whether it is a NaN made from operands that were none. -/
def fp32Result (v : Val) (anyNan : Bool) : Nat × Ev :=
  let r := (fmtFp32.narrow none v).1
  (r, ⟨b2n (fp32Nan r && !anyNan), 0, 0⟩)

/-- One element operation (R287): `a` is SCALE, `x` the widened source and `y` the widened destination. -/
def elemOp (op : Nat) (int : Bool) (a x y : Nat) : Nat × Ev :=
  if int then
    let sx := toSigned 32 x
    let sy := toSigned 32 y
    match op with
    | 1 => let r := satInt32 (sx + sy); (r.1, ⟨0, b2n r.2, 0⟩)
    | 2 => (if sx < sy then y else x, .zero)
    | 3 => (if sy < sx then y else x, .zero)
    | _ => (x, .zero)
  else
    let nan := fp32Nan x || fp32Nan y
    match op with
    | 1 => fp32Result ((fmtFp32.decode x).add (fmtFp32.decode y)) nan
    | 2 => if nan then (0x7FC00000, .zero) else (if fp32Key x < fp32Key y then y else x, .zero)
    | 3 => if nan then (0x7FC00000, .zero) else (if fp32Key y < fp32Key x then y else x, .zero)
    | 4 => fp32Result (((fmtFp32.decode a).mul (fmtFp32.decode x)).add (fmtFp32.decode y)) (nan || fp32Nan a)
    | _ => if fp32Nan x then (0x7FC00000, .zero) else (x, .zero)

/-- Store a result in the destination format (R287 to_dest). -/
def toDest (p : Profile) (rnd : Bool) (seed i r : Nat) : List (BitVec 8) × Ev :=
  match p.dst with
  | .fp f =>
    let u := if rnd && p.narrow == .dest then some (srBits seed i) else none
    let c := f.narrow u (fmtFp32.decode r)
    (leBytes p.dst.size c.1, ⟨0, b2n (c.2 && f.eb + f.mb < 8), 0⟩)
  | _ => (leBytes p.dst.size r, .zero)

/-- Apply one wire unit to one destination unit: the bytes to store. `first` is the index of its first element. PACK stores the wire form
itself (R282, R287 `store(w)`): it neither widens nor produces a value, so R279's canonical NaN has no say in it (DEDUCED, log entry 130). -/
def applyUnit (a scale seed first : Nat) (wire dst : List (BitVec 8)) : List (BitVec 8) × Ev :=
  match profileOf (arProfile a) with
  | none => (wire, .zero)
  | some p =>
    if arOp a = 6 then (wire, .zero)
    else
      let int := match p.dst with | .fp _ => false | _ => true
      (widenWire p wire).zipIdx.foldl (fun acc xi =>
        let y := p.dst.widen (leNat ((dst.drop (xi.2 * p.dst.size)).take p.dst.size))
        let r := elemOp (arOp a) int scale xi.1 y
        let o := toDest p (arRnd a) seed (first + xi.2) r.1
        (acc.1 ++ o.1, acc.2.add (r.2.add o.2))) ([], Ev.zero)

/-- The wire form of whole source units. `n` bounds the units. -/
def wireAll (n a seed first : Nat) (src : List (BitVec 8)) : List (BitVec 8) × Ev :=
  match n with
  | 0 => ([], .zero)
  | m + 1 =>
    let w := toWire a seed first (src.take (unitIn a))
    let r := wireAll m a seed (first + unitElems a) (src.drop (unitIn a))
    (w.1 ++ r.1, w.2.add r.2)

/-- Apply whole wire units to destination bytes. `n` bounds the units. -/
def applyAll (n a scale seed first : Nat) (wire dst : List (BitVec 8)) : List (BitVec 8) × Ev :=
  match n with
  | 0 => ([], .zero)
  | m + 1 =>
    let w := applyUnit a scale seed first (wire.take (unitWire a)) (dst.take (unitOut a))
    let r := applyAll m a scale seed (first + unitElems a) (wire.drop (unitWire a)) (dst.drop (unitOut a))
    (w.1 ++ r.1, w.2.add r.2)

/-! ### Scans and digests -/

/-- The state of an ABSMAX scan (R313) after one element: AUX as it would be returned. -/
def absmaxStep (p : Profile) (aux i : Nat) (bytes : List (BitVec 8)) : Nat :=
  let x := p.src.widen (leNat bytes)
  let best := aux % 2 ^ 32
  let new := match p.src with
    | .fp _ => if fp32Nan x then 0x7FC00000 else x % 2 ^ 31
    | _ => (toSigned 32 x).natAbs
  let isNan := match p.src with | .fp _ => fp32Nan x | _ => false
  let hadNan := match p.src with | .fp _ => fp32Nan best | _ => false
  if hadNan then aux
  else if isNan || best < new || i = 0 then new + (i % 2 ^ 32) * 2 ^ 32
  else aux

/-- An ABSMAX scan over `n` elements of the source format, from element `i`. -/
def absmaxAll (n : Nat) (p : Profile) (aux i : Nat) (src : List (BitVec 8)) : Nat :=
  match n with
  | 0 => aux
  | m + 1 => absmaxAll m p (absmaxStep p aux i (src.take p.src.size)) (i + 1) (src.drop p.src.size)

/-- One bit of the reflected CRC-64 of R311. -/
def crcBit (x : Nat) : Nat := if x % 2 = 1 then (x / 2) ^^^ 0xC96C5795D7870F42 else x / 2

/-- One byte of it. -/
def crcByte (x : Nat) (b : BitVec 8) : Nat :=
  crcBit (crcBit (crcBit (crcBit (crcBit (crcBit (crcBit (crcBit (x ^^^ b.toNat))))))))

/-- The running CRC over more bytes; it starts at `crcInit`. -/
def crcRun (x : Nat) (l : List (BitVec 8)) : Nat := l.foldl crcByte x
def crcInit : Nat := 0xFFFFFFFFFFFFFFFF

/-- The digest of the bytes run over (R311). -/
def crcDone (x : Nat) : Nat := x ^^^ 0xFFFFFFFFFFFFFFFF

end Sys2Proof.Machine
end

