-- ==== Sys2Proof/Machine/Item.lean ====
section
/-!
DEFINITION. What an item's descriptor says, the gates that hold an item (R233), and the events
and trace records of items (R654-R661). The engines themselves are in `Machine/He.lean`.
-/
namespace Sys2Proof.Machine

open Sys2Proof

/-- Does an opcode need a QP (R169)? -/
def opNeedsQp (o : Nat) : Bool := o == 0x02 || o == 0x03 || o == 0x05 || o == 0x06
/-- Does an opcode read a local source, write a local destination, or write at the peer (R169)? -/
def opLocalSrc (o : Nat) : Bool := o == 0x01 || o == 0x02 || o == 0x04 || o == 0x05 || o == 0x06 || o == 0x07
def opLocalDst (o : Nat) : Bool := o == 0x01 || o == 0x03 || o == 0x04
def opRemoteDst (o : Nat) : Bool := o == 0x02 || o == 0x05 || o == 0x06

/-- The access kind of an opcode's destination (R169). -/
def opDstKind (o : Nat) : Kind := if o = 0x04 ∨ o = 0x05 then .combine else .write

/-- The ring key of an item. -/
def Item.ringKey (it : Item) : Nat := 4096 * it.part + it.ring

/-- The address space of an item: that of its ring. -/
def itemAsn (b : Block) (it : Item) : Nat :=
  match tfind b.sq.rings it.ringKey with | some r => r.asn | none => 0

/-- Bytes of the destination range of an item (R283). -/
def dDstLen (d : List (BitVec 64)) : Nat :=
  if dArith d = 0 ∨ dOpcode d = 0x07 then dLength d else dLength d / unitIn (dArith d) * unitOut (dArith d)

/-- The seed an item uses where RND is 1 (R294), and 0 otherwise. -/
def Item.seedUsed (it : Item) : Nat :=
  if arRnd (dArith it.desc) then (if dSeed it.desc ≠ 0 then dSeed it.desc else it.seed.getD 0) else 0

/-! ### Gates (R233) -/

/-- The send window of a QP is closed (R343, R346): 1,024 PSNs outstanding, or for free traffic cwnd bytes. -/
def Qp.outBytes (q : Qp) : Nat := q.sent.foldl (fun n s => if s.rcvd then n else n + s.body.length) 0
def Qp.windowFull (q : Qp) : Bool := 1024 ≤ (q.nextPsn + 2 ^ 32 - q.una) % 2 ^ 32
def Qp.closed (q : Qp) (roped : Bool) : Bool := q.windowFull || (!roped && q.cwnd ≤ q.outBytes)

/-- Does a message of an item await APPLIED (R345, R346): its packets carry HELD_OK or DIGEST? -/
def dApplied (d : List (BitVec 64)) : Bool :=
  opRemoteDst (dOpcode d) && ((dOpcode d == 0x05 && dCard d != 0) || (dOpcode d == 0x05 && dDigest d))

def gateCard (it : Item) : Bool := dCard it.desc != 0 && !it.released

/-- The governor leaves no room for free work (R717). Power is in microwatts. -/
def govEnergy (b : Block) : Nat := let e := fget b F.ckGovCtlEMove 0; if e = 0 then 1 else e
def govPeriod (b : Block) : Nat := match b.ps.sched with | some s => s.len | none => 32000
/-- The power of `n` bytes over one pitch: pJ / ns = mW, so in microwatts 1000 n e / len. -/
def govPower (b : Block) (n : Nat) : Nat := n * govEnergy b * 1000 / govPeriod b
/-- A rate of the shelf in W/ms (R720: 0 is treated as 1); over `dt` ns it is that many microwatts. -/
def shelfRate (b : Block) (f : Fld) : Nat := if fget b f 0 = 0 then 1 else fget b f 0

def govRoom (b : Block) : Bool :=
  govPower b b.gov.freeBytes < b.gov.freePrev + b.gov.up
    && b.gov.blk + b.gov.fRel + govPower b b.gov.freeBytes < (variant b).watts * 1000000

/-- The bytes of an item that the governor counts in one tick: its length, at most what one engine moves (R229). -/
def govBytes (b : Block) (it : Item) : Nat :=
  let most := 230 * govPeriod b
  if dLength it.desc < most then dLength it.desc else most

def gateGov (b : Block) (it : Item) : Bool :=
  dCard it.desc == 0 && dLength it.desc != 0 && dOpcode it.desc != 0x09 && !govRoom b

def gateQp (b : Block) (it : Item) : Bool :=
  opNeedsQp (dOpcode it.desc) &&
    match tfind b.ft.qps (dQp it.desc) with
    | none => false
    | some q =>
      q.state != 2 && (!q.resident || q.closed (dCard it.desc != 0)
        || (dApplied it.desc && it.dpos == 0 && 16 ≤ q.awaits.length))

def gateSeed (it : Item) : Bool :=
  dArith it.desc != 0 && arRnd (dArith it.desc) && dSeed it.desc == 0 && it.seed.isNone && opLocalSrc (dOpcode it.desc)

/-- Is an item held by a gate other than the seed gate? -/
def gatedBefore (b : Block) (it : Item) : Bool := gateCard it || gateGov b it || gateQp b it

/-- Is an item held by a gate? -/
def gated (b : Block) (it : Item) : Bool := gatedBefore b it || gateSeed it

/-- Is an item speculative and held (R234)? Its lookups then obey the limits of prefetch. An item that has failed is
held by nothing. -/
def held (b : Block) (it : Item) : Bool := !it.committed && it.stage == .active && gated b it

/-- May an item take its seed now: is the seed gate the only one that holds it (R294)? -/
def seedWant (b : Block) (it : Item) : Bool := gateSeed it && !gatedBefore b it

/-! ### Events and trace records (R654-R660) -/

/-- An event of an item enters its engine's event ring, or is held with the item while it is speculative (R655). -/
def eventPut (tile engine : Nat) (w0 w1 : BitVec 64) (b : Block) : Block :=
  let l := ((w0, w1) :: tget [] b.tc.events (16 * tile + engine)).take 128
  modTc (fun t => { t with events := tput t.events (16 * tile + engine) l }) b

def eventWord (it : Item) (kind : Nat) : BitVec 64 :=
  BitVec.ofNat 64 (kind + it.part * 2 ^ 8 + it.ring * 2 ^ 12 + dTag it.desc * 2 ^ 32)

def event (i kind : Nat) (b : Block) : Block :=
  match tfind b.he.items i with
  | none => b
  | some it =>
    if !(fon b F.tcPartCtlEvents it.part) || fon b F.tcFreezeFrozen 0 then b
    else if it.committed then eventPut it.tile it.engine (BitVec.ofNat 64 b.now) (eventWord it kind) b
    else modItem i (fun it => { it with events := it.events ++ [(b.now, kind)] }) b

/-- `n` events of a code of an item are counted at its tile, or held with it until it commits (R672). -/
def itemCount (i code n : Nat) (b : Block) : Block :=
  match tfind b.he.items i with
  | none => b
  | some it => countFor (some i) it.tile code (some it.part) n b

/-- The records that a tile buffer holds at most (R660). -/
def traceRoom : Nat := 30720

/-- Put a trace record in a tile's buffer, or drop it and count it (R661). -/
def tracePut (tile part : Nat) (words : List (BitVec 64)) (b : Block) : Block :=
  let buf := tget [] b.tc.bufs tile
  if buf.length < traceRoom then
    modTc (fun t => { t with bufs := tput t.bufs tile (buf ++ [⟨part, words⟩]) }) b
  else
    fbump F.tcSinkCtlLost part 1 <|
      modTc (fun t => { t with dropped := tput t.dropped (16 * tile + part) (tget 0 t.dropped (16 * tile + part) + 1) }) b

/-- The first and third quadwords that BEGIN, END and DIGEST records share (R659). -/
def traceHead (it : Item) (ty : Nat) : Nat :=
  ty + it.part * 2 ^ 8 + it.tile * 2 ^ 12 + it.engine * 2 ^ 16 + dOpcode it.desc * 2 ^ 24 + dTag it.desc * 2 ^ 32
def traceMid (it : Item) : Nat := dLayer it.desc + dOperator it.desc * 2 ^ 16 + it.ring * 2 ^ 32

/-- A BEGIN record (R658, R659). -/
def traceBegin (b : Block) (it : Item) : List (BitVec 64) :=
  [traceHead it 1, b.now, traceMid it + dCard it.desc * 2 ^ 48,
   dLength it.desc + dArith it.desc * 2 ^ 32 + dFlags it.desc * 2 ^ 40].map (BitVec.ofNat 64)

/-- An END record, with the status word and BYTES_DONE of the completion entry. -/
def traceEnd (b : Block) (it : Item) (status done : Nat) : List (BitVec 64) :=
  [traceHead it 2, b.now, traceMid it + status * 2 ^ 48, done + it.seedUsed * 2 ^ 32].map (BitVec.ofNat 64)

/-- A DIGEST record. -/
def traceDigest (b : Block) (it : Item) (digest : Nat) : List (BitVec 64) :=
  [traceHead it 3, b.now, traceMid it, digest].map (BitVec.ofNat 64)

/-- May a trace record of an enable be written for a partition now (R658)? -/
def traceOn (b : Block) (f : Fld) (part : Nat) : Bool := fon b f part && !fon b F.tcFreezeFrozen 0

/-- Add the events of arithmetic of an item to its partition's counters (R315, R560 slot 12). -/
def arithEvents (part ring : Nat) (e : Ev) (b : Block) : Block :=
  if e = Ev.zero then b
  else
    fhNote (256 + 16 * part + 12) (.ring ring) (some part) <| fbump F.cxEventsNanMade part e.nans <|
      fbump F.cxEventsSaturated part e.sats <| fbump F.cxEventsMxNanBlocks part e.mxNans b


end Sys2Proof.Machine
end

