-- ==== Sys2Proof/Machine/Tu.lean ====
section
/-!
DEFINITION. The translation unit (R79-R159): slots, lookups, walks, ATS, run-ahead, access counters, faults and the
removal that an invalidation makes. The commands are in `Machine/Translate.lean`.
-/
namespace Sys2Proof.Machine

open Sys2Proof

/-- The key of an address space. -/
def asKey (p a : Nat) : Nat := 4096 * p + a

/-! ### Slots (R82-R85) -/

/-- Is an address space resident? Its slot number. -/
def slotOf (b : Block) (p a : Nat) : Option Nat := (b.tu.slots.find? (fun e => e.2.1 == p && e.2.2 == a)).map (·.1)

/-- The references an address space holds (R82): items accepted on rings bound to it, window accesses that name it, and
tile walks on it. -/
def asRefs (b : Block) (p a : Nat) : Nat :=
  tcount (fun _ it => it.part == p &&
      (match tfind b.sq.rings (4096 * it.part + it.ring) with | some r => r.asn == a | none => false)) b.he.items
    + tcount (fun _ w => w.part == p && w.asn == a) b.hp.wins
    + tcount (fun _ w => w.part == p && w.asn == a) b.tu.tileWalks

/-- The slots a partition holds or is loading into. -/
def slotsHeld (b : Block) (p : Nat) : Nat :=
  b.tu.slots.countP (fun e => e.2.1 == p) + b.tu.loading.countP (fun e => e.1 == p)

/-- The slots guaranteed to each partition (R84). -/
def slotShare (b : Block) : Nat := 64 / (variant b).partitions

/-- The slot that is evicted for an address space of partition `p` (R83): least recently used among those without
references, and first one of a partition beyond its guarantee where `p` is within its own. A partition is within its guarantee
where the slot that it asks for lies in it, so one at its share is not (DESIGN CHOICE, log entry 83). -/
def slotVictim (b : Block) (p : Nat) : Option (Nat × Nat × Nat) :=
  let free := b.tu.slots.filter (fun e => asRefs b e.2.1 e.2.2 == 0)
  let overShare := free.filter (fun e => slotShare b < slotsHeld b e.2.1)
  if slotsHeld b p < slotShare b then (match overShare with | e :: _ => some e | [] => free.head?) else free.head?

/-- A use of a slot makes it the most recently used. -/
def slotTouch (p a : Nat) (b : Block) : Block :=
  match b.tu.slots.find? (fun e => e.2.1 == p && e.2.2 == a) with
  | none => b
  | some e => modTu (fun t => { t with slots := t.slots.filter (· != e) ++ [e] }) b

/-- The lowest slot number that is free. -/
def slotFree (b : Block) : Nat :=
  ((List.range 64).find? (fun n => !(b.tu.slots.any (fun e => e.1 == n)))).getD 0

/-! ### Waiting accesses -/

/-- Change every waiting access. -/
def mapAccs (f : Access → Access) (b : Block) : Block :=
  modTu (fun t => { t with accs := t.accs.map (fun e => (e.1, f e.2)) }) b

/-- Change a walk in flight. -/
def modWalk (w : Nat) (f : Walk → Walk) (b : Block) : Block := modTu (fun t => { t with walks := tmod t.walks w f }) b

/-- Change a tile walk. -/
def modTileWalk (k : Nat) (f : TileWalk → TileWalk) (b : Block) : Block :=
  modTu (fun t => { t with tileWalks := tmod t.tileWalks k f }) b

/-- Let every waiting access that a test picks look up again. -/
def wake (p : Access → Bool) (b : Block) : Block :=
  mapAccs (fun a => if p a then { a with wait := .again } else a) b

/-- Does an access serve an item that is speculative and held (R234)? -/
def accHeld (b : Block) (a : Access) : Bool :=
  match a.owner with
  | .item i _ => (match tfind b.he.items i with | some it => held b it | none => false)
  | .win _ => false

/-- Fail every waiting access that a test picks. A speculative lookup of a held item stops instead (R234). -/
def wakeBad (p : Access → Bool) (cause : Nat) (b : Block) : Block :=
  mapAccs (fun a => if p a then { a with wait := if accHeld b a then .stopped else .bad ⟨cause, a.va⟩ } else a) b

/-- Make every access that a test picks look up again, whatever it waits for; the result of a Translation Request in flight for
it is discarded. An access that has failed, or that waits for a slot or a PRG Response, stays as it is. -/
def accRedo (p : Access → Bool) (b : Block) : Block :=
  let hit := fun (a : Access) => p a && (match a.wait with | .bad _ => false | .prg _ _ _ => false | .slot => false | _ => true)
  let gone := (b.tu.accs.filter (fun e => hit e.2)).map (·.1)
  wake hit { b with txns := b.txns.map (fun t => match t.2.use with
    | .ats n => if gone.contains n then (t.1, { t.2 with use := .free }) else t
    | _ => t) }

/-! ### Faults (R156-R158) -/

/-- The cause code of a failure for which bus mastering is off (R110); not a code of R156. -/
def causeMasterOff : Nat := 0x100
/-- The cause code of a result on another node of FV-00H, which it names (R5, R156); not a code of R156. -/
def causeUnreachable (node : Nat) : Nat := 0x10000 + node
/-- The cause code of a failure because the function is in reset (R508); not a code of R156. -/
def causeReset : Nat := 0x102

/-- The status of an item whose translation fails with a cause (R156, R110, R5). -/
def causeStatus (c : Nat) : Nat :=
  if c = causeMasterOff then 0x020
  else if causeUnreachable 0 ≤ c then 0x030
  else if c = causeReset then 0x021
  else if c < 0x10 then 0x010
  else if c < 0x20 then 0x011
  else 0x012

/-- Capture a translation fault in its partition (R157, R158), and tell the TRANSLATION slot of the fault hub (R560). -/
def tuCapture (part asn tag va cause : Nat) (kind : Kind) (window : Bool) (o : Obj) (b : Block) : Block :=
  let b :=
    if fon b F.tuFaultInfoValid part then fbump F.tuFaultInfoCount part 1 b
    else
      rput .tuFaultVa part (BitVec.ofNat 64 va) <| fput F.tuFaultInfoTag part tag <| fput F.tuFaultInfoAs part asn <|
        fput F.tuFaultInfoCause part cause <| fput F.tuFaultInfoCount part 1 <|
        fput F.tuFaultInfoKind part (kind.bit - 1) <| fput F.tuFaultInfoWindow part (b2n window) <|
        fput F.tuFaultInfoValid part 1 b
  fhNote (256 + 16 * part) o (some part) b

/-! ### Segments -/

/-- The segments of an address space, as (number, segment). -/
def segsOf (b : Block) (p a : Nat) : List (Nat × Seg) :=
  (b.tu.segs.filter (fun e => e.1 / 16 == asKey p a)).map (fun e => (e.1 % 16, e.2))

/-- Does a segment hold an address? -/
def Seg.holds (s : Seg) (va : Nat) : Bool := s.vbase ≤ va && va < s.vbase + s.len

/-- The staged base and length of a segment (R90, R91). -/
def segStaged (b : Block) (p a s : Nat) : Nat × Nat :=
  ((rget b .tuSegBase (16 * asKey p a + s)).toNat, (rget b .tuSegLen (16 * asKey p a + s)).toNat)

/-- Does a range touch the old or the new range of a pending segment (R97)? The range that is staged counts as the new one of a
removal too, for which the spec names none (DESIGN CHOICE, log entry 115). -/
def segPending (b : Block) (p a va n : Nat) : Bool :=
  (List.range 16).any (fun s =>
    fon b F.tuSegCtlPending (16 * asKey p a + s) &&
      (let (base, len) := segStaged b p a s
       overlaps base len va n ||
         (match tfind b.tu.segs (16 * asKey p a + s) with | some g => overlaps g.vbase g.len va n | none => false)))

/-- How many bytes from an address that no segment holds lie ahead of the next segment, up to `n` (R79). -/
def segGap (b : Block) (p a va n : Nat) : Nat :=
  (segsOf b p a).foldl (fun m e => if va < e.2.vbase ∧ e.2.vbase - va < m then e.2.vbase - va else m) n

/-- Does a range cross a stripe boundary of a striped segment of more than one node (R66)? -/
def stripeCrossed (b : Block) (p a va n : Nat) : Bool :=
  (segsOf b p a).any (fun e =>
    let s := e.2
    let lo := if va < s.vbase then s.vbase else va
    let hi := if va + n < s.vbase + s.len then va + n else s.vbase + s.len
    s.striped && s.nodes != 1 && decide (lo < hi) && (lo - s.vbase) >>> s.log2 != (hi - 1 - s.vbase) >>> s.log2)

/-! ### The page stage -/

/-- The bytes that an entry of a table level covers (R100). -/
def levelSpan (level : Nat) : Nat := 2 ^ (12 + 9 * level)

/-- The index of a virtual address in a table of a level: 256 entries at level 4, 512 below. -/
def levelIndex (level va : Nat) : Nat := va / levelSpan level % (if level = 4 then 256 else 512)

/-- Is a table or leaf entry malformed at its level (R108)? -/
def pteMalformed (level e : Nat) : Bool :=
  if bit e 1 then
    let size := if level = 0 ∧ bit e 7 then 65536 else levelSpan level
    3 ≤ level || (level != 0 && bit e 7) || 5 ≤ bits e 10 8 || bit e 2 || (e / 4096 * 4096) % size != 0
  else level == 0 || bits e 63 49 != 0 || bits e 11 2 != 0

/-- The TLB entry that a leaf gives (R101, R104): the whole run, from its base. -/
def leafTlb (tile part asn level va e : Nat) (spec : Option (Nat × Nat × Nat)) : Tlb :=
  let page := if level = 0 ∧ bit e 7 then 65536 else levelSpan level
  let run := 2 ^ bits e 10 8
  let i := va / page % run
  { tile := tile, part := part, asn := asn, va := va / (page * run) * (page * run), size := page * run,
    target := (e / 4096 * 4096 + 2 ^ 64 - i * page) % 2 ^ 64, rights := bits e 5 3 * 2, count := bit e 6, page := page,
    spec := spec, first := [], link := none }

/-- The mirror line, or walk cache line, of a level that covers an address. -/
def mirrorFind (b : Block) (p a level va : Nat) : Option Mirror :=
  b.tu.mirror.find? (fun m => m.part == p && m.asn == a && m.level == level && m.idx == va / (8 * levelSpan level))

/-- The depot channel that holds a mirror line: the spec does not say where in the depot the mirror lies (DESIGN CHOICE, log
entry 87: a free value). -/
def mirrorChannel (p a level idx : Nat) : Nat := Config.mirrorChannel p a level idx % 16

/-- The object number of a mirror line as a context line (R529, R545). -/
def mirrorObject (p a level va : Nat) : Nat := ((4096 * p + a) * 8 + level) * 2 ^ 48 + va / (8 * levelSpan level)

/-- The lines the mirror holds at most (R111). -/
def mirrorLines (b : Block) : Nat := (variant b).depotGib * 2 ^ 22

/-- The line that is replaced when the mirror is full and partition `p` fills one more (R111): the oldest of a partition beyond
its share; where none is beyond it, `p` is at its own, and its oldest line goes. -/
def mirrorVictim (b : Block) (p : Nat) : Option Mirror :=
  let share := mirrorLines b / (variant b).partitions
  match b.tu.mirror.find? (fun m => share < b.tu.mirror.countP (fun n => n.part == m.part)) with
  | some m => some m
  | none => (match b.tu.mirror.find? (fun m => m.part == p) with | some m => some m | none => b.tu.mirror.head?)

/-- Put a line read from table memory into the mirror, in place of an older copy. -/
def mirrorFill (p a level va : Nat) (line : List (BitVec 64)) (b : Block) : Block :=
  let idx := va / (8 * levelSpan level)
  let rest := b.tu.mirror.filter (fun m => !(m.part == p && m.asn == a && m.level == level && m.idx == idx))
  let rest := if rest.length < mirrorLines b then rest
    else match mirrorVictim b p with | some v => rest.filter (· != v) | none => rest
  modTu (fun t => { t with mirror := rest ++ [⟨p, a, level, idx, line⟩] }) b

/-! ### Access counters and the hot-page queue (R144-R152) -/

/-- Write a hot-page record, or drop it where the queue is full or off (R146-R148). The record goes to the queue's
place with posted writes before TAIL advances (R152). A record that finds no place, or whose requester may not issue, is treated
as one that finds the queue full (DESIGN CHOICE, log entry 84). -/
def hotRecord (c : Counter) (b : Block) : Block × Bool :=
  let p := c.part
  if !(fon b F.tuHotqCtlEnable p) then (b, false)
  else
    let sz := fget b F.tuHotqCtlSize p
    let n := 64 * 2 ^ (if 10 < sz then 10 else sz)
    let head := fget b F.tuHotqPtrHead p
    let tail := fget b F.tuHotqPtrTail p
    let full := head % 65536 == tail % 65536 && head / 65536 != tail / 65536
    let off := (rget b .tuHotqBase p).toNat + 32 * (tail % 65536)
    let place := localPlace b p off 32
    if full then (fbump F.tuHotqCtlDropped p 1 b, false)
    else
      match place with
      | none => (fbump F.tuHotqCtlDropped p 1 b, false)
      | some q =>
        let code := if c.page = 4096 then 0 else if c.page = 65536 then 1 else if c.page = 2 ^ 21 then 2 else 3
        let words := [c.va / 4096 * 4096 + c.asn, c.target / 4096 * 4096 + code, c.merged, b.now]
        let bytes := quadBytes (words.map (BitVec.ofNat 64))
        let fn := match q with | .port h _ _ => (requester b p h).getD 512 | _ => 512
        let ok := match q with | .port _ _ _ => fn != 512 && mastering b fn | _ => true
        if !ok then (fbump F.tuHotqCtlDropped p 1 b, false)
        else
          let empty := head == tail
          let b := issueWrite q p fn bytes 0 0 false false .free b
          let tail' := if tail % 65536 + 1 = n then (1 - tail / 65536) * 65536 else tail + 1
          let b := fput F.tuHotqPtrTail p tail' b
          (if empty && fon b F.tuHotqCtlInt p then sgAssert (1778 + p) b else b, true)

/-- Merge a counter's tile counts, and record the page if it becomes hot (R145, R146). -/
def counterMerge (c : Counter) (tiles : List Nat) (b : Block) : Counter × Block :=
  let merged := satAdd 65535 c.merged (c.tiles.foldl (· + ·) 0 - tiles.foldl (· + ·) 0)
  let c := { c with merged := merged, tiles := tiles }
  let th := fget b F.tuAsCtlHotThresh (asKey c.part c.asn)
  if !c.flagged && th != 0 && th ≤ merged then
    let (b, ok) := hotRecord c b
    ({ c with flagged := ok }, b)
  else (c, b)

/-- Count `n` units of 4 KiB of an access to a page at a tile (R144, R145). -/
def pageCount (tile part asn va page target n : Nat) (b : Block) : Block :=
  if n = 0 ∨ fget b F.tuAsCtlHotThresh (asKey part asn) = 0 then b
  else
    let same := fun (c : Counter) => c.part == part && c.asn == asn && c.va == va
    let c := (b.tu.counters.find? same).getD ⟨part, asn, va, page, target, List.replicate 12 0, 0, false⟩
    let tiles := lset c.tiles tile (c.tiles.getD tile 0 + n)
    let c := { c with tiles := tiles, target := target }
    let (c, b) := if 64 ≤ tiles.getD tile 0 then counterMerge c (lset tiles tile 0) b else (c, b)
    modTu (fun t => { t with counters := t.counters.filter (fun x => !same x) ++ [c] }) b

/-- Count a part of an access through a span, page by page (R144). `va` is the address of the part's first byte and `va0` that of
the access, whose bytes in a page are counted in units of 4 KiB from the first on, rounded up once. -/
def spanCount (tile part asn va0 va : Nat) (s : Span) (b : Block) : Block :=
  match s.page with
  | none => b
  | some (page, g) =>
    eachN ((va + s.len - 1) / page + 1 - va / page)
      (fun i b =>
        let p0 := (va / page + i) * page
        let lo := if p0 < va then va else p0
        let hi := if va + s.len < p0 + page then va + s.len else p0 + page
        let at_ := if p0 < va0 then va0 else p0
        pageCount tile part asn p0 page ((g + 2 ^ 64 + p0 - va) % 2 ^ 64)
          ((hi - at_ + 4095) / 4096 - (lo - at_ + 4095) / 4096) b) b

/-- The place and contiguous length from an offset of a range that is resolved, up to `n` bytes. -/
def Rng.at_ (r : Rng) (off n : Nat) : Option (Place × Nat × Span) :=
  match r.spans.find? (fun s => s.off ≤ off && off < s.off + s.len) with
  | none => none
  | some s =>
    let k := s.off + s.len - off
    some (s.place.add (off - s.off), if k < n then k else n, s)

/-- The part of a span from an offset of its range on, for counting (R144). -/
def Span.part (s : Span) (off n : Nat) : Span :=
  { off := off, len := n, place := s.place, page := s.page.map (fun e => (e.1, (e.2 + (off - s.off)) % 2 ^ 64)) }

/-! ### The commit point (R232) -/

/-- Commit an item (R232): its held events enter the event ring, its BEGIN record is made (R238), the counts that waited
for the commit are made (R37, R85, R137, R143, R144, R672), and the governor counts its bytes. A committed item is not committed
again. -/
def commit (i : Nat) (b : Block) : Block :=
  match tfind b.he.items i with
  | none => b
  | some it =>
    if it.committed then b
    else
      let b := each it.events (fun e b => eventPut it.tile it.engine (BitVec.ofNat 64 e.1) (eventWord it e.2) b) b
      let b := modItem i (fun it => { it with committed := true, events := [], hits := [], counts := [], made := (0, 0, 0), prefetched := 0, walkMiss := false }) b
      let b := each (it.hits ++ [(it.tile, 0x011, 1)]) (fun e b => tcCount e.1 e.2.1 (some it.part) e.2.2 b) b
      let b := fbump F.tuCountsSlotWait it.part ((it.hits.filter (fun e => e.2.1 == 0x025)).length) b
      let b := each it.counts (fun e b => match it.src.at_ e.1 e.2 with
        | some (_, n, s) => spanCount it.tile it.part (itemAsn b it) (dSrc it.desc) (dSrc it.desc + e.1) (s.part e.1 n) b
        | none => b) b
      let b := arithEvents it.part it.ring ⟨it.made.1, it.made.2.1, it.made.2.2⟩ b
      let b := event i 0x03 b
      let b := if traceOn b F.tcPartCtlBegin it.part then tracePut it.tile it.part (traceBegin b it) b else b
      let b := fbump F.tuCountsPrefetchUsed it.part it.prefetched b
      let b := if it.walkMiss then fbump F.tuCountsWalkMiss it.part 1 b else b
      if dCard it.desc = 0 then modGov (fun g => { g with freeBytes := g.freeBytes + govBytes b it }) b else b

/-! ### TLB and walk cache -/

/-- A tile's counts for the pages of a TLB entry that is evicted are merged (R145). -/
def evictMerge (e : Tlb) (b : Block) : Block :=
  let mine := b.tu.counters.filter (fun c => c.part == e.part && c.asn == e.asn && e.va ≤ c.va && c.va < e.va + e.size
    && c.tiles.getD e.tile 0 != 0)
  each mine (fun c b =>
    let (m, b) := counterMerge c (lset c.tiles e.tile 0) b
    modTu (fun t => { t with counters := t.counters.map (fun x => if x = c then m else x) }) b) b

/-- TLB entries are evicted (R83, R145): their counts are merged, and those prefetched and never used are counted (R143). -/
def tlbEvict (gone : Tlb → Bool) (b : Block) : Block :=
  let l := b.tu.tlb.filter gone
  let b := each l (fun e b => evictMerge e (if e.spec.isSome then fbump F.tuCountsDiscard e.part 1 b else b)) b
  modTu (fun t => { t with tlb := t.tlb.filter (fun e => !gone e) }) b

/-- Install a TLB entry in its tile (8,192 entries; the oldest gives way, log entry 15), in place of one of its range. -/
def tlbInstall (e : Tlb) (b : Block) : Block :=
  let same := fun (x : Tlb) => x.tile == e.tile && x.part == e.part && x.asn == e.asn && x.va == e.va
  let b := tlbEvict same b
  let b := if 8192 ≤ b.tu.tlb.countP (fun x => x.tile == e.tile) then
      (match b.tu.tlb.find? (fun x => x.tile == e.tile) with | some v => tlbEvict (· == v) b | none => b)
    else b
  modTu (fun t => { t with tlb := t.tlb ++ [e] }) b

/-- An access has used a TLB entry: one that was prefetched becomes an ordinary entry (R139), and is counted, with its item where
it has one, once that item has committed (R143). -/
def tlbUse (own : Option Nat) (e : Tlb) (b : Block) : Block :=
  if e.spec.isNone then b
  else
    let b := modTu (fun t => { t with tlb := t.tlb.map (fun x => if x = e then { x with spec := none } else x) }) b
    match own.bind (tfind b.he.items), own with
    | some it, some i =>
      if it.committed then fbump F.tuCountsPrefetchUsed it.part 1 b else modItem i (fun it => { it with prefetched := it.prefetched + 1 }) b
    | _, _ => fbump F.tuCountsPrefetchUsed e.part 1 b

/-- Remove the TLB entries of an address space from every tile (R83). -/
def tlbDropSpace (p a : Nat) (b : Block) : Block := tlbEvict (fun e => e.part == p && e.asn == a) b

/-- The entry of a tile's walk cache that a walk needs at a level. -/
def wcacheFind (b : Block) (tile p a level va : Nat) : Option WalkEnt :=
  b.tu.wcache.find? (fun e => e.tile == tile && e.part == p && e.asn == a && e.level == level && e.idx == va / levelSpan level)

/-- Put a table entry into a tile's walk cache of 256 entries (R106); the oldest gives way (DESIGN CHOICE, log entry 15). -/
def wcachePut (e : WalkEnt) (b : Block) : Block :=
  let rest := b.tu.wcache.filter (fun x => !(x.tile == e.tile && x.part == e.part && x.asn == e.asn && x.level == e.level && x.idx == e.idx))
  let rest := if rest.countP (fun x => x.tile == e.tile) < 256 then rest
    else match rest.find? (fun x => x.tile == e.tile) with | some v => rest.erase v | none => rest
  modTu (fun t => { t with wcache := rest ++ [e] }) b

/-! ### Slots and their loads -/

/-- Begin to load an address space into a slot, where one is free or can be freed; else it waits (R85). -/
def slotLoad (p a : Nat) (b : Block) : Block :=
  if (slotOf b p a).isSome || b.tu.loading.contains (p, a) then b
  else if b.tu.slots.length + b.tu.loading.length < 64 then
    modTu (fun t => { t with loading := t.loading ++ [(p, a)] }) b
  else
    match slotVictim b p with
    | none => b
    | some e =>
      let b := tlbDropSpace e.2.1 e.2.2 (modTu (fun t => { t with slots := t.slots.filter (· != e) }) b)
      modTu (fun t => { t with loading := t.loading ++ [(p, a)] }) b

/-- Let the accesses that wait for a slot try again to begin the load of their address space. -/
def slotRetry (b : Block) : Block :=
  each (b.tu.accs.filter (fun e => e.2.wait == .slot)) (fun e b => slotLoad e.2.part e.2.asn b) b

/-- The TLB entry that covers an address: of the tile itself, or of another tile that the lookup probes. -/
def tlbFind (b : Block) (tile p a va : Nat) : Option Tlb :=
  let hit := fun (e : Tlb) => e.part == p && e.asn == a && e.va ≤ va && va < e.va + e.size
  match b.tu.tlb.find? (fun e => e.tile == tile && hit e) with
  | some e => some e
  | none => b.tu.tlb.find? hit

/-- End a walk: the accesses that wait for it go on as `f` says. -/
def walkEnd (w : Nat) (f : Block → Block) (b : Block) : Block :=
  f (modTu (fun t => { t with walks := tdel t.walks w }) b)

/-- Is a table line in a host alias, for prefetch (R140) and for windows (R441)? -/
def inHostAlias (off : Nat) : Bool := match regionOf off with | .port _ => true | _ => false

/-- A walk that fails: a demand walk fails its accesses, a prefetch walk and one for a held speculative item stop (R140, R234). -/
def walkFail (w cause : Nat) (b : Block) : Block :=
  walkEnd w (wakeBad (fun a => a.wait == .walk w) cause) b

/-- The local offset of the level-4 table of an address space (R88). -/
def walkRoot (b : Block) (p a : Nat) : Nat := (rget b .tuAsRoot (asKey p a)).toNat

/-- The items whose accesses wait for a walk. -/
def walkItems (b : Block) (w : Nat) : List Nat :=
  b.tu.accs.filterMap (fun e => match e.2.owner with
    | .item i _ => if e.2.wait = .walk w then some i else none
    | .win _ => none)

/-- The item with which the reads of a walk are counted: the first that waits for it, where none that does has committed
(R37, R672). -/
def walkOwn (b : Block) (w : Nat) : Option Nat :=
  if (walkItems b w).any (fun i => match tfind b.he.items i with | some it => it.committed | none => false) then none
  else (walkItems b w).head?

/-- Does a walk serve no access but those of items that are speculative and held (R234)? -/
def walkSpec (b : Block) (w : Nat) : Bool :=
  !(walkItems b w).isEmpty && (walkItems b w).all (fun i => match tfind b.he.items i with
    | some it => held b it
    | none => true) && !(b.tu.accs.any (fun e => e.2.wait == .walk w && (match e.2.owner with | .win _ => true | _ => false)))

/-- The requester of an access on a port (R57): the accessing function where it is on that port, else the partition's
requester there; 512 where there is none. R57 names the owner of a host ring alone; where that owner is no function of the port,
the model takes the partition's requester there (DESIGN CHOICE, log entry 85). -/
def portFn (b : Block) (part fn h : Nat) : Nat := if fn / 128 = h then fn else (requester b part h).getD 512

/-- Read the table line that a walk needs at its level: a fault where it lies outside readable local memory, and the
exchange otherwise. A host read commits the items that wait for it (R232, R234). -/
def walkRead (w : Nat) (b : Block) : Block :=
  match tfind b.tu.walks w with
  | none => b
  | some k =>
    let off := k.table + levelIndex k.level k.va / 8 * 64
    if inHostAlias off && (k.walkOf.isSome || walkSpec b w) then walkFail w 0 b
    else
      match localPlace b k.part off 64 with
      | none => walkFail w 0x05 b
      | some (.port h bus t) =>
        let fn := portFn b k.part k.fn h
        if k.fn = 512 then walkFail w 0x05 b
        else if !mastering b fn then walkFail w (if flrActive b fn then causeReset else causeMasterOff) b
        else
          issueReadFor (walkOwn b w) (.port h bus t) k.part fn 64 k.asn k.va false false (.walk w)
            (each (walkItems b w) (fun i b => match tfind b.he.items i with
              | some it => if held b it then b else commit i b
              | none => b) b)
      | some p => issueReadFor (walkOwn b w) p k.part k.fn 64 k.asn k.va false false (.walk w) b

/-- The ATS Enable of a function (0x3A0 in a PF, 0x108 in a VF) and its Smallest Translation Unit. -/
def atsOn (b : Block) (fn : Nat) : Bool := cfgBit b fn (if fn % 128 = 0 then 0x3A4 else 0x10C) 31
def atsUnit (b : Block) (fn : Nat) : Nat :=
  4096 * 2 ^ bits (cfgGet b fn (if fn % 128 = 0 then 0x3A4 else 0x10C)).toNat 20 16
/-- The PRI Enable of a function (0x3A8 in a PF, 0x110 in a VF), and its outstanding allocation. -/
def priOn (b : Block) (fn : Nat) : Bool := cfgBit b fn (if fn % 128 = 0 then 0x3AC else 0x114) 0
def priAlloc (b : Block) (fn : Nat) : Nat := (cfgGet b fn (if fn % 128 = 0 then 0x3B4 else 0x11C)).toNat

/-- Does an ATS translation have the right that a kind needs? A combine reads and writes. -/
def atsRight (k : Kind) (r w : Bool) : Bool :=
  match k with
  | .read => r
  | .write => w
  | .combine => r && w

/-- An ATS cache entry for a bus address of a function. -/
def atsFind (b : Block) (fn bus : Nat) : Option AtsEntry :=
  b.tu.ats.find? (fun e => e.fn == fn && e.pasid == (pasidOf b fn).map (·.1) && e.addr ≤ bus && bus < e.addr + e.len)

/-- A walk goes down a level, to the table that an entry names. -/
def walkDown (w next : Nat) (b : Block) : Block :=
  modWalk w (fun k => { k with level := k.level - 1, table := next, reread := false }) b

/-- The translated address of a prefetched leaf (R141): where it lies in a host alias and the ATS cache of the port holds its first
byte for the requester, the entry is linked to that cache entry. Prefetch always takes what the cache holds (DESIGN CHOICE, log
entry 86). -/
def leafLink (b : Block) (part fn : Nat) (e : Tlb) : Tlb :=
  if e.spec.isNone ∨ gNode e.target ≠ selfNode b then e
  else
    match localPlace b part (gOff e.target) 1 with
    | some (.port h bus _) =>
      let fn := portFn b part fn h
      if atsOn b fn then { e with link := (atsFind b fn bus).map (fun x => (x.fn, x.pasid, x.addr)) } else e
    | _ => e

/-- What a walk does with the line of its level (R107): go down a level, end with a leaf, park, re-read an invalid
entry once, or fail. `fresh` says that the line has just been read. -/
def walkLine (w : Nat) (line : List (BitVec 64)) (fresh : Bool) (b : Block) : Block × Bool :=
  match tfind b.tu.walks w with
  | none => (b, false)
  | some k =>
    let e := (line.getD (levelIndex k.level k.va % 8) 0#64).toNat
    if !bit e 0 then
      if fresh then (walkFail w 0x03 b, false)
      else (walkRead w (modWalk w (fun k => { k with reread := true }) b), false)
    else if pteMalformed k.level e then (walkFail w 0x04 b, false)
    else if bit e 1 then
      if bit e 11 then
        (walkEnd w (fun b => mapAccs (fun a =>
            if a.wait == .walk w then { a with wait := if accHeld b a then .stopped else .held } else a) b)
          (each (b.tu.accs.filter (fun a => a.2.wait == .walk w && !accHeld b a.2))
            (fun a b => match a.2.owner with | .item i _ => event i 0x09 b | .win _ => b) b), false)
      else
        (walkEnd w (fun b => wake (fun a => a.wait == .walk w)
          (tlbInstall (leafLink b k.part k.fn (leafTlb k.tile k.part k.asn k.level k.va e k.walkOf)) b)) b, false)
    else (walkDown w (e / 4096 * 4096 % 2 ^ 49) (wcachePut ⟨k.tile, k.part, k.asn, k.level, k.va / levelSpan k.level, e / 4096 * 4096 % 2 ^ 49⟩ b), true)

/-- Read a line of the mirror from the depot for a walk. -/
def mirrorGet (w : Nat) (k : Walk) (b : Block) : Block :=
  emit (.mirrorRead k.part k.asn k.level (k.va / (8 * levelSpan k.level)) b.nextTxn)
    (openTxn ⟨.depot 0, k.part, k.fn, 64, none, k.asn, k.va, .mirror w k.level⟩ b)

/-- Carry a walk on: through the entries that the tile's walk cache holds, then by a read of the mirror line, or of the table
where the mirror has none (R107). -/
def walkRun (fuel w : Nat) (b : Block) : Block :=
  match fuel with
  | 0 => b
  | n + 1 =>
    match tfind b.tu.walks w with
    | none => b
    | some k =>
      match (if k.level = 0 then none else wcacheFind b k.tile k.part k.asn k.level k.va) with
      | some e => walkRun n w (walkDown w e.next b)
      | none =>
        if linePoisoned b 3 (mirrorObject k.part k.asn k.level k.va) then walkFail w 0x09 b
        else if (mirrorFind b k.part k.asn k.level k.va).isSome then mirrorGet w k b
        else walkRead w b

/-- A mirror line has been read for a walk: its event is counted (R673), and the walk goes on with it. A line that is gone
meanwhile is read from table memory. -/
def mirrorArrive (w : Nat) (b : Block) : Block :=
  match tfind b.tu.walks w with
  | none => b
  | some k =>
    match mirrorFind b k.part k.asn k.level k.va with
    | none => walkRead w b
    | some m =>
      let b := if k.walkOf.isSome then b
        else match walkItems b w with
          | i :: _ => itemCount i 0x022 1 b
          | [] => tcCount k.tile 0x022 (some k.part) 1 b
      let (b, more) := walkLine w m.line false b
      if more then walkRun 8 w b else b

/-- A mirror line is found with an uncorrectable ECC error (R113): it is discarded and the event recorded. -/
def mirrorBad (p a level va : Nat) (b : Block) : Block :=
  let idx := va / (8 * levelSpan level)
  let c := mirrorChannel p a level idx
  fhNote (96 + 2 * c) (.channel c) none
    (modTu (fun t => { t with mirror := t.mirror.filter (fun m => !(m.part == p && m.asn == a && m.level == level && m.idx == idx)) }) b)

/-- Has a tile a walker and a read of it free for one more walk: four walkers of 8 reads (R106)? -/
def walkerFree (b : Block) (t : Nat) : Bool := decide (tcount (fun _ k => k.tile == t) b.tu.walks < 32)

/-- Give a demand walk precedence over prefetch (R106): where the walkers of its tile are taken, the youngest prefetch walk
stops. -/
def walkerMake (t : Nat) (b : Block) : Block :=
  if walkerFree b t then b
  else match (tkeys (fun _ k => k.tile == t && k.walkOf.isSome) b.tu.walks).reverse with
    | w :: _ => walkEnd w id b
    | [] => b

/-- Start a walk from the root. -/
def walkStart (tile part asn fn va : Nat) (walkOf : Option (Nat × Nat × Nat)) (b : Block) : Nat × Block :=
  let w := b.tu.nextWalk
  let k : Walk := ⟨tile, part, asn, fn, va, walkOf, 4, walkRoot b part asn, false, false⟩
  (w, modTu (fun t => { t with nextWalk := t.nextWalk + 1, walks := tput t.walks w k }) b)

/-! ### Lookups (R79) -/

/-- What a lookup gives: a span, a wait, a failure, or a stop because the access is still speculative (R234). -/
inductive Look where
  | span (s : Span)
  | wait (w : Wait) (resolved : Span)
  | bad (cause : Nat)
  | stop
  deriving DecidableEq, Repr

/-- The Translation Request that an access needs (R116): the smallest range aligned to the Smallest Translation Unit that contains
it, up to the next bus address that is a multiple of 2 MiB (DESIGN CHOICE, log entry 88); what lies beyond is asked for later. -/
def atsAsk (b : Block) (fn bus : Nat) (s : Span) : Look :=
  let unit := if atsUnit b fn < 2 ^ 21 then atsUnit b fn else 2 ^ 21
  let a := alignDown bus unit
  let top := alignDown bus (2 ^ 21) + 2 ^ 21
  let e := alignUp (bus + s.len) unit
  let e := if top < e then top else e
  .wait (.ats a (e - a)) { s with len := if e - bus < s.len then e - bus else s.len }

/-- The ATS step of a lookup (R79 step 4, R115, R116, R449). -/
def atsStep (b : Block) (part fn : Nat) (kind : Kind) (spec : Bool) (s : Span) : Look :=
  match s.place with
  | .port h bus false =>
    let fn := portFn b part fn h
    if !atsOn b fn then .span s
    else
      match atsFind b fn bus with
      | some e =>
        if atsRight kind e.read e.write then
          .span { s with len := if e.addr + e.len - bus < s.len then e.addr + e.len - bus else s.len,
                         place := .port h (e.target + (bus - e.addr)) true }
        else if spec then .stop
        else atsAsk b fn bus s
      | none => if spec then .stop else atsAsk b fn bus s
  | _ => .span s

/-- What a global address means to an access: the reserved node (R49), the local map (R59), or another node, where the range must
stay within one region of the map that every node has (R53, R60). `g` is the global address of the first byte and `len` the
bytes that follow contiguously. -/
def globalPlace (b : Block) (part g len : Nat) : Place ⊕ Nat :=
  if noFabric b && gNode g != 0 then .inr (causeUnreachable (gNode g))
  else if gNode g = 0x7FFF then .inr 0x07
  else if gNode g = selfNode b then
    (match localPlace b part (gOff g) len with
     | some p => .inl p
     | none => .inr 0x06)
  else if regionOf (gOff g) != regionOf (gOff g + (len - 1)) then .inr 0x06
  else .inl (.remote (gNode g) (gOff g))

/-- Look up `len` bytes at `va` for a range that begins at `va0` and is `len0` long (R79-R81). -/
def lookup (b : Block) (tile part asn fn va len va0 len0 : Nat) (kind : Kind) (spec : Bool) : Look :=
  let k := asKey part asn
  if 2 ^ 56 ≤ va then .bad 0x01
  else if !(fon b F.tuAsCtlValid k) then .bad 0x02
  else if (slotOf b part asn).isNone then .wait .slot ⟨0, 0, .depot 0, none⟩
  else if segPending b part asn va len then .wait .seg ⟨0, 0, .depot 0, none⟩
  else if stripeCrossed b part asn va0 len0 then .bad 0x06
  else
    match (segsOf b part asn).find? (fun e => e.2.holds va) with
    | some (_, s) =>
      if !bit s.rights kind.bit then .bad 0x10
      else
        let n := if s.run va < len then s.run va else len
        (match globalPlace b part (s.resolve va) n with
         | .inr c => .bad c
         | .inl p => atsStep b part fn kind spec ⟨0, n, p, none⟩)
    | none =>
      if !(fon b F.tuAsCtlPages k) then .bad 0x03
      else
        match tlbFind b tile part asn va with
        | some e =>
          if !bit e.rights kind.bit then .bad 0x10
          else
            let n := segGap b part asn va (if e.va + e.size - va < len then e.va + e.size - va else len)
            let g := (e.target + (va - e.va)) % 2 ^ 64
            (match globalPlace b part g n with
             | .inr c => .bad c
             | .inl p => atsStep b part fn kind spec ⟨0, n, p, if e.count then some (e.page, g) else none⟩)
        | none => .wait (.walk 0) ⟨0, 0, .depot 0, none⟩

/-! ### Run-ahead (R133-R143) -/

/-- How many unused prefetched entries a walk holds, and a tile (R139). -/
def walkEntries (b : Block) (r i : Nat) : Nat :=
  b.tu.tlb.countP (fun e => match e.spec with | some (r', i', _) => r' == r && i' == i | none => false)
def tileEntries (b : Block) (t : Nat) : Nat := b.tu.tlb.countP (fun e => e.tile == t && e.spec.isSome)

/-- The virtual address of tile `j` of a walk. -/
def TileWalk.tileVa (w : TileWalk) (j : Nat) : Int := w.base + j * w.stride

/-- Move a walk's prefetch position on by `n` bytes, to the next tile where the tile ends. -/
def TileWalk.skip (n : Nat) (w : TileWalk) : TileWalk :=
  if w.size ≤ w.pos + n then { w with ahead := w.ahead + 1, pos := 0 } else { w with pos := w.pos + n }

/-- One step of a walk's prefetch: pass over what a segment or a TLB entry already covers, or start one prefetch walk
(one at a time for each tile walk, within the two walkers and 8 reads of each that R106 leaves to prefetch, and where demand
walks leave a walker free). -/
def prefetchStep (key : Nat) (b : Block) : Option Block :=
  match tfind b.tu.tileWalks key with
  | none => none
  | some w =>
    let r := key / 4096
    let i := key % 4096
    let busy := b.tu.walks.any (fun e => match e.2.walkOf with | some (r', i', _) => r' == r && i' == i | none => false)
    let tileBusy := tcount (fun _ k => k.tile == w.tile && k.walkOf.isSome) b.tu.walks
    if busy || 16 ≤ tileBusy || !walkerFree b w.tile || w.count ≤ w.ahead || w.next + w.depth ≤ w.ahead then none
    else if 256 ≤ walkEntries b r i || 1024 ≤ tileEntries b w.tile + tileBusy then none
    else
      let skip := fun n => some (modTileWalk key (TileWalk.skip n) b)
      let v := w.tileVa w.ahead + w.pos
      if v < 0 ∨ 2 ^ 56 ≤ v then skip w.size
      else
        let va := v.toNat
        if !(fon b F.tuAsCtlValid (asKey w.part w.asn)) || segPending b w.part w.asn va 1 then none
        else if (slotOf b w.part w.asn).isNone then none
        else
          match (segsOf b w.part w.asn).find? (fun e => e.2.holds va) with
          | some (_, s) => skip (s.vbase + s.len - va)
          | none =>
            if !(fon b F.tuAsCtlPages (asKey w.part w.asn)) then skip 4096
            else
              match tlbFind b w.tile w.part w.asn va with
              | some e => skip (e.va + e.size - va)
              | none =>
                let (k, b) := walkStart w.tile w.part w.asn w.fn va (some (r, i, w.ahead)) b
                some (walkRun 8 k (modTileWalk key (TileWalk.skip (4096 - va % 4096)) b))

/-- Let a walk's prefetch run as far as it can. -/
def prefetch (key : Nat) (b : Block) : Block := loop 512 (prefetchStep key) b

/-- Let every walk's prefetch run. -/
def prefetchAll (b : Block) : Block := each b.tu.tileWalks (fun e b => prefetch e.1 b) b

/-- Discard the unused prefetched entries of a walk whose tile a test picks; they are counted (R143). -/
def walkDiscard (r i : Nat) (p : Nat → Bool) (b : Block) : Block :=
  tlbEvict (fun e => match e.spec with | some (r', i', j) => r' == r && i' == i && p j | none => false) b

/-- End a tile walk (R138). A prefetch walk in flight goes on and installs its entry under the index and tile for which it began; the
spec is silent on it (DESIGN CHOICE, log entry 116). -/
def walkRemove (key : Nat) (b : Block) : Block :=
  match tfind b.tu.tileWalks key with
  | none => b
  | some _ =>
    walkDiscard (key / 4096) (key % 4096) (fun _ => true)
      (modTu (fun t => { t with tileWalks := tdel t.tileWalks key }) b)

/-! ### Invalidation (R123-R132) -/

/-- Does a scope cover any byte of a range of an address space? -/
def Scope.covers (s : Scope) (asn va len : Nat) : Bool :=
  match s with
  | .range a v n => a == asn && overlaps v n va len
  | .space a => a == asn
  | .partition => true

/-- The range that a walk may give a translation of from its level on: the longest run of it (R101, R104). -/
def Walk.reach (k : Walk) : Nat × Nat :=
  let n := if k.level = 0 then 2 ^ 20 else 16 * levelSpan k.level
  (alignDown k.va n, n)

/-- Remove what an invalidation removes (R127, R131, R138): TLB entries, mirror lines and walk-cache entries with those of the
tables on the path, counters, and prefetched entries; walks in flight become stale where it overlaps what they read or may give,
and tile walks of a whole address space end. -/
def invalRemove (p : Nat) (s : Scope) (b : Block) : Block :=
  let gone := b.tu.tlb.countP (fun e => e.part == p && s.covers e.asn e.va e.size && e.spec.isSome)
  let ended := b.tu.tileWalks.filter (fun e => e.2.part == p &&
    (match s with | .range _ _ _ => false | .space a => e.2.asn == a | .partition => true))
  let b := fbump F.tuCountsDiscard p gone <| modTu (fun t => { t with
      tlb := t.tlb.filter (fun e => !(e.part == p && s.covers e.asn e.va e.size))
      mirror := t.mirror.filter (fun m => !(m.part == p &&
        s.covers m.asn (m.idx * (8 * levelSpan m.level)) (8 * levelSpan m.level)))
      wcache := t.wcache.filter (fun e => !(e.part == p && s.covers e.asn (e.idx * levelSpan e.level) (levelSpan e.level)))
      counters := t.counters.filter (fun c => !(c.part == p && s.covers c.asn c.va c.page))
      walks := t.walks.map (fun e => if e.2.part == p && s.covers e.2.asn e.2.reach.1 e.2.reach.2
        then (e.1, { e.2 with stale := true }) else e) }) b
  let lines := tkeys (fun k l => l.poisoned && k % 4 == 3 && (let o := k / 4
    o / 2 ^ 51 / 4096 == p && s.covers (o / 2 ^ 51 % 4096) (o % 2 ^ 48 * (8 * levelSpan (o / 2 ^ 48 % 8)))
      (8 * levelSpan (o / 2 ^ 48 % 8)))) b.cc.lines
  each ended (fun e b => walkRemove e.1 b) (each lines lineForget b)

/-- ATS cache entries go, and the speculative TLB entries that are linked to them with them (R120, R141). -/
def atsDrop (gone : AtsEntry → Bool) (b : Block) : Block :=
  let l := b.tu.ats.filter gone
  tlbEvict (fun e => e.spec.isSome && l.any (fun x => e.link == some (x.fn, x.pasid, x.addr)))
    (modTu (fun t => { t with ats := t.ats.filter (fun e => !gone e) }) b)

/-- Empty a function's entries of the ATS cache and abandon its page requests (R122). -/
def atsForget (fn : Nat) (b : Block) : Block :=
  let b := modTu (fun t => { t with prgs := t.prgs.filter (fun e => e.2.1 != fn) }) (atsDrop (fun e => e.fn == fn) b)
  wake (fun a => a.fn == fn && (match a.wait with | .prg _ _ _ => true | .prgQueue _ _ => true | _ => false)) b

end Sys2Proof.Machine
end

