-- ==== Sys2Proof/Machine/He.lean ====
section
/-!
DEFINITION. The haul engines (R227-R266): how an item translates, reads, combines and writes, how it fails, its fence,
its completion record and the stranded log. The commands are in `Machine/Items.lean` and `Machine/Answers.lean`.
-/
namespace Sys2Proof.Machine

open Sys2Proof

/-! ### Intervals of bytes that are done -/

/-- How far the intervals reach without a gap from `n`; `fuel` bounds the search. -/
def ivReach (fuel n : Nat) (l : List (Nat × Nat)) : Nat :=
  match fuel with
  | 0 => n
  | k + 1 =>
    match l.find? (fun e => e.1 ≤ n && n < e.1 + e.2) with
    | some e => ivReach k (e.1 + e.2) l
    | none => n

/-- The length of the prefix that intervals of bytes cover. -/
def ivPrefix (l : List (Nat × Nat)) : Nat := ivReach (l.length + 1) 0 l

/-- Add an interval; intervals inside the prefix become one. -/
def ivAdd (off len : Nat) (l : List (Nat × Nat)) : List (Nat × Nat) :=
  let l := (off, len) :: l
  let n := ivPrefix l
  (if n = 0 then [] else [(0, n)]) ++ l.filter (fun e => n < e.1 + e.2)

/-- The total bytes that the intervals of a list cover within `len`, each byte once. -/
def ivCovers (len : Nat) (l : List (Nat × Nat)) : Bool := len ≤ ivPrefix l

/-- The longest run of staged bytes from an offset, up to `n` bytes. `fuel` bounds the pieces joined. -/
def stagedAt (fuel : Nat) (l : List (Nat × List (BitVec 8))) (off n : Nat) : List (BitVec 8) :=
  match fuel with
  | 0 => []
  | k + 1 =>
    if n = 0 then []
    else
      match l.find? (fun e => e.1 ≤ off && off < e.1 + e.2.length) with
      | none => []
      | some e =>
        let x := (e.2.drop (off - e.1)).take n
        x ++ stagedAt k l (off + x.length) (n - x.length)

/-- Staged pieces without the bytes below an offset. -/
def stagedDrop (l : List (Nat × List (BitVec 8))) (off : Nat) : List (Nat × List (BitVec 8)) :=
  l.filter (fun e => off < e.1 + e.2.length)

/-! ### Lengths and progress -/

/-- The source bytes of an item whose destination bytes are durable. -/
def Item.doneDst (it : Item) : Nat := ivPrefix it.durable

/-- Source bytes that a prefix of destination bytes stands for (R286). -/
def srcOf (d : List (BitVec 64)) (n : Nat) : Nat :=
  if dArith d = 0 ∨ dOpcode d = 0x07 then n else n / unitOut (dArith d) * unitIn (dArith d)

/-- How far the source of an item is past WRITE DESTINATION (R228). -/
def Item.doneSrc (it : Item) : Nat :=
  if dOpcode it.desc = 0x07 then it.cons else srcOf it.desc it.doneDst

/-- BYTES_DONE (R258): all, none, or a length that ends on a 64 B boundary of the destination, in whole units. -/
def Item.bytesOf (it : Item) : Nat :=
  if dOpcode it.desc = 0x07 then it.cons
  else if !(opLocalDst (dOpcode it.desc) || opRemoteDst (dOpcode it.desc)) then 0
  else
    let n := it.doneDst
    if n = 0 then 0
    else if dDstLen it.desc ≤ n then dLength it.desc
    else srcOf it.desc (alignDown (dDst it.desc + n) 64 - dDst it.desc)

/-- The directions of an item (R250): those of its destination where it is known, all four where it is not. -/
def Item.dirs (it : Item) : List Dir :=
  let o := dOpcode it.desc
  if opRemoteDst o then [.fabric]
  else if o = 0x08 then [.host, .compute, .depot, .fabric]
  else if opLocalDst o then
    (match it.dst.spans with
     | [] => [.host, .compute, .depot, .fabric]
     | s :: _ => match s.place with
       | .die _ _ => [.compute]
       | .depot _ => [.depot]
       | .port _ _ _ => [.host]
       | .remote _ _ => [.host, .compute, .depot, .fabric])
  else []

/-- 64 KiB staging buffers that an item holds (R228, R230): what it has read, or while it drains consumed, and not yet written. -/
def Item.buffers (it : Item) : Nat :=
  let top := if it.stage = .active then it.rd else if it.stage = .draining then it.cons else 0
  if opLocalSrc (dOpcode it.desc) || dOpcode it.desc == 0x03 then (top + 65535) / 65536 - it.doneSrc / 65536 else 0

/-- Speculation of a partition's items is allowed (R246, R247). -/
def specAllowed (b : Block) (p : Nat) : Bool :=
  !(fon b F.hePartWeightSpecOff p) && fget b F.heLimitsSpecChunks 0 != 0
def specLimit (b : Block) : Nat := let n := fget b F.heLimitsSpecChunks 0; if 64 < n then 64 else n

/-- Is an item speculative (R232)? One of a partition with SPEC_OFF waits, non-speculative (R236). -/
def speculative (b : Block) (it : Item) : Bool :=
  !it.committed && it.begun && !fon b F.hePartWeightSpecOff it.part

/-- Staging buffers of an engine's committed items, of a tile's items that have not committed, and of a tile: the buffers beyond
the four that each engine has for its committed items are shared (R230). -/
def engineBuffers (b : Block) (t e : Nat) : Nat :=
  b.he.items.foldl (fun n x => if x.2.tile = t ∧ x.2.engine = e ∧ x.2.committed then n + x.2.buffers else n) 0
def specBuffers (b : Block) (t : Nat) : Nat :=
  b.he.items.foldl (fun n x => if x.2.tile = t ∧ !x.2.committed then n + x.2.buffers else n) 0
def sharedBuffers (b : Block) (t : Nat) : Nat :=
  (List.range 16).foldl (fun n e => n + (engineBuffers b t e - 4)) (specBuffers b t)
def tileBuffers (b : Block) (t : Nat) : Nat :=
  b.he.items.foldl (fun n x => if x.2.tile = t then n + x.2.buffers else n) 0

/-! ### Undoing and failing -/

/-- The exchanges of an item that carry data towards it. -/
def Use.readOf (u : Use) (i : Nat) : Bool :=
  match u with
  | .src j _ _ => j == i
  | .operand j _ => j == i
  | .waitRead j => j == i
  | _ => false

/-- The exchanges of an item that are destination writes. -/
def Use.writeOf (u : Use) (i : Nat) : Bool :=
  match u with
  | .dst j _ _ => j == i
  | _ => false

/-- The digest of an item before any byte: the CRC's start, or 0 for a scan for the largest magnitude (R311-R313). -/
def digestInit (d : List (BitVec 64)) : Nat :=
  if dOpcode d = 0x07 ∧ arOp (dArith d) = 5 ∧ dArith d ≠ 0 then 0 else crcInit

/-- Bytes that speculative reads of an item brought are discarded (R238, R249). -/
def specDiscard (i n : Nat) (b : Block) : Block :=
  if n = 0 then b else fbump F.heSpecDiscardBytes 0 n (itemCount i 0x015 n b)

/-- An item's reads towards it end, and its waiting access. -/
def itemUnread (i : Nat) (b : Block) : Block :=
  let b := closeTxns (fun t => t.use.readOf i) b
  match (tfind b.he.items i).bind (·.acc) with
  | some a => modItem i (fun it => { it with acc := none }) (modTu (fun t => { t with accs := tdel t.accs a }) b)
  | none => b

/-- Undo an item's speculative work (R236, R238): nothing of it is left but its acceptance and its begin. A committed item is never
undone (R239). -/
def undo (i : Nat) (b : Block) : Block :=
  match tfind b.he.items i with
  | none => b
  | some it =>
    if it.committed then b
    else
      let b := modItem i (fun it =>
        { it with rd := 0, cons := 0, pieces := [], counts := [], digest := digestInit it.desc, made := (0, 0, 0),
                  events := it.events.filter (fun e => e.2 == 0x01 || e.2 == 0x02),
                  hits := it.hits.filter (fun e => e.2.1 == 0x010 || e.2.1 == 0x015),
                  src := { it.src with spans := [], upTo := 0 },
                  dst := { it.dst with spans := [], upTo := 0 },
                  fen := { it.fen with spans := [], upTo := 0 } }) (itemUnread i b)
      specDiscard i (if dOpcode it.desc = 0x08 then 0 else it.rd) b

/-- An item that is reached by a reset or a teardown before it commits has its speculation undone (R236, R266). One that has failed
has nothing left to undo. -/
def undoEarly (i : Nat) (b : Block) : Block :=
  match tfind b.he.items i with
  | some it =>
    if it.begun && it.status == 0 && (it.stage == .active || it.stage == .fence || it.stage == .record) then undo i b else b
  | none => b

/-- Release the destination blocks that a combine holds (R289). -/
def blocksFree (owner : Nat) (b : Block) : Block :=
  modHe (fun h => { h with blocks := h.blocks.filter (fun e => e.2.2 != owner) }) b

/-- An item fails (R262): it issues nothing more for its data; writes already issued run to their ends. The first failure
stands. A failure of an item whose data has all ended changes nothing. What an item that has not committed has read is discarded
(R249). -/
def itemFail (i status aux : Nat) (b : Block) : Block :=
  match tfind b.he.items i with
  | none => b
  | some it =>
    if it.status != 0 || !(it.stage == .waiting || it.stage == .active || it.stage == .draining) then b
    else
      let b := if it.committed || dOpcode it.desc = 0x08 then b else specDiscard i it.rd b
      modItem i (fun it => { it with status := status, aux := aux, stage := .draining, begun := true, stopped := true,
                                     comb := [], pieces := [] }) (itemUnread i b)

/-- Set the failure marks of an item's directions (R195). -/
def marksSet (it : Item) (b : Block) : Block :=
  modRing it.ringKey (fun r => { r with marks := it.dirs.foldl (fun l d => if l.contains d then l else l ++ [d]) r.marks }) b

/-- An item whose data has ended well fails afterwards: it takes the status, and sets its failure marks (R195). -/
def itemLate (i status aux : Nat) (b : Block) : Block :=
  match tfind b.he.items i with
  | none => b
  | some it => if it.status != 0 then b else marksSet it (modItem i (fun it => { it with status := status, aux := aux }) b)

/-- Change the shadow entry of an address. -/
def shadowSet (l : List Shadow) (addr : Nat) (f : Shadow → Shadow) : List Shadow :=
  l.map (fun e => if e.addr = addr then f e else e)

/-- A fence cannot be written (R200): its shadow entry is broken, and an item that had not failed takes the status. The word
was not written, so the entry keeps the last good value it had, and the item's failure marks stand (R195, R197). -/
def fenceFail (i status aux : Nat) (b : Block) : Block :=
  match tfind b.he.items i with
  | none => b
  | some it =>
    let b := marksSet it <| modRing it.ringKey (fun r =>
      { r with shadow := shadowSet r.shadow (dFenceAddr it.desc) (fun e =>
          { e with broken := true, good := it.fencePrior.getD e.good }) }) b
    let aux := if status = 0x010 ∨ status = 0x011 ∨ status = 0x012 ∨ status = 0x030 ∨ status = 0x031 ∨ status = 0x032 then aux
      else dFenceAddr it.desc
    modItem i (fun it =>
      { it with status := if it.status = 0 then status else it.status, aux := if it.status = 0 then aux else it.aux,
                stage := .record }) (itemUnread i b)

/-- A translation of an item fails (R156, R193). A fence whose translation an invalidation took away, and that fails when it is
looked up again, cannot be written (R200). -/
def itemFault (i which : Nat) (f : TuFault) (kind : Kind) (b : Block) : Block :=
  match tfind b.he.items i with
  | none => b
  | some it =>
    let st := causeStatus f.cause
    let tu := f.cause < 0x100
    let aux := if tu then f.va else if st = 0x030 then f.cause - causeUnreachable 0 else 0
    let b := if tu then tuCapture it.part (itemAsn b it) (dTag it.desc) f.va f.cause kind false (.ring it.ring) b else b
    if it.stage = .fence then fenceFail i st aux b
    else
      let b := itemFail i st aux b
      if which = 2 then modItem i (fun it => { it with fen := { it.fen with bad := some f } }) b else b

/-- An access of an item that has been translated cannot be made (R59, R261): one to a die that is no longer present is a
translation fault, MAP_HOLE at its address. -/
def placeFail (i st va : Nat) (kind : Kind) (b : Block) : Block :=
  if st = 0x010 then itemFault i 3 ⟨0x06, va⟩ kind b else itemFail i st 0 b

/-! ### Translation of ranges -/

/-- The ranges of an item: 0 source, 1 destination, 2 fence. -/
def Item.rng (it : Item) (w : Nat) : Rng := if w = 0 then it.src else if w = 1 then it.dst else it.fen
def Item.setRng (w : Nat) (r : Rng) (it : Item) : Item :=
  if w = 0 then { it with src := r } else if w = 1 then { it with dst := r } else { it with fen := r }

/-- May a range of an item lie at a place (R169, R170, R253)? `peer` is the peer node of the item's QP. -/
def placeAllowed (d : List (BitVec 64)) (w : Nat) (peer : Option Nat) (p : Place) : Bool :=
  let o := dOpcode d
  match p with
  | .remote n _ =>
    peer == some n && ((w == 0 && o == 0x03) || (w == 1 && opRemoteDst o) || (w == 2 && !dWait d))
  | _ => w == 2 || (w == 0 && opLocalSrc o) || (w == 1 && opLocalDst o)

/-- Do two places lie on the same node? -/
def sameNode (p q : Place) : Bool :=
  match p, q with
  | .remote m _, .remote n _ => m == n
  | .remote _ _, _ => false
  | _, .remote _ _ => false
  | _, _ => true

/-- Does a further span of a range stay in the region of its first (R60)? -/
def sameRegion (r : Rng) (p : Place) : Bool :=
  match r.spans with
  | [] => true
  | s :: _ => s.place.region == p.region && sameNode s.place p

/-- The function that an item's accesses name of their own: the owner of a host ring; 511 for a compute ring, whose accesses
use the partition's requester on each port (R57). -/
def ownFn (b : Block) (it : Item) : Nat :=
  match tfind b.sq.rings it.ringKey with
  | some r => if r.host then it.fn else 511
  | none => it.fn

/-- The requester of an item's access to a place (R57). -/
def itemFn (b : Block) (it : Item) (p : Place) : Nat :=
  match p with
  | .port h _ _ => portFn b it.part (ownFn b it) h
  | _ => it.fn

/-- The peer node that an item reaches, where its operation names a QP. -/
def itemPeer (b : Block) (it : Item) : Option Nat :=
  if opNeedsQp (dOpcode it.desc) then (tfind b.ft.qps (dQp it.desc)).map (·.peerNode) else none

/-- The lowest address of an item's range that a segment resolves to a node or place which the operand does not allow, with its cause
(R5, R170). Segments are tested over the whole range before any byte moves; what pages resolve is tested as it is reached
(R48, R170; DESIGN CHOICE, log entry 100). -/
def segRefused (b : Block) (it : Item) (w : Nat) : Option TuFault :=
  let r := it.rng w
  let l := (segsOf b it.part (itemAsn b it)).filterMap (fun e =>
    let lo := if r.va < e.2.vbase then e.2.vbase else r.va
    if decide (lo < r.va + r.len) && e.2.holds lo then
      (match globalPlace b it.part (e.2.resolve lo) 1 with
       | .inl p => if placeAllowed it.desc w (itemPeer b it) p then none else some ⟨0x12, lo⟩
       | .inr c => if causeUnreachable 0 ≤ c then some ⟨c, lo⟩ else none)
    else none)
  l.foldl (fun (acc : Option TuFault) f => match acc with
    | none => some f
    | some g => if f.va < g.va then some f else some g) none

/-- The fault with which a resolved span may not stand in a range of an item: a place that the operand does not allow, or a second
region of one range (R60). -/
def spanRefused (b : Block) (it : Item) (w : Nat) (s : Span) : Option TuFault :=
  let r := it.rng w
  if !placeAllowed it.desc w (itemPeer b it) s.place then some ⟨0x12, r.va + r.upTo⟩
  else if !sameRegion r s.place then some ⟨0x06, r.va + r.upTo⟩
  else if r.upTo = 0 then segRefused b it w
  else none

/-- Put a resolved span into a range, or fail the item where the span may not lie there. -/
def spanTake (i w : Nat) (s : Span) (b : Block) : Block :=
  match tfind b.he.items i with
  | none => b
  | some it =>
    let r := it.rng w
    match spanRefused b it w s with
    | some f => itemFault i w f r.kind b
    | none =>
      modItem i (Item.setRng w { r with spans := r.spans ++ [{ s with off := r.upTo }], upTo := r.upTo + s.len }) b

/-- An event of a waiting access is counted, with its item where it has one (R672). -/
def accessCount (a : Access) (code : Nat) (b : Block) : Block :=
  match a.owner with
  | .item i _ => itemCount i code 1 b
  | .win _ => tcCount a.tile code (some a.part) 1 b

/-- A lookup was served by a page in a TLB: the first-level TLB of the engine, which holds 64 entries, or the tile's
(R673). Entries move into the first-level TLB as they are used (DESIGN CHOICE, log entry 15). -/
def tlbServed (i va : Nat) (b : Block) : Block :=
  match tfind b.he.items i with
  | none => b
  | some it =>
    let asn := itemAsn b it
    if (segsOf b it.part asn).any (fun e => e.2.holds va) then b
    else
      match tlbFind b it.tile it.part asn va with
      | none => b
      | some e =>
        if e.tile = it.tile ∧ e.first.contains it.engine then tlbUse (some i) e (itemCount i 0x020 1 b)
        else
          let mine := b.tu.tlb.filter (fun x => x.tile == it.tile && x.first.contains it.engine)
          let old := if mine.length < 64 then none else mine.head?
          let used := if e.tile = it.tile then { e with first := sins it.engine e.first } else e
          tlbUse (some i) used <| itemCount i 0x021 1 (modTu (fun t => { t with tlb := t.tlb.map (fun x =>
            if x = e then used
            else if some x = old then { x with first := x.first.erase it.engine }
            else x) }) b)

/-- An access that can obtain no slot is counted (R85), with its item where it has one, once that item has committed (R37). -/
def slotWaitCount (a : Access) (b : Block) : Block :=
  let counted : Bool := match a.owner with
    | .item i _ => (match tfind b.he.items i with | some it => it.committed | none => true)
    | .win _ => true
  accessCount a 0x025 (if counted then fbump F.tuCountsSlotWait a.part 1 b else b)

/-- Open an access that waits, and act on what it waits for: the load of a slot, a walk, an ATS request (R82, R107,
R116). One that can obtain no slot is counted (R85). -/
def accessWait (a : Access) (w : Wait) (b : Block) : Nat × Block :=
  let n := b.tu.nextAcc
  let b := modTu (fun t => { t with nextAcc := t.nextAcc + 1, accs := tput t.accs n { a with wait := w } }) b
  match w with
  | .slot =>
    let b := slotLoad a.part a.asn b
    (n, if b.tu.loading.contains (a.part, a.asn) then b else slotWaitCount a b)
  | .walk _ =>
    let b := walkerMake a.tile b
    if !walkerFree b a.tile then (n, modAcc n (fun x => { x with wait := .walker }) b) else
    let (k, b) := walkStart a.tile a.part a.asn a.fn a.va none b
    let b := modAcc n (fun x => { x with wait := .walk k }) (accessCount a 0x023 b)
    (n, walkRun 8 k b)
  | .ats addr len =>
    if !mastering b a.fn then
      (n, modAcc n (fun x => { x with wait := .bad ⟨if flrActive b a.fn then causeReset else causeMasterOff, x.va⟩ }) b)
    else
    let t := b.nextTxn
    let b := openTxn ⟨.port (a.fn / 128) addr false, a.part, a.fn, len, none, a.asn, a.va, .ats n⟩ b
    (n, emitTlpFor (some a.part) (a.fn / 128) (.atsRequest a.fn addr len (pasidOf b a.fn) t) (accessCount a 0x024 b))
  | _ => (n, b)

/-- Look up a range of an item from the byte that is not yet translated on, as far as one translation reaches (R81): `some` where
that made progress. A lookup of an item that is speculative and held obeys R234; a host request commits an item that is not
held. `tries` are the Success responses that the access has had to its Page Requests (R119). -/
def rngLook (i w tries : Nat) (b : Block) : Option Block :=
  match tfind b.he.items i with
  | none => none
  | some it =>
    let r := it.rng w
    let asn := itemAsn b it
    let va := r.va + r.upTo
    let want := r.len - r.upTo
    let spec := held b it
    match lookup b it.tile it.part asn (ownFn b it) va want r.va r.len r.kind spec with
    | .span s =>
      if spec && (spanRefused b it w s).isSome then none
      else some (spanTake i w s (slotTouch it.part asn (tlbServed i va b)))
    | .stop => none
    | .bad c => if spec then none else some (itemFault i w ⟨c, va⟩ r.kind (slotTouch it.part asn b))
    | .wait k s =>
      let b := slotTouch it.part asn b
      let ats := match k with | .ats _ _ => true | _ => false
      let b := if ats && !spec then commit i b else b
      let b := match k with | .ats _ _ => event i 0x0A b | _ => b
      let fn := if ats then itemFn b it s.place else ownFn b it
      let (n, b) := accessWait ⟨.item i w, it.part, asn, va, want, r.kind, fn, it.tile, tries, s, k⟩ k b
      let b := match k with
        | .slot => if b.tu.loading.contains (it.part, asn) then b else event i 0x0B b
        | _ => b
      some (modItem i (fun it => { it with acc := some n }) b)

/-- One step of translating a range of an item further: `some` where it made progress. An access that waits goes on once what it
waits for has come; its result is dropped where the range has been cut meanwhile. -/
def rngStep (i w : Nat) (b : Block) : Option Block :=
  match tfind b.he.items i with
  | none => none
  | some it =>
    let r := it.rng w
    match it.acc with
    | some a =>
      (match tfind b.tu.accs a with
       | none => some (modItem i (fun it => { it with acc := none }) b)
       | some x =>
         let drop := fun b => modItem i (fun it => { it with acc := none })
           (modTu (fun t => { t with accs := tdel t.accs a }) b)
         match x.owner with
         | .item _ w' =>
           if w' != w then none
           else
             (match x.wait with
              | .again => (match rngLook i w x.tries (drop b) with | some b => some b | none => some (drop b))
              | .done s =>
                if x.va != r.va + r.upTo then some (drop b)
                else if held b it && (spanRefused b it w s).isSome then none
                else some (spanTake i w s (tlbServed i x.va (drop b)))
              | .bad f => if held b it then none else some (itemFault i w f r.kind (drop b))
              | .walker => if walkerFree b x.tile then rngLook i w x.tries (drop b) else none
              | .stopped => if held b it then none else some (drop b)
              | _ => none)
         | .win _ => none)
    | none => rngLook i w 0 b

/-! ### Places of a range -/

/-- Is the place of an item's access usable now? A die must be present, a port's requester must be able to issue. The
status that the access gives otherwise (R261, R264, R460, R488). -/
def placeStatus (b : Block) (fn : Nat) (p : Place) : Option Nat :=
  match p with
  | .die d _ => if fon b F.idCmemDiePresent d then none else some 0x010
  | .port _ _ _ =>
    if fn = 512 then some 0x020
    else if mastering b fn then none
    else if flrActive b fn || !fnEnabled b fn then some 0x021
    else some 0x020
  | _ => none

/-- Does an access to a place fall on a 64 B block that a combine other than `owner` holds (R289)? -/
def blockBusy (b : Block) (part : Nat) (p : Place) (len : Nat) (owner : Option Nat) : Bool :=
  b.he.blocks.any (fun e => some e.2.2 != owner &&
    match e.2.1, p with
    | .die d a, .die d' a' => d == d' && overlaps a 64 a' len
    | .depot a, .depot a' => e.1 == part && overlaps a 64 a' len
    | .port h a _, .port h' a' _ => h == h' && overlaps a 64 a' len
    | _, _ => false)

/-- Is a write of a 64 B block of a place outstanding? A combine reads its operand once it is durable, so that no write falls between
its read and its write (R289). -/
def writeOpen (b : Block) (part : Nat) (p : Place) (len : Nat) : Bool :=
  b.txns.any (fun e => e.2.data.isSome && len != 0 &&
    match e.2.place, p with
    | .die d a, .die d' a' => d == d' && overlaps a e.2.len (alignDown a' 64) (alignUp (a' + len) 64 - alignDown a' 64)
    | .depot a, .depot a' => e.2.part == part && overlaps a e.2.len (alignDown a' 64) (alignUp (a' + len) 64 - alignDown a' 64)
    | _, _ => false)

/-- The 64 B blocks that a piece of a place touches, as their first bytes. -/
def blocksOf (p : Place) (len : Nat) : List Place :=
  let a := match p with | .die _ a => a | .depot a => a | .port _ a _ => a | .remote _ a => a
  (List.range (blocks64 a len)).map (fun k =>
    match p with
    | .die d _ => .die d (a / 64 * 64 + 64 * k)
    | .depot _ => .depot (a / 64 * 64 + 64 * k)
    | .port h _ t => .port h (a / 64 * 64 + 64 * k) t
    | .remote n _ => .remote n (a / 64 * 64 + 64 * k))

/-! ### Arbitration (R243-R245) -/

/-- Does an item go on within a chunk that has its buffer? -/
def chunkOpen (it : Item) : Bool := it.rd % 65536 != 0 && it.doneSrc / 65536 ≤ it.rd / 65536

/-- Are four chunks of an item between READ SOURCE and the end of WRITE DESTINATION (R228)? -/
def chunksFull (it : Item) : Bool := it.doneSrc / 65536 + 4 ≤ it.rd / 65536

/-- Does a committed item wait for one of the shared buffers of its tile? -/
def wantsShared (b : Block) (it : Item) : Bool :=
  let o := dOpcode it.desc
  it.committed && it.stage == .active && (opLocalSrc o || o == 0x03) && it.poisonAt.isNone && decide (it.rd < dLength it.desc)
    && !chunkOpen it && !chunksFull it && decide (4 ≤ engineBuffers b it.tile it.engine)

/-- The instant at which a round's card releases, as far as the schedule says. -/
def cardDue (b : Block) (i : Nat) : Nat :=
  match b.ps.rounds.find? (fun r => r.items.contains i), b.ps.sched with
  | some r, some s => (match tfind s.cards r.card with
    | some c => s.origin + ((r.k - 1) * s.cycle + c.pitch) * s.len
    | none => 0)
  | _, _ => 0

/-- The weight of a partition at the arbiters; 0 is treated as 1 (R246). -/
def partWeight (b : Block) (p : Nat) : Nat :=
  let w := fget b F.hePartWeightWeight p
  if w = 0 then 1 else w

/-- Deficit round robin in bytes (R244): the partition that is granted next and the deficits then, from the partition last served
on. `size` is the size of the oldest free work of each partition. `fuel` bounds the turns. -/
def drrRun (fuel last : Nat) (deficit : List Nat) (weight : Nat → Nat) (size : Nat → Option Nat) : Option (Nat × List Nat) :=
  match fuel with
  | 0 => none
  | n + 1 =>
    let more : Bool := match size last with
      | some s => s ≤ deficit.getD last 0 && deficit.getD last 0 != 0
      | none => false
    if more then some (last, deficit)
    else
      let p := (last + 1) % 16
      drrRun n p (lset deficit p (if (size p).isSome then deficit.getD p 0 + weight p * 4096 else 0)) weight size

/-- The partition that arbiter `a` grants next, and its deficits then; none where no partition has free work. -/
def drrPick (b : Block) (a : Nat) (size : Nat → Option Nat) : Option (Nat × List Nat) :=
  if (List.range 16).all (fun p => (size p).isNone) then none
  else drrRun 512 (tget 0 b.he.lastServed a) ((List.range 16).map (fun p => tget 0 b.he.deficit (16 * a + p))) (partWeight b) size

/-- Charge a grant of `n` bytes at arbiter `a` to its partition. -/
def drrCharge (a n : Nat) (size : Nat → Option Nat) (b : Block) : Block :=
  match drrPick b a size with
  | none => b
  | some (p, l) =>
    modHe (fun h =>
      { h with deficit := (List.range 16).foldl (fun m q => tset 0 m (16 * a + q) (if q = p then l.getD q 0 - n else l.getD q 0)) h.deficit,
               lastServed := tset 0 h.lastServed a p }) b

/-- The place of a card-bound item in the order of the cards (R243): the pitch of its round, then its card. -/
def cardPlace (b : Block) (e : Nat × Item) : Nat × Nat := (cardDue b e.1, dCard e.2.desc)
def cardBefore (x y : Nat × Nat) : Bool := x.1 < y.1 || (x.1 == y.1 && x.2 ≤ y.2)

/-- Insert a numbered piece of work before the first that does not come earlier. -/
def insertCard (k : Nat × Nat) (i : Nat) : List ((Nat × Nat) × Nat) → List ((Nat × Nat) × Nat)
  | [] => [(k, i)]
  | x :: r => if cardBefore k x.1 then (k, i) :: x :: r else x :: insertCard k i r

/-- Work in the order of its cards, and in the order given within one. -/
def cardOrder (l : List ((Nat × Nat) × Nat)) : List Nat := (l.foldr (fun e acc => insertCard e.1 e.2 acc) []).map (·.2)

/-- Items in the order of their cards, oldest first within one. -/
def cardSort (b : Block) (l : List (Nat × Item)) : List Nat := cardOrder (l.map (fun e => (cardPlace b e, e.1)))

/-! ### Reading the source -/

/-- Does an item wait for its translations before it may read (R193)? The fence comes first. -/
def Item.fenceReady (it : Item) : Bool := it.fen.len ≤ it.fen.upTo

/-- The mark of an item whose speculative read met an error: it reads again after its commit (R235). -/
def noSpec : Nat := 2 ^ 63

/-- Does an invalidation that undid an item's reads still run (R236), or did a speculative read of it meet an error (R235)? -/
def holdOn (b : Block) (it : Item) : Bool :=
  match it.hold with
  | some n => (match tfind b.tu.invals n with | some v => !v.complete | none => n == noSpec && held b it)
  | none => false

/-- The arbiters of R243 at which free work shares by deficit round robin (log entry 98): the fabric transmit queues of tile `t` have
number `t`; the shared staging buffers of a tile, the four buffers of an engine, the buffers that speculative items may take, and the
engines' issue selectors of a tile. -/
def poolShared (t : Nat) : Nat := 12 + t
def poolEngine (t e : Nat) : Nat := 24 + 16 * t + e
def poolSpec (t : Nat) : Nat := 216 + t
def issueOf (t : Nat) : Nat := 228 + t

/-- The arbiter of the staging buffer that an item takes next (R230, R247). -/
def poolOf (b : Block) (it : Item) : Nat :=
  if !it.committed then poolSpec it.tile
  else if engineBuffers b it.tile it.engine < 4 then poolEngine it.tile it.engine
  else poolShared it.tile

/-- Does an item wait for a staging buffer, and for nothing else, to read its next chunk? -/
def waitsBuffer (b : Block) (it : Item) : Bool :=
  it.stage == .active && opLocalSrc (dOpcode it.desc) && it.poisonAt.isNone && decide (it.rd < dLength it.desc)
    && !chunkOpen it && !chunksFull it && it.fenceReady && (!dFence it.desc || it.entered) && decide (it.rd < it.src.upTo)
    && !holdOn b it
    && (it.committed || (specAllowed b it.part && it.hold != some noSpec &&
      match it.src.at_ it.rd 1 with | some (p, _, _) => !p.isPort | none => false))

/-- The items that wait at an arbiter of staging buffers, an asking item `i` among them. -/
def poolWaiters (b : Block) (a i : Nat) : List (Nat × Item) :=
  b.he.items.filter (fun e => (e.1 == i || waitsBuffer b e.2) && poolOf b e.2 == a)

/-- The chunk that the oldest free item of a partition waits to stage. -/
def poolSize (l : List (Nat × Item)) (p : Nat) : Option Nat :=
  (l.find? (fun e => e.2.part == p && dCard e.2.desc == 0)).map (fun e => Nat.min 65536 (dLength e.2.desc - e.2.rd))

/-- Does the arbiter of an item's next staging buffer grant it to the item: roped items first, in card order, then free ones (R243,
R244)? -/
def stageGranted (b : Block) (i : Nat) (it : Item) : Bool :=
  let l := poolWaiters b (poolOf b it) i
  match cardSort b (l.filter (fun e => dCard e.2.desc != 0)) with
  | x :: _ => x == i
  | [] =>
    match drrPick b (poolOf b it) (poolSize l) with
    | none => true
    | some (p, _) => (l.find? (fun e => e.2.part == p)).map (·.1) == some i

/-- A free item that takes a staging buffer is charged for its chunk. -/
def stageCharge (i : Nat) (it : Item) (b : Block) : Block :=
  if !chunkOpen it && dCard it.desc == 0 then
    let a := poolOf b it
    drrCharge a (Nat.min 65536 (dLength it.desc - it.rd)) (poolSize (poolWaiters b a i)) b
  else b

/-- Does the gate of the first of two held items open before that of the second (R236)? Where only the schedule knows an instant,
an item that waits for its card is expected later than one that does not, and otherwise the younger one (DESIGN CHOICE, log entry
93). -/
def opensBefore (b : Block) (x y : Nat × Item) : Bool :=
  let kx := if gateCard x.2 then cardDue b x.1 + 1 else 0
  let ky := if gateCard y.2 then cardDue b y.1 + 1 else 0
  kx < ky || (kx == ky && x.1 < y.1)

/-- The held item of a tile with staged data whose gate is expected to open last. -/
def reclaimNext (b : Block) (t : Nat) : Option Nat :=
  ((b.he.items.filter (fun e => e.2.tile == t && held b e.2 && e.2.buffers != 0)).foldl (fun acc e => match acc with
    | none => some e
    | some x => if opensBefore b x e then some e else some x) none).map (·.1)

/-- Discard the staged data of held items of a tile until a shared buffer is free, the one whose gate is expected to open last
first (R236). -/
def reclaim (t : Nat) (b : Block) : Block :=
  loop 64 (fun b => if sharedBuffers b t < 64 then none else (reclaimNext b t).map (fun i => undo i b)) b

/-- May an item take one more chunk into staging (R228, R230, R247)? One that has not committed counts against SPEC_CHUNKS. A buffer
goes to the item that its arbiter grants it (R243, R244). -/
def mayStage (b : Block) (i : Nat) (it : Item) : Bool :=
  if chunkOpen it then true
  else if chunksFull it then false
  else if !it.committed then
    specAllowed b it.part && specBuffers b it.tile < specLimit b && sharedBuffers b it.tile < 64 && stageGranted b i it
  else (engineBuffers b it.tile it.engine < 4 || sharedBuffers b it.tile < 64) && stageGranted b i it

/-- The state in which an item that is held by no gate reads `n` bytes of a place (R232, R235): speculative where it may be, else
committed. An item that may not speculate commits as it begins to read (DEDUCED, log entry 94). A committed item frees a shared
buffer where none is left. -/
def readReady (i : Nat) (p : Place) (b : Block) : Option Block :=
  match tfind b.he.items i with
  | none => none
  | some it =>
    if !it.committed && !p.isPort && it.hold != some noSpec && mayStage b i it then some (stageCharge i it b)
    else if held b it then none
    else
      let b := commit i b
      match tfind b.he.items i with
      | none => none
      | some it =>
        let b := if wantsShared b it then reclaim it.tile b else b
        if mayStage b i it then some (stageCharge i it b) else none

/-- Issue one source read of an item: a piece that lies in one span and one chunk. -/
def readStep (i : Nat) (b : Block) : Option Block :=
  match tfind b.he.items i with
  | none => none
  | some it =>
    if !opLocalSrc (dOpcode it.desc) || !it.fenceReady || it.poisonAt.isSome || dLength it.desc ≤ it.rd
        || holdOn b it then none
    else if held b it && !specAllowed b it.part then none
    else
      match it.src.at_ it.rd (65536 - it.rd % 65536) with
      | none => rngStep i 0 b
      | some (p, n, s) =>
        match readReady i p b with
        | none => none
        | some b' =>
          let fn := itemFn b it p
          let com := match tfind b'.he.items i with | some x => x.committed | none => true
          match placeStatus b fn p with
          | some st => if held b it then none else some (placeFail i st (dSrc it.desc + it.rd) .read b)
          | none =>
            let b := issueRead p it.part fn n (itemAsn b it) (dSrc it.desc + it.rd) true false (.src i it.rd (!com)) b'
            let b := if com then spanCount it.tile it.part (itemAsn b it) (dSrc it.desc) (dSrc it.desc + it.rd) (s.part it.rd n) b else b
            some (modItem i (fun it => { it with rd := it.rd + n, counts := if com then it.counts else it.counts ++ [(it.rd, n)] }) b)

/-! ### Consuming, combining and writing -/

/-- A data write of an item at an offset of its destination (R251, R263): it commits the item, is counted, and on a host
port is durable as soon as it is issued. -/
def dstWrite (i off : Nat) (bytes : List (BitVec 8)) (poison : Bool) (p : Place) (s : Span) (b : Block) : Block :=
  match tfind b.he.items i with
  | none => b
  | some it =>
    let fn := itemFn b it p
    let asn := itemAsn b it
    let b := commit i b
    let b := spanCount it.tile it.part asn (dDst it.desc) (dDst it.desc + off) (s.part off bytes.length) b
    let b := issueWrite p it.part fn bytes asn (dDst it.desc + off) true poison (.dst i off (if poison then 0 else bytes.length)) b
    let b := modItem i (fun it => { it with passed := true }) b
    if p.isPort then
      let b := tcCount it.tile 0x014 (some it.part) bytes.length b
      modRing it.ringKey (fun r => { r with hostWrites := sins fn r.hostWrites }) <|
        modItem i (fun it => { it with durable := ivAdd off bytes.length it.durable, hostWrites := sins fn it.hostWrites }) b
    else b

/-- Do `n` bytes of a place hold the byte at another? -/
def Place.holds (p : Place) (n : Nat) (q : Place) : Bool :=
  match p, q with
  | .die d a, .die e c => d == e && a ≤ c && c < a + n
  | .depot a, .depot c => a ≤ c && c < a + n
  | .port h a _, .port k c _ => h == k && a ≤ c && c < a + n
  | .remote m a, .remote k c => m == k && a ≤ c && c < a + n
  | _, _ => false

/-- Does byte `off` of an item's destination, at a place, lie in its source range (R231)? -/
def overlapAt (it : Item) (off : Nat) (p : Place) : Bool :=
  opLocalSrc (dOpcode it.desc) &&
    ((dSrc it.desc ≤ dDst it.desc + off && dDst it.desc + off < dSrc it.desc + dLength it.desc)
      || it.src.spans.any (fun s => s.place.holds s.len p))

/-- The bytes that an item writes from an offset on, at a place: those of the overlap of its source and destination are undefined
(R231). Each takes the next free value of `Config.overlapByte`. -/
def overlapBytes (it : Item) (off : Nat) (p : Place) (bytes : List (BitVec 8)) (b : Block) : List (BitVec 8) × Block :=
  let hit := (List.range bytes.length).filter (fun k => overlapAt it (off + k) (p.add k))
  if hit.isEmpty then (bytes, b)
  else (hit.foldl (fun l k => lset l k (Config.overlapByte (b.fresh + k))) bytes, { b with fresh := b.fresh + bytes.length })

/-- Fresh free bytes in place of a result that the spec does not give (R259). -/
def poisonFill (n : Nat) (b : Block) : List (BitVec 8) × Block :=
  ((List.range n).map (fun k => Config.poisonByte (b.fresh + k)), { b with fresh := b.fresh + n })

/-- The parts of a range from an offset on, as offset, length, place and span; `fuel` bounds them. -/
def Rng.parts (fuel : Nat) (r : Rng) (off n : Nat) : List (Nat × Nat × Place × Span) :=
  match fuel with
  | 0 => []
  | k + 1 =>
    if n = 0 then []
    else
      match r.at_ off n with
      | none => []
      | some (p, m, s) => if m = 0 then [] else (off, m, p, s) :: r.parts k (off + m) (n - m)

/-- Do two ranges of places touch a common 64 B block? -/
def placeMeets (p : Place) (n : Nat) (q : Place) (m : Nat) : Bool :=
  let wide := fun a => alignUp (a + n) 64 - a / 64 * 64
  match p, q with
  | .die d a, .die e c => d == e && overlaps (a / 64 * 64) (wide a) c m
  | .depot a, .depot c => overlaps (a / 64 * 64) (wide a) c m
  | .port h a _, .port k c _ => h == k && overlaps (a / 64 * 64) (wide a) c m
  | .remote v a, .remote w c => v == w && overlaps (a / 64 * 64) (wide a) c m
  | _, _ => false

/-- The bad block of a source is reached (R259, R260): the item fails. Poisoned data for compute memory is written there with the
poison mark, which counts for nothing in BYTES_DONE: `bytes` are the destination's, and their translation comes first. -/
def poisonReached (i st : Nat) (bytes : List (BitVec 8)) (b : Block) : Option Block :=
  match tfind b.he.items i with
  | none => none
  | some it =>
    if st ≠ 0x050 ∨ bytes = [] then some (itemFail i st 0 b)
    else if it.dst.upTo < it.dpos + bytes.length then rngStep i 1 b
    else
      let dies := (it.dst.parts 8 it.dpos bytes.length).filter (fun e => match e.2.2.1 with
        | .die _ _ => (placeStatus b (itemFn b it e.2.2.1) e.2.2.1).isNone
        | _ => false)
      if dies.any (fun e => blockBusy b it.part e.2.2.1 e.2.1 (some i)) then none
      else
        some (itemFail i st 0 (each dies (fun e b =>
          dstWrite i e.1 ((bytes.drop (e.1 - it.dpos)).take e.2.1) true e.2.2.1 e.2.2.2 b) b))

/-- The staged bytes of the source block that a consumer has come to. -/
def Item.blockHere (it : Item) : List (BitVec 8) := stagedAt 64 it.pieces it.cons (64 - (dSrc it.desc + it.cons) % 64)

/-- Consume staged source bytes of a COPY or READ_REMOTE: one write to one span of the destination. -/
def copyStep (i : Nat) (b : Block) : Option Block :=
  match tfind b.he.items i with
  | none => none
  | some it =>
    if it.poisonAt.map (·.1) = some it.cons then
      (if held b it then none else poisonReached i ((it.poisonAt.map (·.2)).getD 0x051) it.blockHere b)
    else
      let lim := match it.poisonAt with | some (k, _) => k - it.cons | none => 65536
      let x := stagedAt 64 it.pieces it.cons lim
      if x.isEmpty || held b it then none
      else
        match it.dst.at_ it.dpos x.length with
        | none => rngStep i 1 b
        | some (p, n, s) =>
          if blockBusy b it.part p n (some i) then none
          else
            (match placeStatus b (itemFn b it p) p with
             | some st => some (placeFail i st (dDst it.desc + it.dpos) .write b)
             | none =>
               let (y, b) := overlapBytes it it.dpos p (x.take n) b
               let b := dstWrite i it.dpos y false p s b
               some (modItem i (fun it =>
                 { it with cons := it.cons + n, dpos := it.dpos + n, pieces := stagedDrop it.pieces (it.cons + n),
                           digest := if dDigest it.desc then crcRun it.digest y else it.digest }) b))

/-- Does bad source data lie within the next `u` bytes to be consumed? -/
def Item.badWithin (it : Item) (u : Nat) : Bool :=
  match it.poisonAt with
  | some (k, _) => k < it.cons + u
  | none => false

/-- Consume staged source bytes of a DIGEST, which it may do while it is speculative (R227); its arithmetic events then wait for
the commit (R37): the CRC of the raw bytes, of the wire form, or the scan for the largest
magnitude (R311-R313). -/
def digestStep (i : Nat) (b : Block) : Option Block :=
  match tfind b.he.items i with
  | none => none
  | some it =>
    let u := if dArith it.desc = 0 then 1 else unitIn (dArith it.desc)
    if it.badWithin u then some (itemFail i ((it.poisonAt.map (·.2)).getD 0x051) 0 b)
    else
      let lim := match it.poisonAt with | some (k, _) => k - it.cons | none => 65536
      let x := stagedAt 64 it.pieces it.cons lim
      let x := x.take (x.length / u * u)
      if x.isEmpty || gateSeed it && arRnd (dArith it.desc) then none
      else
        let n := x.length
        let first := it.cons / u * unitElems (dArith it.desc)
        let (dg, ev) :=
          if dArith it.desc = 0 then (crcRun it.digest x, Ev.zero)
          else if arOp (dArith it.desc) = 5 then
            (match profileOf (arProfile (dArith it.desc)) with
             | some p => (absmaxAll (n / p.src.size) p it.digest (it.cons / p.src.size) x, Ev.zero)
             | none => (it.digest, Ev.zero))
          else
            let w := wireAll (n / u) (dArith it.desc) it.seedUsed first x
            (crcRun it.digest w.1, w.2)
        let b := modItem i (fun it =>
          { it with cons := it.cons + n, pieces := stagedDrop it.pieces (it.cons + n), digest := dg,
                    made := if it.committed then it.made
                      else (it.made.1 + ev.nans, it.made.2.1 + ev.sats, it.made.2.2 + ev.mxNans) }) b
        some (if it.committed then arithEvents it.part it.ring ev b else b)

/-- Begin the read-modify-write of one piece of a COMBINE_LOCAL (R287, R289): its wire form is kept and the destination
operand is read once its blocks are free. A piece is whole units of one span, or one unit that crosses spans. The item commits as
it issues the read of its operand, which R227 puts after the commit (DEDUCED, log entry 92). -/
def combineStep (i : Nat) (b : Block) : Option Block :=
  match tfind b.he.items i with
  | none => none
  | some it =>
    let a := dArith it.desc
    let u := unitIn a
    if it.opBad.isSome then none
    else if it.badWithin u then
      (if it.comb.isEmpty then
        let n := it.blockHere.length / u
        let (fill, b) := poisonFill ((if n = 0 then 1 else n) * unitOut a) b
        poisonReached i ((it.poisonAt.map (·.2)).getD 0x051) fill b
      else none)
    else
      let lim := match it.poisonAt with | some (k, _) => k - it.cons | none => 4096
      let x := stagedAt 64 it.pieces it.cons (if lim < 4096 then lim else 4096)
      if x.length < u || held b it then none
      else
        match it.dst.at_ it.dpos (x.length / u * unitOut a) with
        | none => rngStep i 1 b
        | some (_, m, _) =>
          let k := if m < unitOut a then 1 else m / unitOut a
          let n := k * unitOut a
          if it.dst.upTo < it.dpos + n then rngStep i 1 b
          else
            let ps := it.dst.parts 4 it.dpos n
            if ps.any (fun e => blockBusy b it.part e.2.2.1 e.2.1 none || writeOpen b it.part e.2.2.1 e.2.1) then none
            else
              (match ps.findSome? (fun e => placeStatus b (itemFn b it e.2.2.1) e.2.2.1) with
               | some st => some (placeFail i st (dDst it.desc + it.dpos) .combine b)
               | none =>
                 let w := wireAll k a it.seedUsed (it.cons / u * unitElems a) x
                 let b := arithEvents it.part it.ring w.2 (commit i b)
                 let b := each ps (fun e b =>
                   issueRead e.2.2.1 it.part (itemFn b it e.2.2.1) e.2.1 (itemAsn b it) (dDst it.desc + e.1) false false
                     (.operand i e.1)
                     (modHe (fun h => { h with blocks := h.blocks ++ (blocksOf e.2.2.1 e.2.1).map (fun q => (it.part, q, i)) }) b)) b
                 some (modItem i (fun it =>
                   { it with cons := it.cons + k * u, dpos := it.dpos + n, pieces := stagedDrop it.pieces (it.cons + k * u),
                             comb := it.comb ++ [(it.dpos, w.1)] }) b))

/-- The blocks of a written place are no longer held by an owner. -/
def blocksDone (owner : Nat) (p : Place) (len : Nat) (b : Block) : Block :=
  modHe (fun h => { h with blocks := h.blocks.filter (fun e => !(e.2.2 == owner && (blocksOf p len).contains e.2.1)) }) b

/-- The destination bytes of a piece that a combine writes: whole, or the whole units before a bad block of its operand
(R260). -/
def pieceLen (it : Item) (e : Nat × List (BitVec 8)) : Nat :=
  let uo := unitOut (dArith it.desc)
  let n := e.2.length / unitWire (dArith it.desc) * uo
  match it.opBad with
  | some (k, _) => if k < e.1 + n then (k - e.1) / uo * uo else n
  | none => n

/-- Combine and write the first piece, once its operand is whole as far as it is good (R287): pieces are written in ascending order
(R228, R263). An item whose operand was bad fails once no piece is left before the bad block (R260). -/
def combineOnce (i : Nat) (b : Block) : Option Block :=
  match tfind b.he.items i with
  | none => none
  | some it =>
    let a := dArith it.desc
    match (it.comb.take 1).find? (fun e => (stagedAt 8 it.ops e.1 (pieceLen it e)).length == pieceLen it e) with
    | none => (match it.opBad with
        | some (_, st) => if it.comb.isEmpty && it.stage == .active then some (itemFail i st 0 b) else none
        | none => none)
    | some (o, w) =>
      let n := pieceLen it (o, w)
      let k := n / unitOut a
      let r := applyAll k a (dScale it.desc) it.seedUsed (o / unitOut a * unitElems a) w (stagedAt 8 it.ops o n)
      let b := tcCount it.tile 0x030 (some it.part) (k * unitElems a) (arithEvents it.part it.ring r.2 b)
      let (out, b) := (it.dst.parts 4 o n).foldl (fun acc e =>
        let (y, b) := overlapBytes it e.1 e.2.2.1 ((r.1.drop (e.1 - o)).take e.2.1) acc.2
        (acc.1 ++ y, b)) (([] : List (BitVec 8)), b)
      let b := modItem i (fun it => { it with comb := it.comb.filter (fun e => e.1 != o),
                                              ops := it.ops.filter (fun e => e.1 < o || o + n ≤ e.1),
                                              wrote := if dDigest it.desc then it.wrote ++ [(o, out)] else it.wrote }) b
      some (each (it.dst.parts 4 o n) (fun e b =>
        let b := dstWrite i e.1 ((out.drop (e.1 - o)).take e.2.1) false e.2.2.1 e.2.2.2 b
        if e.2.2.1.isPort then blocksDone i e.2.2.1 e.2.1 b else b) b)

/-- Operand bytes of a combine have arrived, bad from byte `bad` of the item's destination on (R260, R287). -/
def combineApply (i off : Nat) (data : List (BitVec 8)) (bad : Option (Nat × Nat)) (b : Block) : Block :=
  loop 64 (combineOnce i) <| modItem i (fun it =>
    { it with ops := (off, data) :: it.ops,
              opBad := match bad, it.opBad with
                | some (k, st), some (k', st') => if k' < k then some (k', st') else some (k, st)
                | some x, none => some x
                | none, x => x }) b

end Sys2Proof.Machine
end

