-- ==== Sys2Proof/Machine/Complete.lean ====
section
/-!
DEFINITION. The COMPLETE stage (R193-R200, R188-R192, R251-R256, R267-R271): fences with their shadow and failure marks,
zero-length reads, completion records, parking and the stranded log; and how an item is carried on.
-/
namespace Sys2Proof.Machine

open Sys2Proof

/-! ### Fences -/

/-- Is a fence or record of an item free to go: has every item that its fence covers ended (R194)? -/
def coverReady (b : Block) (i : Nat) (it : Item) : Bool :=
  let earlier := b.he.items.filter (fun e => e.1 < i && e.2.part == it.part && e.2.ring == it.ring)
  if dOpcode it.desc = 0x08 then earlier.isEmpty
  else if dOpcode it.desc = 0x07 then true
  else earlier.all (fun e => !(e.2.dirs.any (fun d => it.dirs.contains d)))

/-- The shadow with an address at its end, allocated if it was not there (R196); none where all 16 entries are broken
and it would need one. -/
def shadowTouch (l : List Shadow) (addr : Nat) : Option (List Shadow) :=
  match l.find? (fun e => e.addr == addr) with
  | some e => some (l.filter (fun x => x.addr != addr) ++ [e])
  | none =>
    if l.length < 16 then some (l ++ [⟨addr, 0, false⟩])
    else
      match l.find? (fun e => !e.broken) with
      | some v => some (l.filter (fun x => x.addr != v.addr) ++ [⟨addr, 0, false⟩])
      | none => none

/-- The fence word of an item and the ring after it (R195-R199): broken with the last good value, or the larger of
FENCE_VALUE and the last good value. The fence of an item whose destination was never resolved covers no known direction and
clears no mark (DEDUCED, log entry 43). An item whose shadow entry was replaced while it was in flight, and that finds all 16
entries broken, has no last good value: its fence is broken with bits 62:0 zero, and its status stands (DESIGN CHOICE, log entry
95). -/
def fenceWord (r : Ring) (it : Item) : Nat × Bool × Ring :=
  let addr := dFenceAddr it.desc
  let dirs := if dOpcode it.desc = 0x07 ∨ (opLocalDst (dOpcode it.desc) ∧ it.dst.spans = []) then [] else it.dirs
  let clear := fun (r : Ring) => { r with marks := r.marks.filter (fun d => !dirs.contains d) }
  if it.status = 0x026 then (2 ^ 63, true, clear r)
  else
    match shadowTouch r.shadow addr with
    | none => (2 ^ 63, true, clear r)
    | some l =>
      let e := (l.find? (fun e => e.addr == addr)).getD ⟨addr, 0, false⟩
      let rearm := dRearm it.desc && it.status == 0
      let broken := !rearm && (it.status != 0 || r.marks.any (fun d => dirs.contains d) || e.broken)
      if broken then
        (2 ^ 63 + e.good, true, clear { r with shadow := shadowSet l addr (fun e => { e with broken := true }) })
      else
        let v := if e.good < dFenceValue it.desc then dFenceValue it.desc else e.good
        let r := if rearm then { r with marks := [] } else clear r
        (v, false, { r with shadow := shadowSet l addr (fun e => { e with good := v, broken := false }) })

/-- Issue zero-length reads ahead of a dependent write (R252): one to each requester whose data writes the write's own
posting does not order. `target` is the requester of the dependent write, none off the host ports. They commit the item (R232). -/
def flushFor (i : Nat) (from_ : List Nat) (target : Option Nat) (b : Block) : Option Block :=
  match tfind b.he.items i with
  | none => none
  | some it =>
    let need := from_.filter (fun f => some f != target)
    if need.isEmpty then none
    else
      let b := each need (fun f b =>
        issueRead (.port (f / 128) 0 false) it.part f 0 (itemAsn b it) 0 false false (.flush i) b) (commit i b)
      let b := modRing it.ringKey (fun r => { r with hostWrites := r.hostWrites.filter (fun f => !need.contains f) }) b
      some (modItem i (fun it => { it with flushes := need.length,
                                           hostWrites := it.hostWrites.filter (fun f => !need.contains f) }) b)

/-- Does a zero-length read of another item of the ring, which is ahead of host writes that this item's fence covers too, still wait for
its completion (R252)? Posted writes of requester `target` need none. -/
def flushOpen (b : Block) (i : Nat) (it : Item) (target : Option Nat) : Bool :=
  b.txns.any (fun t => match t.2.use with
    | .flush j => j != i && some t.2.fn != target
        && (match tfind b.he.items j with | some x => x.ringKey == it.ringKey | none => false)
    | _ => false)

/-- The host requesters whose data writes an item's fence covers (R194, R252). -/
def fenceBehind (b : Block) (it : Item) : List Nat :=
  if dOpcode it.desc = 0x07 then []
  else if it.dirs.contains .host then (match tfind b.sq.rings it.ringKey with | some r => r.hostWrites | none => [])
  else it.hostWrites

/-- Zero-length reads of an item are given up: the writes that they were ahead of are covered again by the next ones. -/
def flushDrop (i : Nat) (b : Block) : Block :=
  match tfind b.he.items i with
  | none => b
  | some it =>
    let fns := (b.txns.filter (fun t => t.2.use == .flush i)).map (fun t => t.2.fn)
    modRing it.ringKey (fun r => { r with hostWrites := fns.foldl (fun l f => sins f l) r.hostWrites })
      (closeTxns (fun t => t.use == .flush i) (modItem i (fun it => { it with flushes := 0 }) b))

/-- The first place of an item's fence range. -/
def fencePlace (it : Item) : Option Place := (it.fen.spans.head?).map (·.place)

/-- An item's fence has been written. One that has failed since its word was formed writes it once more, broken (R197). -/
def fenceDone (i : Nat) (b : Block) : Block :=
  event i 0x06 (modItem i (fun it =>
    if it.status != 0 && !it.fenceBroken then { it with stage := .fence }
    else { it with fenced := true, stage := if it.stage = .fence ∨ it.stage = .fenceWrite then .record else it.stage }) b)

/-- The status of a fence that cannot be written at a place now (R268): that of a reset only where its record would strand with reason
2, so not while the port's link is down. -/
def fenceStatus (b : Block) (fn : Nat) (p : Place) : Option Nat :=
  match placeStatus b fn p with
  | some 0x021 => some (if fget b F.hpPortStatusProto (fn / 128) = 4 then 0x020 else 0x021)
  | st => st

/-- Write an item's fence (R193, R197): at once on a host port, by an exchange on the node, through the QP at the peer. What is
written on a host port orders the record behind it (R252, R254). A fence that is translated once more before it has gone keeps its
word. -/
def fencePut (i : Nat) (b : Block) : Block :=
  match tfind b.he.items i with
  | none => b
  | some it =>
    match tfind b.sq.rings it.ringKey, fencePlace it with
    | some r, some p =>
      let kept := it.fencePrior.isSome && (it.fenceBroken || it.status == 0)
      let (w, broken, r') := if kept then (it.fenceWord, it.fenceBroken, r) else fenceWord r it
      let asn := itemAsn b it
      let addr := dFenceAddr it.desc
      let b := commit i (modRing it.ringKey (fun _ => r') b)
      let good := ((r.shadow.find? (fun e => e.addr == addr)).map (·.good)).getD 0
      let prior := if kept then it.fencePrior.getD good else good
      let b := modItem i (fun it => { it with fenceWord := w, fenceBroken := broken, fencePrior := some prior }) b
      let count := fun b => match it.fen.spans with | s :: _ => spanCount it.tile it.part asn addr addr (s.part 0 8) b | [] => b
      (match p with
       | .remote _ _ => modItem i (fun it => { it with stage := .fenceWrite }) b
       | .port _ _ _ =>
         let fn := itemFn b it p
         (match fenceStatus b fn p with
          | none =>
            fenceDone i (modItem i (fun it => { it with hostWrites := sins fn it.hostWrites })
              (issueWrite p it.part fn (leBytes 8 w) asn addr false false (.fence i) (count b)))
          | some st => fenceFail i st 0 b)
       | _ =>
         (match placeStatus b it.fn p with
          | some st =>
            fenceFail i st addr
              (if st = 0x010 then tuCapture it.part asn (dTag it.desc) addr 0x06 .write false (.ring it.ring) b else b)
          | none =>
            modItem i (fun it => { it with stage := .fenceWrite })
              (issueWrite p it.part it.fn (leBytes 8 w) asn addr false false (.fence i) (count b))))
    | _, _ => modItem i (fun it => { it with stage := .record }) b

/-! ### The completion record -/

/-- The status word of a completion entry (R190): CODE, LATE, PARTIAL and DIGEST_VALID. -/
def Item.statusWord (it : Item) : Nat :=
  let done := it.bytesDone.getD 0
  let dv := it.status == 0 && (dOpcode it.desc == 0x07 || dDigest it.desc)
  it.status + b2n it.late * 2 ^ 12 + b2n (it.status != 0 && done != 0) * 2 ^ 13 + b2n dv * 2 ^ 14

/-- The four quadwords of a completion entry (R190, R191). TIMESTAMP is the time at which the record is written or strands, also
where it had parked (DESIGN CHOICE, log entry 96). -/
def entryWords (b : Block) (it : Item) : List (BitVec 64) :=
  [dTag it.desc + it.statusWord * 2 ^ 32 + it.ring * 2 ^ 48, it.bytesDone.getD 0, it.aux, b.now].map (BitVec.ofNat 64)

/-- The fence word that an item's fence would have been written with (R269). -/
def Item.lostWord (it : Item) (r : Option Ring) : Nat :=
  if it.fencePrior.isSome then it.fenceWord else match r with | some r => (Machine.fenceWord r it).1 | none => 2 ^ 63

/-- A stranded entry (R269). Its fence fields tell of a fence that was not written. -/
def strandWords (b : Block) (it : Item) (cq reason : Nat) : Strand :=
  let lost := dFence it.desc && !it.fenced
  let w := cq + it.part * 2 ^ 12 + it.fn % 128 * 2 ^ 16 + it.fn / 128 * 2 ^ 23 + reason * 2 ^ 24 + b2n lost * 2 ^ 27
  entryWords b it ++ [w, if lost then dFenceAddr it.desc else 0,
    if lost then it.lostWord (tfind b.sq.rings it.ringKey) else 0, b.now].map (BitVec.ofNat 64)

/-- The fault slots that the end of an item raises (R560). -/
def endFaults (it : Item) (b : Block) : Block :=
  let st := it.status
  if st = 0x050 ∨ st = 0x051 then partFault it.part 6 (.ring it.ring) b
  else if st = 0x040 ∨ st = 0x041 then partFault it.part 9 (.ring it.ring) b
  else if st = 0x042 then partFault it.part 10 (.ring it.ring) b
  else if st = 0x060 then partFault it.part 12 (.ring it.ring) b
  else if st = 0x0F0 then partFault it.part 14 (.ring it.ring) b
  else b

/-- Update the digest slots of a partition (R667). -/
def digestSlots (it : Item) (b : Block) : Block :=
  if !(dOpcode it.desc == 0x07 || dDigest it.desc) then b
  else
    eachN 16 (fun k b =>
      let i := 16 * it.part + k
      if fon b F.tcDigCfgValid i && fget b F.tcDigCfgLayer i == dLayer it.desc
          && (fget b F.tcDigCfgOperator i == 0xFFFF || fget b F.tcDigCfgOperator i == dOperator it.desc) then
        if it.status = 0 then
          let a := if dOpcode it.desc = 0x07 then dSrc it.desc else dDst it.desc
          fbump F.tcDigCfgCount i 1
            (rput .tcDigAcc i (rget b .tcDigAcc i + (BitVec.ofNat 64 it.aux ^^^ BitVec.ofNat 64 a)) b)
        else fbump F.tcDigCfgFailed i 1 b
      else b) b

/-- An item has ended: its record is written, in its ring or in the stranded log (R658, R672, R667, R410). -/
def itemEnd (i : Nat) (b : Block) : Block :=
  match tfind b.he.items i with
  | none => b
  | some it =>
    let b := if traceOn b F.tcPartCtlEnd it.part then
        tracePut it.tile it.part (traceEnd b it it.statusWord (it.bytesDone.getD 0)) b else b
    let dv := it.status == 0 && (dOpcode it.desc == 0x07 || dDigest it.desc)
    let b := if dv && traceOn b F.tcPartCtlDigrec it.part then tracePut it.tile it.part (traceDigest b it it.aux) b else b
    let b := digestSlots it (endFaults it b)
    let b := tcCount it.tile (if it.status = 0 then 0x012 else 0x013) (some it.part) 1 b
    let b := if it.late then fbump F.psEventsLate 0 1 (tcCount it.tile 0x060 (some it.part) 1 b) else b
    let b := mapRounds (fun r => if r.live.contains i then { r with live := r.live.filter (· != i), late := r.late || it.late } else r) b
    let b := blocksFree i b
    let b := match it.acc with | some a => modTu (fun t => { t with accs := tdel t.accs a }) b | none => b
    let b := modRing it.ringKey (fun r => { r with aborted := if it.status = 0x023 then satAdd 65535 r.aborted 1 else r.aborted }) b
    modHe (fun h => { h with items := tdel h.items i }) b

/-- The item's deadline has passed (R410): LATE for a record written after the start of the pitch that follows its
round's nominal pitch. -/
def isLate (b : Block) (i : Nat) (it : Item) : Bool :=
  dCard it.desc != 0 &&
    match b.ps.rounds.find? (fun r => r.items.contains i) with
    | none => false
    | some r => r.deadline < b.now

/-- Write an item's record to the log of its function (R267). -/
def strand (i reason : Nat) (b : Block) : Block :=
  match tfind b.he.items i with
  | none => b
  | some it =>
    let cq := match tfind b.sq.rings it.ringKey with | some r => r.cq | none => 0
    let it := { it with late := isLate b i it }
    let b := commit i (modItem i (fun x => { x with late := it.late }) b)
    let b := modHe (fun h => { h with logs := tput h.logs it.fn (tget [] h.logs it.fn ++ [strandWords b it cq reason]) }) b
    let b := event i 0x08 b
    let b := modPt (fun t => { t with cmds := tmod t.cmds it.part (fun c => { c with stranded := satAdd 65535 c.stranded 1 }) }) b
    let b := modCq (4096 * it.part + cq) (fun c => { c with parked := c.parked.filter (· != i) }) b
    itemEnd i (fhNote (256 + 16 * it.part + 4) (.fn it.fn) (some it.part) b)

/-- Where entry `ptr` of a completion ring lies, and its tail word. -/
def cqEntryPlace (b : Block) (part : Nat) (c : Cq) (ptr : Nat) : Option Place :=
  localPlace b part (c.base + 32 * (ptr % 65536)) 32
def cqTailPlace (b : Block) (part : Nat) (c : Cq) : Option Place := localPlace b part c.tailWord 8

/-- Ring pointers (R174): positions, entries used, and one step. -/
def ringPos (n p : Nat) : Nat := p % 65536 + p / 65536 % 2 * n
def ringUsed (n a c : Nat) : Nat := (ringPos n c + 2 * n - ringPos n a) % (2 * n)
def ringNext (n p : Nat) : Nat := if p % 65536 + 1 = n then (if p / 65536 % 2 = 0 then 65536 else 0) else p + 1
def ringStep (n p k : Nat) : Nat := let x := (ringPos n p + k) % (2 * n); if x < n then x else 65536 + (x - n)

/-- The position of the next entry of a completion ring: behind those whose acknowledgements are awaited. -/
def Cq.next (c : Cq) : Nat := ringStep c.size c.tail c.issued.length
/-- Is a completion ring full (R189)? -/
def Cq.full (c : Cq) : Bool := c.size ≤ ringUsed c.size c.head c.tail + c.issued.length

/-- Is a place of a completion ring on a host port? -/
def onPort (p : Option Place) : Bool := match p with | some q => q.isPort | none => false

/-- The reason for which a record strands (R267), if any. A reset of the owner comes before Bus Master Enable and what R462, R473 and
R474 treat as it; the reason of a link that is down is CQ_UNREACHABLE (R453); an orphan's own comes first (DEDUCED, log entry
44). -/
def strandReason (b : Block) (part n : Nat) (c : Cq) : Option Nat :=
  let places := [cqEntryPlace b part c c.next, cqTailPlace b part c]
  let h := c.owner / 128
  if c.orphan != 0 then some c.orphan
  else if flrActive b c.owner || (c.owner % 128 != 0 && !fnEnabled b c.owner) then
    (if fget b F.hpPortStatusProto h = 4 then some 4 else some 2)
  else if places.any onPort && fon b F.hpPortStatusLinkUp h && !mastering b c.owner then some 1
  else if linePoisoned b 2 (4096 * part + n) then some 4
  else if places.any (fun p => p.isNone || (onPort p && !mastering b c.owner)) then some 4
  else none

/-- The interrupt of a completion ring follows its tail word (R254). An MSI-X message of another function than the one that wrote the
tail word on a host port first waits for a zero-length read (R252, R585). -/
def cqInterrupt (part cq : Nat) (b : Block) : Block :=
  match tfind b.sq.cqs (4096 * part + cq) with
  | none => b
  | some c =>
    let t := sgTarget b c.irq
    if onPort (cqTailPlace b part c) && sgToFn t.1 && t.2.1 != c.owner && mastering b c.owner then
      issueRead (.port (c.owner / 128) 0 false) part c.owner 0 0 0 false false (.irqFlush part cq) b
    else sgAssert c.irq b

/-- Issue the tail word of a completion ring with the TAIL of one of its entries (R188); the interrupt follows once it is durable (R254). -/
def tailPut (part cq : Nat) (intr : Bool) (tail : Nat) (b : Block) : Block :=
  match tfind b.sq.cqs (4096 * part + cq) with
  | none => b
  | some c =>
    match cqTailPlace b part c with
    | none => b
    | some p =>
      let b := issueWrite p part c.owner (leBytes 8 tail) 0 0 false false (.tail part cq intr) b
      if p.isPort && intr then cqInterrupt part cq b else b

/-- An entry of a completion ring is written: TAIL moves past it, and its tail word is due (R188), behind a zero-length read where the
entry went to a host port and the tail word does not (R252). -/
def tailDue (part cq : Nat) (intr : Bool) (b : Block) : Block :=
  modCq (4096 * part + cq) (fun c =>
    { c with tail := ringNext c.size c.tail,
             owed := c.owed ++ [(intr, if onPort (cqEntryPlace b part c c.tail) && !onPort (cqTailPlace b part c)
                && mastering b c.owner then 0 else 2, ringNext c.size c.tail)] }) b

/-- One step of a completion ring: the first entry that awaits its acknowledgement has it, and its item has ended; or the next tail
word goes out. A tail word waits while a combine holds its block (R289). -/
def cqStep (key : Nat) (b : Block) : Option Block :=
  match tfind b.sq.cqs key with
  | none => none
  | some c =>
    let part := key / 4096
    let cq := key % 4096
    match c.issued with
    | (i, intr, true) :: rest =>
      some (itemEnd i (event i 0x07 (tailDue part cq intr (modCq key (fun c => { c with issued := rest }) b))))
    | _ =>
      match c.owed with
      | (_, 0, _) :: _ =>
        some (issueRead (.port (c.owner / 128) 0 false) part c.owner 0 0 0 false false (.tailFlush part cq)
          (modCq key (fun c => { c with owed := c.owed.map (fun e => (e.1, if e.2.1 = 0 then 1 else e.2.1, e.2.2)) }) b))
      | (intr, 2, tail) :: rest =>
        let busy : Bool := match cqTailPlace b part c with | some p => blockBusy b part p 8 none | none => false
        if busy then none else some (tailPut part cq intr tail (modCq key (fun c => { c with owed := rest }) b))
      | _ => none

/-- Carry a completion ring on. -/
def cqPump (key : Nat) (b : Block) : Block := if stopped b then b else loop 64 (cqStep key) b

/-- A zero-length read ahead of tail words has completed: what it is ahead of may go. -/
def tailFlushed (part cq : Nat) (b : Block) : Block :=
  cqPump (4096 * part + cq) (modCq (4096 * part + cq) (fun c => { c with owed := c.owed.map (fun e => (e.1, if e.2.1 = 1 then 2 else e.2.1, e.2.2)) }) b)

/-- Ask for the load of a ring or completion ring (R212, R728). `cq` names a completion ring. -/
def ringLoad (cq : Bool) (key : Nat) (b : Block) : Block :=
  if b.sq.loads.contains (cq, key) then b else modSq (fun q => { q with loads := q.loads ++ [(cq, key)] }) b

/-- A context that an item's COMPLETE stage needs and that is not resident is loaded first (R212): none where it is here, else what
happens. -/
def contextWait (cq : Bool) (key : Nat) (b : Block) : Option (Option Block) :=
  let here := if cq then (match tfind b.sq.cqs key with | some c => c.resident | none => true)
    else (match tfind b.sq.rings key with | some r => r.resident | none => true)
  if here then none else if b.sq.loads.contains (cq, key) then some none else some (some (ringLoad cq key b))

/-- Issue an item's completion entry, park its record where the ring is full, or strand it. `some` where it went. The record never
waits for another one (R256): entries take their slots as they are issued, and each waits for its own acknowledgement. -/
def recordStep (i : Nat) (b : Block) : Option Block :=
  match tfind b.he.items i with
  | none => none
  | some it =>
    match tfind b.sq.rings it.ringKey with
    | none => some (strand i 4 b)
    | some r =>
      let key := 4096 * it.part + r.cq
      match contextWait false it.ringKey b, contextWait true key b, tfind b.sq.cqs key with
      | some w, _, _ => w
      | none, some w, _ => w
      | none, none, none => some (strand i 4 b)
      | none, none, some c =>
        if it.cqLost then some (strand i 4 b)
        else
          match strandReason b it.part r.cq c with
          | some reason => some (strand i reason b)
          | none =>
            if c.full ∨ (c.parked ≠ [] ∧ c.parked.head? ≠ some i) then
              if partState b it.part = 5 then some (strand i 6 b)
              else if r.expired then some (strand i 3 b)
              else if c.parked.contains i then none
              else
                some (modCq key (fun c => { c with parked := c.parked ++ [i] })
                  (event i 0x0C (modItem i (fun it => { it with stage := .parked, slot := false }) b)))
            else
              match cqEntryPlace b it.part c c.next with
              | none => some (strand i 4 b)
              | some p =>
                match flushFor i it.hostWrites (if p.isPort then some c.owner else none) b with
                | some b => some b
                | none =>
                  if blockBusy b it.part p 32 none then none
                  else
                    let b := commit i (modItem i (fun x => { x with late := isLate b i it }) b)
                    let words := match tfind b.he.items i with | some x => entryWords b x | none => []
                    let b := issueWrite p it.part c.owner (quadBytes words) 0 0 false false (.entry i) b
                    let b := modCq key (fun c => { c with parked := c.parked.filter (· != i) }) b
                    if p.isPort then some (cqPump key (itemEnd i (event i 0x07 (tailDue it.part r.cq (dIntr it.desc) b))))
                    else
                      some (modCq key (fun c => { c with issued := c.issued ++ [(i, dIntr it.desc, false)] })
                        (modItem i (fun it => { it with stage := .written }) b))

/-- The completion ring of an item. -/
def itemCq (b : Block) (it : Item) : Nat :=
  4096 * it.part + match tfind b.sq.rings it.ringKey with | some r => r.cq | none => 0

/-- The entry of an item has been acknowledged: it has ended once the entries before it are (log entry 11), and its tail word
follows. -/
def entryAcked (i : Nat) (b : Block) : Block :=
  match tfind b.he.items i with
  | none => b
  | some it =>
    let key := itemCq b it
    cqPump key (modCq key (fun c => { c with issued := c.issued.map (fun e => if e.1 = i then (i, e.2.1, true) else e) }) b)

/-! ### Carrying an item on -/

/-- An item's packets that are not yet both received and durable, and its reads and messages that are not done. -/
def itemFlying (b : Block) (i : Nat) (it : Item) : Bool :=
  opNeedsQp (dOpcode it.desc) &&
    match tfind b.ft.qps (dQp it.desc) with
    | none => false
    | some q => q.sent.any (fun s => s.owner == .item i) || q.awaits.any (fun a => a.owner == .item i)

/-- The data of an item has ended, well or not: BYTES_DONE is taken (R258, R262), failure marks are set (R195), AUX of a
good end is its digest, and its fence or its record comes next. -/
def itemSettle (i : Nat) (b : Block) : Block :=
  match tfind b.he.items i with
  | none => b
  | some it =>
    let done := match it.bytesDone with | some n => n | none => it.bytesOf
    let dig :=
      if dOpcode it.desc = 0x07 then (if arOp (dArith it.desc) = 5 ∧ dArith it.desc ≠ 0 then it.digest else crcDone it.digest)
      else if dOpcode it.desc = 0x04 then
        crcDone (crcRun crcInit (stagedAt (it.wrote.length + 1) it.wrote 0 (dDstLen it.desc)))
      else if dOpcode it.desc = 0x05 then it.digest
      else crcDone it.digest
    let valid := it.status = 0 ∧ (dOpcode it.desc = 0x07 ∨ dDigest it.desc)
    let b := if it.status = 0 ∧ it.durable ≠ [] then event i 0x05 b else b
    let b := blocksFree i b
    let b := if it.status = 0 then b
      else marksSet it b
    modItem i (fun it =>
      { it with bytesDone := some done, comb := [], aux := if valid then dig else it.aux, pieces := [],
                stage := if dFence it.desc && it.fen.bad.isNone then .fence else .record }) b

/-- Is an item's local work for its data at an end? -/
def dataIdle (b : Block) (i : Nat) : Bool := !(b.txns.any (fun t => t.2.use.writeOf i))

/-- The watchdog of a WAIT item has expired and its final read did not satisfy it (R551, R552, R203): the item ends with
RING_HALTED and its ring halts, unless it stands in a state of higher precedence (R209). -/
def watchdogEnd (i : Nat) (b : Block) : Block :=
  match tfind b.he.items i with
  | none => b
  | some it =>
    let b := modRing it.ringKey (fun r =>
      if r.state = .active ∨ r.state = .paused then { r with state := .halted, haltCause := 1 } else r) b
    partFault it.part 3 (.ring it.ring) (fbump F.ccWatchdogExpired it.part 1 (itemFail i 0x024 0 b))

/-- Evaluate a fence word that a WAIT item has read (R202). One that still waits is parked in its ring's context and holds no
slot (R550). `final` is 2 where the read is the last one of the watchdog. -/
def waitEval (i w : Nat) (b : Block) : Block :=
  match tfind b.he.items i with
  | none => b
  | some it =>
    if dFenceValue it.desc ≤ w % 2 ^ 63 then modItem i (fun it => { it with stage := .draining }) b
    else if 2 ^ 63 ≤ w then itemFail i 0x025 w b
    else if it.final = 2 then watchdogEnd i b
    else modItem i (fun it => { it with slot := false }) b

/-- Issue the read of a WAIT item's word. The read commits the item where it is an access to host memory (R232, R257), and the
item has then passed its source-read stage (R240). `rd` marks that the first read is issued. -/
def waitRead (i : Nat) (b : Block) : Block :=
  match tfind b.he.items i with
  | none => b
  | some it =>
    match fencePlace it with
    | none => b
    | some p =>
      if b.txns.any (fun t => t.2.use == .waitRead i) then b
      else
        match placeStatus b (itemFn b it p) p with
        | some st => placeFail i st (dFenceAddr it.desc) .read b
        | none =>
          let count := fun b => match it.fen.spans with
            | s :: _ => spanCount it.tile it.part (itemAsn b it) (dFenceAddr it.desc) (dFenceAddr it.desc) (s.part 0 8) b
            | [] => b
          issueRead p it.part (itemFn b it p) 8 (itemAsn b it) (dFenceAddr it.desc) false true (.waitRead i)
            (count <| (if p.isPort then commit i else id)
              (modItem i (fun it => { it with passed := it.passed || p.isPort, rd := 1, retry := false, final := if it.final = 0 then 0 else 2 }) b))

/-- Before an item with FENCE moves data, its address takes a shadow entry (R196, R199). -/
def fenceEnter (i : Nat) (b : Block) : Block :=
  match tfind b.he.items i with
  | none => b
  | some it =>
    match tfind b.sq.rings it.ringKey with
    | none => b
    | some r =>
      match shadowTouch r.shadow (dFenceAddr it.desc) with
      | some l => modItem i (fun it => { it with entered := true }) (modRing it.ringKey (fun r => { r with shadow := l }) b)
      | none => itemFail i 0x026 0 b

/-- Take the seed of an item whose other gates are open from the pool of its ring's home tile (R294); a seed of 0 is
replaced by 1. The item takes it immediately before its first outward act, and commits with it (DEDUCED, log entry 97). An empty pool
asks the DRBG once (R624), and a source that has failed ends the item, which commits (R626). `none` while the item waits for the
request. -/
def seedTake (i : Nat) (it : Item) (b : Block) : Option Block :=
  let t := ringTile it.part it.ring
  match tget [] b.en.seeds t with
  | s :: rest =>
    let v := if s = 0#32 then 1 else s.toNat
    some (fbump F.cxEventsSeedsDrawn it.part 1 (commit i (modItem i (fun it => { it with seed := some v })
      (modEn (fun e => { e with seeds := tput e.seeds t rest }) b))))
  | [] =>
    if fget b F.enStatusState 0 = 3 then some (itemFail i 0x042 0 (commit i (fbump F.enCountsUnavailable 0 1 b)))
    else if b.en.queue.contains (.seeds t) then none
    else some (modEn (fun e => { e with queue := e.queue ++ [.seeds t] }) b)

/-- Has an item nothing left to do as a speculative one: no read and no lookup of it is outstanding? -/
def specIdle (b : Block) (i : Nat) (it : Item) : Bool := it.acc.isNone && !(b.txns.any (fun t => t.2.use.readOf i))

/-- One step of an active item, by its opcode. -/
def activeStep (i : Nat) (it : Item) (b : Block) : Option Block :=
  let o := dOpcode it.desc
  if !it.fenceReady then (if held b it && !specAllowed b it.part then none else rngStep i 2 b)
  else if dFence it.desc && !it.entered then
    (match contextWait false it.ringKey b with
     | some w => w
     | none => some (modItem i (fun it => { it with entered := true }) (fenceEnter i b)))
  else if o = 0x08 then
    (if dWait it.desc then (if it.rd == 1 && !it.retry || b.txns.any (fun t => t.2.use == .waitRead i) then none
      else some (waitRead i (modItem i (fun it => { it with rd := 1, retry := false }) b)))
     else some (modItem i (fun it => { it with stage := .draining }) b))
  else
    let fin := if o = 0x07 then dLength it.desc ≤ it.cons else dDstLen it.desc ≤ it.doneDst && it.comb.isEmpty
    if fin && !itemFlying b i it && !held b it then some (modItem i (fun it => { it with stage := .draining }) b)
    else
      let move :=
        if o = 0x01 ∨ o = 0x03 then copyStep i b
        else if o = 0x04 then combineStep i b
        else if o = 0x07 then digestStep i b
        else if opRemoteDst o && it.badWithin (if dArith it.desc = 0 then 1 else unitIn (dArith it.desc)) then
          some (itemFail i ((it.poisonAt.map (·.2)).getD 0x051) 0 b)
        else none
      match move with
      | some b => some b
      | none =>
        match readStep i b with
        | some b => some b
        | none =>
          -- translate ahead of the data: the destination, and the remote source of a READ_REMOTE
          let ahead :=
            if held b it && !specAllowed b it.part then none
            else if (opLocalDst o || opRemoteDst o) && it.dst.upTo < it.dst.len && it.dst.upTo < it.dpos + 65536 then rngStep i 1 b
            else if o = 0x03 && it.src.upTo < it.src.len && it.src.upTo < it.rd + 65536 then rngStep i 0 b
            else none
          match ahead with
          | some b => some b
          | none => if seedWant b it && specIdle b i it then seedTake i it b else none

/-- One step of an item: `some` where something happened. Nothing happens while the block is stopped (R566). -/
def pumpStep (i : Nat) (b : Block) : Option Block :=
  if stopped b then none
  else
    match tfind b.he.items i with
    | none => none
    | some it =>
      match it.stage with
      | .waiting => none
      | .active => activeStep i it b
      | .draining => if dataIdle b i && !itemFlying b i it then some (itemSettle i b) else none
      | .fence =>
        if linePoisoned b 1 it.ringKey then some (fenceFail i 0x0F0 0 b)
        else if it.flushes != 0 then none
        else if !it.fenceReady then rngStep i 2 b
        else if !coverReady b i it then none
        else
          (match contextWait false it.ringKey b, fencePlace it with
           | some w, _ => w
           | none, none => some (modItem i (fun it => { it with stage := .record }) b)
           | none, some p =>
             if blockBusy b it.part p 8 none then none else
             let target := if p.isPort then some (itemFn b it p) else none
             match flushFor i (fenceBehind b it) target b with
             | some b => some b
             | none => if it.dirs.contains .host && flushOpen b i it target then none else some (fencePut i b))
      | .fenceWrite => none
      | .record => if it.flushes != 0 then none else recordStep i b
      | .written => none
      | .parked =>
        (match tfind b.sq.rings it.ringKey with
         | some r =>
           (match tfind b.sq.cqs (4096 * it.part + r.cq) with
            | some c =>
              if c.parked.head? = some i ∧ (!c.full ∨ (strandReason b it.part r.cq c).isSome) then
                some (modItem i (fun it => { it with stage := .record }) b)
              else none
            | none => some (modItem i (fun it => { it with stage := .record }) b))
         | none => some (modItem i (fun it => { it with stage := .record }) b))

/-- Carry an item on as far as it can go now. -/
def pump (i : Nat) (b : Block) : Block := loop 512 (pumpStep i) b

/-- Carry every completion ring on. -/
def cqPumpAll (b : Block) : Block := each b.sq.cqs (fun e b => cqPump e.1 b) b

end Sys2Proof.Machine
end

