-- ==== Sys2Proof/Machine/Rings.lean ====
section
/-!
DEFINITION. Rings and descriptors (R160-R192, R204-R212, R241, R401): what makes a descriptor malformed, how one becomes
an item, and how a ring fetches. The commands are in `Machine/Submission.lean`.
-/
namespace Sys2Proof.Machine

open Sys2Proof

/-! ### Malformed descriptors (R204) -/

/-- The flags that an opcode permits (R161). -/
def flagsPermitted (o : Nat) (f : Nat) : Bool :=
  let digest := (1 ≤ o && o ≤ 6)
  f < 64 && (!bit f 3 || digest) && (!bit f 0 || (o != 0x00 && o != 0x09))
    && (!bit f 5 || (o == 0x08 && !bit f 0)) && (!bit f 4 || (o == 0x08 && bit f 0))
    && (o != 0x08 || bit f 0 != bit f 5)

/-- The lowest reason code for which a descriptor of a partition is malformed, if any. -/
def descReason (b : Block) (part : Nat) (d : List (BitVec 64)) : Option Nat :=
  let o := dOpcode d
  let qp := opNeedsQp o
  let walk := o == 0x09
  let v := variant b
  if 0x09 < o || (qp && v.fabPorts == 0) then some 0x01
  else if !flagsPermitted o (dFlags d) then some 0x02
  else if (if o == 0x00 || o == 0x08 then dLength d != 0 else dLength d == 0 || 2 ^ 30 < dLength d) then some 0x03
  else if (if qp then dQp d == 0 || qpPool b ≤ dQp d ||
        (match tfind b.ft.qps (dQp d) with | some q => q.part != part | none => false) else dQp d != 0) then some 0x04
  else if dCard d != 0 && (!(opRemoteDst o) || !v.pitch || 4096 < dCard d) then some 0x05
  else if (if walk then dWalk d == 0 || 4095 < dWalk d || dDst d == 0 || bits (dquad d 7) 31 0 == 0 || 16 < bits (dquad d 7) 39 32
      else (o == 0x00 || o == 0x08) && dWalk d != 0) then some 0x06
  else if (if dFence d || dWait d then dFenceAddr d % 8 != 0 || bit (dquad d 6) 63 else dquad d 5 != 0 || dquad d 6 != 0) then some 0x07
  else if dCipher d != 0 && (!qp || !v.cipher) then some 0x08
  else if (if o == 0x04 || o == 0x05 || o == 0x06 then dArith d == 0 else o != 0x07 && dArith d != 0) then some 0x09
  else if bits (dquad d 4) 63 56 != 0 || ((o == 0x00 || o == 0x08) && dSrc d != 0)
      || ((o == 0x00 || o == 0x07 || o == 0x08) && dDst d != 0)
      || (walk && bits (dquad d 7) 63 40 != 0) || (!(4 ≤ o && o ≤ 7) && !walk && dquad d 7 != 0) then some 0x0A
  else none

/-- A malformation of a partition (R205, R221): the first cause is captured, the partition and its rings stop where it
is BOUND, and a contained event is recorded. -/
def malformed (part reason : Nat) (cq : Bool) (ring ptr : Nat) (b : Block) : Block :=
  let b :=
    if fon b F.sqMalformedValid part then b
    else
      fput F.sqMalformedIndex part ptr <| fput F.sqMalformedRing part ring <| fput F.sqMalformedCq part (b2n cq) <|
        fput F.sqMalformedReason part reason <| fput F.sqMalformedValid part 1 b
  partFault part 1 (if cq then .cq ring else .ring ring) (ptStop part b)

/-! ### Acceptance (R184, R241, R401) -/

/-- The function of an item (R267): the owner of a host ring; for a compute ring, the partition's requester on HP0,
failing that on HP1, failing both the PF of HP0. -/
def ringFn (b : Block) (part : Nat) (r : Ring) : Nat :=
  if r.host then r.owner
  else
    match requester b part 0, requester b part 1 with
    | some f, _ => f
    | none, some f => f
    | none, none => 0

/-- Items that hold a slot, on the block, a tile and an engine; items of a partition and of a function. -/
def slotsUsed (b : Block) : Nat := tcount (fun _ it => it.slot) b.he.items
def tileItems (b : Block) (t : Nat) : Nat := tcount (fun _ it => it.tile == t && it.slot) b.he.items
def engineItems (b : Block) (t e : Nat) : Nat := tcount (fun _ it => it.tile == t && it.engine == e && it.slot) b.he.items
def partItems (b : Block) (p : Nat) : Nat := tcount (fun _ it => it.part == p) b.he.items
def fnItems (b : Block) (fn : Nat) : Nat := tcount (fun _ it => it.fn == fn) b.he.items
def ringItems (b : Block) (key : Nat) : Nat := tcount (fun _ it => it.ringKey == key) b.he.items

/-- The first element of a list with the least measure. -/
def argMin (f : Nat → Nat) (l : List Nat) : Option Nat :=
  l.foldl (fun acc x => match acc with | none => some x | some y => if f x < f y then some x else some y) none

/-- The tile and engine that an item is placed on (R241). -/
def placement (b : Block) (home : Nat) : Nat × Nat :=
  let free := (List.range 12).filter (fun t => tileItems b t < 1024)
  let t := if free.contains home then home else (argMin (hops home) free).getD home
  (t, (argMin (engineItems b t) (List.range 16)).getD 0)

/-- A round as it begins (R401). -/
def newRound (gen card k : Nat) : Round :=
  { gen := gen, card := card, k := k, due := false, deadline := 0, released := none, items := [], live := [], done := [], placed := [],
    held := [], combine := false, inOrder := false, complete := false, settled := false, abandoned := false, late := false,
    broken := false }

/-- The deadline of a round (R410): the start of the pitch after its nominal one. -/
def roundDeadline (s : Option Sched) (card k : Nat) : Nat :=
  match s with
  | none => 0
  | some s => (match tfind s.cards card with
    | some c => s.origin + ((k - 1) * s.cycle + c.pitch + 1) * s.len
    | none => 0)

/-- The generation of the active schedule. -/
def schedGen (b : Block) : Nat := fget b F.psSwapCtlGen 0

/-- The schedule of a generation: the active one, or the one before it while its rounds retire. -/
def schedAt (b : Block) (g : Nat) : Option Sched := if g = schedGen b then b.ps.sched else b.ps.old
/-- A card of a generation that is VALID. -/
def cardAt (b : Block) (g c : Nat) : Option (Sched × Card) :=
  match schedAt b g with
  | none => none
  | some s => (match tfind s.cards c with | some x => if x.valid then some (s, x) else none | none => none)
/-- The card of the round that an item has joined. -/
def itemCard (b : Block) (i : Nat) : Option Card :=
  match b.ps.rounds.find? (fun r => r.items.contains i) with
  | none => none
  | some r => (cardAt b r.gen r.card).map (·.2)

/-- May an item join a card of the active schedule (R402)? -/
def cardFor (b : Block) (part card : Nat) : Option Card :=
  match b.ps.sched with
  | none => none
  | some s =>
    match tfind s.cards card with
    | none => none
    | some c => if c.valid && c.send && c.part == part then some c else none

/-- Put an item into the earliest round of its card that has not released and has room (R401); a card that has no round
left to give it, or that it may not join, fails it (R402). -/
def joinRound (i card : Nat) (b : Block) : Block :=
  match tfind b.he.items i with
  | none => b
  | some it =>
    let fail := modItem i (fun it => { it with status := 0x061 }) b
    match cardFor b it.part card with
    | none => fail
    | some c =>
      let gen := schedGen b
      let fits := fun (r : Round) => r.gen == gen && r.card == card && r.released.isNone && !r.abandoned
        && r.items.length < c.sendItems
      match b.ps.rounds.find? fits with
      | some r =>
        mapRounds (fun x => if x.gen = r.gen ∧ x.card = r.card ∧ x.k = r.k then
          { x with items := x.items ++ [i], live := x.live ++ [i] } else x) b
      | none =>
        let k := tget 1 b.ps.nextK card
        let rep := match b.ps.sched with | some s => s.rep | none => false
        if !rep && 1 < k then fail
        else
          let r := { newRound gen card k with deadline := roundDeadline b.ps.sched card k }
          modPs (fun p => { p with rounds := p.rounds ++ [{ r with items := [i], live := [i] }], nextK := tset 1 p.nextK card (k + 1) }) b

/-- A range of an item before it is translated. -/
def rngOf (va len : Nat) (k : Kind) : Rng := ⟨va, len, k, [], 0, none⟩

/-- The item that a well-formed descriptor gives. -/
def newItem (b : Block) (part ring : Nat) (r : Ring) (d : List (BitVec 64)) : Item :=
  let o := dOpcode d
  let (t, e) := placement b (ringTile part ring)
  let srcLen := if opLocalSrc o || o == 0x03 then dLength d else 0
  let dstLen := if opLocalDst o || opRemoteDst o then dDstLen d else 0
  let fenLen := if dFence d || dWait d then 8 else 0
  { part := part, ring := ring, fn := ringFn b part r, desc := d, tile := t, engine := e, stage := .waiting, begun := false,
    committed := false, passed := false, slot := true, status := 0, aux := 0, digest := digestInit d,
    src := rngOf (dSrc d) srcLen .read, dst := rngOf (dDst d) dstLen (opDstKind o),
    fen := rngOf (dFenceAddr d) fenLen (if dWait d then .read else .write), acc := none, stopped := false, hold := none,
    rd := 0, cons := 0, dpos := 0, pieces := [], wrote := [], ops := [], comb := [], durable := [], poisonAt := none,
    opBad := none,
    hostWrites := [], flushes := 0, seed := none, released := false, granted := false, round := 0, late := false,
    absmax := 0, fenceBroken := false, fencePrior := none, fenceWord := 0, fenced := false, cqLost := false, entered := false, bytesDone := none,
    retry := false, accepted := b.now, events := [], counts := [], hits := [(t, 0x010, 1)], made := (0, 0, 0), prefetched := 0, walkMiss := false, final := 0 }

/-- Accept a descriptor as an item. -/
def accept (key : Nat) (d : List (BitVec 64)) (b : Block) : Block :=
  match tfind b.sq.rings key with
  | none => b
  | some r =>
    let part := key / 4096
    let i := b.he.nextItem
    let it := newItem b part (key % 4096) r d
    let b := modHe (fun h => { h with items := tput h.items i it, nextItem := i + 1 }) b
    let b := event i 0x01 b
    if dCard d = 0 then b else joinRound i (dCard d - 1) b

/-! ### Fetching (R184-R186) -/

/-- Descriptors that fetches in progress of the rings of a kind take, each of which may become an item. -/
def inFetch (b : Block) (test : Nat → Nat → Bool) : Nat :=
  b.txns.foldl (fun n e => match e.2.use with | .fetch p r k => if test p r then n + k else n | _ => n) 0

/-- The room for further items: of the block in slots (R185), of a partition (R481), and of a function in its log, which reserves an
entry for each item (R270). A descriptor that is being fetched takes its room at once. -/
def slotRoom (b : Block) : Nat := 12288 - (slotsUsed b + inFetch b (fun _ _ => true))
def partRoom (b : Block) (p : Nat) : Nat := 4096 - (partItems b p + inFetch b (fun q _ => q == p))
def logRoom (b : Block) (fn : Nat) : Nat :=
  16384 - ((tget [] b.he.logs fn).length + fnItems b fn
    + inFetch b (fun p r => match tfind b.sq.rings (4096 * p + r) with | some x => ringFn b p x == fn | none => false))

/-- May a ring fetch now: ACTIVE, in a partition that is BOUND or, for a compute ring, in BIVOUAC (R478), in which no malformation
is captured (R205), with room for items and for their log entries (R185, R270, R481)? -/
def mayFetch (b : Block) (key : Nat) (r : Ring) : Bool :=
  let p := key / 4096
  r.state == .active && r.resident && r.fetching.isNone && r.head != r.tail && (partState b p == 1 || (partState b p == 4 && !r.host)) && !stopped b
    && !linePoisoned b 1 key && !fon b F.sqMalformedValid p && 0 < slotRoom b && 0 < partRoom b p && 0 < logRoom b (ringFn b p r)

/-- The descriptors of a ring from an offset on to the end of a sub-range of compute memory, which no access crosses. -/
def subRangeLeft (off : Nat) : Nat :=
  if off < 4 * dieSlot then (if off % dieSlot < sramAt then sramAt - off % dieSlot else dieSlot - off % dieSlot) / 64 else 64

/-- How many descriptors the next fetch takes: up to 64, to the end of the ring, within one sub-range of compute memory and the room
of `mayFetch`. -/
def fetchCount (b : Block) (key : Nat) (r : Ring) : Nat :=
  let p := key / 4096
  [64, ringUsed r.size r.head r.tail, r.size - r.head % 65536, subRangeLeft (r.base + 64 * (r.head % 65536)), slotRoom b, partRoom b p,
    logRoom b (ringFn b p r)].foldl (fun m x => if x < m then x else m) 64

/-- A fetch fails (R186): the ring halts, unless it stands in a state of higher precedence (R209). -/
def fetchFail (key : Nat) (b : Block) : Block :=
  let was : Bool := match tfind b.sq.rings key with | some r => r.state == .active || r.state == .paused | none => false
  let b := modRing key (fun r =>
    if r.state = .active ∨ r.state = .paused then { r with state := .halted, haltCause := 2, fetching := none, discardFetch := false }
    else { r with fetching := none, discardFetch := false }) b
  if was then partFault (key / 4096) 3 (.ring (key % 4096)) b else b

/-- Issue a fetch of a ring that may fetch; a context that is not resident is loaded first. -/
def fetchStep (key : Nat) (b : Block) : Block :=
  match tfind b.sq.rings key with
  | none => b
  | some r =>
    if !r.resident && r.state == .active && r.head != r.tail then ringLoad false key b
    else if !mayFetch b key r then b
    else
      let p := key / 4096
      let n := fetchCount b key r
      let fn := ringFn b p r
      match localPlace b p (r.base + 64 * (r.head % 65536)) (64 * n) with
      | none => fetchFail key b
      | some q =>
        match placeStatus b fn q with
        | some _ => fetchFail key b
        | none =>
          let t := b.nextTxn
          modRing key (fun r => { r with fetching := some t }) (issueRead q p fn (64 * n) 0 0 false true (.fetch p (key % 4096) n) b)

/-- Every ring that may fetch does. -/
def fetchAll (b : Block) : Block := each b.sq.rings (fun e b => fetchStep e.1 b) b

/-- Has a partition and the log of a function room for one more item (R270, R481)? -/
def roomFor (b : Block) (p fn : Nat) : Bool :=
  partItems b p < 4096 && (tget [] b.he.logs fn).length + fnItems b fn < 16384

/-- Take fetched descriptors in ring order, up to the first malformed one (R184), or the first for which there is no room any more, as
where the requester of a compute ring has changed meanwhile; those are fetched again. -/
def takeDescs (key : Nat) (ds : List (List (BitVec 64))) (b : Block) : Block :=
  match ds with
  | [] => b
  | d :: rest =>
    match tfind b.sq.rings key with
    | none => b
    | some r =>
      match descReason b (key / 4096) d with
      | some why => malformed (key / 4096) why false (key % 4096) r.head b
      | none =>
        if roomFor b (key / 4096) (ringFn b (key / 4096) r) then
          takeDescs key rest (accept key d (modRing key (fun r => { r with head := ringNext r.size r.head }) b))
        else b

end Sys2Proof.Machine
end

