-- ==== Sys2Proof/Machine/Gcm.lean ====
section
/-!
DEFINITION. AES-256 and its Galois/Counter Mode (R372), as FIPS 197 and NIST SP 800-38D define them. Bytes are numbers
below 256; 128-bit blocks are numbers with the first byte highest.
-/
namespace Sys2Proof.Machine

/-- The substitution table of AES. -/
def aesBox : List Nat :=
  [0x63, 0x7C, 0x77, 0x7B, 0xF2, 0x6B, 0x6F, 0xC5, 0x30, 0x01, 0x67, 0x2B, 0xFE, 0xD7, 0xAB, 0x76] ++
  [0xCA, 0x82, 0xC9, 0x7D, 0xFA, 0x59, 0x47, 0xF0, 0xAD, 0xD4, 0xA2, 0xAF, 0x9C, 0xA4, 0x72, 0xC0] ++
  [0xB7, 0xFD, 0x93, 0x26, 0x36, 0x3F, 0xF7, 0xCC, 0x34, 0xA5, 0xE5, 0xF1, 0x71, 0xD8, 0x31, 0x15] ++
  [0x04, 0xC7, 0x23, 0xC3, 0x18, 0x96, 0x05, 0x9A, 0x07, 0x12, 0x80, 0xE2, 0xEB, 0x27, 0xB2, 0x75] ++
  [0x09, 0x83, 0x2C, 0x1A, 0x1B, 0x6E, 0x5A, 0xA0, 0x52, 0x3B, 0xD6, 0xB3, 0x29, 0xE3, 0x2F, 0x84] ++
  [0x53, 0xD1, 0x00, 0xED, 0x20, 0xFC, 0xB1, 0x5B, 0x6A, 0xCB, 0xBE, 0x39, 0x4A, 0x4C, 0x58, 0xCF] ++
  [0xD0, 0xEF, 0xAA, 0xFB, 0x43, 0x4D, 0x33, 0x85, 0x45, 0xF9, 0x02, 0x7F, 0x50, 0x3C, 0x9F, 0xA8] ++
  [0x51, 0xA3, 0x40, 0x8F, 0x92, 0x9D, 0x38, 0xF5, 0xBC, 0xB6, 0xDA, 0x21, 0x10, 0xFF, 0xF3, 0xD2] ++
  [0xCD, 0x0C, 0x13, 0xEC, 0x5F, 0x97, 0x44, 0x17, 0xC4, 0xA7, 0x7E, 0x3D, 0x64, 0x5D, 0x19, 0x73] ++
  [0x60, 0x81, 0x4F, 0xDC, 0x22, 0x2A, 0x90, 0x88, 0x46, 0xEE, 0xB8, 0x14, 0xDE, 0x5E, 0x0B, 0xDB] ++
  [0xE0, 0x32, 0x3A, 0x0A, 0x49, 0x06, 0x24, 0x5C, 0xC2, 0xD3, 0xAC, 0x62, 0x91, 0x95, 0xE4, 0x79] ++
  [0xE7, 0xC8, 0x37, 0x6D, 0x8D, 0xD5, 0x4E, 0xA9, 0x6C, 0x56, 0xF4, 0xEA, 0x65, 0x7A, 0xAE, 0x08] ++
  [0xBA, 0x78, 0x25, 0x2E, 0x1C, 0xA6, 0xB4, 0xC6, 0xE8, 0xDD, 0x74, 0x1F, 0x4B, 0xBD, 0x8B, 0x8A] ++
  [0x70, 0x3E, 0xB5, 0x66, 0x48, 0x03, 0xF6, 0x0E, 0x61, 0x35, 0x57, 0xB9, 0x86, 0xC1, 0x1D, 0x9E] ++
  [0xE1, 0xF8, 0x98, 0x11, 0x69, 0xD9, 0x8E, 0x94, 0x9B, 0x1E, 0x87, 0xE9, 0xCE, 0x55, 0x28, 0xDF] ++
  [0x8C, 0xA1, 0x89, 0x0D, 0xBF, 0xE6, 0x42, 0x68, 0x41, 0x99, 0x2D, 0x0F, 0xB0, 0x54, 0xBB, 0x16]

def aesSub (x : Nat) : Nat := aesBox.getD (x % 256) 0

/-- Multiplication by x in the field of AES. -/
def aesDouble (x : Nat) : Nat := if x < 128 then 2 * x else (2 * x - 256) ^^^ 0x1B

/-- The byte-wise exclusive or of two lists. -/
def xorBytes (a c : List Nat) : List Nat := List.zipWith (· ^^^ ·) a c

/-- The round constants of AES-256. -/
def aesRcon (i : Nat) : Nat := 2 ^ i

/-- Extend a key schedule by one word. `ws` holds the words made so far, newest first, as four bytes each. -/
def aesWord (ws : List (List Nat)) : List (List Nat) :=
  let i := ws.length
  let prev := ws.getD 0 []
  let t :=
    if i % 8 = 0 then
      (match prev.map aesSub with
       | [a, b, c, d] => [b ^^^ aesRcon (i / 8 - 1), c, d, a]
       | l => l)
    else if i % 8 = 4 then prev.map aesSub
    else prev
  xorBytes (ws.getD 7 []) t :: ws

/-- Extend a schedule by `n` words. -/
def aesWords (n : Nat) (ws : List (List Nat)) : List (List Nat) :=
  match n with
  | 0 => ws
  | m + 1 => aesWords m (aesWord ws)

/-- The words of four bytes of a byte list. -/
def wordsOf (n : Nat) (l : List Nat) : List (List Nat) :=
  match n with
  | 0 => []
  | m + 1 => l.take 4 :: wordsOf m (l.drop 4)

/-- The round keys of a 32-byte key, 16 bytes each: `n` of them from word 0 on. -/
def roundKeys (n : Nat) (ws : List (List Nat)) : List (List Nat) :=
  match n with
  | 0 => []
  | m + 1 => (ws.take 4).flatten :: roundKeys m (ws.drop 4)

def aesSchedule (key : List Nat) : List (List Nat) := roundKeys 15 (aesWords 52 (wordsOf 8 key).reverse).reverse

/-- ShiftRows on a block whose byte `r + 4c` is row `r` of column `c`. -/
def aesShift (s : List Nat) : List Nat := (List.range 16).map (fun k => s.getD ((k + 4 * (k % 4)) % 16) 0)

/-- MixColumns on one column. -/
def aesMixCol (c : List Nat) : List Nat :=
  match c with
  | [a, b, c, d] =>
    let t := a ^^^ b ^^^ c ^^^ d
    [a ^^^ t ^^^ aesDouble (a ^^^ b), b ^^^ t ^^^ aesDouble (b ^^^ c), c ^^^ t ^^^ aesDouble (c ^^^ d),
     d ^^^ t ^^^ aesDouble (d ^^^ a)]
  | l => l

def aesMix (s : List Nat) : List Nat := ((wordsOf 4 s).map aesMixCol).flatten

/-- The rounds after the first key addition; the last round does not mix. -/
def aesRounds (ks : List (List Nat)) (s : List Nat) : List Nat :=
  match ks with
  | [] => s
  | [k] => xorBytes (aesShift (s.map aesSub)) k
  | k :: r => aesRounds r (xorBytes (aesMix (aesShift (s.map aesSub))) k)

/-- AES on one block under a schedule. -/
def aesBlock (ks : List (List Nat)) (s : List Nat) : List Nat :=
  match ks with
  | [] => s
  | k :: r => aesRounds r (xorBytes s k)

/-- The number that bytes spell, first highest, and back. -/
def beNum (l : List Nat) : Nat := l.foldl (fun n x => n * 256 + x) 0
def numBe (n x : Nat) : List Nat :=
  match n with
  | 0 => []
  | m + 1 => numBe m (x / 256) ++ [x % 256]

/-- Multiplication in the field of GHASH. -/
def ghashMul (n x v z : Nat) : Nat :=
  match n with
  | 0 => z
  | m + 1 =>
    let z := if x.testBit m then z ^^^ v else z
    ghashMul m x (if v % 2 = 1 then (v / 2) ^^^ (0xE1 <<< 120) else v / 2) z

/-- GHASH over 16-byte blocks, the last padded with zeros; `n` bounds the blocks. -/
def ghash (n h y : Nat) (l : List Nat) : Nat :=
  match n with
  | 0 => y
  | m + 1 =>
    let x := l.take 16
    ghash m h (ghashMul 128 (y ^^^ (beNum x <<< (8 * (16 - x.length)))) h 0) (l.drop 16)

/-- Counter mode from a 32-bit counter; `n` bounds the blocks. -/
def gcmCtr (n : Nat) (ks : List (List Nat)) (iv : List Nat) (c : Nat) (l : List Nat) : List Nat :=
  match n with
  | 0 => []
  | m + 1 =>
    xorBytes (l.take 16) (aesBlock ks (iv ++ numBe 4 (c % 2 ^ 32))) ++ gcmCtr m ks iv (c + 1) (l.drop 16)

/-- Blocks of 16 bytes that a list of bytes takes. -/
def blocks16 (l : List Nat) : Nat := (l.length + 15) / 16

/-- The tag of associated data and ciphertext. -/
def gcmTag (ks : List (List Nat)) (iv aad ct : List Nat) : List Nat :=
  let h := beNum (aesBlock ks (List.replicate 16 0))
  let y := ghash (blocks16 ct) h (ghash (blocks16 aad) h 0 aad) ct
  let y := ghashMul 128 (y ^^^ ((8 * aad.length) <<< 64 ^^^ (8 * ct.length))) h 0
  xorBytes (aesBlock ks (iv ++ [0, 0, 0, 1])) (numBe 16 y)

/-- Bytes as numbers and back. -/
def toNats (l : List (BitVec 8)) : List Nat := l.map (·.toNat)
def toBytes (l : List Nat) : List (BitVec 8) := l.map (BitVec.ofNat 8)

/-- The bytes of a 256-bit key held as a number with byte 0 lowest (R607). -/
def keyBytes (n key : Nat) : List Nat :=
  match n with
  | 0 => []
  | m + 1 => key % 256 :: keyBytes m (key / 256)

/-- AES-256-GCM with a 96-bit IV: ciphertext and tag. -/
def gcmSeal (key : Nat) (iv aad plain : List (BitVec 8)) : List (BitVec 8) × List (BitVec 8) :=
  let ks := aesSchedule (keyBytes 32 key)
  let p := toNats plain
  let ct := gcmCtr (blocks16 p) ks (toNats iv) 2 p
  (toBytes ct, toBytes (gcmTag ks (toNats iv) (toNats aad) ct))

/-- The plaintext of a ciphertext, where its tag verifies. -/
def gcmOpen (key : Nat) (iv aad ct tag : List (BitVec 8)) : Option (List (BitVec 8)) :=
  let ks := aesSchedule (keyBytes 32 key)
  let c := toNats ct
  if toBytes (gcmTag ks (toNats iv) (toNats aad) c) = tag then some (toBytes (gcmCtr (blocks16 c) ks (toNats iv) 2 c)) else none

end Sys2Proof.Machine
end

