-- ==== Sys2Proof/Machine/Win.lean ====
section
/-!
DEFINITION. BAR4 window accesses in progress (R61, R62, R440-R446, R732): how one is translated, carried out on this
node, answered and failed. Packets of remote accesses are sent in `Machine/Send.lean`; the commands are in
`Machine/Host.lean`.
-/
namespace Sys2Proof.Machine

open Sys2Proof

/-- Change a window access. -/
def modWin (w : Nat) (f : WinAcc → WinAcc) (b : Block) : Block := modHp (fun h => { h with wins := tmod h.wins w f }) b

/-- An exchange that serves a window access. -/
def Use.winOf (u : Use) (w : Nat) : Bool :=
  match u with
  | .winRead x _ => x == w
  | .winWrite x _ => x == w
  | _ => false

/-- Remove a window access: no later answer reaches it, and its packets have an owner that has ended (R322). -/
def winDrop (w : Nat) (b : Block) : Block :=
  let dead := fun (s : Sender) => if s = .win w then Sender.dead else s
  let b := closeTxns (fun t => match t.use with | .winRead x _ => x == w | _ => false) b
  let b := match tfind b.hp.wins w with
    | some a => (match a.acc with | some n => modTu (fun t => { t with accs := tdel t.accs n }) b | none => b)
    | none => b
  let b := modFt (fun t => { t with qps := t.qps.map (fun e => (e.1,
    { e.2 with sent := e.2.sent.map (fun s => { s with owner := dead s.owner })
               reads := e.2.reads.map (fun r => { r with owner := dead r.owner })
               awaits := e.2.awaits.map (fun a => { a with owner := dead a.owner })
               curMsn := e.2.curMsn.filter (fun c => c.1 != .win w) })) }) b
  modHp (fun h => { h with wins := (tdel h.wins w).map (fun e => (e.1, { e.2 with after := e.2.after.filter (· != w) })) }) b

/-- A request of the host is answered with Completer Abort (R442), which the function's Status register reports (R430). -/
def cplAbort (fn : Nat) (b : Block) : Block := emitTlp (fn / 128) (.completion fn .ca) (statusSet fn 27 b)

/-- A window access fails (R442, R732): it is captured with its cause, and a read is answered with Completer Abort. -/
def winFail (w cause va : Nat) (b : Block) : Block :=
  match tfind b.hp.wins w with
  | none => b
  | some a =>
    let b := tuCapture a.part a.asn a.win va cause (if a.read then .read else .write) true .none b
    let b := partFault a.part 5 (.fn a.fn) (fbump F.hpEventsWinFail (a.fn / 128) 1 b)
    winDrop w (if a.read && !a.answered then cplAbort a.fn b else b)

/-- The completions of a read (R443): in address order, at most 512 B each, split at 64 B boundaries; EP from the
poisoned byte on. `fuel` bounds them. -/
def cplSplit (fuel fn off : Nat) (bytes : List (BitVec 8)) (poison : Option Nat) (done : Nat) (b : Block) : Block :=
  match fuel with
  | 0 => b
  | k + 1 =>
    let n := alignDown (off + 512) 64 - off
    let x := bytes.take n
    let ep := match poison with | some p => p < done + x.length | none => false
    let b := emitTlp (fn / 128) (.completion fn (.data x ep)) b
    if bytes.length ≤ n then b else cplSplit k fn (off + n) (bytes.drop n) poison (done + n) b

/-- May two window accesses of a function touch a common 64 B block (R445)? They may as long as the first is not translated. -/
def winClash (first a : WinAcc) : Bool :=
  first.rng.upTo < first.rng.len ||
    (first.rng.parts 64 0 first.len).any (fun p => (a.rng.parts 64 0 a.len).any (fun q =>
      placeMeets p.2.2.1 p.2.1 q.2.2.1 q.2.1))

/-- Must an access wait for an earlier write of the same function to one of its blocks (R445)? -/
def winOrdered (b : Block) (w : Nat) (a : WinAcc) : Bool :=
  b.hp.wins.any (fun e => e.1 < w && e.2.fn == a.fn && !e.2.read && winClash e.2 a)

/-- Ask for the load of a QP context. -/
def qpLoad (k : Nat) (b : Block) : Block := modQp k (fun q => if q.resident then q else { q with loading := true }) b

/-- May a resolved place serve a window access (R441)? -/
def winPlace (b : Block) (a : WinAcc) (p : Place) : Option Nat :=
  match p with
  | .port _ _ _ => some 0x06
  | .remote n _ =>
    if a.qp = 0 then some 0x12
    else
      (match tfind b.ft.qps a.qp with
       | none => some 0x31
       | some q =>
         if q.part != a.part then some 0x31
         else if q.state != 1 then some 0x31
         else if q.peerNode != n then some 0x12
         else none)
  | .die d _ => if fon b F.idCmemDiePresent d then none else some 0x06
  | .depot _ => none

/-- One step of a window access: translate, issue local parts in order, and end when all is done. `some` where it made
progress. -/
def winStep (w : Nat) (b : Block) : Option Block :=
  match tfind b.hp.wins w with
  | none => none
  | some a =>
    match a.acc with
    | some n =>
      (match tfind b.tu.accs n with
       | none => some (modWin w (fun a => { a with acc := none }) b)
       | some x =>
         let drop := fun b => modWin w (fun a => { a with acc := none }) (modTu (fun t => { t with accs := tdel t.accs n }) b)
         match x.wait with
         | .again => some (drop b)
         | .walker => if walkerFree b x.tile then some (drop b) else none
         | .bad f => some (winFail w f.cause f.va (drop b))
         | _ => none)
    | none =>
      if a.rng.upTo < a.rng.len then
        let va := a.va + a.rng.upTo
        let want := a.len - a.rng.upTo
        let look := lookup b (portTile (a.fn / 128)) a.part a.asn 512 va want a.va a.len a.rng.kind true
        let b := slotTouch a.part a.asn b
        match look with
        | .span s =>
          (match winPlace b a s.place with
           | some c => some (winFail w c va b)
           | none =>
             let s' := { s with off := a.rng.upTo }
             some (modWin w (fun a => { a with rng := { a.rng with spans := a.rng.spans ++ [s'], upTo := a.rng.upTo + s.len } })
                 (if (segsOf b a.part a.asn).any (fun e => e.2.holds va) then b
                  else
                    let b := tcCount (portTile (a.fn / 128)) 0x021 (some a.part) 1 b
                    match tlbFind b (portTile (a.fn / 128)) a.part a.asn va with
                    | some e => tlbUse none e b
                    | none => b)))
        | .stop => some (winFail w 0x06 va b)
        | .bad c => some (winFail w (if causeUnreachable 0 ≤ c then 0x31 else c) va b)
        | .wait k s =>
          let (n, b) := accessWait ⟨.win w, a.part, a.asn, va, want, a.rng.kind, 512, portTile (a.fn / 128), 0, s, k⟩ k b
          some (modWin w (fun a => { a with acc := some n }) b)
      else if a.issued < a.len then
        if winOrdered b w a then none
        else
          match a.rng.at_ a.issued (a.len - a.issued) with
          | none => none
          | some (.remote _ _, _, _) =>
            (match tfind b.ft.qps a.qp with
             | some q => if q.resident || q.loading then none else some (qpLoad a.qp b)
             | none => none)
          | some (p, n, s) =>
            if !a.read && blockBusy b a.part p n none then none else
            let b := spanCount (portTile (a.fn / 128)) a.part a.asn a.va (a.va + a.issued) (s.part a.issued n) b
            let b := if a.read then issueRead p a.part a.fn n a.asn (a.va + a.issued) false false (.winRead w a.issued) b
              else issueWrite p a.part a.fn ((a.data.drop a.issued).take n) a.asn (a.va + a.issued) false false (.winWrite w a.issued) b
            some (modWin w (fun a => { a with issued := a.issued + n }) b)
      else if a.read then
        if a.after.isEmpty && (stagedAt (a.got.length + 1) a.got 0 a.len).length == a.len then
          let b := cplSplit 17 a.fn a.va (stagedAt (a.got.length + 1) a.got 0 a.len) a.poison 0 b
          some (winDrop w b)
        else none
      else if ivCovers a.len a.done then some (winDrop w b)
      else none

/-- Carry every window access on, in order of arrival. Nothing happens while the block is stopped (R566). -/
def winPumpAll (b : Block) : Block :=
  if stopped b then b else each b.hp.wins (fun e b => loop 64 (winStep e.1) b) b

end Sys2Proof.Machine
end

