-- ==== Sys2Proof/Machine/Wire.lean ====
section
/-!
DEFINITION. Frames on the wire (R318-R331, R372): the transport header, the addresses below it, the CRC and the cipher;
fabric ports with link-level replay (R367-R370, R375-R378); path labels (R353-R356) and epochs (R357-R360).
-/
namespace Sys2Proof.Machine

open Sys2Proof

/-! ### Packet types and flags (R327-R329) -/

def tyWrite : Nat := 0x01
def tyCombine : Nat := 0x02
def tyFence : Nat := 0x03
def tyReadReq : Nat := 0x04
def tyReadResp : Nat := 0x05
def tyAck : Nat := 0x10
def tyNak : Nat := 0x11
def tyApplied : Nat := 0x12
def tyCredit : Nat := 0x13
def tyProbe : Nat := 0x20
def tyProbeReply : Nat := 0x21
def tySkip : Nat := 0x22
def tyMgmt : Nat := 0x30

def flResend : Nat := 0x8000
def flPoison : Nat := 0x4000
def flAckReq : Nat := 0x2000
def flLast : Nat := 0x1000
def flFirst : Nat := 0x0800
def flHeldOk : Nat := 0x0400
def flDigest : Nat := 0x0200

/-- Does a packet carry a flag (R328)? -/
def hdrFlag (h : Hdr) (f : Nat) : Bool := h.flags &&& f != 0

def clsMg : Nat := 0
def clsRp : Nat := 1
def clsFq : Nat := 2
def clsFr : Nat := 3

/-- A header with every field zero. -/
def hdrZero : Hdr :=
  { cls := 0, epoch := 0, enc := false, type := 0, flags := 0, path := 0, dstQp := 0, arith := 0, srcQp := 0, srcNode := 0, dstNode := 0, psn := 0,
    msn := 0, address := 0, payloadLen := 0, card := 0, rank := 0, split := 0, scale := 0, seed := 0, element := 0, msgLen := 0, address2 := 0 }

/-- The 64 bytes of a transport header (R326), in network byte order. -/
def hdrBytes (h : Hdr) : List (BitVec 8) :=
  beBytes 1 (0x20 + h.cls * 4 + h.epoch * 2 + b2n h.enc) ++ beBytes 1 h.type ++ beBytes 2 h.flags
    ++ beBytes 4 (h.path * 2 ^ 26 + h.dstQp) ++ beBytes 1 h.arith ++ beBytes 3 h.srcQp
    ++ beBytes 2 h.srcNode ++ beBytes 2 h.dstNode ++ beBytes 4 h.psn ++ beBytes 4 h.msn ++ beBytes 8 h.address
    ++ beBytes 2 h.payloadLen ++ beBytes 2 h.card ++ beBytes 2 h.rank ++ beBytes 2 h.split ++ beBytes 4 h.scale
    ++ beBytes 4 h.seed ++ beBytes 4 h.element ++ beBytes 4 h.msgLen ++ beBytes 8 h.address2

/-- The end-to-end CRC-64 of a packet (R330). -/
def packetCrc (h : Hdr) (body tag : List (BitVec 8)) : BitVec 64 :=
  BitVec.ofNat 64 (crcDone (crcRun crcInit (hdrBytes h ++ body ++ tag)))

/-! ### The destination of a packet -/

/-- The order blocks that a range of the local map touches, by number (R304). -/
def orderBlocks (a n : Nat) : List Nat :=
  if n = 0 then [] else (List.range ((a + n - 1) / 65536 + 1 - a / 65536)).map (a / 65536 + ·)
/-- The bytes of an order block that lie in a range. -/
def blockPart (blk a n : Nat) : Nat :=
  let lo := if blk * 65536 < a then a else blk * 65536
  let hi := if a + n < (blk + 1) * 65536 then a + n else (blk + 1) * 65536
  hi - lo
/-- Destination bytes of a packet. -/
def frameDst (h : Hdr) : Nat :=
  if h.type = tyReadReq then h.msgLen
  else if h.arith = 0 then h.payloadLen
  else h.payloadLen / unitWire h.arith * unitOut h.arith
/-- The ranges of the local map that a packet touches: one, or two where it is split (R730). -/
def frameRanges (h : Hdr) : List (Nat × Nat × Nat) :=
  let n := frameDst h
  if h.split = 0 then [(0, n, h.address)]
  else [(0, h.split, h.address), (h.split, n - h.split, h.address2)]
/-- The order blocks of a packet with the bytes in each. -/
def frameBlocks (h : Hdr) : List (Nat × Nat) :=
  (frameRanges h).flatMap (fun e => (orderBlocks e.2.2 e.2.1).map (fun k => (k, blockPart k e.2.2 e.2.1)))

/-! ### PSNs -/

/-- `b` lies `psnDist a b` steps after `a`, modulo 2^32. -/
def psnDist (a b : Nat) : Nat := (b + 2 ^ 32 - a % 2 ^ 32) % 2 ^ 32
/-- PSN `a` lies before PSN `b`. -/
def psnBefore (a b : Nat) : Bool := psnDist a b != 0 && psnDist a b < 2 ^ 31
def psnNext (a : Nat) : Nat := (a + 1) % 2 ^ 32
/-- MSNs advance by one and skip 0 (R333). -/
def msnNext (a : Nat) : Nat := if (a + 1) % 2 ^ 32 = 0 then 1 else (a + 1) % 2 ^ 32

/-! ### Protection (R372, R603) -/

/-- The IV of a packet: node, QP, kind byte and counter. -/
def packetIv (node qp kind counter : Nat) : List (BitVec 8) :=
  beBytes 2 node ++ beBytes 3 qp ++ beBytes 1 kind ++ beBytes 6 counter

/-- The AAD of a packet: its header with PATH, EPOCH, CLASS, RESEND and ACK_REQ taken as zero. -/
def packetAad (h : Hdr) : List (BitVec 8) :=
  hdrBytes { h with path := 0, epoch := 0, cls := 0, flags := h.flags % 2 ^ 13 + (h.flags / 2 ^ 14 % 2) * 2 ^ 14 }

/-- The kind byte and counter of a packet's IV (R372). `ctl` is the control counter. -/
def packetKind (h : Hdr) (ctl : Nat) : Nat × Nat :=
  if h.type ≤ 4 then (0, h.psn)
  else if h.type = 5 then (1, h.psn * 2 ^ 16 + (h.address + 4095) / 4096 % 2 ^ 16)
  else (2, ctl)

/-- A key slot that is not listed. -/
def slotEmpty : KeySlot := ⟨0, 0, none, 0, 0⟩
def keySlotOf (b : Block) (s : Nat) : KeySlot := tget slotEmpty b.ce.slots s

/-- The current or the next key of a slot. -/
def keyPick (s : KeySlot) (next : Bool) : Nat :=
  match s.next with
  | some (k, _, _) => if next then k else s.key
  | none => s.key

/-- Is a packet sent, or received, under the next key (R603)? -/
def keyTxNext (s : KeySlot) (psn : Nat) : Bool :=
  match s.next with | some (_, tx, _) => !psnBefore psn tx | none => false
def keyRxNext (s : KeySlot) (psn : Nat) : Bool :=
  match s.next with | some (_, _, rx) => !psnBefore psn rx | none => false
/-- Control packets change key once a sequenced packet at or past TX_PSN has been sent. -/
def keyCtlNext (s : KeySlot) (nextPsn : Nat) : Bool :=
  match s.next with | some (_, tx, _) => psnBefore tx nextPsn | none => false

/-- The tile whose engine does the cipher work of a QP (R23, R595). -/
def cipherTile (b : Block) (qp : Nat) : Nat := servingTile b (homeTile qp)
/-- Is every engine fenced (R596)? -/
def allFenced (b : Block) : Bool := (List.range 12).all (fun t => fon b F.ceEngineStatusFenced t)

/-- A half that is not listed holds a set in use and one in reserve for each copy. -/
def halfFull : EngineHalf := ⟨2, 2, false, []⟩
def halfOf (b : Block) (k : Nat) : EngineHalf := tget halfFull b.ce.halves k
def modHalf (k : Nat) (f : EngineHalf → EngineHalf) (b : Block) : Block :=
  modCe (fun c => { c with halves := tput c.halves k (f (tget halfFull c.halves k)) }) b
/-- May a half take a block now (R613)? -/
def halfReady (b : Block) (k : Nat) : Bool := (halfOf b k).setsA != 0 && (halfOf b k).setsB != 0
def halfTx (t : Nat) : Nat := 2 * t + 1
def halfRx (t : Nat) : Nat := 2 * t

/-! ### Ports -/

/-- A port that is not listed: present and training. -/
def portTraining : Port := ⟨3, 0, false, 0, [], [], 0, 0, false, (0, 0)⟩
def portOf (b : Block) (p : Nat) : Port := tget portTraining b.ft.ports p
def modPort (p : Nat) (f : Port → Port) (b : Block) : Block :=
  modFt (fun t => { t with ports := tput t.ports p (f (tget portTraining t.ports p)) }) b
def portHere (b : Block) (p : Nat) : Bool := p < (variant b).fabPorts
def portUp (b : Block) (p : Nat) : Bool := portHere b p && ((portOf b p).state == 1 || (portOf b p).state == 2)

/-- Does replay cover a class on a port (R367)? -/
def llrCovers (b : Block) (p cls : Nat) : Bool :=
  fon b F.ftPortStatusLlr p && (fon b F.ftPortStatusLlrAll p || cls ≤ 1)

/-- Bytes of a frame on a link with replay, for the 512 KiB buffer (R369). -/
def frameSize (f : LinkFrame) : Nat :=
  match f with
  | .packet f => 144 + f.payload.length + f.tag.length
  | .ptp f => 72 + f.payload.length

/-- The 16-bit one's complement sum of bytes in pairs. -/
def onesSum (n : Nat) (l : List (BitVec 8)) (acc : Nat) : Nat :=
  match n with
  | 0 => acc
  | m + 1 =>
    match l with
    | [] => acc
    | [x] => (acc + x.toNat * 256) % 65536 + (acc + x.toNat * 256) / 65536
    | x :: y :: r => onesSum m r ((acc + x.toNat * 256 + y.toNat) % 65536 + (acc + x.toNat * 256 + y.toNat) / 65536)

/-- An IPv6 address of a node on a port's plane (R324). -/
def ipv6Addr (b : Block) (p node : Nat) : List (BitVec 8) :=
  beBytes 8 (dict b 0x2110 (fget b F.ftPortStatusPlane p)) ++ beBytes 6 0 ++ beBytes 2 node

/-- The CRC-32 of Ethernet frames over one byte, on the reflected register, bit by bit. -/
def fcsByte (n crc : Nat) : Nat :=
  match n with
  | 0 => crc
  | m + 1 => fcsByte m (if crc % 2 = 1 then (crc / 2) ^^^ 0xEDB88320 else crc / 2)

/-- The Ethernet FCS (R323): the CRC-32 of IEEE 802.3, least significant byte first (PRESUMED, log entry 101). -/
def etherFcs (l : List (BitVec 8)) : List (BitVec 8) :=
  leBytes 4 (l.foldl (fun c x => fcsByte 8 (c ^^^ x.toNat)) 0xFFFFFFFF ^^^ 0xFFFFFFFF)

/-- The source MAC of a port (R323): the fused base MAC, whose first octet is its lowest byte, plus the port number, as the octets of
one number in network byte order. -/
def portMac (b : Block) (p : Nat) : List (BitVec 8) :=
  beBytes 6 ((leNat (leBytes 6 b.fuses.baseMac).reverse + p) % 2 ^ 48)

/-- The bytes of an Ethernet frame on a port, from the destination MAC to the FCS (R323-R325, R368): `body` follows the UDP header. The
packets of free requests that carry data are ECN-capable, which are WRITE and COMBINE (DESIGN CHOICE, log entry 123). -/
def wireBytes (b : Block) (p cls : Nat) (ect : Bool) (shim : Option Nat) (flow udpSrc udpDst srcNode dstNode : Nat)
    (body : List (BitVec 8)) : List (BitVec 8) :=
  let len := 8 + body.length
  let src := ipv6Addr b p srcNode
  let dst := ipv6Addr b p dstNode
  let udp := fun (sum : Nat) => beBytes 2 udpSrc ++ beBytes 2 udpDst ++ beBytes 2 len ++ beBytes 2 sum
  let s := onesSum 4096 (src ++ dst ++ beBytes 4 len ++ beBytes 4 17 ++ udp 0 ++ body) 0
  let sum := if 65535 - s = 0 then 65535 else 65535 - s
  let tc := dict b 0x2120 (2 + cls) * 4 + (if ect then 2 else 0)
  let whole := leBytes 6 (dict b 0x2100 p) ++ portMac b p
    ++ (match shim with | some n => beBytes 2 0x88B5 ++ beBytes 1 0 ++ beBytes 3 n | none => [])
    ++ beBytes 2 0x86DD
    ++ beBytes 4 (6 * 2 ^ 28 + tc * 2 ^ 20 + flow) ++ beBytes 2 len ++ beBytes 1 17 ++ beBytes 1 (dict b 0x2120 1)
    ++ src ++ dst ++ udp sum ++ body
  whole ++ etherFcs whole

/-- The bytes of a packet's frame. -/
def frameBytes (b : Block) (f : Frame) : List (BitVec 8) :=
  wireBytes b f.port f.hdr.cls (f.hdr.cls = clsFq && (f.hdr.type == tyWrite || f.hdr.type == tyCombine)) f.shim f.flow f.udpSrc
    (dict b 0x2120 0) f.hdr.srcNode f.hdr.dstNode (hdrBytes f.hdr ++ f.payload ++ f.tag ++ beBytes 8 f.crc.toNat)

/-- Event messages, which are timestamped (R383). -/
def PtpKind.isEvent (k : PtpKind) : Bool := k != .other

/-- The UDP port of a PTP message (R383). -/
def PtpKind.udp (k : PtpKind) : Nat := if PtpKind.isEvent k then 319 else 320

/-- The bytes of a PTP frame (R383): class MG, no transport header; its UDP source port is its destination port (DESIGN CHOICE, log entry
127). -/
def ptpBytes (b : Block) (f : PtpOut) : List (BitVec 8) :=
  wireBytes b f.port clsMg false f.shim 0 (PtpKind.udp f.kind) (PtpKind.udp f.kind) (selfNode b) f.dstNode f.payload

/-- The bytes of a replay control frame (R368), of the minimum size of 64 B. -/
def llrBytes (b : Block) (p : Nat) (nak : Bool) (seq : Nat) : List (BitVec 8) :=
  let head := leBytes 6 (dict b 0x2100 p) ++ portMac b p ++ beBytes 2 0x88B6 ++ beBytes 1 (if nak then 2 else 1) ++ beBytes 1 0 ++ beBytes 3 seq
  let whole := head ++ List.replicate (60 - head.length) 0#8
  whole ++ etherFcs whole

def LinkFrame.port (f : LinkFrame) : Nat := match f with | .packet f => f.port | .ptp f => f.port
def LinkFrame.cls (f : LinkFrame) : Nat := match f with | .packet f => f.hdr.cls | .ptp _ => clsMg
def LinkFrame.withShim (n : Nat) (f : LinkFrame) : LinkFrame :=
  match f with | .packet f => .packet { f with shim := some n } | .ptp f => .ptp { f with shim := some n }

/-- A frame goes onto the link. An event message's timestamp is corrected by the port's egress latency (R383). -/
def linkEmit (f : LinkFrame) (b : Block) : Block :=
  match f with
  | .packet f => emit (.frame f (frameBytes b f)) b
  | .ptp f => emit (.ptpFrame f.port f.kind (ptpBytes b f) (if PtpKind.isEvent f.kind then some (b.now + dict b 0x2105 f.port) else none)) b

/-- A frame leaves by its port: through the replay buffer where its class is covered, and it waits where that is full (R369). -/
def linkOut (f : LinkFrame) (b : Block) : Block :=
  if !llrCovers b f.port f.cls then linkEmit f b
  else
    let pt := portOf b f.port
    if pt.wait ≠ [] ∨ 524288 < pt.buf.foldl (fun n e => n + frameSize e.2) 0 + frameSize f then
      modPort f.port (fun p => { p with wait := p.wait ++ [f] }) b
    else
      let f := f.withShim pt.tx
      linkEmit f (modPort f.port (fun p => { p with buf := p.buf ++ [(pt.tx, f)], tx := (pt.tx + 1) % 2 ^ 24 }) b)

/-- The partition to whose QP `k` a packet belongs (R673). -/
def packetPart (b : Block) (k : Nat) : Option Nat := (tfind b.ft.qps k).map (·.part)

/-- A frame for a header, with the label entry that it leaves on. -/
def mkFrame (port flow udpSrc : Nat) (h : Hdr) (body tag : List (BitVec 8)) : Frame :=
  ⟨port, true, true, false, none, flow, udpSrc, h, body, tag, packetCrc h body tag, h.dstNode⟩

/-! ### Labels and epochs -/

/-- The current epoch number (R361). -/
def epochNow (b : Block) : Nat := fget b F.ftEpochCtlEpoch 0

/-- The path entry of a set and label in the tables of an epoch bit: the active copy for the current one, else the
shadow (R353, R358). -/
def pathEntry (b : Block) (e set l : Nat) : BitVec 64 :=
  rget b (if e = epochNow b % 2 then .ftPathActive else .ftPathShadow) (64 * set + l)
def entPort (w : BitVec 64) : Nat := qbits w 56 52
def entFlow (w : BitVec 64) : Nat := qbits w 51 32
def entUdp (w : BitVec 64) : Nat := qbits w 31 16
/-- Does a label exist (R353)? -/
def entValid (b : Block) (w : BitVec 64) : Bool := w.getLsbD 63 && portHere b (entPort w)

def labelUnlisted : Label := ⟨false, 0, none⟩
def labelState (b : Block) (set l : Nat) : Label := tget labelUnlisted b.ft.labels (64 * set + l)
def modLabel (set l : Nat) (f : Label → Label) (b : Block) : Block :=
  modFt (fun t => { t with labels := tset labelUnlisted t.labels (64 * set + l) (f (tget labelUnlisted t.labels (64 * set + l))) }) b

/-- Is a label DOWN, or COOLED (R354)? A label whose port is not up counts as DOWN. -/
def labelDown (b : Block) (e set l : Nat) : Bool :=
  (labelState b set l).down || !portUp b (entPort (pathEntry b e set l))
def labelCooled (b : Block) (set l : Nat) : Bool :=
  match (labelState b set l).cooledTo with | some t => b.now < t | none => false

/-- FT_CC as it applies to a QP: a change applies from its next round on (R366). -/
def qpCc (b : Block) (q : Qp) : BitVec 64 := if b.now < q.roundStart + q.srtt then q.cc else rget b .ftCc 0

/-- The first label in a QP's round-robin order that passes a test. -/
def rrPick (rr : Nat) (p : Nat → Bool) : Option Nat := ((List.range 64).map (fun k => (rr + k) % 64)).find? p

/-- The label of a free packet (R355): UP before COOLED, with room in its port's queue; `full` is the mask of ports
whose queue holds 128 KiB, `avoid` a label that a resend must not take. -/
def freeLabel (b : Block) (q : Qp) (full : Nat) (avoid : Option Nat) : Option Nat :=
  let e := epochNow b % 2
  let ok := fun l => let w := pathEntry b e q.pathSet l
    entValid b w && !labelDown b e q.pathSet l && !bit full (entPort w) && avoid != some l
  match rrPick q.rr (fun l => ok l && !labelCooled b q.pathSet l) with
  | some l => some l
  | none => rrPick q.rr ok

/-- The label of a roped packet from a mask (R406): VALID and not DOWN. -/
def ropedLabel (b : Block) (q : Qp) (mask : Nat) (avoid : Option Nat) : Option Nat :=
  let e := epochNow b % 2
  rrPick q.rr (fun l => bit mask l && entValid b (pathEntry b e q.pathSet l) && !labelDown b e q.pathSet l && avoid != some l)

/-- The label and epoch bit of a response (R356): those of the packet that caused it if usable, else the next usable
label of the active epoch. -/
def respLabel (b : Block) (q : Qp) (l e : Nat) : Option (Nat × Nat) :=
  if entValid b (pathEntry b e q.pathSet l) && !labelDown b e q.pathSet l then some (l, e)
  else (freeLabel b q 0 none).map (fun l => (l, epochNow b % 2))

/-- Send a packet that waited for a port that is down on another usable label of its QP, unchanged (R376); where none is usable it waits
for one. A sequenced packet that its QP has given up meanwhile is dropped. -/
def frameMove (f : Frame) (b : Block) : Block :=
  match tfind b.ft.qps f.hdr.srcQp with
  | none => b
  | some q =>
    if f.hdr.type ≤ 4 && !(q.sent.any (fun s => s.psn == f.hdr.psn)) then b
    else
      match (if f.hdr.cls = clsRp then ropedLabel b q (2 ^ 64 - 1) none else freeLabel b q 0 none) with
      | none => modFt (fun t => { t with strays := t.strays ++ [f] }) b
      | some l =>
        let e := epochNow b
        let w := pathEntry b (e % 2) q.pathSet l
        let h := { f.hdr with path := l, epoch := e % 2 }
        let b := modQp f.hdr.srcQp (fun q =>
          { q with sent := q.sent.map (fun s => if s.psn = f.hdr.psn && f.hdr.type ≤ 4 then
              { s with hdr := { s.hdr with path := l, epoch := e % 2 }, epoch := e } else s) }) b
        linkOut (.packet (mkFrame (entPort w) (entFlow w) (entUdp w) h f.payload f.tag)) b

/-- The packets that found no usable label try again. -/
def straysMove (b : Block) : Block :=
  if b.ft.strays.isEmpty then b else each b.ft.strays frameMove (modFt (fun t => { t with strays := [] }) b)

/-- A packet goes out on its port, or on another where that is down (R376). A stopped block sends only class MG (R566). -/
def frameOut (f : Frame) (b : Block) : Block :=
  if stopped b && f.hdr.cls != 0 then b
  else
    let b := tcCount (f.port / 2) 0x040 (packetPart b f.hdr.srcQp) 1 b
    if portUp b f.port then linkOut (.packet f) b else frameMove f b

/-- Packets outstanding under an epoch number, across the block (R357). -/
def epochOutstanding (b : Block) (n : Nat) : Nat :=
  b.ft.qps.foldl (fun k e => k + e.2.sent.countP (fun s => !s.rcvd && s.epoch == n)) 0
/-- The number of the epoch before the current one. -/
def epochOld (b : Block) : Nat := (epochNow b + 65535) % 65536
/-- Retire the old epoch once nothing of it is outstanding (R358); source 1,862 tells of it (R578). -/
def epochRetire (b : Block) : Block :=
  if fon b F.ftEpochCtlRetiring 0 && epochOutstanding b (epochOld b) == 0 then
    sgAssert 1862 (fput F.ftEpochCtlRetiring 0 0 b)
  else b

/-- A loss of a QP is detected on a label (R354). -/
def labelLoss (q : Qp) (l : Nat) (b : Block) : Block :=
  let set := q.pathSet
  let n := qbits (qpCc b q) 7 4
  modLabel set l (fun x => { x with losses := x.losses + 1, down := x.down || (if n = 0 then 1 else n) ≤ x.losses + 1 }) b

end Sys2Proof.Machine
end

