-- ==== Sys2Proof/Machine/Send.lean ====
section
/-!
DEFINITION. The sending side of queue pairs (R332-R351, R363-R364, R372-R374, R406, R730): how a QP fails, and which
sequenced packet leaves next. The commands are in `Machine/Transport.lean`.
-/
namespace Sys2Proof.Machine

open Sys2Proof

/-! ### Failing a QP (R332, R348, R373-R374, R380) -/

/-- Fail an item of a QP, or its fence where its data has ended (R200). -/
def qpItemFail (i status peer : Nat) (b : Block) : Block :=
  match tfind b.he.items i with
  | none => b
  | some it =>
    let aux := if status = 0x030 ∨ status = 0x031 ∨ status = 0x032 then peer else 0
    match it.stage with
    | .fenceWrite => (match fencePlace it with | some (.remote _ _) => fenceFail i status peer b | _ => b)
    | .fence => (match fencePlace it with | some (.remote _ _) => fenceFail i status peer b | _ => b)
    | _ => itemFail i status aux b

/-- The items in flight that name a QP. -/
def qpItems (b : Block) (k : Nat) : List Nat :=
  tkeys (fun _ it => opNeedsQp (dOpcode it.desc) && dQp it.desc == k) b.he.items

/-- The status that a QP's cause gives the items that do not own the packet concerned (R380). -/
def causeOther (cause : Nat) : Nat := if cause = 8 ∨ cause = 9 then 0x040 else 0x030
/-- The cause code of R732 of a window access of a failed QP. -/
def causeWin (cause : Nat) : Nat := if cause = 7 then 0x32 else if cause = 8 ∨ cause = 9 then 0x33 else 0x31

/-- The window accesses that reach a peer over a QP fail. -/
def qpWinsFail (k cause : Nat) (b : Block) : Block :=
  each (tkeys (fun _ w => w.qp == k) b.hp.wins) (fun w b => match tfind b.hp.wins w with
    | some a => if a.rng.spans.any (fun s => match s.place with | .remote _ _ => true | _ => false)
        then winFail w cause a.va b else b
    | none => b) b

/-- A READY QP enters ERROR: its first cause is kept, `owner` ends with `status`, every other item and window access of the QP
ends, and nothing of the QP is outstanding any more. A DRAINING QP stays DRAINING, and ends what it has in the same way (R335). -/
def qpError (k cause psn : Nat) (owner : Sender) (status : Nat) (b : Block) : Block :=
  match tfind b.ft.qps k with
  | none => b
  | some q =>
    if q.state = 2 then b
    else
      let b := if q.state = 3 then b
        else partFault q.part 7 (.qp k) (modQp k (fun q => { q with state := 2, cause := if q.cause = 0 then cause else q.cause,
                                                                    causePsn := if q.cause = 0 then psn else q.causePsn }) b)
      let b := each (qpItems b k) (fun i b =>
        qpItemFail i (if owner = .item i then status else causeOther cause) q.peerNode b) b
      let b := qpWinsFail k (causeWin cause) b
      epochRetire (modQp k (fun q => { q with sent := [], reads := [], awaits := [], skips := [], curMsn := [] }) b)

/-! ### Timers -/

/-- The RTO of a QP in ns (R347), before it doubles. -/
def qpRto (b : Block) (q : Qp) : Nat :=
  let lo := fget b F.ftXportRtoMin 0 * 1000
  let hi := fget b F.ftXportRtoMax 0 * 1000
  let x := q.srtt + 4 * q.rttvar
  let x := if x < lo then lo else x
  if hi < x then hi else x

/-- Has a packet gone unacknowledged for its QP's RTO, doubled at each consecutive timeout of it (R347)? It doubles after it is held
between its bounds (DEDUCED, log entry 102). -/
def rtoDue (b : Block) (q : Qp) (s : Sent) : Bool := s.lastAt + qpRto b q * 2 ^ s.touts ≤ b.now

/-- DELIVERY_TIMEOUT and RTO_MAX in ns (R352). -/
def deliveryTimeout (b : Block) : Nat := fget b F.ftXportDeliveryTimeout 0 * 100000
def rtoMax (b : Block) : Nat := fget b F.ftXportRtoMax 0 * 1000

/-! ### The next packet of a QP -/

/-- A sequenced packet before it is numbered: its owner, its header with ADDRESS, flags, lengths and card, its body in
clear, the destination bytes it serves, the source bytes it consumes, the events of its arithmetic, and whether it is
roped and protected. `resend` is the PSN of the packet it sends again; `again` is the request of which it asks a missing range again, as
its PSN, the range, and when it was first asked for (R350). -/
structure Draft where
  owner : Sender
  hdr : Hdr
  body : List (BitVec 8)
  off : Nat
  len : Nat
  src : Nat
  ev : Ev
  roped : Bool
  enc : Bool
  msgLen : Nat
  resend : Option Nat
  again : Option (Nat × Nat × Nat × Nat)
  deriving DecidableEq, Repr

/-- The contiguous run of remote offsets at the head of a list of parts (R730): its first offset, its length, and the
parts after it. -/
def remoteRun (l : List (Nat × Nat × Place × Span)) : Nat × Nat × List (Nat × Nat × Place × Span) :=
  match l with
  | [] => (0, 0, [])
  | (_, n, .remote _ a, _) :: r =>
    r.foldl (fun (acc : Nat × Nat × List (Nat × Nat × Place × Span)) e =>
      match acc.2.2, e.2.2.1 with
      | [], .remote _ x => if x = acc.1 + acc.2.1 then (acc.1, acc.2.1 + e.2.1, []) else (acc.1, acc.2.1, [e])
      | l, _ => (acc.1, acc.2.1, l ++ [e])) (a, n, [])
  | l => (0, 0, l)

/-- The sender's rank under the card of an item (R326). -/
def cardRank (b : Block) (i : Nat) : Nat := match itemCard b i with | some c => c.myRank | none => 0

/-- Is an item's packet protected (R371)? -/
def itemEnc (q : Qp) (it : Item) : Bool :=
  let c := dCipher it.desc % 4
  if c = 2 && q.clearOk then false else if c = 1 || c = 3 then true else q.enc

/-- The gates that hold the next packet of an item: those of R233 before its commit; the card's and the QP's window
after it. -/
def sendHeld (b : Block) (it : Item) : Bool :=
  if it.committed then gateCard it || gateQp b it else gated b it

/-- The next data packet of an item that writes at its peer, if one is ready: whole units up to 4 KiB of payload, to the
next break (R730), once all of its source is staged. -/
def dataDraft (b : Block) (q : Qp) (i : Nat) (it : Item) : Option Draft :=
  let a := dArith it.desc
  let ui := if a = 0 then 1 else unitIn a
  let uo := if a = 0 then 1 else unitOut a
  let uw := if a = 0 then 1 else unitWire a
  if it.stage != .active || !it.begun || !opRemoteDst (dOpcode it.desc) || dLength it.desc ≤ it.cons || sendHeld b it
      || !it.fenceReady || (dFence it.desc && !it.entered) then none
  else
    let lim := match it.poisonAt with | some (k, _) => if k < dLength it.desc then k else dLength it.desc | none => dLength it.desc
    let n := (lim - it.cons) / ui
    let n := if 4096 / uw < n then 4096 / uw else n
    if n = 0 || it.dst.upTo < it.dpos + n * uo then none
    else
      let r1 := remoteRun (it.dst.parts 64 it.dpos (n * uo))
      let m := r1.2.1
      let cut := m < n * uo && m % uo != 0
      let r2 := if cut then remoteRun r1.2.2 else (0, 0, [])
      let n := if m < n * uo then (m + r2.2.1) / uo else n
      let x := stagedAt 64 it.pieces it.cons (n * ui)
      if n = 0 || x.length < n * ui then none
      else
        let w := if a = 0 then (x, Ev.zero) else wireAll n a it.seedUsed (it.cons / ui * unitElems a) x
        let roped := dCard it.desc != 0
        let combine := dOpcode it.desc == 0x05
        let total := dLength it.desc / ui * uw
        let flags := (if it.cons = 0 then flFirst else 0) + (if it.cons + n * ui = dLength it.desc then flLast else 0)
          + (if combine && roped then flHeldOk else 0) + (if combine && dDigest it.desc then flDigest else 0)
        let h := { hdrZero with
          cls := if roped then clsRp else clsFq, type := if combine then tyCombine else tyWrite, flags := flags, arith := a,
          address := r1.1, payloadLen := w.1.length, card := dCard it.desc, rank := if roped then cardRank b i else 0,
          split := if cut then m else 0, address2 := if cut then r2.1 else 0,
          scale := if a ≠ 0 ∧ arOp a = 4 then dScale it.desc else 0, seed := if a ≠ 0 then it.seedUsed else 0,
          element := if a = 0 then 0 else it.cons / ui * unitElems a }
        some ⟨.item i, h, w.1, it.dpos, n * uo, n * ui, w.2, roped, itemEnc q it, total, none, none⟩

/-- The block in which an item that reads from its peer would take a chunk into staging: it commits with its request, and frees a
shared buffer where none is left (R230, R236). -/
def readRoom (b : Block) (i : Nat) (it : Item) : Block :=
  let it := { it with committed := true }
  let b := modItem i (fun _ => it) b
  if wantsShared b it then reclaim it.tile b else b

/-- The next READ_REQ of an item that reads from its peer: one contiguous part of one chunk, as far as a chunk goes (R350, R730). A
part that the translation does not reach the end of waits for it. -/
def readDraft (b : Block) (q : Qp) (i : Nat) (it : Item) : Option Draft :=
  if it.stage != .active || !it.begun || dOpcode it.desc != 0x03 || dLength it.desc ≤ it.rd || sendHeld b it
      || !it.fenceReady || (dFence it.desc && !it.entered) || !mayStage (readRoom b i it) i { it with committed := true }
      || it.src.upTo ≤ it.rd then none
  else
    let chunk := 65536 - it.rd % 65536
    let more := dLength it.desc - it.rd
    let whole := if more < chunk then more else chunk
    let n := if it.src.upTo < it.rd + whole then it.src.upTo - it.rd else whole
    let r := remoteRun (it.src.parts 64 it.rd n)
    if r.2.1 = 0 || (r.2.1 = n && n < whole) then none
    else
      some ⟨.item i, { hdrZero with cls := clsFq, type := tyReadReq, flags := flFirst + flLast, address := r.1, msgLen := r.2.1 },
        [], it.rd, r.2.1, r.2.1, Ev.zero, false, itemEnc q it, r.2.1, none, none⟩

/-- The remote fence of an item (R253). -/
def fenceDraft (b : Block) (q : Qp) (i : Nat) (it : Item) : Option Draft :=
  if it.stage != .fenceWrite || q.windowFull then none
  else
    match fencePlace it with
    | some (.remote _ off) =>
      let roped := dCard it.desc != 0
      if q.sent.any (fun s => s.owner == .item i) || (!roped && q.closed false) then none
      else
        let h := { hdrZero with cls := if roped then clsRp else clsFq, type := tyFence, flags := flFirst + flLast,
                                address := off, payloadLen := 8, card := dCard it.desc, rank := if roped then cardRank b i else 0 }
        some ⟨.item i, h,
          leBytes 8 it.fenceWord, 0, 0, 0, Ev.zero, roped, itemEnc q it, 8, none, none⟩
    | _ => none

/-- May a card-bound packet leave: while the card runs in order at the peer, under its rank's credit for every block that it
touches (R308)? -/
def credited (b : Block) (q : Qp) (h : Hdr) : Bool :=
  !(h.card != 0 && (h.type == tyWrite || h.type == tyCombine)) || !b.ps.inOrder.contains (h.card - 1, q.peerNode)
    || (frameBlocks h).all (fun e => b.ps.credits.any (fun c => c.1 == h.card - 1 && c.2.1 == q.peerNode && c.2.2 == e.1))

/-- The next packet of an item of a QP. -/
def itemDraft (b : Block) (q : Qp) (i : Nat) (it : Item) : Option Draft :=
  match fenceDraft b q i it with
  | some d => some d
  | none =>
    match readDraft b q i it with
    | some d => some d
    | none => (dataDraft b q i it).filter (fun d => credited b q d.hdr)

/-- The next packet of a window access (R322). -/
def winDraft (b : Block) (q : Qp) (w : Nat) (a : WinAcc) : Option Draft :=
  if a.len ≤ a.issued || a.rng.upTo < a.rng.len || a.acc.isSome || winOrdered b w a || q.closed false then none
  else
    match a.rng.at_ a.issued (a.len - a.issued) with
    | some (.remote _ _, _, _) =>
      let r := remoteRun (a.rng.parts 64 a.issued (a.len - a.issued))
      if r.2.1 = 0 then none
      else if a.read then
        some ⟨.win w, { hdrZero with cls := clsFq, type := tyReadReq, flags := flFirst + flLast, address := r.1, msgLen := r.2.1 },
          [], a.issued, r.2.1, r.2.1, Ev.zero, false, q.enc, r.2.1, none, none⟩
      else
        let n := if 4096 < r.2.1 then 4096 else r.2.1
        let end_ := alignDown (a.va + a.issued + n) 64 - (a.va + a.issued)
        let n := if a.issued + n < a.len && end_ ≠ 0 && r.2.1 != n then end_ else n
        let flags := (if a.issued = 0 then flFirst else 0) + (if a.issued + n = a.len then flLast else 0)
        some ⟨.win w, { hdrZero with cls := clsFq, type := tyWrite, flags := flags, address := r.1, payloadLen := n },
          (a.data.drop a.issued).take n, a.issued, n, n, Ev.zero, false, q.enc, a.len, none, none⟩
    | _ => none

/-- The gaps of a range of `len` bytes that its intervals leave. `fuel` bounds them. -/
def ivGaps (fuel pos len : Nat) (l : List (Nat × Nat)) : List (Nat × Nat) :=
  match fuel with
  | 0 => []
  | n + 1 =>
    if len ≤ pos then []
    else
      match l.find? (fun e => e.1 ≤ pos && pos < e.1 + e.2) with
      | some e => ivGaps n (e.1 + e.2) len l
      | none =>
        let next := l.foldl (fun m e => if pos < e.1 && e.1 < m then e.1 else m) len
        (pos, next - pos) :: ivGaps n next len l

/-- The local offset at the peer of a byte of a read request's range, while its owner still wants it: an item that fails sends nothing
further (R262). -/
def readAt (b : Block) (r : Rreq) (off : Nat) : Option Nat :=
  let of := fun (g : Rng) => match g.at_ (r.off + off) 1 with
    | some (.remote _ a, _, _) => some a
    | _ => none
  match r.owner with
  | .item i => (match tfind b.he.items i with | some it => if it.stage = .active ∧ it.status = 0 then of it.src else none | none => none)
  | .win w => (match tfind b.hp.wins w with | some a => of a.rng | none => none)
  | .dead => none

/-- The READ_REQ that asks again for the first missing range of a read request (R350). -/
def againDraft (b : Block) (q : Qp) (r : Rreq) : Option Draft :=
  if !r.again then none
  else
    match ivGaps (2 * r.got.length + 2) 0 r.len r.got with
    | [] => none
    | g :: _ =>
      let enc : Bool := match r.owner with
        | .item i => (match tfind b.he.items i with | some it => itemEnc q it | none => q.enc)
        | _ => q.enc
      (readAt b r g.1).map (fun a =>
        ⟨r.owner, { hdrZero with cls := clsFq, type := tyReadReq, flags := flFirst + flLast, address := a, msgLen := g.2 },
          [], r.off + g.1, g.2, 0, Ev.zero, false, enc, g.2, none, some (r.psn, g.1, g.2, r.firstAt)⟩)

/-- The packet of a list whose loss was detected first (R421). -/
def lostFirst (l : List Sent) : Option Sent :=
  l.foldl (fun acc s => match acc with
    | none => some s
    | some x => if s.lostAt < x.lostAt then some s else some x) none

/-- A packet that is to be sent again (R347, R421), in loss order. Roped resends leave only in a slack window, and under their rank's
credit where the card runs in order (R308). A resend of a free packet does not wait for cwnd, since its bytes count as outstanding already
(DESIGN CHOICE, log entry 124). -/
def resendDraft (b : Block) (q : Qp) (roped : Bool) : Option Draft :=
  let window := b.ps.phase == 3 || b.ps.ext
  match lostFirst (q.sent.filter (fun s => s.resend && !s.rcvd && s.roped == roped && credited b q s.hdr &&
      (!roped || window || (s.lossPitch.isNone && b.ps.inOrder.contains (s.hdr.card - 1, q.peerNode))))) with
  | none => none
  | some s => some ⟨s.owner, s.hdr, s.body, s.off, s.len, 0, Ev.zero, roped, s.hdr.enc, s.hdr.msgLen, some s.psn, none⟩

/-- The next packet of a QP: roped before free, in the order of the cards (R243); a resend before new packets; what is asked for again,
window accesses, then the oldest accepted item first (R244). No roped packet is sent for the first time in the guard phase (R392). -/
def nextDraft (b : Block) (k : Nat) (q : Qp) : Option Draft :=
  if (q.state != 1 && q.state != 3) || !q.resident then none
  else
    let ids := (qpItems b k).filter (fun i => match tfind b.he.items i with
      | some it => q.state == 1 || it.committed | none => false)
    let ofKind := fun (roped : Bool) => ids.filterMap (fun i => match tfind b.he.items i with
      | some it => if (dCard it.desc != 0) == roped then some (i, it) else none
      | none => none)
    let ofItems := fun (roped : Bool) => (if roped then cardSort b (ofKind true) else (ofKind false).map (·.1)).findSome? (fun i =>
      match tfind b.he.items i with | some it => itemDraft b q i it | none => none)
    let wins := if q.state = 1 then b.hp.wins.filter (fun e => e.2.qp == k) else []
    match resendDraft b q true with
    | some d => some d
    | none =>
      match (if b.ps.sched.isSome && b.ps.phase == 0 then none else ofItems true) with
      | some d => some d
      | none =>
        match resendDraft b q false with
        | some d => some d
        | none =>
          match (if q.closed false then none else q.reads.findSome? (againDraft b q)) with
          | some d => some d
          | none =>
            match wins.findSome? (fun e => winDraft b q e.1 e.2) with
            | some d => some d
            | none => ofItems false

/-! ### Sending -/

/-- Protect a packet under its QP's key (R372, R603): the body as transmitted and its tag. -/
def sealPacket (b : Block) (q : Qp) (next : Bool) (ctl : Nat) (h : Hdr) (body : List (BitVec 8)) :
    List (BitVec 8) × List (BitVec 8) :=
  let kc := packetKind h ctl
  gcmSeal (keyPick (keySlotOf b q.keySlot) next) (packetIv h.srcNode h.srcQp kc.1 kc.2) (packetAad h) body

/-- A frame leaves: at once in clear, and through the transmit half of the serving engine where it is protected, which
releases it at a check slot (R615). -/
def release (k : Nat) (f : Frame) (u : Unchecked) (b : Block) : Block :=
  if f.hdr.enc then modHalf (halfTx (cipherTile b k)) (fun h => { h with outs := h.outs ++ [u] }) b else frameOut f b

/-- The label of a draft: by the card's masks for roped packets, by R355 for free ones, and another than the lost one
for a resend (R347). A lone usable label serves its own resends (DESIGN CHOICE, log entry 16). -/
def draftLabel (b : Block) (q : Qp) (d : Draft) (full : Nat) : Option Nat :=
  let avoid := if d.resend.isSome then some d.hdr.path else none
  if d.roped then
    match (match d.owner with | .item i => itemCard b i | _ => none) with
    | none => ropedLabel b q (2 ^ 64 - 1) none
    | some c =>
      if d.resend.isSome then
        (match ropedLabel b q c.alt avoid with | some l => some l | none => ropedLabel b q c.alt none)
      else (match ropedLabel b q c.first none with | some l => some l | none => ropedLabel b q c.alt none)
  else
    match freeLabel b q full avoid with
    | some l => some l
    | none => if avoid.isSome then freeLabel b q full none else none

/-- What sending a new packet does to its owner: an item commits, its source is consumed, its staging buffer is charged and its page
accesses are counted (R144); a window access has one more part issued, and its page accesses are counted. -/
def ownerSent (d : Draft) (b : Block) : Block :=
  match d.owner with
  | .dead => b
  | .win w =>
    (match tfind b.hp.wins w with
     | none => b
     | some a =>
       modWin w (fun a => { a with issued := a.issued + d.src }) (each (a.rng.parts 64 d.off d.src) (fun e b =>
         spanCount (portTile (a.fn / 128)) a.part a.asn a.va (a.va + e.1) (e.2.2.2.part e.1 e.2.1) b) b))
  | .item i =>
    let b := commit i b
    match tfind b.he.items i with
    | none => b
    | some it =>
      if d.hdr.type = tyFence then
        (match it.fen.spans with
         | s :: _ => spanCount it.tile it.part (itemAsn b it) (dFenceAddr it.desc) (dFenceAddr it.desc) (s.part 0 8) b
         | [] => b)
      else if d.hdr.type = tyReadReq then
        if d.src = 0 then b else
        let b := stageCharge i it (if wantsShared b it then reclaim it.tile b else b)
        let b := each (it.src.parts 64 d.off d.len) (fun e b =>
          spanCount it.tile it.part (itemAsn b it) (dSrc it.desc) (dSrc it.desc + e.1) (e.2.2.2.part e.1 e.2.1) b) b
        modItem i (fun it => { it with rd := it.rd + d.src }) b
      else
        let b := arithEvents it.part it.ring d.ev b
        let b := each (it.dst.parts 64 d.off d.len) (fun e b =>
          spanCount it.tile it.part (itemAsn b it) (dDst it.desc) (dDst it.desc + e.1) (e.2.2.2.part e.1 e.2.1) b) b
        modItem i (fun it =>
          { it with cons := it.cons + d.src, dpos := it.dpos + d.len, passed := true, pieces := stagedDrop it.pieces (it.cons + d.src),
                    digest := if dDigest it.desc && dOpcode it.desc != 0x05 then crcRun it.digest d.body else it.digest }) b

/-- The lowest PSN that the peer has not received. -/
def unaOf (q : Qp) : Nat :=
  let l := (q.sent.filter (fun s => !s.rcvd)).map (·.psn) ++ q.skips.map (·.1)
  let d := l.foldl (fun m p => let x := psnDist p q.nextPsn; if m < x then x else m) 0
  (q.nextPsn + 2 ^ 32 - d) % 2 ^ 32

/-- The earliest instant at which a free packet of `n` payload bytes leaves (R364): every packet of the QP before it counts, and its
payload makes the gap (DESIGN CHOICE, log entry 125). Roped packets are not governed. -/
def paceNext (q : Qp) (n : Nat) : Nat :=
  match q.leftAt with
  | none => 0
  | some t => t + 5 * q.srtt * n / (4 * q.cwnd)

/-- The read requests of a QP once a READ_REQ has left: a range that is asked for again passes to the new request (R350). -/
def readsAfter (l : List Rreq) (d : Draft) (psn now : Nat) : List Rreq :=
  match d.again with
  | none => l ++ [⟨psn, d.owner, d.off, d.len, now, none, [], false⟩]
  | some (old, off, n, first) =>
    let l := l.map (fun x => if x.psn = old then { x with got := ivAdd off n x.got } else x)
    l.filter (fun x => !(x.psn == old && ivCovers x.len x.got)) ++ [⟨psn, d.owner, d.off, d.len, first, none, [], false⟩]

/-- Number and send a new sequenced packet of a QP on a label. -/
def sendNew (k : Nat) (q : Qp) (d : Draft) (l : Nat) (b : Block) : Block :=
  let e := epochNow b
  let w := pathEntry b (e % 2) q.pathSet l
  let psn := q.nextPsn
  let known := q.curMsn.find? (fun c => c.1 == d.owner)
  let one := d.hdr.type == tyFence || d.hdr.type == tyReadReq
  let msn := match known with | some c => if one then q.nextMsn else c.2.1 | none => q.nextMsn
  let fresh := one || known.isNone
  let h := { d.hdr with epoch := e % 2, enc := d.enc, path := l, dstQp := q.peerQp, srcQp := k, srcNode := selfNode b,
                        dstNode := q.peerNode, psn := psn, msn := msn, msgLen := d.msgLen }
  let sealed := if d.enc then sealPacket b q (keyTxNext (keySlotOf b q.keySlot) psn) 0 h d.body else (d.body, [])
  let f := mkFrame (entPort w) (entFlow w) (entUdp w) h sealed.1 sealed.2
  let s : Sent := ⟨psn, h, sealed.1, sealed.2, d.owner, d.off, d.len, d.roped, b.now, b.now, 1, none, none, false, false, e, 0, 0⟩
  let last := hdrFlag h flLast
  let await := (hdrFlag h flHeldOk || hdrFlag h flDigest) && fresh
  let sentKey := if d.enc then q.keySent + 1 else q.keySent
  let b := modQp k (fun q =>
    { q with nextPsn := psnNext psn, nextMsn := if fresh then msnNext q.nextMsn else q.nextMsn, rr := (l + 1) % 64,
             una := unaOf { q with sent := q.sent ++ [s], nextPsn := psnNext psn },
             sent := q.sent ++ [s], leftAt := some b.now, keySent := sentKey, sentCount := (q.sentCount + 1) % 2 ^ 32,
             bytesSent := (q.bytesSent + d.body.length) % 2 ^ 64,
             curMsn := if one then q.curMsn
               else if last then q.curMsn.filter (fun c => c.1 != d.owner)
               else if known.isSome then q.curMsn else q.curMsn ++ [(d.owner, msn, 0)],
             awaits := if await then q.awaits ++ [⟨msn, d.owner, d.msgLen, 0, none, [psn]⟩]
               else if one then q.awaits
               else q.awaits.map (fun a => if a.msn = msn then { a with psns := a.psns ++ [psn] } else a),
             reads := if h.type = tyReadReq then readsAfter q.reads d psn b.now else q.reads }) b
  let b := if d.enc && 2 ^ 32 - sentKey == 2 ^ 24 then fhNote 230 (.qp k) (some q.part) b else b
  let b := release k f (.sent d.owner k psn f) (ownerSent d b)
  if d.enc && 2 ^ 32 ≤ sentKey then qpError k 9 psn .dead 0x040 b else b

/-- Send a packet of a QP again (R347): the same PSN, body and tag, RESEND set, on another label, in the current
epoch. -/
def sendAgain (k : Nat) (q : Qp) (psn l : Nat) (b : Block) : Block :=
  match q.sent.find? (fun s => s.psn == psn) with
  | none => b
  | some s =>
    let e := epochNow b
    let w := pathEntry b (e % 2) q.pathSet l
    let fl := if hdrFlag s.hdr flResend then s.hdr.flags else s.hdr.flags + flResend
    let h := { s.hdr with epoch := e % 2, path := l, flags := fl }
    let f := mkFrame (entPort w) (entFlow w) (entUdp w) h s.body s.tag
    let b := modQp k (fun q =>
      { q with rr := (l + 1) % 64, resentCount := (q.resentCount + 1) % 2 ^ 32, leftAt := some b.now,
               sent := q.sent.map (fun s => if s.psn = psn then
                 { s with hdr := h, lastAt := b.now, tries := s.tries + 1, resend := false, lossPitch := none, epoch := e } else s) }) b
    epochRetire (tcCount (entPort w / 2) 0x041 (some q.part) 1 (release k f (.sent s.owner k psn f) b))

/-! ### Arbitration at a tile's fabric transmit queues (R243-R246) -/

/-- The next packet of a QP, if nothing but the arbiter of its tile keeps it: its pacing allows it, its half is not stalled and a
label takes it. -/
def readyDraft (b : Block) (full k : Nat) (q : Qp) : Option Draft :=
  match nextDraft b k q with
  | none => none
  | some d =>
    if linePoisoned b 0 k || (!d.roped && b.now < paceNext q d.body.length)
        || (d.enc && (allFenced b || !halfReady b (halfTx (cipherTile b k)))) || (draftLabel b q d full).isNone then none
    else some d

/-- The QPs homed on a tile that have a packet ready. -/
def tileDrafts (b : Block) (full t : Nat) : List (Nat × Draft) :=
  b.ft.qps.filterMap (fun e => if homeTile e.1 = t then (readyDraft b full e.1 e.2).map (fun d => (e.1, d)) else none)

/-- The bytes that the answers to a READ_REQ have carried so far. -/
def respSent (x : Rx) : Nat := match x.done with | (_, n) :: _ => n | [] => 0

/-- The bytes up to which a READ_REQ is answered: all of them, or those before the bad block (R350). -/
def respEnd (x : Rx) : Nat := match x.bad with | some n => n | none => x.frame.hdr.msgLen

/-- The length of the next packet that answers a READ_REQ, once its bytes are here: up to 4 KiB, ending where the poison begins (R350).
0 where what remains is a NAK or the end. -/
def respNext (x : Rx) : Option Nat :=
  if x.stage != .read || x.step == 0 then none
  else
    let off := respSent x
    let end_ := match x.poison with | some p => if off < p && p < respEnd x then p else respEnd x | none => respEnd x
    let n := if end_ < off + 4096 then end_ - off else 4096
    if (stagedAt (x.operand.length + 1) x.operand off n).length < n then none else some n

/-- Free work that waits at a tile's transmit queues (R242, R244), as partition, age, bytes and who it is. -/
structure TxWork where
  part : Nat
  age : Nat
  size : Nat
  ctx : Bool
  num : Nat
  deriving DecidableEq, Repr

/-- The partition of a QP. -/
def qpPart (b : Block) (k : Nat) : Nat := match tfind b.ft.qps k with | some q => q.part | none => 0

/-- The free work that waits at a tile: answers to READ_REQs, which are no items and go before them, and the packets of QPs by the
age of their items (log entry 98). -/
def txWork (b : Block) (full t : Nat) : List TxWork :=
  b.ft.rx.filterMap (fun e => if homeTile e.2.qp = t then (respNext e.2).map (fun n => ⟨qpPart b e.2.qp, e.1, n, true, e.1⟩) else none)
    ++ ((tileDrafts b full t).filter (fun e => !e.2.roped)).map (fun e =>
      ⟨qpPart b e.1, 2 ^ 40 + (match e.2.owner with | .item i => i + 1 | _ => 0), e.2.body.length, false, e.1⟩)

/-- The oldest free work of a partition. -/
def txOldest (l : List TxWork) (p : Nat) : Option TxWork :=
  (l.filter (fun w => w.part == p)).foldl (fun acc w => match acc with
    | none => some w
    | some v => if w.age < v.age then some w else some v) none

/-- Is free work granted at its tile now: no roped packet waits there, and it is its partition's turn? -/
def txGranted (b : Block) (full t : Nat) (ctx : Bool) (num : Nat) : Bool :=
  let l := txWork b full t
  !((tileDrafts b full t).any (fun e => e.2.roped)) &&
    match drrPick b t (fun p => (txOldest l p).map (·.size)) with
    | some (p, _) => (match txOldest l p with | some w => w.ctx == ctx && w.num == num | none => false)
    | none => false

/-- Charge a grant of free work to its partition. -/
def txCharge (full t n : Nat) (b : Block) : Block :=
  let l := txWork b full t
  drrCharge t n (fun p => (txOldest l p).map (·.size)) b

/-- The place of a roped packet in the order of the cards (R243). -/
def draftPlace (b : Block) (d : Draft) : Nat × Nat := ((match d.owner with | .item i => cardDue b i | _ => 0), d.hdr.card)

/-- May a packet of a QP be granted at its tile now (R243, R244)? Roped packets go first, in the order of their cards. -/
def granted (b : Block) (full k : Nat) (d : Draft) : Bool :=
  let t := homeTile k
  if d.roped then
    (tileDrafts b full t).all (fun e => !e.2.roped || e.1 == k || cardBefore (draftPlace b d) (draftPlace b e.2))
  else txGranted b full t false k

/-- A sequenced packet of a QP leaves (R364), if one is ready: the QP is resident, its windows and pacing allow it, the
arbiter of its tile grants it, its half is not stalled, and a label takes it. A QP that is not resident is loaded for its next
packet (R338). -/
def packetStep (k full : Nat) (b : Block) : Block :=
  match tfind b.ft.qps k with
  | none => b
  | some q =>
    if !q.resident then
      let here := { q with resident := true }
      if (nextDraft (modQp k (fun _ => here) b) k here).isSome then qpLoad k b else b
    else
      match readyDraft b full k q with
      | none => b
      | some d =>
        if !granted b full k d then b
        else
          match draftLabel b q d full with
          | none => b
          | some l =>
            let b := if d.roped then b else txCharge full (homeTile k) d.body.length b
            match d.resend with
            | some psn => sendAgain k q psn l b
            | none => sendNew k q d l b

/-! ### Control packets and responses -/

/-- Send a packet that is not sequenced (R356, R372). `l` and `e` are the label and epoch bit of the packet that caused
it; a PROBE_REPLY names the PROBE's label whichever one it leaves on (R327). A QP that is not resident is loaded first (R338). Where no label is usable it is not sent (DESIGN CHOICE, log entry 17); a peer's timers recover it. -/
def sendControl (k : Nat) (h : Hdr) (body : List (BitVec 8)) (l e : Nat) (b : Block) : Block :=
  match tfind b.ft.qps k with
  | none => b
  | some q =>
    if !q.resident then qpLoad k (modQp k (fun q => { q with dues := q.dues ++ [.control h body l e] }) b) else
    match respLabel b q l e with
    | none => b
    | some (l, e) =>
      let w := pathEntry b e q.pathSet l
      let resp := h.type == tyReadResp
      let h := { h with epoch := e, enc := q.enc, path := if h.type = tyProbeReply then h.path else l, dstQp := q.peerQp, srcQp := k, srcNode := selfNode b,
                        dstNode := q.peerNode, payloadLen := body.length }
      if linePoisoned b 0 k || (q.enc && (allFenced b || !halfReady b (halfTx (cipherTile b k)))) then b
      else
        let slot := keySlotOf b q.keySlot
        let next := if resp then keyRxNext slot h.psn else keyCtlNext slot q.nextPsn
        let sealed := if q.enc then sealPacket b q next q.ctl h body else (body, [])
        let b := if q.enc && !resp then modQp k (fun q => { q with ctl := (q.ctl + 1) % 2 ^ 48 }) b else b
        let f := mkFrame (entPort w) (entFlow w) (entUdp w) h sealed.1 sealed.2
        release k f (.control k f body) b

/-- Probe a label of a QP's set (R354): the PROBE names no message. A QP that is not resident is loaded first (R338). -/
def probeSend (k set l : Nat) (b : Block) : Block :=
  match tfind b.ft.qps k with
  | none => b
  | some q =>
    let e := epochNow b % 2
    let w := pathEntry b e set l
    let p := entPort w
    if q.pathSet != set || !entValid b w || !(labelState b set l).down || !portUp b p || (portOf b p).held then b
    else if !q.resident then qpLoad k (modQp k (fun q => { q with dues := q.dues ++ [.probe set l] }) b)
    else if linePoisoned b 0 k || (q.enc && (allFenced b || !halfReady b (halfTx (cipherTile b k)))) then b
    else
      let h := { hdrZero with cls := clsFr, type := tyProbe, epoch := e, enc := q.enc, path := l, dstQp := q.peerQp, srcQp := k,
                              srcNode := selfNode b, dstNode := q.peerNode }
      let sealed := if q.enc then sealPacket b q (keyCtlNext (keySlotOf b q.keySlot) q.nextPsn) q.ctl h [] else ([], [])
      let b := if q.enc then modQp k (fun q => { q with ctl := (q.ctl + 1) % 2 ^ 48 }) b else b
      let f := mkFrame p (entFlow w) (entUdp w) h sealed.1 sealed.2
      release k f (.control k f []) b

/-- What waited for a QP's context is sent (R338). -/
def duesSend (k : Nat) (b : Block) : Block :=
  match tfind b.ft.qps k with
  | none => b
  | some q =>
    if !q.resident then b
    else each q.dues (fun d b => match d with
      | .control h body l e => sendControl k h body l e b
      | .probe set l => probeSend k set l b) (modQp k (fun q => { q with dues := [] }) b)

/-- The class of a response to a packet (R318). -/
def respCls (h : Hdr) : Nat := if h.cls = clsRp then clsRp else clsFr

/-- A NAK QP_UNKNOWN (R356): it leaves on the port on which the packet came, with its flow label and UDP source port. -/
def sendNakUnknown (f : Frame) (b : Block) : Block :=
  let h := { hdrZero with cls := respCls f.hdr, type := tyNak, epoch := f.hdr.epoch, path := f.hdr.path, dstQp := f.hdr.srcQp,
                          srcQp := f.hdr.dstQp, srcNode := selfNode b, dstNode := f.hdr.srcNode, psn := f.hdr.psn, address := 3 }
  fbump F.ftRxErrorsNoQp 0 1 (frameOut (mkFrame f.port f.flow f.udpSrc h [] []) b)

/-- A NAK with a code (R329) for a packet of a QP. -/
def sendNak (k code : Nat) (h0 : Hdr) (b : Block) : Block :=
  sendControl k { hdrZero with cls := respCls h0, type := tyNak, psn := h0.psn, address := code } [] h0.path h0.epoch b

/-- The SACK bitmap (R342): bit `i` of PSN CUM + 1 + i is bit `i % 8` of byte `i / 8` (DESIGN CHOICE, log entry 18). -/
def sackBytes (q : Qp) : List (BitVec 8) :=
  leBytes 128 (q.rx.foldl (fun n p => let d := psnDist q.cumNext p; if d < 1024 then n ||| 2 ^ d else n) 0)

/-- Send an ACK (R342, R345) for what a QP has received, in class RP where it concerns a card-bound packet (R318). -/
def sendAck (k cls l e : Nat) (b : Block) : Block :=
  match tfind b.ft.qps k with
  | none => b
  | some q =>
    let h := { hdrZero with cls := if q.ackRp then clsRp else cls, type := tyAck, psn := (q.cumNext + 2 ^ 32 - 1) % 2 ^ 32, address := q.dur, msgLen := q.ackBytesCe }
    let b := modQp k (fun q => { q with sinceAck := 0, ackBytesCe := 0, ackRp := false, gapAckAt := b.now }) b
    sendControl k h (sackBytes q) l e b

/-- Send an APPLIED with the count of a message (R345), and its digest where one is asked for. -/
def sendApplied (k msn count : Nat) (digest : Option Nat) (cls l e : Nat) (b : Block) : Block :=
  let h := { hdrZero with cls := cls, type := tyApplied, msn := msn, msgLen := count, flags := if digest.isSome then flDigest else 0 }
  sendControl k h (match digest with | some d => beBytes 8 d | none => []) l e b

end Sys2Proof.Machine
end

