-- ==== Sys2Proof/Machine/Keeper.lean ====
section
/-!
DEFINITION. Receive contexts at work (R242, R319) and the order keepers (R301-R310, R731): placing and combining received
packets, rounds as they complete and settle (R403), receive fences (R407) and abandonment (R423).
-/
namespace Sys2Proof.Machine

open Sys2Proof

/-! ### Rounds -/

/-- Is a round the one of a generation, card and number? -/
def roundIs (g c k : Nat) (r : Round) : Bool := r.gen == g && r.card == c && r.k == k
def modRound (g c k : Nat) (f : Round → Round) (b : Block) : Block := mapRounds (fun r => if roundIs g c k r then f r else r) b
def findRound (b : Block) (g c k : Nat) : Option Round := b.ps.rounds.find? (roundIs g c k)

/-- The nominal start of a round's pitch. -/
def nominalAt (s : Sched) (c : Card) (k : Nat) : Nat := s.origin + ((k - 1) * s.cycle + c.pitch) * s.len
/-- The expanded contributor list of a card. -/
def rankList (s : Sched) (c : Nat) : List Nat := tget [] s.lists c

/-- The rounds of a card that exist are numbered on from 1; make them exist up to `k` (none beyond 1 without REPEAT). -/
def ensureRound (g c k : Nat) (b : Block) : Block :=
  let rep := match schedAt b g with | some s => s.rep | none => false
  if g != schedGen b || (!rep && 1 < k) then b
  else
    let n := tget 1 b.ps.nextK c
    modPs (fun p => { p with rounds := p.rounds ++ (List.range (k + 1 - n)).map (fun j =>
                               { newRound g c (n + j) with deadline := roundDeadline p.sched c (n + j) }),
                             nextK := tset 1 p.nextK c (if n ≤ k then k + 1 else n) }) b

/-! ### Early-arrival buffers (R305-R308, R316) -/

/-- The bytes of a partition's early-arrival share (R307). -/
def eabShare (b : Block) : Nat :=
  if (variant b).pitch then (if (variant b).depotGib = 32 then 2 ^ 31 else 2 ^ 30) / (variant b).partitions else 0
/-- The bytes that a partition holds: the payloads of its held packets (DESIGN CHOICE, log entry 121). -/
def eabHeld (b : Block) (part : Nat) : Nat :=
  b.ps.rounds.foldl (fun n r => r.held.foldl (fun n h =>
    if h.part = part then n + h.frame.payload.length else n) n) 0
/-- USED in units of 64 KiB, rounded up (DEDUCED, log entry 19), with PEAK. -/
def eabNote (part : Nat) (b : Block) : Block :=
  let u := (eabHeld b part + 65535) / 65536
  let b := fput F.cxEabStatusUsed part u b
  if fget b F.cxEabStatusPeak part < u then fput F.cxEabStatusPeak part u b else b

/-! ### Order blocks (R304) -/

/-- The bytes that a rank has applied in an order block. -/
def rankBytes (r : Round) (blk rank : Nat) : Nat :=
  r.done.foldl (fun n e => if e.1 = blk ∧ e.2.1 = rank then n + e.2.2 else n) 0
/-- Has a rank completed an order block? The receiving node's own rank has from the start (R400). -/
def rankDone (b : Block) (s : Sched) (c : Card) (r : Round) (rank blk : Nat) : Bool :=
  (rankList s r.card).getD (rank - 1) 0x7FFF == selfNode b || blockPart blk c.dstBase c.dstLen ≤ rankBytes r blk rank
/-- Is it a rank's turn on every block of a list (R305)? -/
def turnOk (b : Block) (s : Sched) (c : Card) (r : Round) (rank : Nat) (blks : List Nat) : Bool :=
  blks.all (fun blk => (List.range (rank - 1)).all (fun j => rankDone b s c r (j + 1) blk))
/-- The rank whose turn it is on a block. -/
def turnRank (b : Block) (s : Sched) (c : Card) (r : Round) (blk : Nat) : Option Nat :=
  ((List.range c.contrib).map (· + 1)).find? (fun rank => !rankDone b s c r rank blk)

/-! ### The destination of a packet -/

def frameKind (h : Hdr) : Kind := if h.type = tyReadReq then .read else if h.type = tyCombine then .combine else .write

/-- Admission of a packet at this node for a partition (R59, R67-R69): its parts, and the grant it came under. Compute memory needs no
grant; any other destination needs one grant that admits every byte of the packet (R68). A place on a host port needs a requester
that can issue. -/
def frameAdmit (b : Block) (part : Nat) (h : Hdr) : Option (List (Nat × Nat × Place) × Option Nat) :=
  let rs := frameRanges h
  let ps := rs.filterMap (fun e => (localPlace b part e.2.2 e.2.1).map (fun p => (e.1, e.2.1, p)))
  let blocked := ps.any (fun e =>
    (placeStatus b (match e.2.2 with | .port hp _ _ => portFn b part 512 hp | _ => 512) e.2.2).isSome)
  if ps.length ≠ rs.length || blocked then none
  else if ps.all (fun e => match e.2.2 with | .die _ _ => true | _ => false) then some (ps, none)
  else
    ((List.range 16).find? (fun g => rs.all (fun e => grantAdmits b part g h.srcNode e.2.2 e.2.1 (frameKind h)))).map
      (fun g => (ps, some g))

/-! ### Credits (R308) -/

/-- The QP over which a node of a card is reached. -/
def nodeQp (b : Block) (part node : Nat) : Option Nat :=
  tfirst (fun _ q => q.part == part && q.peerNode == node && q.state == 1) b.ft.qps

/-- Grant credit for an order block to the rank whose turn it is, on the label number and epoch bit of the packet that caused it (R356);
`none` where no packet did (R310). -/
def creditPut (g c k blk : Nat) (cause : Option (Nat × Nat)) (b : Block) : Block :=
  match cardAt b g c, findRound b g c k with
  | some (s, x), some r =>
    (match turnRank b s x r blk with
     | none => b
     | some rank =>
       match nodeQp b x.part ((rankList s c).getD (rank - 1) 0x7FFF) with
       | none => b
       | some q =>
         sendControl q { hdrZero with cls := clsRp, type := tyCredit, card := c + 1, rank := rank, address := blk * 65536 } []
           ((cause.map (·.1)).getD (match tfind b.ft.qps q with | some x => x.rr | none => 0)) ((cause.map (·.2)).getD (epochNow b % 2)) b)
  | _, _ => b

/-- A card enters in-order mode (R308, R310): it is counted, and each order block's turn gets credit. -/
def inOrderEnter (g c k : Nat) (cause : Option (Nat × Nat)) (b : Block) : Block :=
  match cardAt b g c, findRound b g c k with
  | some (_, x), some r =>
    if r.inOrder then b
    else
      let b := fbump F.cxEabStatusFallbacks x.part 1 (modRound g c k (fun r => { r with inOrder := true }) b)
      each (orderBlocks x.dstBase x.dstLen) (fun blk b => creditPut g c k blk cause b) b
  | _, _ => b

/-! ### Receive contexts -/

/-- The owner number of a receive context for the blocks that a combine holds (R289). -/
def rxOwner (r : Nat) : Nat := 2 ^ 40 + r

/-- Open a receive context for a packet that has been admitted. -/
def rxOpen (x : Rx) (b : Block) : Nat × Block :=
  let n := b.ft.nextRx
  (n, modFt (fun t => { t with nextRx := n + 1, rx := tput t.rx n x }) b)

/-- The requester of a receive context on a place (R57, R488). -/
def rxFn (b : Block) (x : Rx) (p : Place) : Nat := match p with | .port h _ _ => portFn b (x.part) 512 h | _ => 512

/-- Issue the writes of a context's `out` bytes. -/
def rxWrite (r : Nat) (x : Rx) (out : List (BitVec 8)) (b : Block) : Block :=
  let b := modRx r (fun x => { x with step := 2, out := out }) b
  each x.parts (fun e b =>
    let b := issueWrite e.2.2 (x.part) (rxFn b x e.2.2) ((out.drop e.1).take e.2.1) 0 0 true false (.rxWrite r e.1 e.2.1) b
    if e.2.2.isPort then modRx r (fun x => { x with done := ivAdd e.1 e.2.1 x.done }) b else b) b

/-- The bytes that a WRITE or FENCE stores: its payload, or what its ARITH makes of it (R288). -/
def frameStore (f : Frame) : List (BitVec 8) × Ev :=
  let h := f.hdr
  if h.arith = 0 then (f.payload, Ev.zero)
  else
    applyAll (h.payloadLen / unitWire h.arith) h.arith h.scale h.seed h.element f.payload
      (List.replicate (frameDst h) 0#8)

/-- DUR (R342): the highest PSN up to which everything is durable. -/
def durOf (q : Qp) : Nat :=
  let d := q.undur.foldl (fun m p => let x := psnDist q.dur p; if x < m then x else m) (psnDist q.dur q.cumNext)
  (q.dur + (if d = 0 then 0 else d - 1)) % 2 ^ 32

/-- A PSN is durable or consumed: DUR moves, and an ACK goes out where it passes a packet with LAST (R345), in class RP where that one is
card-bound (R318). -/
def durStep (k psn cls l e : Nat) (b : Block) : Block :=
  let b := modQp k (fun q => { q with undur := q.undur.filter (· != psn) }) b
  match tfind b.ft.qps k with
  | none => b
  | some q =>
    let d := durOf q
    let passed := q.lastPsns.filter (fun p => psnDist p.1 d < 2 ^ 31)
    let b := modQp k (fun q => { q with dur := d, lastPsns := q.lastPsns.filter (fun p => !(psnDist p.1 d < 2 ^ 31)) }) b
    if passed.isEmpty then b else sendAck k (if passed.any (·.2) then clsRp else cls) l e b

/-- Count applied bytes of a message in its tracker (R345), and send APPLIED once all of it is applied. A new message takes the place of
the oldest one that is complete. -/
def trackStep (k : Nat) (f : Frame) (out : List (BitVec 8)) (b : Block) : Block :=
  let h := f.hdr
  if !(hdrFlag h flHeldOk || hdrFlag h flDigest) then b
  else
    match tfind b.ft.qps k with
    | none => b
    | some q =>
      let dig := hdrFlag h flDigest
      let t := (q.trackers.find? (fun t => t.msn == h.msn)).getD ⟨h.msn, 0, dig, [], h.card != 0, false⟩
      let key := if h.arith = 0 then 0 else h.element / unitElems h.arith * unitOut h.arith
      let t := { t with bytes := t.bytes + h.payloadLen, wrote := if dig then t.wrote ++ [(key, out)] else t.wrote,
                        full := h.msgLen ≤ t.bytes + h.payloadLen }
      let rest := q.trackers.filter (fun t => t.msn != h.msn)
      let rest := if rest.length < 16 then rest else match rest.find? (·.full) with | some o => rest.erase o | none => rest.drop 1
      let b := modQp k (fun q => { q with trackers := rest ++ [t] }) b
      if h.msgLen ≤ t.bytes then
        let n := t.wrote.foldl (fun n e => n + e.2.length) 0
        let d := if dig then some (crcDone (crcRun crcInit (stagedAt (t.wrote.length + 1) t.wrote 0 n))) else none
        sendApplied k h.msn t.bytes d (respCls h) h.path h.epoch b
      else b

/-! ### Rounds that complete -/

/-- Is a round complete at the node (R403)? -/
def completeNow (b : Block) (s : Sched) (c : Card) (r : Round) : Bool :=
  if c.recv then
    (if r.placed ≠ [] then ivCovers c.dstLen r.placed
     else (orderBlocks c.dstBase c.dstLen).all (fun blk => (turnRank b s c r blk).isNone))
  else r.released.isSome && r.live.isEmpty

/-- Issue the write of a receive fence. -/
def rfenceIssue (part card w addr : Nat) (b : Block) : Block :=
  let bad := partFault part 6 (.card card)
  match localPlace b part addr 8 with
  | none => bad b
  | some p =>
    let fn := match p with | .port h _ _ => portFn b part 512 h | _ => 512
    if (placeStatus b fn p).isSome then bad b
    else
      issueWrite p part fn (leBytes 8 w) 0 0 false false (.rfence card) b

/-- Issue the receive fences that are due, but for those whose block a combine holds (R289) or whose zero-length read is outstanding
(R252). -/
def rfencePump (b : Block) : Block :=
  each b.ps.rfDue (fun e b =>
    let busy : Bool := match localPlace b e.part e.addr 8 with | some p => blockBusy b e.part p 8 none | none => false
    let behind : Bool := match e.after with
      | some n => (match tfind b.txns n with | some t => t.use == .rfenceFlush e.card | none => false)
      | none => false
    if busy || behind then b
    else rfenceIssue e.part e.card e.word e.addr (modPs (fun p => { p with rfDue := p.rfDue.erase e }) b)) b

/-- The port whose placed data a receive fence must be ordered behind by a zero-length read (R252): the destination range lies on it and
the fence word does not. -/
def rfenceBehind (b : Block) (c : Card) : Option Nat :=
  match localPlace b c.part c.dstBase 64, localPlace b c.part c.rfAddr 8 with
  | some (.port h _ _), some (.port h' _ _) => if h = h' then none else some h
  | some (.port h _ _), _ => some h
  | _, _ => none

/-- Write the receive fence of a round of a card (R407): the value of the round, or broken with the last good value. -/
def rfencePut (x : Card) (card k : Nat) (broken : Bool) (b : Block) : Block :=
  let good := (tget (0, false) b.ps.good card).1
  let w := if broken then 2 ^ 63 + good else k
  let due := fun (after : Option Nat) => fun (p : Ps) =>
    { p with good := tput p.good card (if broken then good else k, broken), rfDue := p.rfDue ++ [⟨x.part, card, w, x.rfAddr, after⟩] }
  match rfenceBehind b x with
  | none => rfencePump (modPs (due none) b)
  | some h =>
    let n := b.nextTxn
    modPs (due (some n)) (issueRead (.port h 0 false) x.part (portFn b x.part 512 h) 0 0 0 false false (.rfenceFlush card) b)

/-- The zero-length read ahead of a receive fence has completed. One that fails leaves the range's durability unknown: the fence is not
written, as where its write fails (R407; DESIGN CHOICE, log entry 129). -/
def rfenceFlushed (part card : Nat) (err : Bool) (b : Block) : Block :=
  if err then partFault part 6 (.card card) (modPs (fun p => { p with rfDue := p.rfDue.filter (fun e => e.card != card || e.after.isNone) }) b)
  else rfencePump b

/-- A sender's credit and in-order mode of a card end with its round (R308). -/
def creditsDrop (c : Nat) (p : Ps) : Ps :=
  { p with credits := p.credits.filter (fun e => e.1 != c), inOrder := p.inOrder.filter (fun e => e.1 != c) }

/-- A round settles once it is complete and every item of it has ended (R403); credit and in-order mode of its card end,
and earlier rounds of the card are forgotten once their items have ended. The items of a card with SEND are all there at its release;
a card without SEND has none. -/
def roundSettle (g c k : Nat) (b : Block) : Block :=
  match cardAt b g c, findRound b g c k with
  | some (_, x), some r =>
    if r.settled || r.abandoned || !r.complete || (x.send && r.released.isNone) || !r.live.isEmpty then b
    else
      let b := modRound g c k (fun r => { r with settled := true }) b
      modPs (fun p => { creditsDrop c p with
        rounds := p.rounds.filter (fun x => !(x.gen == g && x.card == c && x.k < k && (x.settled || x.abandoned) && x.live.isEmpty)) }) b
  | _, _ => b

/-- See whether a round has become complete, and write its receive fence (R403, R407). -/
def roundCheck (g c k : Nat) (b : Block) : Block :=
  match cardAt b g c, findRound b g c k with
  | some (s, x), some r =>
    let b :=
      if r.complete || r.abandoned || !completeNow b s x r then b
      else
        let b := modRound g c k (fun r => { r with complete := true, inOrder := false }) b
        if x.rfence then rfencePut x c k r.broken b else b
    roundSettle g c k b
  | _, _ => b

/-- Every round is checked, after items have ended. -/
def roundsCheck (b : Block) : Block := each b.ps.rounds (fun r b => roundCheck r.gen r.card r.k b) b

/-- The bytes of a packet count toward its rank's completion of each block (R305), or toward the placed bytes of a card
of writes (R403). -/
def roundDone (g c k : Nat) (h : Hdr) (b : Block) : Block :=
  match cardAt b g c with
  | none => b
  | some (_, x) =>
    if h.type = tyCombine then
      modRound g c k (fun r => { r with combine := true, done := r.done ++ (frameBlocks h).map (fun e => (e.1, h.rank, e.2)) }) b
    else
      modRound g c k (fun r => { r with placed := (frameRanges h).foldl (fun l e => ivAdd (e.2.2 - x.dstBase) e.2.1 l) r.placed }) b

/-- Begin to apply a held packet at its order keeper (R304), as it was admitted on its arrival (R69). -/
def keeperApply (g c k : Nat) (h : Held) (b : Block) : Block :=
  (rxOpen ⟨h.qp, h.part, 100 + c % 12, false, .place, h.frame, h.parts, [], [], [], none, none, some (g, c, k), h.grant, 0⟩ b).2

/-- Apply the held packets whose turn has come (R305). -/
def keeperRun (g c k : Nat) (b : Block) : Block :=
  loop 4096 (fun b =>
    match cardAt b g c, findRound b g c k with
    | some (s, x), some r =>
      (match r.held.find? (fun h => turnOk b s x r h.rank ((frameBlocks h.frame.hdr).map (·.1))) with
       | none => none
       | some h =>
         some (keeperApply g c k h (eabNote x.part (modRound g c k (fun r => { r with held := r.held.erase h }) b))))
    | _, _ => none) b

/-- A context has ended: it is removed with the blocks it held. -/
def rxClose (r : Nat) (b : Block) : Block :=
  blocksFree (rxOwner r) (closeTxns (fun t => match t.use with | .rxOperand x _ => x == r | .rxRead x _ => x == r | _ => false)
    (modFt (fun t => { t with rx := tdel t.rx r }) b))

/-- What the end of a card-bound packet's placement does to its round. -/
def rxRound (x : Rx) (broken : Bool) (b : Block) : Block :=
  match x.card with
  | none => b
  | some (g, c, k) =>
    let b := roundDone g c k x.frame.hdr b
    let b := if broken then modRound g c k (fun r => { r with broken := true }) b else b
    let b := keeperRun g c k b
    let b := match findRound b g c k with
      | some r => if r.inOrder then each (frameBlocks x.frame.hdr) (fun e b => creditPut g c k e.1 (some (x.frame.hdr.path, x.frame.hdr.epoch)) b) b else b
      | none => b
    roundCheck g c k b

/-- A packet has been placed or applied, and is durable. -/
def rxDone (r : Nat) (x : Rx) (b : Block) : Block :=
  let h := x.frame.hdr
  let b := rxClose r b
  let b := modQp x.qp (fun q => { q with bytesRcvd := (q.bytesRcvd + x.frame.payload.length) % 2 ^ 64 }) b
  let b := rxRound x false (trackStep x.qp x.frame x.out b)
  durStep x.qp h.psn (respCls h) h.path h.epoch b

/-- A packet could not be placed or applied (R329, R731): NAK MEMORY, which consumes its PSN. -/
def rxBad (r : Nat) (x : Rx) (b : Block) : Block :=
  let h := x.frame.hdr
  let b := rxRound x true (rxClose r b)
  durStep x.qp h.psn (respCls h) h.path h.epoch (sendNak x.qp 0x05 h b)

/-- Send the next packet that answers a READ_REQ (R350), of `n` bytes; from the poisoned block on it has POISON. -/
def respPut (r : Nat) (x : Rx) (n : Nat) (b : Block) : Block :=
  let h := x.frame.hdr
  let off := respSent x
  let bad : Bool := match x.poison with | some p => p ≤ off | none => false
  let rh := { hdrZero with cls := clsFr, type := tyReadResp, psn := h.psn, msn := h.msn, address := off,
                           msgLen := h.msgLen, flags := if bad then flPoison else 0 }
  let b := modRx r (fun x => { x with done := [(0, off + n)] }) (txCharge 0 (homeTile x.qp) n b)
  sendControl x.qp rh (stagedAt (x.operand.length + 1) x.operand off n) h.path h.epoch b

/-- The places of a context: those it was admitted to, or, while it waits for its QP's context or a check slot, those that its header
names. -/
def rxPlaces (b : Block) (x : Rx) : List (Nat × Place) :=
  match x.stage with
  | .load | .check =>
    if x.frame.hdr.type < tyReadReq then (frameRanges x.frame.hdr).filterMap (fun e => (localPlace b x.part e.2.2 e.2.1).map (fun p => (e.2.1, p)))
    else []
  | .place => if x.step = 0 ∧ x.bad.isNone then x.parts.map (·.2) else []
  | .read => []

/-- Does a packet that reached the home tile earlier wait for one of the blocks that a context needs (R301)? -/
def rxBehind (b : Block) (r : Nat) (x : Rx) : Bool :=
  b.ft.rx.any (fun e => e.1 < r && e.2.tile == x.tile && e.2.part == x.part
    && (rxPlaces b e.2).any (fun q => x.parts.any (fun p => placeMeets p.2.2 p.2.1 q.2 q.1)))

/-- One step of a receive context: `some` where it made progress. -/
def rxStep (r : Nat) (b : Block) : Option Block :=
  match tfind b.ft.rx r with
  | none => none
  | some x =>
    let h := x.frame.hdr
    let part := x.part
    match x.stage with
    | .load => none
    | .check => none
    | .read =>
      if x.step = 0 then
        some (each x.parts (fun e b => issueRead e.2.2 part (rxFn b x e.2.2) e.2.1 0 0 true false (.rxRead r e.1) b)
          (modRx r (fun x => { x with step := 1 }) b))
      else
        (match respNext x with
         | none => none
         | some 0 => some (rxClose r (if x.bad.isSome then sendNak x.qp 0x05 h b else b))
         | some n => if txGranted b 0 (homeTile x.qp) true r then some (respPut r x n b) else none)
    | .place =>
      if x.bad.isSome then
        -- writes already issued run to their ends
        (if b.txns.any (fun t => match t.2.use with | .rxWrite y _ _ => y == r | _ => false) then none else some (rxBad r x b))
      else if x.step = 0 then
        if rxBehind b r x || x.parts.any (fun e => blockBusy b part e.2.2 e.2.1 (some (rxOwner r))
            || (h.type == tyCombine && writeOpen b part e.2.2 e.2.1)) then none
        else if h.type = tyCombine then
          let b := modRx r (fun x => { x with step := 1 }) b
          some (each x.parts (fun e b =>
            issueRead e.2.2 part (rxFn b x e.2.2) e.2.1 0 0 true false (.rxOperand r e.1)
              (modHe (fun h => { h with blocks := h.blocks ++ (blocksOf e.2.2 e.2.1).map (fun q => (part, q, rxOwner r)) }) b)) b)
        else
          let (out, ev) := frameStore x.frame
          some (rxWrite r x out (arithEvents part 0 ev b))
      else if x.step = 1 then
        let n := frameDst h
        let got := stagedAt (x.operand.length + 1) x.operand 0 n
        if got.length < n then none
        else
          let u := h.payloadLen / unitWire h.arith
          let (out, ev) := applyAll u h.arith h.scale h.seed h.element x.frame.payload got
          some (rxWrite r x out (tcCount (match x.card with | some (_, c, _) => c % 12 | none => x.tile) 0x030 (some part) (u * unitElems h.arith) (arithEvents part 0 ev b)))
      else if ivCovers (frameDst h) x.done then some (rxDone r x b)
      else none

/-! ### Abandoning a round (R349, R422, R423) -/

/-- Runs of consecutive PSNs, of at most 1,024 each. -/
def psnRuns (l : List Nat) : List (Nat × Nat) :=
  l.foldl (fun acc p =>
    match acc.getLast? with
    | some (s, n) => if (s + n) % 2 ^ 32 = p ∧ n < 1024 then acc.dropLast ++ [(s, n + 1)] else acc ++ [(p, 1)]
    | none => [(p, 1)]) []

/-- Send a SKIP for a run of PSNs (R349). -/
def sendSkip (k psn n : Nat) (b : Block) : Block :=
  match tfind b.ft.qps k with
  | none => b
  | some q => sendControl k { hdrZero with cls := clsRp, type := tySkip, psn := psn, msgLen := n, flags := flAckReq } [] q.rr (epochNow b % 2) b

/-- Drop an item's outstanding packets on a QP, and move the peer past them with SKIP packets. -/
def skipItem (i k : Nat) (b : Block) : Block :=
  match tfind b.ft.qps k with
  | none => b
  | some q =>
    let runs := psnRuns ((q.sent.filter (fun s => s.owner == .item i && !s.rcvd)).map (·.psn))
    let b := modQp k (fun q => { q with sent := q.sent.filter (fun s => s.owner != .item i), awaits := q.awaits.filter (fun a => a.owner != .item i),
                                        curMsn := q.curMsn.filter (fun c => c.1 != .item i), skips := q.skips ++ runs }) b
    epochRetire (each runs (fun e b => sendSkip k e.1 e.2 b) b)

/-- The receive side of a round ends as at abandonment: held packets are discarded, its fence is written broken and it is
counted (R309, R414, R423). -/
def roundEnd (g c k : Nat) (b : Block) : Block :=
  match schedAt b g with
  | none => b
  | some s =>
    match tfind s.cards c with
    | none => b
    | some x =>
      let b := modPs (creditsDrop c) (modRound g c k (fun r => { r with abandoned := true, held := [], inOrder := false }) b)
      let b := fbump F.psEventsAbandoned 0 1 (eabNote x.part b)
      if x.recv && x.rfence then rfencePut x c k true b else b

/-- An item of a round that is abandoned fails (R423), wherever it stands before its record is issued: its data ends, and its fence is
written broken, once more where a good one has gone already. Its outstanding packets are dropped (R349). -/
def itemAbandon (i : Nat) (b : Block) : Block :=
  match tfind b.he.items i with
  | none => b
  | some it =>
    let fenced := dFence it.desc && it.fen.bad.isNone
    let again := fun (b : Block) => modItem i (fun x => { x with stage := .fence, fenced := false }) (itemLate i 0x061 0 b)
    let b := match it.stage with
      | .waiting | .active | .draining => itemFail i 0x061 0 b
      | .fence => itemLate i 0x061 0 b
      | .fenceWrite => (match fencePlace it with | some (.remote _ _) => again b | _ => itemLate i 0x061 0 b)
      | .record => if fenced && it.status = 0 then again b else itemLate i 0x061 0 b
      | .parked =>
        if fenced && it.status = 0 then again (modCq (itemCq b it) (fun c => { c with parked := c.parked.filter (· != i) }) b)
        else itemLate i 0x061 0 b
      | .written => b
    skipItem i (dQp it.desc) b

/-- Abandon a round, and with it the rounds of the same cycle that depend on it (R422). `fuel` bounds the chain. -/
def roundAbandonStep (fuel g c k : Nat) (b : Block) : Block :=
  match fuel with
  | 0 => b
  | n + 1 =>
    match cardAt b g c, findRound b g c k with
    | some (s, x), some r =>
      if r.settled || r.abandoned then b
      else
        let b := each r.live itemAbandon b
        let b := partFault x.part 8 (.card c) (roundEnd g c k b)
        each (tkeys (fun _ y => y.valid && (y.dep0 == c + 1 || y.dep1 == c + 1)) s.cards)
          (fun d b => roundAbandonStep n g d k (ensureRound g d k b)) b
    | _, _ => b

end Sys2Proof.Machine
end

