-- ==== Sys2Proof/Machine/Recv.lean ====
section
/-!
DEFINITION. The receiving side of the transport (R319, R323-R330, R336-R351, R355-R361, R363, R369, R373, R408-R409):
what happens to a frame from its port to its receive context, and to every packet type. The commands are in
`Machine/Transport.lean`.
-/
namespace Sys2Proof.Machine

open Sys2Proof

/-! ### Receive contexts of a tile (R319) -/

def rxReserve (cls : Nat) : Nat := [32, 128, 0, 64].getD cls 0
def rxUsed (b : Block) (t : Nat) : Nat := tcount (fun _ x => x.tile == t) b.ft.rx
/-- The pool that a packet of a class takes a context from on a tile: `false` its reserve, `true` the shared pool. -/
def rxPool (b : Block) (t cls : Nat) : Option Bool :=
  if tcount (fun _ x => x.tile == t && !x.shared && x.frame.hdr.cls == cls) b.ft.rx < rxReserve cls then some false
  else if tcount (fun _ x => x.tile == t && x.shared) b.ft.rx < 288 then some true
  else none

/-- A context for a packet that waits for its QP or is placed. -/
def rxNewCtx (b : Block) (k : Nat) (st : RxStage) (f : Frame) (parts : List (Nat × Nat × Place))
    (card : Option (Nat × Nat × Nat)) (grant : Option Nat) : Rx :=
  ⟨k, qpPart b k, homeTile k, (rxPool b (homeTile k) f.hdr.cls).getD true, st, f, parts, [], [], [], none, none, card, grant, 0⟩

/-! ### QP contexts (R338, R729) -/

/-- The QP that is evicted from a full tile, or with no tile from the full block (R729): least recently used, with no committed item
waiting for its window. -/
def qpVictim (b : Block) (t : Option Nat) : Option Nat :=
  let ok := b.ft.qps.filter (fun e => (match t with | some t => homeTile e.1 == t | none => true) && e.2.resident &&
    !((qpItems b e.1).any (fun i => match tfind b.he.items i with | some it => it.committed | none => false)))
  (ok.foldl (fun acc e => match acc with
    | none => some e
    | some x => if e.2.used < x.2.used then some e else some x) none).map (·.1)

/-- A loaded context becomes resident. A full tile (2,048 QPs, R729) first evicts one of its own, and a block that holds its 16,384
(R210) evicts one of its own. -/
def qpResident (k : Nat) (b : Block) : Block :=
  match tfind b.ft.qps k with
  | none => b
  | some q =>
    if !q.loading then b
    else
      let t := homeTile k
      let tileFull := 2048 ≤ tcount (fun n q => homeTile n == t && q.resident) b.ft.qps
      let full := tileFull || decide (16384 ≤ tcount (fun _ q => q.resident) b.ft.qps)
      let enter := fun (b : Block) =>
        tcCount t 0x051 (some q.part) 1 (modQp k (fun q => { q with resident := true, loading := false, used := b.now }) b)
      if !full then enter b
      else
        match qpVictim b (if tileFull then some t else none) with
        | some v => enter (modQp v (fun q => { q with resident := false }) b)
        | none => b

/-! ### Acknowledgement at the receiver (R342-R345) -/

/-- The bytes of an arriving packet that its ACK counts as CE-marked: all of it where the network marked it, or where it is a free request
and the tile has more contexts in use than RX_MARK allows (R365). -/
def ceBytes (b : Block) (k : Nat) (q : Qp) (f : Frame) : Nat :=
  if f.ce || (f.hdr.cls == clsFq && qbits (qpCc b q) 15 8 * 512 < rxUsed b (homeTile k) * 100) then f.hdr.payloadLen else 0

/-- Mark a new PSN as received, and durable where `dur` says so; acknowledge on the occasions of R345. A packet beyond the highest PSN
received and not next to it opens a gap, and one below it fills a gap, or a part of one (DEDUCED, log entry 103). -/
def rxMark (k : Nat) (f : Frame) (dur : Bool) (b : Block) : Block :=
  match tfind b.ft.qps k with
  | none => b
  | some q =>
    let h := f.hdr
    let n := ceBytes b k q f
    let fresh := q.rx.length + 1
    let rx := if h.psn = q.cumNext then q.rx else sins h.psn q.rx
    let step := fun (s : Nat × List Nat) => if s.2.contains s.1 then some (psnNext s.1, srem s.1 s.2) else none
    let (cum, rx) := if h.psn = q.cumNext then loop fresh step (psnNext h.psn, rx) else (q.cumNext, rx)
    let top := q.rx.foldl (fun m p => let d := psnDist q.cumNext p + 1; if m < d then d else m) 0
    let at_ := psnDist q.cumNext h.psn
    let opened := top < at_
    let filled := at_ < top
    let during := !rx.isEmpty && q.gapAckAt + 50 ≤ b.now
    let most := let m := fget b F.ftXportAckCoalesce 0; if m = 0 then 1 else m
    let due := opened || filled || during || most ≤ q.sinceAck + 1 || hdrFlag h flAckReq
    let b := modQp k (fun q =>
      { q with cumNext := cum, rx := rx, rcvdCount := (q.rcvdCount + 1) % 2 ^ 32, sinceAck := q.sinceAck + 1,
               ackBytesCe := q.ackBytesCe + n, ackRp := q.ackRp || h.cls == clsRp,
               bytesCe := (q.bytesCe + n) % 2 ^ 64, lastPath := (h.path, h.epoch), used := b.now,
               expMsn := if psnBefore h.msn q.expMsn then q.expMsn else msnNext h.msn,
               undur := if dur then q.undur else q.undur ++ [h.psn],
               lastPsns := if hdrFlag h flLast then q.lastPsns ++ [(h.psn, h.card != 0)] else q.lastPsns }) b
    let b := tcCount (homeTile k) 0x043 (some q.part) n b
    let b := if dur then durStep k h.psn (respCls h) h.path h.epoch b else b
    if due then sendAck k (respCls h) h.path h.epoch b else b

/-- Refuse a packet (R67, R75, R408): its PSN is consumed. The NAK leaves before an ACK that covers the packet (DESIGN CHOICE,
log entry 42). -/
def rxRefuse (k part : Nat) (f : Frame) (card : Bool) (b : Block) : Block :=
  let b := if card then fbump F.psEventsRefused 0 1 b else fbump F.ptRefusedRefused part 1 b
  rxMark k f true (sendNak k 0x01 f.hdr (fhNote (256 + 16 * part + 11) (.qp k) (some part) b))

/-! ### Card-bound packets (R408, R409, R305-R308) -/

/-- The round that a card-bound packet belongs to: of the old schedule while a released round of its card is not complete
there, else of the active one; the first round that is not complete and not abandoned. -/
def cardGen (b : Block) (c : Nat) : Nat :=
  match b.ps.rounds.find? (fun r => r.gen != schedGen b && r.card == c && r.released.isSome && !r.complete && !r.abandoned) with
  | some r => r.gen
  | none => schedGen b

/-- Is a card-bound packet refused under R408? -/
def cardRefuses (s : Sched) (c : Card) (part : Nat) (h : Hdr) : Bool :=
  !c.recv || c.part != part || h.rank == 0 || c.contrib < h.rank
    || (rankList s (h.card - 1)).getD (h.rank - 1) 0x7FFF != h.srcNode
    || !((frameRanges h).all (fun e => inside e.2.2 e.2.1 c.dstBase c.dstLen))

/-- The number of the round that a packet of a card joins, and whether it is stale (R409). -/
def roundOf (b : Block) (s : Sched) (g c : Nat) (x : Card) : Nat × Bool :=
  let open_ := b.ps.rounds.find? (fun r => r.gen == g && r.card == c && !r.complete && !r.abandoned)
  let k := match open_ with | some r => r.k | none => tget 1 b.ps.nextK c
  let released : Bool := match open_ with | some r => r.released.isSome | none => false
  let prevOpen := b.ps.rounds.any (fun r => r.gen == g && r.card == c && r.k + 1 == k && !r.settled && !r.abandoned)
  let none_ := open_.isNone && !s.rep && 1 < k
  (k, none_ || (1 < k && !released && !prevOpen && b.now < nominalAt s x k))

/-- A card-bound WRITE or COMBINE that has been admitted by its card. One with HELD_OK counts as durable at once (R342). -/
def cardTake (k part g c n : Nat) (s : Sched) (x : Card) (f : Frame) (parts : List (Nat × Nat × Place)) (grant : Option Nat)
    (b : Block) : Block :=
  let h := f.hdr
  let b := ensureRound g c n b
  match findRound b g c n with
  | none => rxMark k f true b
  | some r =>
    let held := hdrFlag h flHeldOk
    if h.type = tyWrite then (rxOpen (rxNewCtx b k .place f parts (some (g, c, n)) grant) (rxMark k f held b)).2
    else
      let b := modRound g c n (fun r => { r with combine := true }) b
      if turnOk b s x r h.rank ((frameBlocks h).map (·.1)) then
        (rxOpen (rxNewCtx b k .place f parts (some (g, c, n)) grant) (rxMark k f held b)).2
      else if r.inOrder || eabShare b < eabHeld b part + f.payload.length then
        sendNak k 0x02 h (inOrderEnter g c n (some (h.path, h.epoch)) b)
      else
        eabNote part (modRound g c n (fun r => { r with held := r.held ++ [⟨k, part, h.rank, f, parts, grant⟩] }) (rxMark k f held b))

/-! ### Sequenced packets (R336, R343, R344, R373) -/

/-- Take the protection off a sequenced packet: its plaintext, or none where its tag fails or it should have one. A clear packet of a
protected QP without CLEAR_OK counts as one whose tag fails (DESIGN CHOICE, log entry 126). -/
def openSeq (b : Block) (q : Qp) (f : Frame) : Option Frame :=
  if f.hdr.enc then
    if !q.enc then none
    else
      let kc := packetKind f.hdr 0
      (gcmOpen (keyPick (keySlotOf b q.keySlot) (keyRxNext (keySlotOf b q.keySlot) f.hdr.psn))
        (packetIv f.hdr.srcNode f.hdr.srcQp kc.1 kc.2) (packetAad f.hdr) f.payload f.tag).map (fun p => { f with payload := p })
  else if q.enc && !q.clearOk then none
  else some f

/-- Does a packet touch the depot area of a partition that a recomposition moves (R514)? -/
def depotMoves (b : Block) (part : Nat) (parts : List (Nat × Nat × Place)) : Bool :=
  b.pt.cmds.any (fun e => e.2.op == .recompose && e.2.masks.any (fun m => m.1 == part))
    && parts.any (fun p => match p.2.2 with | .depot _ => true | _ => false)

/-- A packet that is discarded without an acknowledgement (R514, R319). -/
def rxDrop (k part : Nat) (b : Block) : Block := fbump F.ftRxDropsOverflow 0 1 (tcCount (homeTile k) 0x044 (some part) 1 b)

/-- A sequenced packet of a resident QP, after its check slot where it is protected. -/
def rxSeq (k : Nat) (f0 : Frame) (b : Block) : Block :=
  match tfind b.ft.qps k with
  | none => sendNakUnknown f0 b
  | some q =>
    match openSeq b q f0 with
    | none => sendNak k 0x04 f0.hdr (fbump F.ftRxDropsAuth 0 1 (tcCount (homeTile k) 0x044 (some q.part) 1 b))
    | some f =>
      let h := f.hdr
      let d := psnDist q.cumNext h.psn
      if d < 1024 && !q.rx.contains h.psn then
        if q.state = 2 then sendNakUnknown f0 b
        else
          if h.card != 0 && (h.type == tyWrite || h.type == tyCombine) then
            let c := h.card - 1
            let g := cardGen b c
            (match cardAt b g c with
             | none => rxRefuse k q.part f true b
             | some (s, x) =>
               if cardRefuses s x q.part h then rxRefuse k q.part f true b
               else
                 let (n, stale) := roundOf b s g c x
                 if stale then rxMark k f true (fbump F.psEventsStale 0 1 b)
                 else
                   match frameAdmit b q.part h with
                   | none => rxRefuse k q.part f false b
                   | some (parts, grant) =>
                     if depotMoves b q.part parts then rxDrop k q.part b else cardTake k q.part g c n s x f parts grant b)
          else if h.type = tyReadReq ∧ (h.msgLen = 0 ∨ 65536 < h.msgLen) then rxRefuse k q.part f false b
          else
            (match frameAdmit b q.part h with
             | none => rxRefuse k q.part f false b
             | some (parts, grant) =>
               let st := if h.type = tyReadReq then RxStage.read else RxStage.place
               if depotMoves b q.part parts then rxDrop k q.part b else
               (rxOpen (rxNewCtx b k st f parts none grant) (rxMark k f (h.type == tyReadReq) b)).2)
      else if q.rx.contains h.psn || psnBefore h.psn q.cumNext then
        let n := ceBytes b k q f
        sendAck k (respCls h) h.path h.epoch (modQp k (fun q =>
          { q with dupCount := (q.dupCount + 1) % 2 ^ 32, ackBytesCe := q.ackBytesCe + n, bytesCe := (q.bytesCe + n) % 2 ^ 64 })
          (tcCount (homeTile k) 0x043 (some q.part) n b))
      else fbump F.ftRxErrorsMisdirected 0 1 b

/-! ### Packets that acknowledge (R342, R347, R363) -/

/-- Signed division that truncates toward zero (R363). -/
def divTo (a : Int) (n : Nat) : Int := Int.tdiv a n

/-- A round-trip sample (R363). -/
def rttSample (rtt : Nat) (q : Qp) : Qp :=
  let srtt := (q.srtt + divTo ((rtt : Int) - q.srtt) 8).toNat
  let dev := ((rtt : Int) - srtt).natAbs
  let var := (q.rttvar + divTo ((dev : Int) - q.rttvar) 4).toNat
  { q with srtt := srtt, rttvar := var, base := some (match q.base with | some x => if rtt < x then rtt else x | none => rtt) }

/-- The end of a round of congestion control (R363), if it has come, under the parameters with which the round began (R366). -/
def ccRound (b : Block) (q : Qp) : Qp :=
  if b.now < q.roundStart + q.srtt then q
  else
    let alpha := if q.acked = 0 then q.alpha
      else (q.alpha + ((q.marked * 65536 / q.acked : Nat) - (q.alpha : Int)) / 2 ^ qbits q.cc 39 36 : Int).toNat
    let alpha := if 65536 < alpha then 65536 else alpha
    let late : Bool := match q.base with
      | some x => x + qbits q.cc 31 24 * 1000 < q.srtt
      | none => false
    let excess := q.srtt - (q.base.getD 0 + qbits q.cc 31 24 * 1000)
    let w :=
      if q.marked ≠ 0 then q.cwnd - q.cwnd * alpha / 2 ^ 17
      else if q.loss then q.cwnd - q.cwnd / 4
      else if late then q.cwnd - q.cwnd * excess / q.srtt / 2 ^ qbits q.cc 35 32
      else if q.acked ≠ 0 then q.cwnd + qbits q.cc 47 40 * 4096
      else q.cwnd
    let w := if w < 4096 then 4096 else if 4194304 < w then 4194304 else w
    { q with alpha := alpha, cwnd := w, acked := 0, marked := 0, loss := false, roundStart := b.now, cc := rget b .ftCc 0 }

/-- The PSNs that an ACK reports as received: up to CUM, and those of the bitmap. -/
def ackCovers (cum : Nat) (map psn : Nat) : Bool :=
  !psnBefore cum psn || (let d := psnDist (psnNext cum) psn; d < 1024 && bit map d)

/-- What a packet that has become durable gives its owner: durable destination bytes (R258), a fence that is written, or
a window write's bytes. -/
def sentDurable (s : Sent) (b : Block) : Block :=
  match s.owner with
  | .dead => b
  | .win w =>
    if s.hdr.type = tyWrite then modWin w (fun a => { a with done := ivAdd s.off s.len a.done }) b else b
  | .item i =>
    if s.hdr.type = tyFence then fenceDone i b
    else if s.hdr.type = tyReadReq || hdrFlag s.hdr flHeldOk then b
    else
      match tfind b.he.items i with
      | none => b
      | some it =>
        tcCount it.tile 0x014 (some it.part) s.len (modItem i (fun it => { it with durable := ivAdd s.off s.len it.durable }) b)

/-- Mark a detected loss of a packet (R347, R354, R421): a free packet is sent again, a roped one in a slack window of a
later pitch. -/
def lossMark (k psn : Nat) (fast : Bool) (b : Block) : Block :=
  match tfind b.ft.qps k with
  | none => b
  | some q =>
    match q.sent.find? (fun s => s.psn == psn && !s.rcvd) with
    | none => b
    | some s =>
      let b := modQp k (fun q =>
        { q with loss := q.loss || !s.roped,
                 sent := q.sent.map (fun x => if x.psn = psn then
                   { x with touts := if fast then 0 else x.touts + 1, resend := x.resend || !x.roped, lossPitch := if x.roped && x.lossPitch.isNone && !x.resend then some b.ps.n else x.lossPitch,
                            fastAt := if fast then some b.now else x.fastAt,
                            lostAt := if x.resend || x.lossPitch.isSome then x.lostAt else b.now } else x) }) b
      labelLoss q s.hdr.path b

/-- An ACK (R342, R347, R357, R363). -/
def ackRx (k : Nat) (f : Frame) (b : Block) : Block :=
  match tfind b.ft.qps k with
  | none => b
  | some q =>
    let h := f.hdr
    let map := leNat f.payload
    let newly := q.sent.filter (fun s => !s.rcvd && ackCovers h.psn map s.psn)
    let bytes := newly.foldl (fun n s => n + s.body.length) 0
    -- congestion control: only an ACK that advances gives a sample, never from a resent packet
    let newest := newly.getLast?
    let q1 := { q with acked := q.acked + bytes, marked := q.marked + h.msgLen }
    let q1 := match newest with
      | some s => if 0 < bytes && s.tries = 1 then rttSample (b.now - s.firstAt) q1 else q1
      | none => q1
    let sent := q1.sent.map (fun s => if ackCovers h.psn map s.psn then { s with rcvd := true, resend := false, lossPitch := none } else s)
    let q1 := { q1 with sent := sent, used := b.now, skips := q1.skips.filter (fun e => !((List.range e.2).all (fun j => ackCovers h.psn map ((e.1 + j) % 2 ^ 32)))) }
    let awaits := q1.awaits.map (fun a => if a.rcvdAt.isNone && a.owner != .dead &&
        !(sent.any (fun s => s.hdr.msn == a.msn && !s.rcvd)) && sent.any (fun s => s.hdr.msn == a.msn && hdrFlag s.hdr flLast)
      then { a with rcvdAt := some b.now } else a)
    let reads := q1.reads.map (fun r => if r.ackedAt.isNone && ackCovers h.psn map r.psn then { r with ackedAt := some b.now } else r)
    let dur := sent.filter (fun s => s.rcvd && !psnBefore h.address s.psn)
    let q1 := { q1 with awaits := awaits, reads := reads, sent := sent.filter (fun s => !(s.rcvd && !psnBefore h.address s.psn)) }
    let q1 := { q1 with una := unaOf q1 }
    let b := modQp k (fun _ => q1) b
    let b := each newly (fun s b => modLabel q.pathSet s.hdr.path (fun x => { x with losses := 0 }) b) b
    let b := if h.msgLen = 0 then b else modLabel q.pathSet h.path (fun x => { x with cooledTo := some (b.now + qbits (qpCc b q) 23 16 * 1000) }) b
    let b := each dur sentDurable b
    -- fast resend: three or more higher PSNs in the bitmap, at most once per srtt
    let late := q1.sent.filter (fun s => !s.rcvd && !s.resend && s.lossPitch.isNone &&
      3 ≤ ((List.range 1024).filter (fun d => bit map d && psnDist (psnNext h.psn) s.psn < d)).length &&
      (match s.fastAt with | some t => t + q1.srtt ≤ b.now | none => true))
    -- the round ends after the losses that this ACK shows
    epochRetire (modQp k (ccRound b) (each late (fun s b => lossMark k s.psn true b) b))

/-- A NAK (R329, R351, R380). -/
def nakRx (k : Nat) (f : Frame) (b : Block) : Block :=
  match tfind b.ft.qps k with
  | none => b
  | some q =>
    let h := f.hdr
    let code := h.address % 256
    let s := q.sent.find? (fun s => s.psn == h.psn)
    let owner : Sender := match s with
      | some s => s.owner
      | none =>
        (match q.reads.find? (fun r => r.psn == h.psn) with
         | some r => r.owner
         | none => (match q.awaits.find? (fun a => a.psns.contains h.psn) with | some a => a.owner | none => .dead))
    let consume := fun b => modQp k (fun q =>
      let q := { q with sent := q.sent.filter (fun s => s.psn != h.psn), reads := q.reads.filter (fun r => r.psn != h.psn),
                        awaits := q.awaits.filter (fun a => a.owner != owner || owner == Sender.dead) }
      { q with una := unaOf q }) b
    let fail := fun (st win : Nat) b => match owner with
      | .dead => b
      | .item i => qpItemFail i st q.peerNode b
      | .win w => (match tfind b.hp.wins w with | some a => winFail w win a.va b | none => b)
    match code with
    | 0x01 => epochRetire (consume (fail 0x031 0x30 b))
    | 0x05 => epochRetire (consume (fail 0x051 0x34 b))
    | 0x02 =>
      (match s with
       | none => b
       | some s =>
         let c := s.hdr.card - 1
         let b := modPs (fun p => { p with inOrder := if p.inOrder.contains (c, q.peerNode) then p.inOrder else p.inOrder ++ [(c, q.peerNode)] }) b
         modQp k (fun q => { q with sent := q.sent.map (fun x =>
           if x.psn = h.psn ∧ !x.rcvd then { x with resend := true, lossPitch := none, lostAt := b.now } else x) }) b)
    | 0x03 => qpError k 0x05 h.psn owner 0x030 b
    | 0x04 => qpError k 0x08 h.psn owner 0x040 b
    | _ => b

/-- A CREDIT (R308): the sender may send the packets of an order block, and again those that RNR turned away, over whichever QP they
went. -/
def creditRx (k : Nat) (f : Frame) (b : Block) : Block :=
  match tfind b.ft.qps k with
  | none => b
  | some q =>
    let c := f.hdr.card - 1
    let blk := f.hdr.address / 65536
    modPs (fun p =>
      { p with inOrder := if p.inOrder.contains (c, q.peerNode) then p.inOrder else p.inOrder ++ [(c, q.peerNode)],
               credits := if p.credits.contains (c, q.peerNode, blk) then p.credits else p.credits ++ [(c, q.peerNode, blk)] }) b

/-- An APPLIED (R345, R346): the bytes of a message applied so far; all of them end the wait, with the digest. -/
def appliedRx (k : Nat) (f : Frame) (b : Block) : Block :=
  match tfind b.ft.qps k with
  | none => b
  | some q =>
    match q.awaits.find? (fun a => a.msn == f.hdr.msn) with
    | none => b
    | some a =>
      let n := if a.applied < f.hdr.msgLen then f.hdr.msgLen else a.applied
      let full := a.len ≤ n
      let b := modQp k (fun q =>
        let keep := q.awaits.filter (fun x => x.msn != a.msn)
        let upd := q.awaits.map (fun x => if x.msn = a.msn then { x with applied := n } else x)
        { q with awaits := if full then keep else upd }) b
      match a.owner with
      | .item i =>
        (match tfind b.he.items i with
         | none => b
         | some it =>
           let d := if dArith it.desc = 0 then n else n / unitWire (dArith it.desc) * unitOut (dArith it.desc)
           let dig := if hdrFlag f.hdr flDigest then leNat f.payload.reverse else it.digest
           modItem i (fun it => { it with durable := if dCard it.desc = 0 then it.durable else ivAdd 0 d it.durable, digest := dig }) b)
      | _ => b

/-- Data of a READ_RESP reaches its owner (R350, R259). -/
def respData (k : Nat) (r : Rreq) (h : Hdr) (bytes : List (BitVec 8)) (b : Block) : Block :=
  let off := r.off + h.address
  let got := ivAdd h.address bytes.length r.got
  let b := modQp k (fun q =>
    let keep := q.reads.filter (fun x => x.psn != r.psn)
    let upd := q.reads.map (fun x => if x.psn = r.psn then { x with got := got } else x)
    { q with reads := if ivCovers r.len got then keep else upd }) b
  let bad := hdrFlag h flPoison
  match r.owner with
  | .dead => b
  | .item i =>
    let first : Bool := match tfind b.he.items i with | some it => !it.passed | none => false
    (fun b => if first then event i 0x04 b else b) (modItem i (fun it =>
      let low := match it.poisonAt with
        | some (p, s) => if p < off then some (p, s) else some (off, 0x050)
        | none => some (off, 0x050)
      { it with passed := true, pieces := it.pieces ++ [(off, bytes)], poisonAt := if bad then low else it.poisonAt }) b)
  | .win w => modWin w (fun a =>
      let low := match a.poison with
        | some p => some (if p < off then p else off)
        | none => some off
      { a with got := a.got ++ [(off, bytes)], poison := if bad then low else a.poison }) b

/-- Write zeros over what a READ_REMOTE has written (R611): the item then ends with 0 bytes done. -/
def zeroItem (i status : Nat) (b : Block) : Block :=
  match tfind b.he.items i with
  | none => b
  | some it =>
    let end_ := alignUp (dDst it.desc + it.dpos) 64 - dDst it.desc
    let n := if it.dpos = 0 then 0 else if it.dst.len < end_ then it.dst.len else end_
    let b := itemFail i status 0 b
    let b := if n = 0 then b else
      fbump F.ceEventsZeroed 0 1 (each (it.dst.parts 1024 0 n) (fun e b =>
        dstWrite i e.1 (List.replicate e.2.1 0#8) false e.2.2.1 { e.2.2.2 with page := none } b) b)
    modItem i (fun it => { it with bytesDone := some 0 }) b

/-- A READ_RESP (R350, R373). -/
def readRespRx (k : Nat) (f : Frame) (b : Block) : Block :=
  match tfind b.ft.qps k with
  | none => b
  | some q =>
    match q.reads.find? (fun r => r.psn == f.hdr.psn) with
    | none => b
    | some r =>
      let plain := if f.hdr.enc then
          (let h := f.hdr
           let kc := packetKind h 0
           gcmOpen (keyPick (keySlotOf b q.keySlot) (keyTxNext (keySlotOf b q.keySlot) h.psn))
             (packetIv h.srcNode h.srcQp kc.1 kc.2) (packetAad h) f.payload f.tag)
        else if q.enc && !q.clearOk then none
        else some f.payload
      match plain with
      | some x => respData k r f.hdr x b
      | none =>
        let b := fbump F.ftRxDropsAuth 0 1 b
        let b := match r.owner with | .item i => zeroItem i 0x040 b | _ => b
        qpError k 0x08 f.hdr.psn r.owner 0x040 b

/-- Is a message card-bound, by what the receiver knows of it: its tracker, a packet that is held, or one that is placed (R318)? -/
def messageRp (b : Block) (k : Nat) (q : Qp) (msn : Nat) : Bool :=
  q.trackers.any (fun t => t.msn == msn && t.rp)
    || b.ps.rounds.any (fun r => r.held.any (fun h => h.qp == k && h.frame.hdr.msn == msn))
    || b.ft.rx.any (fun e => e.2.qp == k && e.2.card.isSome && e.2.frame.hdr.msn == msn)

/-- A PROBE (R346, R354): answered on its label; one that names a message is answered with an APPLIED of its count, in class RP where
the message is card-bound (R318). -/
def probeRx (k : Nat) (f : Frame) (b : Block) : Block :=
  let h := f.hdr
  let b := sendControl k { hdrZero with cls := clsFr, type := tyProbeReply, path := h.path, psn := h.psn, msn := h.msn } [] h.path h.epoch b
  if h.msn = 0 then b
  else
    match tfind b.ft.qps k with
    | none => b
    | some q =>
      let t := q.trackers.find? (fun t => t.msn == h.msn)
      sendApplied k h.msn ((t.map (·.bytes)).getD 0)
        (match t with
         | some t => if t.digest then some (crcDone (crcRun crcInit (stagedAt (t.wrote.length + 1) t.wrote 0 (t.wrote.foldl (fun n e => n + e.2.length) 0)))) else none
         | none => none) (if messageRp b k q h.msn then clsRp else respCls h) h.path h.epoch b

/-- A SKIP (R327): each of its PSNs counts as received and durable, and the receiver acknowledges at once. -/
def skipRx (k : Nat) (f : Frame) (b : Block) : Block :=
  let h := f.hdr
  let b := each (List.range (if 1024 < h.msgLen then 1024 else h.msgLen)) (fun j b =>
    match tfind b.ft.qps k with
    | none => b
    | some q =>
      let p := (h.psn + j) % 2 ^ 32
      if psnDist q.cumNext p < 1024 && !q.rx.contains p then
        rxMark k { f with hdr := { h with psn := p, flags := 0, msn := (q.expMsn + 2 ^ 32 - 1) % 2 ^ 32, payloadLen := 0 } } true b
      else b) b
  sendAck k (respCls h) h.path h.epoch b

/-! ### Control packets and their protection -/

/-- Take the protection off a control packet (R372, R603): CUR, then NEXT, under one of the 64 control counters from the
lowest not yet seen on (DESIGN CHOICE, log entry 20: the spec does not say how a receiver learns the counter). A NAK QP_UNKNOWN comes from
no QP, and is in clear (R356). -/
def openControl (b : Block) (q : Qp) (f : Frame) : Option (Frame × Nat) :=
  if !f.hdr.enc then (if q.enc && !q.clearOk && !(f.hdr.type == tyNak && f.hdr.address % 256 == 3) then none else some (f, q.ctlRx))
  else
    let s := keySlotOf b q.keySlot
    let try_ := fun (next : Bool) (n : Nat) =>
      (gcmOpen (keyPick s next) (packetIv f.hdr.srcNode f.hdr.srcQp 2 (q.ctlRx + n)) (packetAad f.hdr) f.payload f.tag).map
        (fun p => ({ f with payload := p }, q.ctlRx + n + 1))
    match (List.range 64).findSome? (try_ false) with
    | some r => some r
    | none => if s.next.isSome then (List.range 64).findSome? (try_ true) else none

/-- A packet that is not sequenced, of a resident QP. -/
def rxControl (k : Nat) (f0 : Frame) (b : Block) : Block :=
  match tfind b.ft.qps k with
  | none => b
  | some q =>
    if f0.hdr.type = tyReadResp then readRespRx k f0 b
    else
      match openControl b q f0 with
      | none =>
        qpError k 0x08 f0.hdr.psn .dead 0x040 (fbump F.ftRxDropsAuth 0 1 b)
      | some (f, n) =>
        let b := modQp k (fun q => { q with ctlRx := n, used := b.now }) b
        match f.hdr.type with
        | 0x10 => ackRx k f b
        | 0x11 => nakRx k f b
        | 0x12 => appliedRx k f b
        | 0x13 => creditRx k f b
        | 0x20 => probeRx k f b
        | 0x21 => modLabel q.pathSet f.hdr.path (fun x => { x with down := false, losses := 0 }) b
        | 0x22 => skipRx k f b
        | _ => b

/-- Carry a packet on from context `r`: the context that it takes then keeps its number, which is the order of arrival at the tile
(R301). -/
def rxAgain (r : Nat) (act : Block → Block) (b : Block) : Block :=
  let b' := act (modFt (fun t => { t with nextRx := r }) b)
  modFt (fun t => { t with nextRx := b.ft.nextRx }) b'

/-- A packet of a QP that is resident and checked. -/
def rxPacket (k : Nat) (f : Frame) (b : Block) : Block := if f.hdr.type ≤ 4 then rxSeq k f b else rxControl k f b

/-- A packet of a QP whose context is resident: protected ones pass the receive half of the serving engine and wait for
its check slot in a receive context (R319, R595, R615); where every engine is fenced, or the half is stalled for good, they are discarded without
acknowledgement (R596, R626). -/
def rxResident (k : Nat) (f : Frame) (b : Block) : Block :=
  if !f.hdr.enc then rxPacket k f b
  else if allFenced b then b
  else
    let hk := halfRx (cipherTile b k)
    if !halfReady b hk && fget b F.enStatusState 0 == 3 then fbump F.ceEventsRxDiscarded 0 1 b
    else
      let (r, b) := rxOpen (rxNewCtx b k .check f [] none none) b
      modHalf hk (fun h => { h with outs := h.outs ++ [.recv f r] }) b

/-! ### From the port to the QP -/

/-- Send a replay control frame (R368). -/
def llrPut (p : Nat) (nak : Bool) (seq : Nat) (b : Block) : Block := emit (.llr p nak seq (llrBytes b p nak seq)) b

/-- Link-level replay at the receiver (R369): is a frame with a replay number accepted? One with a bad FCS asks for the next number
expected where replay runs on the port, and goes no further. -/
def llrRx (port : Nat) (shim : Option Nat) (fcsOk : Bool) (b : Block) : Bool × Block :=
  let pt := portOf b port
  if !fcsOk then
    (true, if fon b F.ftPortStatusLlr port then modPort port (fun p => { p with rxSkip := true }) (llrPut port true pt.rxNext b) else b)
  else
    match shim with
    | none => (true, b)
    | some seq =>
      if seq = pt.rxNext then
        let b := modPort port (fun p => { p with rxNext := (seq + 1) % 2 ^ 24, rxSkip := false, rxUnacked := p.rxUnacked + 1 }) b
        if 256 ≤ pt.rxUnacked + 1 then (true, modPort port (fun p => { p with rxUnacked := 0 }) (llrPut port false seq b)) else (true, b)
      else if pt.rxSkip then (false, b)
      else if (seq + 2 ^ 24 - pt.rxNext) % 2 ^ 24 < 2 ^ 23 then
        (false, modPort port (fun p => { p with rxSkip := true }) (llrPut port true pt.rxNext b))
      else (false, b)

/-- A discarded frame, counted in one of the fields of FT_RX_ERRORS. -/
def rxError (fl : Fld) (f : Frame) (b : Block) : Block := fbump fl 0 1 (tcCount (f.port / 2) 0x044 none 1 b)

/-- The checks on a frame before its QP is looked at (R325, R330, R51, R324, R360, R381): `none` where it is discarded. One that passes
them is a packet received (R673). -/
def rxChecks (f : Frame) (b : Block) : Option Block × Block :=
  let h := f.hdr
  if !portUp b f.port then (none, b)
  else
    let (ok, b) := llrRx f.port f.shim f.fcsOk b
    if !ok then (none, b)
    else if !f.fcsOk || !f.udpOk || f.crc != packetCrc h f.payload f.tag then (none, rxError F.ftRxErrorsCrc f b)
    else if stopped b && h.cls != clsMg then (none, b)
    else if h.srcNode = selfNode b then (none, fhRaise 234 .none none false (rxError F.ftRxErrorsMisdirected f b))
    else if f.ifaceId != selfNode b || h.dstNode != selfNode b then (none, rxError F.ftRxErrorsMisdirected f b)
    else if h.epoch != epochNow b % 2 && !fon b F.ftEpochCtlPending 0 && !fon b F.ftEpochCtlRetiring 0 then
      (none, fhNote (129 + 2 * f.port) (.port f.port) none (rxError F.ftRxErrorsBadEpoch f b))
    else (some (tcCount (f.port / 2) 0x042 (packetPart b h.dstQp) 1 b), b)

/-- A frame of a QP's packet arrives. -/
def rxFrame (f : Frame) (b : Block) : Block :=
  match rxChecks f b with
  | (none, b) => b
  | (some b, _) =>
    let h := f.hdr
    let k := h.dstQp
    let t := homeTile k
    if (rxPool b t h.cls).isNone then
      fbump F.ftRxDropsOverflow 0 1 (tcCount t 0x044 (packetPart b k) 1 b)
    else
      match tfind b.ft.qps k with
      | none => if h.type ≤ 4 then sendNakUnknown f b else b
      | some q =>
        if q.peerNode != h.srcNode || q.peerQp != h.srcQp || !partPresent b q.part || linePoisoned b 0 k then (if h.type ≤ 4 then sendNakUnknown f b else b)
        else if !q.resident then
          (rxOpen (rxNewCtx b k .load f [] none none) (qpLoad k b)).2
        else rxResident k f b

/-- What waited for a QP's context goes on: control packets, then the packets that came. -/
def rxLoaded (k : Nat) (b : Block) : Block :=
  let l := b.ft.rx.filter (fun e => e.2.qp == k && e.2.stage == .load)
  each l (fun e b => rxAgain e.1 (fun b => rxResident k e.2.frame (modFt (fun t => { t with rx := tdel t.rx e.1 }) b)) b) (duesSend k b)

end Sys2Proof.Machine
end

