-- ==== Sys2Proof/Machine/Link.lean ====
section
/-!
DEFINITION. Timers of queue pairs, fabric ports with their replay, and epochs (R335, R346-R350, R353-R361, R367-R379): the
operations that the commands of `Machine/Transport.lean` call.
-/
namespace Sys2Proof.Machine

open Sys2Proof

/-! ### Timers of a QP -/

/-- A packet has gone unacknowledged for its RTO (R347); the first PSN of a SKIP run that no ACK covers sends the SKIP
again (R349). Nothing happens before the RTO has passed. -/
def rtoExpire (k psn : Nat) (b : Block) : Block :=
  match tfind b.ft.qps k with
  | none => b
  | some q =>
    match q.skips.find? (fun e => e.1 == psn) with
    | some e => sendSkip k e.1 e.2 b
    | none =>
      if q.sent.any (fun s => s.psn == psn && !s.rcvd && !s.resend && s.lossPitch.isNone && rtoDue b q s) then lossMark k psn false b else b

/-- A free packet has not been acknowledged within DELIVERY_TIMEOUT (R348, R349). -/
def deliveryExpire (k psn : Nat) (b : Block) : Block :=
  match tfind b.ft.qps k with
  | none => b
  | some q =>
    match q.sent.find? (fun s => s.psn == psn && !s.rcvd && !s.roped) with
    | some s => qpError k 7 psn s.owner 0x032 b
    | none => b

/-- A range of a read request has not arrived within RTO after the request was acknowledged (R350): what is missing is asked for again, as
soon as a packet of the QP may leave. -/
def readRetry (k psn : Nat) (b : Block) : Block :=
  modQp k (fun q =>
    { q with reads := q.reads.map (fun r => if r.psn = psn ∧ r.ackedAt.isSome then { r with again := true } else r) }) b

/-- Part of a read request is still missing after DELIVERY_TIMEOUT (R350): its item ends and the QP stays READY. A window
read has its own bound (R443). -/
def readExpire (k psn : Nat) (b : Block) : Block :=
  match tfind b.ft.qps k with
  | none => b
  | some q =>
    match q.reads.find? (fun r => r.psn == psn) with
    | some ⟨_, .item i, _, _, _, _, _, _⟩ =>
      qpItemFail i 0x032 q.peerNode (modQp k (fun q => { q with reads := q.reads.filter (fun r => r.owner != .item i) }) b)
    | _ => b

/-- Is every VALID label of a QP's path set DOWN (R355)? -/
def noPath (b : Block) (q : Qp) : Bool :=
  let e := epochNow b % 2
  (List.range 64).all (fun l => !entValid b (pathEntry b e q.pathSet l) || labelDown b e q.pathSet l)

/-- A free item has sent no byte within DELIVERY_TIMEOUT while every label was DOWN (R355). -/
def noPathExpire (i : Nat) (b : Block) : Block :=
  match tfind b.he.items i with
  | none => b
  | some it =>
    match tfind b.ft.qps (dQp it.desc) with
    | none => b
    | some q =>
      if opNeedsQp (dOpcode it.desc) && dCard it.desc == 0 && it.stage == .active && it.begun
          && (if dOpcode it.desc = 0x03 then it.rd else it.cons) == 0 && noPath b q then itemFail i 0x030 q.peerNode b
      else b

/-- Send a PROBE that names a message whose APPLIED has not come (R346). -/
def appliedProbe (k msn : Nat) (b : Block) : Block :=
  match tfind b.ft.qps k with
  | none => b
  | some q =>
    if q.awaits.any (fun a => a.msn == msn && a.rcvdAt.isSome) then
      sendControl k { hdrZero with cls := clsFr, type := tyProbe, msn := msn } [] q.rr (epochNow b % 2) b
    else b

/-- Probe a label that is DOWN while its port is up and no longer held (R354, R377). The PROBE names no message. -/
def labelProbe (set l k : Nat) (b : Block) : Block := probeSend k set l b

/-- COOLDOWN has passed since the last mark of a label (R354); nothing happens before it has. -/
def coolExpire (set l : Nat) (b : Block) : Block := if labelCooled b set l then b else modLabel set l (fun x => { x with cooledTo := none }) b

/-- ACK_DELAY has passed since the first unacknowledged arrival of a QP (R345). -/
def ackExpire (k : Nat) (b : Block) : Block :=
  match tfind b.ft.qps k with
  | none => b
  | some q => if q.sinceAck = 0 then b else sendAck k clsFr q.lastPath.1 q.lastPath.2 b

/-- The base RTT of a QP is reset every 10 ms: the next sample sets it (R363; DEDUCED, log entry 21). -/
def baseReset (k : Nat) (b : Block) : Block := modQp k (fun q => { q with base := none, baseAt := b.now }) b

/-! ### Ports -/

/-- The path entries of both tables that name a port, by 64 × set + label. -/
def portLabels (b : Block) (p : Nat) : List Nat :=
  (b.regs.filter (fun e => (e.1 / 2 ^ 32 == Reg.ftPathActive.code || e.1 / 2 ^ 32 == Reg.ftPathShadow.code)
    && e.2.getLsbD 63 && entPort e.2 == p)).map (fun e => e.1 % 2 ^ 32)

/-- A port goes down (R376): its labels are DOWN in both epochs, its waiting packets move, and it is counted. Those that a cipher half
still holds move as they leave it (`frameOut`); a PTP message belongs to its port and is lost with it. -/
def portDown (p : Nat) (b : Block) : Block :=
  if !portUp b p then b
  else
    let wait := (portOf b p).wait
    let b := modPort p (fun x =>
      { x with state := 4, held := true, buf := [], wait := [], tx := 0, rxNext := 0, rxUnacked := 0, rxSkip := false, nak := (0, 0) }) b
    let b := fput F.ftPortStatusLlr p 0 (fput F.ftPortStatusLlrAll p 0 b)
    let b := each (portLabels b p) (fun k b => modLabel (k / 64) (k % 64) (fun x => { x with down := true }) b) b
    let b := fhNote (128 + 2 * p) (.port p) none (fbump F.ftPortStatusDownEvents p 1 b)
    each wait (fun f b => match f with | .packet f => frameMove f b | .ptp _ => b) b

/-- Is a port one of a cordée link (R353, R367)? -/
def portCordee (b : Block) (p : Nat) : Bool :=
  b.regs.any (fun e => e.1 / 2 ^ 32 == Reg.ftPathActive.code && e.2.getLsbD 63 && e.2.getLsbD 62 && entPort e.2 == p)

/-- What replay covers on a port (R367): every class of a cordée link, and MG and RP of a port declared LLR-capable. -/
def portLlr (p : Nat) (b : Block) : Block :=
  let all := portCordee b p
  fput F.ftPortStatusLlr p (b2n (all || dict b 0x2103 p == 1)) (fput F.ftPortStatusLlrAll p (b2n all) b)

/-- A port has trained (R375, R377): its mode is the declared one, and LINK_HOLD runs where it had been up before. -/
def portTrained (p : Nat) (b : Block) : Block :=
  if !portHere b p || portUp b p || !fon b F.idNodeValid 0 then b
  else
    let native := (variant b).fabRate == 2 && dict b 0x2101 p == 1
    portLlr p (modPort p (fun x => { x with state := if native then 1 else 2, upAt := b.now }) b)

/-- A port that failed to train tries again (R375, R378). -/
def portRetry (p : Nat) (b : Block) : Block :=
  if portHere b p && !portUp b p then modPort p (fun x => { x with state := 3 }) b else b

/-- LINK_HOLD has passed since a port trained again: its labels may be probed (R377). Nothing happens before it has. -/
def portHeld (p : Nat) (b : Block) : Block :=
  if portUp b p && decide ((portOf b p).upAt + dict b 0x2120 6 * 1000000 ≤ b.now) then modPort p (fun x => { x with held := false }) b else b

/-! ### Link-level replay at the sender (R369, R370) -/

/-- Is a replay number at or before another, modulo 2^24? -/
def llrUpTo (a c : Nat) : Bool := (c + 2 ^ 24 - a % 2 ^ 24) % 2 ^ 24 < 2 ^ 23

/-- Frames that waited for room in the replay buffer go out. -/
def llrDrain (p : Nat) (b : Block) : Block :=
  let wait := (portOf b p).wait
  each wait linkOut (modPort p (fun x => { x with wait := [] }) b)

/-- An LLR_ACK covers every frame up to its number; that is progress where it covers one (R370). -/
def llrAck (p seq : Nat) (b : Block) : Block :=
  if !portUp b p then b
  else
    llrDrain p (modPort p (fun x =>
      { x with buf := x.buf.filter (fun e => !llrUpTo e.1 seq)
               nak := if x.buf.any (fun e => llrUpTo e.1 seq) then (0, 0) else x.nak }) b)

/-- An LLR_NAK is answered with every buffered frame from its number on; the eighth for one number takes the port down. -/
def llrNak (p seq : Nat) (b : Block) : Block :=
  if !portUp b p then b
  else
    let pt := portOf b p
    let n := if pt.nak.1 = seq then pt.nak.2 + 1 else 1
    let b := modPort p (fun x => { x with nak := (seq, n) }) b
    if 8 ≤ n then portDown p b
    else each (pt.buf.filter (fun e => llrUpTo seq e.1)) (fun e b => linkEmit e.2 b) (fbump F.ftPortStatusReplays p 1 b)

/-- 200 ns have passed with frames accepted and no LLR_ACK. -/
def llrTimer (p : Nat) (b : Block) : Block :=
  let pt := portOf b p
  if !portUp b p || pt.rxUnacked = 0 then b
  else llrPut p false ((pt.rxNext + 2 ^ 24 - 1) % 2 ^ 24) (modPort p (fun x => { x with rxUnacked := 0 }) b)

/-! ### Epochs (R358-R361) -/

/-- Exchange the contents of the two path tables. -/
def pathSwap (b : Block) : Block :=
  let a := Reg.ftPathActive.code
  let s := Reg.ftPathShadow.code
  let mine := b.regs.filter (fun e => e.1 / 2 ^ 32 == a || e.1 / 2 ^ 32 == s)
  let rest := b.regs.filter (fun e => !(e.1 / 2 ^ 32 == a || e.1 / 2 ^ 32 == s))
  { b with regs := mine.foldl (fun t e =>
      tput t ((if e.1 / 2 ^ 32 = a then s else a) * 2 ^ 32 + e.1 % 2 ^ 32) e.2) rest }

/-- The armed switch happens at its boundary (R358): the tables change places and the epoch advances, and with the new table what
replay covers (R367). While a schedule runs the boundary is a pitch's start, `edge`; without one it is T itself (DESIGN CHOICE for a
block that has pitch sequencing and no schedule, log entry 128). -/
def epochSwitch (edge : Bool) (b : Block) : Block :=
  if !fon b F.ftEpochCtlPending 0 || b.now < (rget b .ftEpochAt 0).toNat || (b.ps.sched.isSome && !edge) then b
  else
    let b := fput F.ftEpochCtlEpoch 0 ((epochNow b + 1) % 65536) (pathSwap b)
    let b := each (List.range 24) (fun p b => if portUp b p then portLlr p b else b) b
    epochRetire (sgAssert 1861 (fput F.ftEpochCtlRetiring 0 1 (fput F.ftEpochCtlPending 0 0 b)))

/-- Arm a switch (R358, R359): `none` where it is ignored. One whose time has passed happens at once where no schedule runs (R362). -/
def epochArm (b : Block) : Option Block :=
  if fon b F.ftEpochCtlPending 0 || fon b F.ftEpochCtlRetiring 0 then none
  else some (epochSwitch false (fput F.ftEpochCtlPending 0 1 b))

/-! ### Other frames -/

/-- A frame that is discarded before the transport (R320, R323, R327, R381), after replay has taken it where it has a number (R369). -/
def badFrame (p : Nat) (shim : Option Nat) (b : Block) : Block :=
  if !portUp b p then b
  else
    let (ok, b) := llrRx p shim true b
    if ok then fbump F.ftRxErrorsMisdirected 0 1 (tcCount (p / 2) 0x044 none 1 b) else b

/-- FEC results of a port's PHY (R379). -/
def fecResult (p good bad : Nat) (b : Block) : Block :=
  if !portHere b p then b
  else
    let b := fbump F.ftPortFecUncorrected p bad (fbump F.ftPortFecCorrected p good b)
    if bad = 0 then b else fhNote (129 + 2 * p) (.port p) none b

/-- A QP 0 datagram is handed to the management core (R318, R327). -/
def mgmtRx (f : Frame) (b : Block) : Block :=
  match rxChecks f b with
  | (none, b) => b
  | (some b, _) => if f.hdr.dstQp = 0 then emit (.qp0 f.port f.hdr.srcNode f.payload) b else b

/-! ### Destroying a QP (R335) -/

/-- Does an item still have data or a fence of its own to end? One whose record alone is left has nothing of its QP in flight. -/
def Item.atWork (it : Item) : Bool :=
  match it.stage with | .record | .written | .parked => false | _ => true

/-- A QP of whose own nothing is in flight: no item, no packet, no window access. -/
def qpIdle (b : Block) (k : Nat) (q : Qp) : Bool :=
  (qpItems b k).all (fun i => match tfind b.he.items i with | some it => !it.atWork | none => true)
    && q.sent.isEmpty && q.reads.isEmpty

/-- The number that stands for a QP that is no more, in work that outlives it. -/
def qpNone : Nat := 2 ^ 24

/-- The context of a QP is cleared; its key slot goes free (R599, R600). Its receive contexts end, but for the packets that are being
placed: those, and the packets that order keepers hold, have been acknowledged and go on without it (R305, R306). -/
def qpFree (k : Nat) (b : Block) : Block :=
  let b := lineForget (lineOf 0 k) b
  let b := each (b.ft.rx.filter (fun e => e.2.qp == k && e.2.stage != .place)) (fun e b => rxClose e.1 b) b
  let b := mapRounds (fun r => { r with held := r.held.map (fun h => if h.qp = k then { h with qp := qpNone } else h) }) b
  let b := modFt (fun t => { t with qps := tdel t.qps k, strays := t.strays.filter (fun f => f.hdr.srcQp != k),
                                    rx := t.rx.map (fun e => if e.2.qp = k then (e.1, { e.2 with qp := qpNone }) else e) }) b
  modCe (fun c => { c with slots := c.slots.map (fun e => if e.2.qp = k then (e.1, { e.2 with state := 0, key := 0, next := none, qp := 0 }) else e) }) b

end Sys2Proof.Machine
end

