-- ==== Sys2Proof/Machine/Abort.lean ====
section
/-!
DEFINITION. How items, rings and queue pairs are brought to their ends (R218, R264-R266, R335, R455-R456, R460, R503,
R508, R510): failing an item that has not passed its source-read stage, ending one at a deadline, cutting a function off
its host, and freeing what has drained.
-/
namespace Sys2Proof.Machine

open Sys2Proof

/-! ### Items -/

/-- Packets and reads of an item stay with their QP without an owner. -/
def ownerDead (i k : Nat) (b : Block) : Block :=
  let dead := fun (s : Sender) => if s = .item i then Sender.dead else s
  modQp k (fun q =>
    { q with sent := q.sent.map (fun s => { s with owner := dead s.owner }), reads := q.reads.filter (fun r => r.owner != .item i),
             awaits := q.awaits.filter (fun a => a.owner != .item i), curMsn := q.curMsn.filter (fun c => c.1 != .item i) }) b

/-- Has an item passed its source-read stage (R240)? One without a source has once it has committed. -/
def Item.hasPassed (it : Item) : Bool :=
  it.passed || (it.committed && (dOpcode it.desc == 0x00 || dOpcode it.desc == 0x08 || dOpcode it.desc == 0x09))

/-- End an item that has not passed its source-read stage (R240): nothing of it is done, and its speculation is undone (R236, R266).
One whose only work is its fence or record takes the status too, as long as it has not committed. -/
def itemEarly (i status : Nat) (b : Block) : Block :=
  match tfind b.he.items i with
  | none => b
  | some it =>
    if it.hasPassed then b
    else
      let b := undoEarly i b
      if it.stage == .fence || it.stage == .record then
        (if it.committed then b else itemLate i status 0 (modItem i (fun it => { it with bytesDone := some 0 }) b))
      else itemFail i status 0 b

/-- End an item at a deadline with what is durable of it (R258): no answer is waited for any more. An item whose data has ended takes the
status too, as it has not ended (R197, R254); one whose record is made keeps it. A fence whose translation or ordering read is
not there by then, or whose write is unanswered, cannot be written (R200). -/
def itemForce (i status : Nat) (b : Block) : Block :=
  match tfind b.he.items i with
  | none => b
  | some it =>
    match it.stage with
    | .waiting | .active | .draining =>
      let b := closeTxns (fun t => t.use.writeOf i) (itemFail i status 0 (undoEarly i b))
      if opNeedsQp (dOpcode it.desc) then ownerDead i (dQp it.desc) b else b
    | .fence =>
      if it.fenceReady && it.flushes == 0 then itemLate i status 0 b else fenceFail i status 0 (flushDrop i b)
    | .fenceWrite =>
      let b := if opNeedsQp (dOpcode it.desc) then ownerDead i (dQp it.desc) b else b
      fenceFail i status 0 (closeTxns (fun t => t.use == .fence i) b)
    | .record => itemLate i status 0 b
    | _ => b

/-- The items that a deadline has ended are carried on, so that those whose fence can be written now write it, broken; the fence of one
that waits for items it covers, or for other reads, cannot be written by then (R200). -/
def itemsForced (l : List Nat) (b : Block) : Block :=
  each l (fun i b => match tfind b.he.items i with
    | some it => if it.stage = .fence then pump i (fenceFail i it.status 0 (flushDrop i b)) else b
    | none => b) (each l (fun i b => pump i b) b)

/-- End items at a deadline. -/
def itemsEnd (l : List Nat) (status : Nat) (b : Block) : Block := itemsForced l (each l (fun i b => itemForce i status b) b)

/-- An item that a command of its partition ends is counted in ENDED (R497). -/
def cmdEnds (f : Nat → Nat → Block → Block) (i status : Nat) (b : Block) : Block :=
  match tfind b.he.items i with
  | none => b
  | some it =>
    let b' := f i status b
    let hit : Bool := match tfind b'.he.items i with
      | some x => it.status == 0 && x.status == status
      | none => false
    if hit then modPt (fun t => { t with cmds := tmod t.cmds it.part (fun c => { c with ended := satAdd 65535 c.ended 1 }) }) b' else b'

/-- The items that a test picks, oldest first. -/
def itemsOf (b : Block) (p : Item → Bool) : List Nat := tkeys (fun _ it => p it) b.he.items

/-! ### Cutting a function off its host (R264, R448, R460, R462, R473, R474) -/

/-- An exchange that runs on a host port for a function. -/
def Txn.onFn (t : Txn) (fn : Nat) : Bool := t.fn == fn && t.place.isPort

/-- What the loss of one outstanding host exchange does to the work that waits for it. `st` is the status of an item. -/
def txnLost (st : Nat) (t : Txn) (b : Block) : Block :=
  let cause := if st = 0x021 then causeReset else causeMasterOff
  match t.use with
  | .src i _ _ => itemFail i st 0 b
  | .operand i _ => itemFail i st 0 b
  | .waitRead i => itemFail i st 0 b
  | .flush i => modItem i (fun it => { it with flushes := it.flushes - 1 }) b
  | .tailFlush p c => tailFlushed p c b
  | .irqFlush p c => (match tfind b.sq.cqs (4096 * p + c) with | some q => sgAssert q.irq b | none => b)
  | .fetch p r _ => fetchFail (4096 * p + r) b
  | .walk w => walkFail w cause b
  | .ats a => modAcc a (fun x => { x with wait := .bad ⟨cause, x.va⟩ }) b
  | .rxOperand x _ => modRx x (fun r => { r with bad := some 0 }) b
  | .rxRead x off => modRx x (fun r => { r with bad := some (match r.bad with | some n => if n < off then n else off | none => off) }) b
  | _ => b

/-- Does an item still move data on a host port with a function as its requester? A range lies in one region (R60), so what is not yet
translated of it does as what is. -/
def itemOnFn (b : Block) (fn : Nat) (it : Item) : Bool :=
  let mine := fun (s : Span) => s.place.isPort && itemFn b it s.place == fn
  it.stage == .active && (it.dst.spans.any mine || (it.src.spans.any mine && it.rd < it.src.len))

/-- A reset of a function cuts the bursts for which it is the requester (R264). The speculation of an item that has not committed is
undone (R266): it has no burst yet. -/
def burstCut (fn : Nat) (b : Block) : Block :=
  each (b.he.items.filter (fun e => itemOnFn b fn e.2)) (fun e b =>
    if e.2.committed then itemFail e.1 0x021 0 b else undoEarly e.1 b) b

/-- A function may issue nothing upstream any more: its outstanding reads are discarded as they are answered, and whatever
waits for one ends with `st`. After a reset (FUNCTION_RESET) the bursts that it carries end as well. -/
def hostCut (fn st : Nat) (b : Block) : Block :=
  let lost := b.txns.filter (fun e => e.2.onFn fn)
  let b := { b with txns := b.txns.map (fun e => if e.2.onFn fn then (e.1, { e.2 with use := .free }) else e) }
  let b := if st = 0x021 then burstCut fn b else b
  atsForget fn (each lost (fun e b => txnLost st e.2 b) b)

/-! ### What has drained is freed -/

/-- A command of a function's SQ_CMD bank has ended. -/
def sqCmdDone (bank : Nat) (b : Block) : Block := fput F.sqCmdStatusBusy bank 0 b

/-- Doorbells that waited for a ring are dropped, ignored and counted (R222). -/
def waitersDrop (cq : Bool) (key : Nat) (b : Block) : Block :=
  let mine := fun (w : Bool × Nat × Nat × Agent) => w.1 == cq && w.2.1 == key
  each (b.sq.waiting.filter mine) (fun w b => ignored .sq w.2.2.2 (some (key / 4096)) b)
    (modSq (fun q => { q with waiting := q.waiting.filter (fun w => !mine w), loads := q.loads.filter (· != (cq, key)) }) b)

/-- A submission ring becomes FREE (R208, R218): its tile walks end, and its fence shadow and context are gone. -/
def ringFree (key : Nat) (b : Block) : Block :=
  match tfind b.sq.rings key with
  | none => b
  | some r =>
    let b := each r.teardown (fun bank b =>
      sqCmdDone bank (fput F.sqCmdStatusHead bank r.head (fput F.sqCmdStatusAborted bank r.aborted b))) b
    let b := closeTxns (fun t => match t.use with | .fetch p k _ => 4096 * p + k == key | _ => false) b
    let b := each (tkeys (fun k _ => k / 4096 == key) b.tu.tileWalks) walkRemove (lineForget (lineOf 1 key) b)
    modSq (fun q => { q with rings := tdel q.rings key }) (waitersDrop false key b)

/-- A ring that is DRAINING and has no item left is freed. -/
def ringDrained (key : Nat) (b : Block) : Block :=
  match tfind b.sq.rings key with
  | none => b
  | some r => if r.state = .draining ∧ ringItems b key = 0 then ringFree key b else b

/-- A completion ring becomes FREE. -/
def cqFree (key : Nat) (b : Block) : Block :=
  lineForget (lineOf 2 key) (modSq (fun q => { q with cqs := tdel q.cqs key }) (waitersDrop true key b))

/-- A QP becomes FREE (R335): its packets leave the epoch counts, its context is cleared, and its QP_DESTROY ends. -/
def qpGone (k : Nat) (b : Block) : Block :=
  match tfind b.ft.qps k with
  | none => b
  | some q =>
    let b := epochRetire (qpFree k b)
    match q.destroy with | some bank => sqCmdDone bank b | none => b

/-- A QP that is DRAINING with nothing of it in flight becomes FREE (R335). -/
def qpDrained (k : Nat) (b : Block) : Block :=
  match tfind b.ft.qps k with
  | none => b
  | some q => if q.state = 3 ∧ qpIdle b k q then qpGone k b else b

/-- QP_DESTROY begins (R335): items that have not committed end, window accesses over the QP fail. -/
def qpDrain (k : Nat) (bank : Option Nat) (b : Block) : Block :=
  match tfind b.ft.qps k with
  | none => b
  | some q =>
    let b := modQp k (fun q => { q with state := 3, destroy := bank.or q.destroy }) b
    let b := each (qpItems b k) (fun i b => match tfind b.he.items i with
      | some it => if it.committed then b else itemFail i 0x030 q.peerNode b
      | none => b) b
    qpWinsFail k 0x31 b

/-- An item whose QP is given up ends with what its peer has acknowledged, or what is durable of it (R258, R335). -/
def qpForce (i peer : Nat) (b : Block) : Block :=
  match tfind b.he.items i with
  | none => b
  | some it =>
    if !it.atWork then b
    else if it.stage = .fence ∨ it.stage = .fenceWrite then
      modItem i (fun x => { x with aux := if it.status = 0 then peer else x.aux }) (itemForce i 0x030 b)
    else closeTxns (fun t => t.use.writeOf i) (qpItemFail i 0x030 peer b)

/-- QP_DESTROY at its bound of 3 ms: what is still in flight ends, every packet is given up, and the QP becomes FREE. -/
def qpDrainEnd (k : Nat) (b : Block) : Block :=
  match tfind b.ft.qps k with
  | none => b
  | some q =>
    if q.state != 3 then b
    else
      let l := qpItems b k
      let b := itemsForced l (each l (fun i b => qpForce i q.peerNode b) b)
      qpGone k (modQp k (fun q => { q with sent := [], reads := [], awaits := [], skips := [], curMsn := [] }) b)

/-- Strand the records of a ring's items that are parked (R218 step 4, R510). -/
def strandParked (p : Item → Bool) (reason : Nat) (b : Block) : Block :=
  each (itemsOf b (fun it => it.stage == .parked && p it)) (fun i b => strand i reason b) b

end Sys2Proof.Machine
end

