-- ==== Sys2Proof/Machine/Hostp.lean ====
section
/-!
DEFINITION. Host ports (R429-R477): configuration space with its capabilities, BAR sizes, BAR4 accesses, the function
side of resets, Bus Master Enable, power management, link events, IDE and TDISP. The layouts inside a capability are
those of PCIe (PRESUMED, log entry 13). The commands are in `Machine/Host.lean`.
-/
namespace Sys2Proof.Machine

open Sys2Proof

/-! ### Configuration space (R430-R436) -/

/-- Is a port in CXL mode (R431, R476)? -/
def cxlMode (b : Block) (h : Nat) : Bool := fget b F.hpPortStatusProto h == 2

/-- The extended capabilities of a PF as offset, ID and version, in order (R431). -/
def pfCaps (b : Block) (h : Nat) : List (Nat × Nat × Nat) :=
  [(0x100, 0x0001, 2), (0x148, 0x0003, 1), (0x158, 0x000E, 1), (0x160, 0x0019, 1), (0x1B0, 0x0025, 1), (0x1C0, 0x0026, 1),
    (0x200, 0x002A, 1), (0x240, 0x0031, 1)]
    ++ (if (variant b).hostMax = 2 then [(0x280, Config.capId128.toNat, 1)] else [])
    ++ [(0x2C0, 0x0027, 1), (0x310, 0x002F, 1), (0x320, 0x0032, 1), (0x340, 0x001E, 1), (0x358, 0x0018, 1), (0x360, 0x0010, 1),
    (0x3A0, 0x000F, 1), (0x3A8, 0x0013, 1), (0x3B8, 0x001B, 1), (0x3C0, 0x0015, 1), (0x3D0, 0x0024, 1), (0x3E0, 0x002E, 1)]
    ++ (if (variant b).cipher then [(0x400, 0x0030, 1)] else [])
    ++ (if cxlMode b h then [(0x500, 0x0023, 1), (0x540, 0x0023, 1), (0x560, 0x0023, 1)] else [])

/-- The extended capabilities of a VF (R432). -/
def vfCaps : List (Nat × Nat × Nat) := [(0x100, 0x000E, 1), (0x108, 0x000F, 1), (0x110, 0x0013, 1), (0x120, 0x001B, 1)]

/-- The header of the extended capability at an offset: its ID, version and the offset of the next one. -/
def capHeader (l : List (Nat × Nat × Nat)) (off : Nat) : Nat :=
  match l with
  | [] => 0
  | e :: r =>
    if e.1 = off then e.2.1 + e.2.2 * 2 ^ 16 + (match r with | n :: _ => n.1 | [] => 0) * 2 ^ 20 else capHeader r off

/-- The size bits of a function's BAR4 (R435, R436): 2^s bytes. -/
def barBits (b : Block) (fn : Nat) : Nat :=
  20 + bits (cfgGet b (fn / 128 * 128) (if fn % 128 = 0 then 0x3C8 else 0x3D8)).toNat 13 8

/-- The lower half of a BAR's writable bits from bit `s` on, and the upper half. -/
def barLow (s : Nat) : Nat := if s < 32 then 2 ^ 32 - 2 ^ s else 0
def barHigh (s : Nat) : Nat := if s ≤ 32 then 2 ^ 32 - 1 else 2 ^ 32 - 2 ^ (s - 32)

/-- The writable bits of the IDE capability (R472): Link IDE Stream Control, and for each selective stream its Control, its RID association
block and its address association block, in PCIe's layout (PRESUMED, log entry 12). -/
def ideMask (off : Nat) : Nat :=
  if off = 0x40C then 0xFF3FC001
  else if 0x414 ≤ off ∧ off < 0x494 then
    match (off - 0x414) % 32 with
    | 0x04 => 0xFF7FC001
    | 0x0C => 0x00FFFF00
    | 0x10 => 0xFFFFFF01
    | 0x14 => 0xFFFFFF01
    | 0x18 => 2 ^ 32 - 1
    | 0x1C => 2 ^ 32 - 1
    | _ => 0
  else 0

/-- The writable bits of a doubleword of a PF's configuration space; those that a write of 1 clears are in `pfW1c`. -/
def pfMask (b : Block) (fn off : Nat) : Nat :=
  match off with
  | 0x04 => 0x146
  | 0x10 => barLow 26
  | 0x14 => 2 ^ 32 - 1
  | 0x18 => barLow 24
  | 0x1C => 2 ^ 32 - 1
  | 0x20 => barLow (barBits b fn)
  | 0x24 => barHigh (barBits b fn)
  | 0x44 => 0x3
  | 0x50 => 0xC0000000
  | 0x68 => 0x79FF
  | 0x70 => 0x1CB
  | 0x88 => 0x170F
  | 0x90 => 0xF
  | 0x108 => 0x77FFF030
  | 0x10C => 0x77FFF030
  | 0x114 => 0xF1C1
  | 0x318 => 0x7F
  | 0x348 => 0xF
  | 0x35C => 0x1FFF1FFF
  | 0x368 => 0x19
  | 0x370 => 0xFFFF
  | 0x380 => 0x11
  | 0x384 => barLow 20
  | 0x388 => 2 ^ 32 - 1
  | 0x38C => barLow 16
  | 0x390 => 2 ^ 32 - 1
  | 0x394 => barLow (barBits b (fn + 1))
  | 0x398 => barHigh (barBits b (fn + 1))
  | 0x3A4 => 0x801F0000
  | 0x3AC => 0x1
  | 0x3B4 => 2 ^ 32 - 1
  | 0x3BC => 0x50000
  | 0x3C8 => 0x3F00
  | 0x3D8 => 0x3F00
  | 0x3E8 => 0x2
  | 0x50C => if cxlMode b (fn / 128) then 0x1 else 0
  | _ => if (variant b).cipher then ideMask off else 0

def pfW1c (off : Nat) : Nat :=
  match off with
  | 0x04 => 0xF9000000
  | 0x68 => 0xF0000
  | 0x104 => 0x77FFF030
  | 0x110 => 0xF1C1
  | 0x3AC => 0x30000
  | _ => 0

def vfMask (off : Nat) : Nat :=
  match off with
  | 0x04 => 0x4
  | 0x40 => 0xC0000000
  | 0x58 => 0x79FF
  | 0x78 => 0x170F
  | 0x10C => 0x801F0000
  | 0x114 => 0x1
  | 0x11C => 2 ^ 32 - 1
  | 0x124 => 0x50000
  | _ => 0

def vfW1c (off : Nat) : Nat :=
  match off with
  | 0x04 => 0xF9000000
  | 0x58 => 0xF0000
  | 0x114 => 0x30000
  | _ => 0

/-- The fixed bits of the PCI Express capability at `base` (R433): device capabilities, link capabilities and speeds. -/
def pcieFixed (b : Block) (base off : Nat) : Nat :=
  let speed := if (variant b).hostMax = 2 then 7 else 6
  if off = base then 0x0002_0010
  else if off = base + 4 then 0x1000_0002
  else if off = base + 0xC then speed + 16 * 2 ^ 4 + 2 * 2 ^ 10 + 3 * 2 ^ 15
  else if off = base + 0x24 then 0x0003_000F
  else if off = base + 0x2C then 2 ^ (speed + 1) - 2
  else 0

/-- The fixed bits of a doubleword of a PF's configuration space. The IDE capability says Link IDE, selective IDE, IDE_KM and four selective
streams, each with one address association block (R472). -/
def pfFixed (b : Block) (h off : Nat) : Nat :=
  let v := variant b
  match off with
  | 0x00 => b.fuses.vendorId + (0xF100 + b.fuses.variant) * 2 ^ 16
  | 0x04 => 0x0010_0400
  | 0x08 => 0x12_0000 * 2 ^ 8 + b.fuses.stepping % 256
  | 0x10 => 0x4
  | 0x18 => 0xC
  | 0x20 => 0xC
  | 0x2C => dict b 0x1001 (2 * h) + dict b 0x1001 (2 * h + 1) * 2 ^ 16
  | 0x34 => 0x40
  | 0x40 => 0x0003_5001
  | 0x44 => 0x8
  | 0x50 => 0x07FF_6011
  | 0x54 => 0x0010_8000
  | 0x58 => 0x0010_4000
  | 0x14C => b.fuses.serial % 2 ^ 32
  | 0x150 => b.fuses.serial / 2 ^ 32 % 2 ^ 32
  | 0x314 => 0xE
  | 0x344 => 0x1F + 1 * 2 ^ 16 + 4 * 2 ^ 19
  | 0x36C => v.vfs + v.vfs * 2 ^ 16
  | 0x374 => 1 + 1 * 2 ^ 16
  | 0x378 => (0xF180 + b.fuses.variant) * 2 ^ 16
  | 0x37C => 0x11
  | 0x384 => 0x4
  | 0x38C => 0xC
  | 0x394 => 0xC
  | 0x3A4 => 0x20
  | 0x3B0 => 512
  | 0x3BC => 0x4 + 20 * 2 ^ 8
  | 0x3C4 => 0x007F_C000
  | 0x3C8 => 4 + 1 * 2 ^ 5
  | 0x3D4 => 0x0001_F000
  | 0x3D8 => 4 + 1 * 2 ^ 5
  | 0x404 => if v.cipher then 0x43 + 3 * 2 ^ 16 else 0
  | 0x414 => b2n v.cipher
  | 0x434 => b2n v.cipher
  | 0x454 => b2n v.cipher
  | 0x474 => b2n v.cipher
  | 0x504 => if cxlMode b h then 0x1E98 + 0x3C * 2 ^ 20 else 0
  | 0x508 => if cxlMode b h then 1 * 2 ^ 16 else 0
  | 0x544 => if cxlMode b h then 0x1E98 + 0x20 * 2 ^ 20 else 0
  | 0x548 => if cxlMode b h then 0x0007 else 0
  | 0x564 => if cxlMode b h then 0x1E98 + 0x18 * 2 ^ 20 else 0
  | 0x568 => if cxlMode b h then 0x0008 else 0
  | 0x56C => if cxlMode b h then 0x0011_0000 + 1 * 2 ^ 8 else 0
  | _ => pcieFixed b 0x60 off + capHeader (pfCaps b h) off

def vfFixed (b : Block) (off : Nat) : Nat :=
  match off with
  | 0x00 => 0xFFFF_FFFF
  | 0x04 => 0x0010_0000
  | 0x08 => 0x12_0000 * 2 ^ 8 + b.fuses.stepping % 256
  | 0x34 => 0x40
  | 0x40 => 0x003F_5011
  | 0x44 => 0x0001_8000
  | 0x48 => 0x0001_4000
  | 0x10C => 0x20
  | 0x118 => 512
  | 0x124 => 0x4 + 20 * 2 ^ 8
  | _ => pcieFixed b 0x50 off + capHeader vfCaps off

def cfgMask (b : Block) (fn off : Nat) : Nat := if fn % 128 = 0 then pfMask b fn off else vfMask off
def cfgW1c (fn off : Nat) : Nat := if fn % 128 = 0 then pfW1c off else vfW1c off
def cfgFixed (b : Block) (fn off : Nat) : Nat := if fn % 128 = 0 then pfFixed b (fn / 128) off else vfFixed b off

/-- What the DOE status and its read mailbox read as (R433; the registers are PCIe's, PRESUMED, log entry 13): Data Object Ready, and the next
doubleword of the answer. -/
def doeRead (b : Block) (h off : Nat) : BitVec 32 :=
  match off, (tget ([], []) b.hp.doe h).2 with
  | 0x3EC, _ :: _ => 0x80000000#32
  | 0x3F4, w :: _ => w
  | _, _ => 0#32

/-- The answer to a whole object in a port's DOE mailbox (R433). DOE Discovery reports itself, CMA/SPDM and Secured CMA/SPDM. An object of
those is taken, and what it asks is a command of SPDM, TDISP or IDE_KM of its own (DESIGN CHOICE, log entry 134). -/
def doeAnswer (l : List (BitVec 32)) : List (BitVec 32) :=
  match l with
  | [w, n, q] =>
    let i := bits q.toNat 7 0
    if w &&& 0xFFFFFF#32 = 1#32 ∧ n &&& 0x3FFFF#32 = 3#32 then
      [1#32, 3#32, BitVec.ofNat 32 (if i < 3 then 1 + i * 2 ^ 16 + (i + 1) % 3 * 2 ^ 24 else 0xFFFF)]
    else []
  | _ => []

/-- A write of the DOE control or mailbox registers (R433): Abort, Go, a doubleword of an object, and the take of one of the answer. -/
def doeWrite (h off : Nat) (val : BitVec 32) (b : Block) : Block :=
  let d := tget ([], []) b.hp.doe h
  let put := fun (x : List (BitVec 32) × List (BitVec 32)) => modHp (fun p => { p with doe := tset ([], []) p.doe h x }) b
  match off with
  | 0x3E8 => if val.getLsbD 0 then put ([], []) else if val.getLsbD 31 then put ([], doeAnswer d.1) else b
  | 0x3F0 => put (d.1 ++ [val], d.2)
  | 0x3F4 => put (d.1, d.2.drop 1)
  | _ => b

/-- What a doubleword of configuration space reads as. -/
def cfgRead (b : Block) (fn off : Nat) : BitVec 32 :=
  cfgGet b fn off ||| BitVec.ofNat 32 (cfgFixed b fn off) ||| (if fn % 128 = 0 then doeRead b (fn / 128) off else 0#32)

/-- Does a port answer configuration requests with Request Retry Status: until configuration is ready (R709, R710), and while
its functions are being reset (R457)? -/
def cfgRetry (b : Block) (h : Nat) : Bool := b.hp.retry.contains h

/-- Is a port's link up, so that a request can reach it? -/
def hostUp (b : Block) (h : Nat) : Bool := portPresent b h && fon b F.hpPortStatusLinkUp h

/-- A configuration read (R430, R434, R457). -/
def configRead (h fn off : Nat) (b : Block) : Block :=
  if !hostUp b h then b
  else
    let b := hostTlp h b
    let f := 128 * h + fn
    if cfgRetry b h then emitTlp h (.completion f .retry) b
    else if !fnEnabled b f then emitTlp h (.completion f .ur) b
    else emitTlp h (.completion f (.data (leBytes 4 (cfgRead b f (off / 4 * 4)).toNat) false)) b

/-! ### Function resets, on the host side (R453-R458) -/

/-- Registers of a kind with indices from `lo`, `n` of them, return to their reset values. -/
def rclearRange (r : Reg) (lo n : Nat) (b : Block) : Block :=
  { b with regs := b.regs.filter (fun e => !(regKey r lo ≤ e.1 && e.1 < regKey r (lo + n))) }

/-- The interrupt sources whose target is a function: they are masked, and hold nothing (R586). -/
def sgHold (fn : Nat) (b : Block) : Block :=
  eachN 2048 (fun s b =>
    let t := sgTarget b s
    if sgToFn t.1 && t.2.1 == fn then
      { sgSetMask s true (sgSetPending s false (sgSetCount s 0 b)) with sgServing := srem s b.sgServing }
    else b) b

/-- The part of a function's configuration space that a reset keeps (PCIe's sticky registers, PRESUMED, log entry 13). -/
def cfgSticky (fn d : Nat) : Bool := fn % 128 == 0 && 0x104 / 4 ≤ d && d ≤ 0x11C / 4

/-- What a reset of a function clears at its port (R454), with the start of FLR_ACTIVE. `bad` is the status of what it
cuts. -/
def fnClear (fn : Nat) (b : Block) : Block :=
  let b := modHp (fun h =>
    { h with cfg := h.cfg.filter (fun e => e.1 / 1024 != fn || cfgSticky fn (e.1 % 1024)),
             windows := h.windows.filter (fun e => e.1 / 64 != fn), tdi := tdel h.tdi fn, flr := sins fn h.flr,
             doe := if fn % 128 = 0 then tdel h.doe (fn / 128) else h.doe,
             wins := h.wins.map (fun e => if e.2.fn = fn then (e.1, { e.2 with old := true }) else e) }) b
  let b := rclearRange .hpWinBase (64 * fn) 64 (rclearRange .hpWinLen (64 * fn) 64 (rclearRange .hpWinCtl (64 * fn) 64 b))
  let b := rclear .hpFnPasid fn b
  let b := rclearRange .hpMsixAddr (2048 * fn) 2048 (rclearRange .hpMsixData (2048 * fn) 2048 (rclearRange .hpPba (32 * fn) 32 b))
  sgHold fn b

/-- Does a port use the legacy form (R455, R456)? -/
def flrLegacy (b : Block) (h : Nat) : Bool := fon b F.hpPortCtlLegacyFlr h

/-- The reset of a function: what it clears, what it cuts, and in the legacy form the end of every item of it at once
(R455, R456). -/
def fnCut (fn : Nat) (b : Block) : Block :=
  let b := modTu (fun t => { t with priFailed := t.priFailed.filter (· != fn) }) (hostCut fn 0x021 (fnClear fn b))
  if flrLegacy b (fn / 128) then itemsEnd (itemsOf b (fun it => it.fn == fn)) 0x021 b else b

/-- The 50 us point of a native reset: items that have not passed their source-read stage end (R455 step 3). -/
def flrSource (fn : Nat) (b : Block) : Block :=
  if flrActive b fn then each (itemsOf b (fun it => it.fn == fn)) (fun i b => itemEarly i 0x021 b) b else b

/-- The bound of a reset: every item of the function ends (R455 step 4, R456). -/
def flrEnd (fn : Nat) (b : Block) : Block :=
  if flrActive b fn then itemsEnd (itemsOf b (fun it => it.fn == fn)) 0x021 b else b

/-- A port whose functions have all left reset answers configuration requests again (R457), from configuration ready on (R709) and not
under PERST#. -/
def retryFall (h : Nat) (b : Block) : Block :=
  if (b.hp.flr.any (fun f => f / 128 == h)) || fget b F.ckStartPhase 0 != 5 || b.hp.perst.contains h then b
  else modHp (fun p => { p with retry := srem h p.retry }) b

/-- FLR_ACTIVE of a function falls; its Bus Master Enable takes effect then (R457). -/
def flrDrop (fn : Nat) (b : Block) : Block :=
  msixFlush fn (retryFall (fn / 128) (modHp (fun h => { h with flr := srem fn h.flr }) b))

/-- In the native form FLR_ACTIVE falls once the last item of the function has ended (R452, R455). -/
def flrFall (fn : Nat) (b : Block) : Block :=
  if flrActive b fn && !flrLegacy b (fn / 128) && !(b.he.items.any (fun e => e.2.fn == fn)) then flrDrop fn b
  else b

/-- The end of the bound: FLR_ACTIVE falls, in the legacy form whatever answer is still outstanding (R455, R456), and in the native form
over records that are parked on a full completion ring (DEDUCED, log entry 23). -/
def flrBound (fn : Nat) (b : Block) : Block :=
  if flrActive b fn && (flrLegacy b (fn / 128) || !(b.he.items.any (fun e => e.2.fn == fn && e.2.stage != .parked))) then flrDrop fn b
  else b

/-! ### Bus Master Enable and power (R460-R465) -/

/-- The functions of a port that are enabled. -/
def portFns (b : Block) (h : Nat) : List Nat := ((List.range 121).map (128 * h + ·)).filter (fnEnabled b)

/-- Write the Command register of a function's Bus Master Enable. -/
def bmeWrite (fn : Nat) (on : Bool) (b : Block) : Block :=
  let old := cfgGet b fn 0x04
  cfgPut fn 0x04 (if on then old ||| 4#32 else old &&& ~~~4#32) b

/-- Bus Master Enable is cleared (R460). -/
def bmeClear (fn : Nat) (b : Block) : Block :=
  if !fnEnabled b fn then b
  else
    let was := bmeOn b fn
    let b := bmeWrite fn false b
    if was then hostCut fn 0x020 b else b

/-- Bus Master Enable is set (R461). -/
def bmeSet (fn : Nat) (b : Block) : Block := if !fnEnabled b fn then b else msixFlush fn (bmeWrite fn true b)

/-- The PF of a port enters D3hot (R462), or returns to D0. -/
def d3Enter (h : Nat) (b : Block) : Block :=
  if !hostUp b h || inD3 b h then b
  else each (portFns b h) (fun fn b => hostCut fn 0x020 b) (cfgPut (128 * h) 0x44 3#32 b)
def d0Enter (h : Nat) (b : Block) : Block :=
  if !hostUp b h || !inD3 b h then b
  else each (portFns b h) (fun fn b => msixFlush fn b) (cfgPut (128 * h) 0x44 0#32 b)

/-- Is an item held at a gate, for R463? -/
def itemGated (b : Block) (it : Item) : Bool := it.stage == .waiting || (it.stage == .active && gated b it)

/-- ASPM L1 entry (R463): L1.2 before L1.1 where the host's L1 PM Substates control permits. -/
def l1Enter (h : Nat) (b : Block) : Block :=
  let quiet := !(b.he.items.any (fun e => e.2.fn / 128 == h && !itemGated b e.2)) && !(b.hp.wins.any (fun e => e.2.fn / 128 == h))
    && (tget [] b.hp.queue h).isEmpty
  if hostUp b h && fon b F.hpPmCtlL1Allow h && cfgBit b (128 * h) 0x70 1 && quiet && fget b F.hpPortStatusLstate h ≤ 1 then
    fput F.hpPortStatusLstate h (if cfgBit b (128 * h) 0x348 2 then 4 else if cfgBit b (128 * h) 0x348 3 then 3 else 2) b
  else b

/-- The port narrows to x8, then x4 (R464): in flit mode, with L0P_ALLOW, and where the host has enabled L0p in Device
Control 3. -/
def l0pNarrow (h : Nat) (b : Block) : Block :=
  let w := fget b F.hpPortStatusWidth h
  if hostUp b h && fon b F.hpPmCtlL0pAllow h && 6 ≤ fget b F.hpPortStatusRate h && cfgBit b (128 * h) 0x318 3 && 4 < w &&
      fget b F.hpPortStatusLstate h ≤ 1 then
    fput F.hpPortStatusLstate h 1 (fput F.hpPortStatusWidth h (w / 2) b)
  else b

/-! ### TDISP and IDE (R472-R474, R620) -/

def tdiOf (b : Block) (fn : Nat) : Nat := tget 0 b.hp.tdi fn

/-- A change moves a locked TDI to ERROR (R474): the VF issues nothing upstream, and its items are treated as under R460. -/
def tdiError (fn : Nat) (b : Block) : Block :=
  if tdiOf b fn = 1 ∨ tdiOf b fn = 2 then
    hostCut fn 0x020 (fhRaise (32 * (fn / 128) + 38) (.fn fn) (vfPart b fn) false (modHp (fun h => { h with tdi := tput h.tdi fn 3 }) b))
  else b

/-- LOCK_INTERFACE and START_INTERFACE requests of a VF's TDI. -/
def tdiRequest (fn : Nat) (start : Bool) (b : Block) : Block :=
  if !fnEnabled b fn || !(variant b).cipher || fn % 128 = 0 then b
  else if !start && tdiOf b fn == 0 then modHp (fun h => { h with tdi := tput h.tdi fn 1 }) b
  else if start && tdiOf b fn == 1 then modHp (fun h => { h with tdi := tput h.tdi fn 2 }) b
  else b

/-- STOP_INTERFACE of a VF's TDI. -/
def tdiStop (fn : Nat) (b : Block) : Block := modHp (fun h => { h with tdi := tdel h.tdi fn }) b

/-- A stream becomes Insecure (R473): it is reported, and functions bound to it issue nothing. -/
def ideInsecure (h stream : Nat) (b : Block) : Block :=
  if !portPresent b h || !(variant b).cipher || 4 < stream || b.hp.insecure.contains (8 * h + stream) then b
  else
    let b := modHp (fun p => { p with insecure := sins (8 * h + stream) p.insecure }) b
    let b := fhRaise (32 * h + 36) (.port h) none false (aerSet h 0x104 28 b)
    each ((portFns b h).filter (fun fn => ideBound b fn stream)) (fun fn b => hostCut fn 0x020 b) b

/-! ### BAR sizes (R436) -/

/-- A write of BAR Size, with PF BAR4 or VF BAR4 (R436, R474), where the port is there and its link is up. `n` is the size code of
PCIe: 2^(20+n) bytes. Address bits below the new size read zero from then on (R435). A write that comes while the BAR is in use is ignored, and counted by the port and by its unit (R33). -/
def barSize (h : Nat) (vf : Bool) (n : Nat) (b : Block) : Block :=
  let pf := 128 * h
  let blocked := if vf then cfgBit b pf 0x368 3 else cfgBit b pf 0x04 1
  let offered := if vf then 8 ≤ n && n ≤ 12 else 10 ≤ n && n ≤ 18
  if !hostUp b h then b
  else if blocked then fbump F.hpEventsWinUr h 1 (ignored .hp (.pf h) none b)
  else if !offered then b
  else
    let off := if vf then 0x3D8 else 0x3C8
    let old := bits (cfgGet b pf off).toNat 13 8
    let b := cfgPut pf off (BitVec.ofNat 32 (n * 2 ^ 8)) b
    let bar := if vf then 0x394 else 0x20
    let b := cfgPut pf bar (cfgGet b pf bar &&& BitVec.ofNat 32 (barLow (20 + n)))
      (cfgPut pf (bar + 4) (cfgGet b pf (bar + 4) &&& BitVec.ofNat 32 (barHigh (20 + n))) b)
    if vf && old != n then each (List.range 120) (fun k b => tdiError (pf + 1 + k) b) b else b

/-! ### BAR4 accesses (R61, R434, R439-R446, R471, R487) -/

/-- The bits of a window's offset (R61). -/
def winBits (b : Block) (fn : Nat) : Nat := barBits b fn - (if fn % 128 = 0 then 6 else 2)

/-- An unsuccessful access that is answered as Unsupported Request (R442, R434). -/
def winUr (fn : Nat) (read aer : Bool) (b : Block) : Block :=
  let b := fbump F.hpEventsWinUr (fn / 128) 1 b
  if read then emitTlp (fn / 128) (.completion fn .ur) b else if aer then aerSet (fn / 128) 0x104 20 b else b

/-- The bytes of posted writes that wait in the landing buffer of a port. -/
def landingBytes (b : Block) (h : Nat) : Nat :=
  b.hp.wins.foldl (fun n e => if e.2.fn / 128 = h && !e.2.read then n + e.2.len else n) 0

/-- The size of the landing buffer of a port (R446). -/
def landingSize : Nat := 4 * 2 ^ 20

/-- What waits in the receive queue of a port (R446). -/
def postQueue (b : Block) (h : Nat) : List Posted := tget [] b.hp.queue h

/-- Does the landing buffer of a port take a request: all but a BAR4 write, and that where it fits (R446)? -/
def postFits (b : Block) (h : Nat) (x : Posted) : Bool :=
  match x with
  | .bar4 _ _ len (some _) => landingBytes b h + len ≤ landingSize
  | _ => true

/-- A request waits in the receive queue of its port, behind what waits there or behind a full landing buffer (R446): `none` where it
does not. Requests keep their order, reads among them, as none of PCIe's passes a posted write (PRESUMED, log entry 135). -/
def postHold (h : Nat) (x : Posted) (b : Block) : Option Block :=
  if hostUp b h && (!(postQueue b h).isEmpty || !postFits b h x) then
    some (modHp (fun p => { p with queue := tput p.queue h (postQueue b h ++ [x]) }) b)
  else none

/-- A BAR4 access is taken (R440): it is refused, or it takes a snapshot of its window and begins. -/
def barTake (fn off len : Nat) (data : Option (List (BitVec 8))) (b : Block) : Block :=
  let read := data.isNone
  let h := fn / 128
  if !hostUp b h || ideOff b fn then b
  else
    let b := hostTlp h b
    if stopped b then (if read then cplAbort fn b else b)
    else if !mseOn b fn || inD3 b h then winUr fn read true b
    else if fn % 128 ≠ 0 ∧ (vfPart b fn).isNone then winUr fn read false b
    else
      let k := winBits b fn
      let i := off / 2 ^ k
      let within := off % 2 ^ k
      match tfind b.hp.windows (64 * fn + i) with
      | none => winUr fn read false b
      | some w =>
        let size := if w.len < 2 ^ k then w.len else 2 ^ k
        if !w.ctl.getLsbD 63 || size < within + (if len = 0 then 1 else len) then winUr fn read false b
        else
          let part := if fn % 128 = 0 then qbits w.ctl 31 28 else (vfPart b fn).getD 0
          let asn := qbits w.ctl 27 16
          let n := b.hp.nextWin
          let after := if read then tkeys (fun _ a => a.fn == fn && !a.read) b.hp.wins else []
          let a : WinAcc := ⟨fn, i, read, off, len, w.base + within, part, asn, qbits w.ctl 55 32, qbits w.ctl 2 1 * 2,
            data.getD [], ⟨w.base + within, len, if read then .read else .write, [], 0, none⟩, none, 0, [], [], none, after, false, false⟩
          let b := modHp (fun p => { p with nextWin := n + 1, wins := tput p.wins n a }) b
          if !(w.ctl.getLsbD (if read then 1 else 2)) then winFail n 0x10 (w.base + within) b else b

/-- A BAR4 access arrives (R440). -/
def barAccess (fn off len : Nat) (data : Option (List (BitVec 8))) (b : Block) : Block :=
  match postHold (fn / 128) (.bar4 fn off len data) b with
  | some b => b
  | none => barTake fn off len data b

/-- A read has not completed within 256 us (R443). -/
def winExpire (n : Nat) (b : Block) : Block :=
  match tfind b.hp.wins n with
  | none => b
  | some a =>
    if !a.read || a.answered then b
    else
      let b := fbump F.hpEventsWinTimeout (a.fn / 128) 1 (cplAbort a.fn b)
      winDrop n (fhRaise (32 * (a.fn / 128) + 37) (.fn a.fn) (vfPart b a.fn) false b)

/-- The landing buffer of a port in use, in units of 64 KiB (R470). -/
def landing (b : Block) (h : Nat) : Nat :=
  let n := landingBytes b h
  let u := (n + 65535) / 65536
  if 64 < u then 64 else u

/-! ### The window table (R437-R440) -/

/-- A write of HP_WIN_CTL that is accepted puts the staged base and length into effect with the new setting (R439); `fn` is
the function whose table it is and `pf` says that its PF writes: a change of a locked VF's table moves its TDI to ERROR (R474). -/
def winCtl (fn w : Nat) (pf : Bool) (ctl : BitVec 64) (b : Block) : Block :=
  let base := (rget b .hpWinBase (64 * fn + w)).toNat
  let len := (rget b .hpWinLen (64 * fn + w)).toNat
  let was := tfind b.hp.windows (64 * fn + w)
  let b := modHp (fun h =>
    { h with windows := tput h.windows (64 * fn + w) ⟨base, len, ctl⟩,
             wins := h.wins.map (fun e => if e.2.fn = fn ∧ e.2.win = w then (e.1, { e.2 with old := true }) else e) }) b
  if pf && fn % 128 != 0 && was != some ⟨base, len, ctl⟩ then tdiError fn b else b

/-- BUSY of a window: an access taken under its previous setting is still there. -/
def winBusy (b : Block) (fn w : Nat) : Bool := b.hp.wins.any (fun e => e.2.fn == fn && e.2.win == w && e.2.old)

/-! ### Link events (R467-R470) -/

/-- The link of a port comes up (R469, R475). -/
def linkUp (h rate width : Nat) (cxl : Bool) (b : Block) : Block :=
  if !portPresent b h || b.hp.perst.contains h then b
  else
    let top := if (variant b).hostMax = 2 then 7 else 6
    let rate := if top < rate then top else rate
    let cx := cxl && fon b F.hpPortCtlCxl h && rate == 6
    let b := modHp (fun p => { p with trained := tput p.trained h width }) b
    let b := fput F.hpPortStatusLstate h 0 <| fput F.hpPortStatusWidth h width <| fput F.hpPortStatusRate h rate <|
      fput F.hpPortStatusProto h (if cx then 2 else 1) <| fput F.hpPortStatusLinkUp h 1 b
    retryFall h (each (portFns b h) (fun fn b => msixFlush fn b) b)

/-- The link of a port is down: PROTO says whether it trains again by itself, and LSTATE reads 5, recovery or other (R470). What waits in
its receive queue is lost with the link (PRESUMED, log entry 135). -/
def linkLost (h proto : Nat) (b : Block) : Block :=
  fput F.hpPortStatusLstate h 5 <| fput F.hpPortStatusWidth h 0 <| fput F.hpPortStatusRate h 0 <|
    fput F.hpPortStatusProto h proto <| fput F.hpPortStatusLinkUp h 0 (modHp (fun p => { p with ltr := srem h p.ltr, queue := tdel p.queue h }) b)

/-! ### What a port does by itself (R463, R464) -/

/-- The latency in ns that a field of PCIe's LTR form holds: ten bits of value and three of scale (PRESUMED, log entry 13). -/
def ltrNs (n : Nat) : Nat := n % 1024 * 2 ^ (5 * (n / 1024 % 8))

/-- Does the block hold work for a port (R463): an item whose requester is on it, or an access of its BAR4? -/
def portWork (b : Block) (h : Nat) : Bool :=
  b.he.items.any (fun e => e.2.fn / 128 == h) || b.hp.wins.any (fun e => e.2.fn / 128 == h)

/-- The LTR message of a port whose host has enabled LTR, where what it last reported no longer holds (R463). -/
def ltrStep (h : Nat) (b : Block) : Block :=
  let work := portWork b h
  if !hostUp b h || inD3 b h || !cfgBit b (128 * h) 0x88 10 || work == b.hp.ltr.contains h then b
  else
    emitTlp h (.ltr h (if work then 50000 else ltrNs ((cfgGet b (128 * h) 0x35C).toNat % 2 ^ 16)))
      (hostWake h (modHp (fun p => { p with ltr := if work then sins h p.ltr else srem h p.ltr }) b))

/-- A port that has narrowed widens again once its queue exceeds 64 KiB (R464, log entry 110). -/
def l0pWiden (h : Nat) (b : Block) : Block :=
  let full := tget 16 b.hp.trained h
  if hostUp b h && fget b F.hpPortStatusLstate h ≤ 1 && fget b F.hpPortStatusWidth h < full && 65536 < landingBytes b h then
    fput F.hpPortStatusLstate h 0 (fput F.hpPortStatusWidth h full b)
  else b

/-- What follows at the host ports from the work that the block holds. -/
def portsRun (b : Block) : Block := eachN 2 (fun h b => ltrStep h (l0pWiden h b)) b

end Sys2Proof.Machine
end

