-- ==== Sys2Proof/Machine/Pitch.lean ====
section
/-!
DEFINITION. The pitch sequencer (R383-R424): the time state, the phases of a pitch with its lag, the release and the end of
rounds, and the loading and swapping of a schedule. The instant at which a command of the sequencer acts is the one that the
spec gives, or later: the domain time is moved on to it, and a step of the domain time makes lag (R385).
-/
namespace Sys2Proof.Machine

open Sys2Proof

/-! ### The time state (R386) -/

def timeState (b : Block) : Nat := fget b F.psStatusTimeState 0

/-- Enter a time state; source 1,858 tells of a change (R578). Releases that UNLOCKED stopped resume at the next roped phase. -/
def timeEnter (st : Nat) (b : Block) : Block :=
  if timeState b = st then b
  else sgAssert 1858 (fput F.psStatusTimeState 0 st (modPs (fun p => { p with relock := st == 0 && (timeState b == 2 || p.relock) }) b))

/-- A limit of R386 of which 0 is treated as 1 (R389). -/
def timeLimit (b : Block) (f : Fld) : Nat := if fget b f 0 = 0 then 1 else fget b f 0

/-- Is a PTP domain declared on a part with a fabric (R386)? -/
def ptpDeclared (b : Block) : Bool := !noFabric b && dict b 0x2800 0 != 0xFF

/-- From LOCKED to HOLDOVER, with a corrected event (R386). -/
def timeHoldover (b : Block) : Block :=
  if timeState b = 0 then fhNote 232 .none none (timeEnter 1 b) else b

/-- A Sync has been received with its offset (R386, R390). -/
def timeReport (time : Nat) (off : Int) (b : Block) : Block :=
  let b := timeTo time b
  let b := fput F.psOffsetOffset 0 (off % 2 ^ 32).toNat b
  let good := off.natAbs ≤ fget b F.psTimeCtlLimit 0
  let n := if good then satAdd 65535 (fget b F.psOffsetSyncs 0) 1 else 0
  let b := modPs (fun p => { p with misses := 0 }) (fput F.psOffsetSyncs 0 n b)
  if !ptpDeclared b then timeEnter 3 b
  else if !good then timeHoldover b
  else if timeLimit b F.psTimeCtlRelock ≤ n then timeEnter 0 b
  else b

/-- A sync interval has passed with no Sync. -/
def timeMiss (b : Block) : Block :=
  let b := modPs (fun p => { p with misses := p.misses + 1 }) b
  if timeLimit b F.psTimeCtlMiss ≤ b.ps.misses then timeHoldover b else b

/-- HOLDOVER has lasted its limit: releases stop (R386). -/
def timeUnlock (b : Block) : Block :=
  if timeState b = 1 then fhRaise 233 .none none false (timeEnter 2 b) else b

/-! ### PTP messages and QP 0 (R383, R384) -/

/-- A received PTP message is handed on with its timestamp, corrected by the port's ingress latency, after replay has taken its frame
where it has a number (R369). One that fails its FCS or UDP checksum is discarded and counted (R325, R381). -/
def ptpRx (f : PtpFrame) (b : Block) : Block :=
  if !portUp b f.port then b
  else if (f.udpDst = 319 ∨ f.udpDst = 320) ∧ f.toSelf then
    let (ok, b) := llrRx f.port f.shim f.fcsOk b
    if !ok then b
    else if !f.fcsOk || !f.udpOk then fbump F.ftRxErrorsCrc 0 1 (tcCount (f.port / 2) 0x044 none 1 b)
    else emit (.ptp f.port f.kind f.payload (if PtpKind.isEvent f.kind then some (b.now - dict b 0x2104 f.port) else none)) b
  else badFrame f.port f.shim b

/-- The management core sends a message of class MG on a port (R318, R383). -/
def mgSend (p : Nat) (m : MgMsg) (b : Block) : Block :=
  if !portUp b p then b
  else
    match m with
    | .ptp k node payload => linkOut (.ptp ⟨p, k, node, payload, none⟩) b
    | .qp0 node payload =>
      let h := { hdrZero with cls := clsMg, epoch := epochNow b % 2, type := tyMgmt, flags := flFirst + flLast, srcNode := selfNode b, dstNode := node,
                              payloadLen := payload.length, msgLen := payload.length }
      frameOut (mkFrame p 0 (dict b 0x2120 0) h payload []) b

/-! ### Pitches (R391-R394, R419-R421) -/

def Sched.slack (s : Sched) : Nat := s.len - (s.guard + s.roped + s.free)

/-- The nominal end of the roped phase of the current pitch. -/
def ropedNominal (b : Block) (s : Sched) : Nat := b.ps.start + s.guard + s.roped

/-- The nominal pitch of a round. -/
def Card.nominal (s : Sched) (c : Card) (k : Nat) : Nat := (k - 1) * s.cycle + c.pitch

/-- The rounds of every card whose nominal pitch has come exist. -/
def roundsDue (s : Sched) (b : Block) : Block :=
  each s.cards (fun e b => if e.2.valid && e.2.pitch ≤ b.ps.n then
    ensureRound (schedGen b) e.1 ((b.ps.n - e.2.pitch) / s.cycle + 1) b else b) b

/-- Pitch `n` of a schedule begins at domain time `at_`, or at once where that has passed; its lag is what it is behind its
nominal start (R420). An armed epoch switch happens at this boundary (R358). -/
def pitchBegin (s : Sched) (n at_ : Nat) (b : Block) : Block :=
  let b := timeTo at_ b
  let b := modPs (fun p => { p with n := n, start := b.now, lag := b.now - (s.origin + n * s.len), ropedEnd := none,
                                    ext := false, phase := 0, slackLen := 0 }) b
  roundsDue s (epochSwitch true b)

/-- The instant at which the pitch after the current one begins (R420): none before its slack phase has begun. -/
def pitchNext (b : Block) (s : Sched) : Option Nat :=
  if b.ps.phase = 3 then b.ps.ropedEnd.map (fun e => e + s.free + b.ps.slackLen) else none

/-- Does the staged schedule take over at the start of the next pitch (R413)? -/
def swapNext (b : Block) (s : Sched) : Bool :=
  match b.ps.staged with
  | none => false
  | some t => t.origin ≤ s.origin + (b.ps.n + 1) * s.len

/-- The next pitch starts. Where the staged schedule takes over, SCHEDULE_ACTIVATE stands for it. -/
def pitchStart (b : Block) : Block :=
  match b.ps.sched with
  | none => b
  | some s =>
    match pitchNext b s with
    | none => b
    | some t => if swapNext b s then b else pitchBegin s (b.ps.n + 1) t b

/-- The roped phase starts after the guard phase (R392). -/
def ropedStart (b : Block) : Block :=
  match b.ps.sched with
  | none => b
  | some s =>
    if b.ps.phase = 0 then modPs (fun p => { p with phase := 1, relock := false }) (timeTo (b.ps.start + s.guard) b) else b

/-- Does a packet of an item wait for a port, in a cipher half or for a usable label (R376, R615)? -/
def itemUnported (b : Block) (i : Nat) : Bool :=
  b.ce.halves.any (fun e => e.2.outs.any (fun u => match u with | .sent o _ _ f => o == .item i && !hdrFlag f.hdr flResend | _ => false))
    || b.ft.strays.any (fun f => f.hdr.type ≤ 4 && !hdrFlag f.hdr flResend &&
      (match tfind b.ft.qps f.hdr.srcQp with | some q => q.sent.any (fun s => s.psn == f.hdr.psn && s.owner == .item i) | none => false))

/-- Has an item handed its last first transmission to a fabric port (R419)? Its fence counts where it goes to the peer. -/
def itemSentAll (b : Block) (i : Nat) : Bool :=
  match tfind b.he.items i with
  | none => true
  | some it =>
    let data := (it.stage != .waiting && it.stage != .active) || (it.begun && dLength it.desc ≤ it.cons)
    let far := match fencePlace it with | some (.remote _ _) => dFence it.desc | _ => false
    let early := it.stage == .active || it.stage == .draining || it.stage == .fence
    let unsent := it.stage == .fenceWrite
      && !(match tfind b.ft.qps (dQp it.desc) with | some q => q.sent.any (fun s => s.owner == .item i) | none => true)
    data && !(far && (early || unsent)) && !itemUnported b i

/-- Is the roped work of the current pitch at an end (R419)? -/
def ropedDone (b : Block) (s : Sched) : Bool :=
  b.ps.rounds.all (fun r =>
    r.abandoned || r.settled ||
      match r.released with
      | some _ => r.live.all (itemSentAll b)
      | none =>
        r.gen != schedGen b ||
          (match tfind s.cards r.card with | some c => b.ps.n < c.nominal s r.k | none => true))

/-- A slack window begins (R421): the losses of roped packets that earlier pitches detected are to be sent again. -/
def slackWindow (b : Block) : Block :=
  modFt (fun t => { t with qps := t.qps.map (fun e => (e.1, { e.2 with sent := e.2.sent.map (fun s =>
    match s.lossPitch with
    | some m => if m < b.ps.n then { s with resend := true, lossPitch := none } else s
    | none => s) })) }) b

/-- The roped phase has reached its nominal end with roped work unfinished: its extension begins (R419, R421). -/
def ropedExtend (b : Block) : Block :=
  match b.ps.sched with
  | none => b
  | some s =>
    if b.ps.phase != 1 || b.ps.ext || ropedDone b s then b
    else
      let b := timeTo (ropedNominal b s) b
      let b := fbump F.psEventsExtended 0 1 (tcCount 6 0x061 none 1 b)
      slackWindow (modPs (fun p => { p with ext := true }) b)

/-- The roped phase ends at the later of its nominal end and the end of the roped work (R419). -/
def ropedStop (b : Block) : Block :=
  match b.ps.sched with
  | none => b
  | some s =>
    if b.ps.phase != 1 || !ropedDone b s then b
    else
      let b := timeTo (ropedNominal b s) b
      modPs (fun p => { p with phase := 2, ext := false, ropedEnd := some b.now }) b

/-- The declared limits in MHz; F_MIN is at most F_MAX (R706). -/
def fMax (b : Block) : Nat := fget b F.ckLimitsFMax 0
def fMin (b : Block) : Nat := if fMax b < fget b F.ckLimitsFMin 0 then fMax b else fget b F.ckLimitsFMin 0

/-- The rate of R411 in MB/s, at the declared minimum tile frequency. -/
def ropedRate (b : Block) : Nat :=
  let v := variant b
  let fab := (List.range v.fabPorts).foldl (fun n p => n + (if v.fabRate = 2 ∧ dict b 0x2101 p = 1 then 200000 else 96300)) 0
  let tiles := 12 * 256 * fMin b
  if fab < tiles then fab else tiles

/-- The payload bytes of the roped packets that are lost and not yet sent again. -/
def ropedPending (b : Block) : Nat :=
  b.ft.qps.foldl (fun n e => e.2.sent.foldl (fun n s =>
    if s.roped && !s.rcvd && (s.resend || s.lossPitch.isSome) then n + s.body.length else n) n) 0

/-- Q_n of R420 in ns, rounded up: the payload that is pending at the rate of R411 (DEDUCED, log entry 24). -/
def resendTime (b : Block) : Nat := if ropedRate b = 0 then 0 else (ropedPending b * 1000 + ropedRate b - 1) / ropedRate b

/-- The length of the slack phase (R420): resends first, then catch-up. -/
def slackGive (slack lag q : Nat) : Nat :=
  let need := if q < slack then q else slack
  if need < slack - lag then slack - lag else need

/-- The slack phase starts after the free phase (R420, R421). -/
def slackStart (b : Block) : Block :=
  match b.ps.sched, b.ps.ropedEnd with
  | some s, some e =>
    if b.ps.phase != 2 then b
    else
      let b := timeTo (e + s.free) b
      let lag := b.ps.lag + (e - ropedNominal b s)
      slackWindow (modPs (fun p => { p with phase := 3, slackLen := slackGive s.slack lag (resendTime b) }) b)
  | _, _ => b

/-! ### Release and abandonment (R405, R422) -/

/-- Is the predecessor of a round complete at the node? One that has been forgotten was. -/
def depMet (b : Block) (dep k : Nat) : Bool :=
  dep == 0 ||
    match findRound b (schedGen b) (dep - 1) k with
    | some r => r.complete && !r.abandoned
    | none => k < tget 1 b.ps.nextK (dep - 1)

/-- Do the conditions of R405 hold for a round, its release instant apart? -/
def roundReady (b : Block) (s : Sched) (c : Card) (r : Round) : Bool :=
  b.ps.phase == 1 && c.nominal s r.k ≤ b.ps.n && (!c.send || r.items.length == c.sendItems) && r.due
    && depMet b c.dep0 r.k && depMet b c.dep1 r.k && timeState b ≤ 1 && !b.ps.relock

/-- The lowest round of a card in the active schedule that has neither released nor been abandoned. -/
def roundWaiting (b : Block) (card : Nat) : Option Round :=
  (b.ps.rounds.filter (fun r => r.gen == schedGen b && r.card == card && r.released.isNone && !r.abandoned)).foldl
    (fun m r => match m with | some x => if r.k < x.k then some r else m | none => some r) none

/-- Open the gate of the items of a round (R405). -/
def itemsRelease (l : List Nat) (b : Block) : Block := each l (fun i b => modItem i (fun it => { it with released := true }) b) b

/-- A round releases, where its conditions hold (R405); under FORCE_INORDER it runs in order from then on (R310, R317). -/
def roundRelease (card : Nat) (b : Block) : Block :=
  match cardAt b (schedGen b) card, roundWaiting b card with
  | some (s, c), some r =>
    if !roundReady b s c r then b
    else
      let b := timeTo (b.ps.start + s.guard + c.offset) b
      let b := modRound r.gen card r.k (fun x => { x with released := some b.now }) b
      let b := if c.recv && !r.complete && fon b F.cxPartCtlForceInorder c.part then inOrderEnter r.gen card r.k none b else b
      itemsRelease r.items b
  | _, _ => b

/-- The instant of abandonment of a round (R422). -/
def abandonAt (s : Sched) (c : Card) (k : Nat) : Nat :=
  nominalAt s c k + ((if s.abandon = 0 then 1 else s.abandon) + 1) * s.len

/-- A round that has not settled in time is abandoned (R422, R423); a round of the schedule before goes first. -/
def roundAbandon (card k : Nat) (b : Block) : Block :=
  let late := fun (r : Round) => r.card == card && r.k == k && !r.settled && !r.abandoned &&
    match cardAt b r.gen card with
    | some (s, c) => abandonAt s c k ≤ b.now
    | none => false
  let old := b.ps.rounds.find? (fun r => r.gen != schedGen b && late r)
  match old.or (b.ps.rounds.find? late) with
  | none => b
  | some r => roundAbandonStep 4097 r.gen card k b

/-! ### Loading and swapping a schedule (R411-R415) -/

def swapPending (b : Block) : Bool := fon b F.psSwapCtlPending 0
def swapRetiring (b : Block) : Bool := fon b F.psSwapCtlRetiring 0

/-- Arm a swap (R413): `none` where it is ignored (R415). -/
def swapArm (b : Block) : Option Block :=
  if !(variant b).pitch || swapPending b || swapRetiring b then none
  else some (modPs (fun p => { p with checking := true }) (fput F.psSwapCtlPending 0 1 b))

/-- A card from its eight quadwords (R398). -/
def cardOf (q : List (BitVec 64)) : Card :=
  let w := fun i => (q.getD i 0#64).toNat
  { valid := bit (w 0) 63, send := bit (w 0) 62, recv := bit (w 0) 61, rfence := bit (w 0) 60, part := bits (w 0) 59 56,
    pitch := bits (w 0) 47 32, offset := bits (w 0) 31 0, myRank := bits (w 1) 63 52, contrib := bits (w 1) 51 40,
    sendItems := bits (w 1) 39 24, book := bits (w 1) 23 0, listAt := alignDown (bits (w 2) 48 0) 64,
    dstBase := bits (w 3) 48 0, dstLen := bits (w 4) 63 32, dep0 := bits (w 4) 31 16, dep1 := bits (w 4) 15 0,
    first := w 5, alt := w 6, rfAddr := alignDown (bits (w 7) 48 0) 8 }

/-- Are the fields of a card that R398 does not list zero? They must be in every card of the array. -/
def cardZero (q : List (BitVec 64)) : Bool :=
  let c := cardOf q
  let w := fun i => (q.getD i 0#64).toNat
  bits (w 0) 55 48 == 0 && w 2 == c.listAt && w 3 == c.dstBase && w 7 == c.rfAddr

/-- Does a valid card break its format (R398, R412 FORMAT)? -/
def cardBad (b : Block) (s : Sched) (q : List (BitVec 64)) : Bool :=
  let c := cardOf q
  let role := (c.recv || !c.rfence)
    && (c.send || (c.myRank == 0 && c.sendItems == 0 && c.book == 0 && c.first == 0 && c.alt == 0))
    && (c.recv || (c.contrib == 0 && c.listAt == 0 && c.dstBase == 0 && c.dstLen == 0))
  let counts := (!c.send || (1 ≤ c.myRank && 1 ≤ c.sendItems))
    && (!c.recv || (1 ≤ c.contrib && c.dstBase % 64 == 0 && c.dstLen % 64 == 0 && c.dstLen != 0))
  !(role && counts && c.pitch < s.cycle && c.offset < s.roped && partPresent b c.part)

/-- Expand a contributor list to `n` nodes (R399): none where it cannot be. The second part is what follows the entries read.
`fuel` bounds the entries read. -/
def listExpand (fuel own cell n : Nat) (l : List Nat) (out : List Nat) : Option (List Nat × List Nat) :=
  match fuel with
  | 0 => none
  | m + 1 =>
    if out.length = n then some (out, l)
    else if n < out.length then none
    else
      match l with
      | [] => none
      | e :: r =>
        if e < 0x7FFF then listExpand m own cell n r (out ++ [e])
        else if 0x7FFF < e then none
        else
          match r with
          | f :: c :: r =>
            if c ≠ 0 then
              (if 0x7FFE < f + c - 1 then none else listExpand m own cell n r (out ++ (List.range c).map (f + ·)))
            else if f = 0 then
              listExpand m own cell n r (out ++ ((List.range (cell + 1)).map (own / 512 * 512 + ·)).filter (· != 0x7FFF))
            else none
          | _ => none

/-- The first card of a list that passes a test. -/
def cardFirst (l : Tbl Card) (p : Nat → Card → Bool) : Option Nat := tfirst p l

/-- Can every 64 B line of a range of a partition's local map be read (R59, R484)? -/
def linesRead (b : Block) (part off len : Nat) : Bool :=
  (List.range ((len + 63) / 64)).all (fun i => (localPlace b part (off + 64 * i) 64).isSome)

/-- The eight quadwords of card `i` of the shadow array; none where the array cannot be read there (R412, R416). -/
def cardWords (b : Block) (d : SchedData) (i : Nat) : List (BitVec 64) :=
  let at_ := fget b F.psSchedBaseBase 0 * 64
  if linesRead b (fget b F.psSchedBasePartition 0) (at_ + 64 * i) 64 then d.cards.getD i [] else []

/-- What a load reads (R416): the cards and lists that lie in the depot are the bytes that it holds, and those elsewhere are what the
memory answers, `d`. -/
def schedRead (b : Block) (depot : List Host.Cell) (d : SchedData) : SchedData :=
  let part := fget b F.psSchedBasePartition 0
  let at_ := fget b F.psSchedBaseBase 0 * 64
  let cards := (List.range (Nat.min 4096 (fget b F.psSchedBaseCount 0))).map (fun i =>
    match localPlace b part (at_ + 64 * i) 64 with
    | some (.depot x) => leQuads 8 (memRead depot (depotAt part x) 64)
    | _ => d.cards.getD i [])
  let lists := ((List.range cards.length).zip cards).filterMap (fun e =>
    let c := cardOf e.2
    if e.2 = [] ∨ !c.valid ∨ !c.recv then none
    else
      match localPlace b c.part c.listAt 64 with
      | some (.depot x) =>
        let bytes := memRead depot (depotAt c.part x) (6 * c.contrib)
        some (e.1, some ((List.range (3 * c.contrib)).map (fun k => leNat ((bytes.drop (2 * k)).take 2))))
      | _ => d.lists.find? (fun x => x.1 == e.1))
  { d with cards := cards, lists := lists }

/-- The shadow schedule as its registers stand (R395-R397), with the cards that a load has read. A list that lies in part in
a hole of its card's partition cannot be read (R412, R416). -/
def shadowSched (b : Block) (d : SchedData) : Sched :=
  let n := fget b F.psSchedBaseCount 0
  let n := if n < 4096 then n else 4096
  let cards := (List.range n).filterMap (fun i => match cardWords b d i with
    | [] => none
    | q => if (cardOf q).valid then some (i, cardOf q) else none)
  let lists := cards.filterMap (fun e =>
    if e.2.recv then
      (match d.lists.find? (fun x => x.1 == e.1) with
       | some (_, some l) =>
         (match listExpand 4097 (selfNode b) (fget b F.idNodeCellSizeM1 0) e.2.contrib l [] with
          | some (x, rest) => if linesRead b e.2.part e.2.listAt (2 * (l.length - rest.length)) then some (e.1, x) else none
          | none => none)
       | _ => none)
    else none)
  { origin := 0, len := fget b F.psPitchLenLen 0 * 1000, guard := fget b F.psPhasesGuard 0, roped := fget b F.psPhasesRoped 0,
    free := fget b F.psPhasesFree 0, rep := fon b F.psCycleRepeat 0, abandon := fget b F.psCycleAbandon 0,
    cycle := (let c := fget b F.psCycleCycle 0; if c = 0 then 65536 else c), cards := cards, lists := lists }

/-- The booking of a cycle position in bytes (R411). -/
def bookAt (s : Sched) (pos : Nat) : Nat :=
  s.cards.foldl (fun n e => if e.2.send && e.2.pitch == pos then n + e.2.book * 4096 else n) 0

/-- The first cause for which a shadow schedule is refused, with its card (R412); 0 where it is accepted. -/
def schedError (b : Block) (d : SchedData) (s : Sched) : Nat × Nat :=
  let n := fget b F.psSchedBaseCount 0
  let n := if n < 4096 then n else 4096
  let bad := fun i => match cardWords b d i with | [] => true | q => !cardZero q || ((cardOf q).valid && cardBad b s q)
  -- one offset names the same memory for every partition on a compute die, and elsewhere for one partition only
  let common := fun (c e : Card) => c.part == e.part || (match localPlace b c.part c.dstBase c.dstLen with | some (.die _ _) => true | _ => false)
  let clash := fun i (c : Card) => s.cards.any (fun e => e.1 < i && e.2.recv && e.2.pitch == c.pitch
    && overlaps c.dstBase c.dstLen e.2.dstBase e.2.dstLen && common c e.2)
  let range := fun i (c : Card) => c.recv && ((localPlace b c.part c.dstBase c.dstLen).isNone || clash i c
    || (c.rfence && (localPlace b c.part c.rfAddr 8).isNone))
  let depBad := fun (c : Card) (dep : Nat) => dep != 0 &&
    match tfind s.cards (dep - 1) with | some x => c.pitch ≤ x.pitch | none => true
  if s.len < 4000 ∨ 1024000 < s.len ∨ s.guard < 125 ∨ s.roped < 1000 ∨ s.len < s.guard + s.roped + s.free then (1, 0)
  else
    match (List.range n).find? bad with
    | some i => (2, i)
    | none =>
      match cardFirst s.cards (fun i c => c.recv && (tfind s.lists i).isNone) with
      | some i => (3, i)
      | none =>
        match cardFirst s.cards range with
        | some i => (4, i)
        | none =>
          match cardFirst s.cards (fun _ c => depBad c c.dep0 || depBad c c.dep1) with
          | some i => (5, i)
          | none =>
            if s.cards.any (fun e => s.roped * ropedRate b < bookAt s e.2.pitch * 1000) then (6, 0)
            else if 65536 < s.lists.foldl (fun n e => n + e.2.length) 0 then (7, 0)
            else (0, 0)

/-- The instant O of R413 for a schedule that has been checked. -/
def swapOrigin (b : Block) : Nat :=
  let t := if fget b F.psSwapAtAt 0 < b.now then b.now else fget b F.psSwapAtAt 0
  match b.ps.sched with
  | some s => s.origin + alignUp (t - s.origin) s.len
  | none => alignUp t 1000

/-- The check of an armed swap ends (R412, R413). -/
def swapChecked (data : SchedData) (depot : List Host.Cell) (b : Block) : Block :=
  if !b.ps.checking then b
  else
    let d := schedRead b depot data
    let b := readEvents d.events b
    let s := shadowSched b d
    let e := schedError b d s
    let b := modPs (fun p => { p with checking := false }) b
    if e.1 = 0 then modPs (fun p => { p with staged := some { s with origin := swapOrigin b } }) b
    else
      sgAssert 1860 <| fhNote 235 .none none <| fput F.psSwapCtlErrCard 0 e.2 <| fput F.psSwapCtlErr 0 e.1 <|
        fput F.psSwapCtlPending 0 0 b

/-- Does a round of an older schedule hold RETIRING at 1 (R413)? -/
def roundRetires (b : Block) (r : Round) : Bool :=
  r.gen != schedGen b && r.released.isSome && !r.settled && !r.abandoned

/-- Rounds of the old schedule have all settled or been abandoned (R413 step 4). -/
def retireCheck (b : Block) : Block :=
  if !swapRetiring b || b.ps.rounds.any (roundRetires b) then b
  else
    let g := schedGen b
    modPs (fun p => { p with old := none, rounds := p.rounds.filter (fun r => r.gen == g || !r.live.isEmpty) })
      (fput F.psSwapCtlRetiring 0 0 b)

/-- An item of a round that will not release joins the new schedule, or fails (R402, R414). -/
def rejoin (i : Nat) (b : Block) : Block :=
  match tfind b.he.items i with
  | none => b
  | some it =>
    let b := joinRound i (dCard it.desc - 1) b
    match tfind b.he.items i with
    | some x => if x.status = 0x061 ∧ it.begun then itemFail i 0x061 0 (modItem i (fun x => { x with status := 0 }) b) else b
    | none => b

/-- The losses of roped packets that pitches before a swap detected: any slack window of the new schedule is a later one (R421). -/
def lossesDue (b : Block) : Block :=
  modFt (fun t => { t with qps := t.qps.map (fun e => (e.1, { e.2 with sent := e.2.sent.map (fun s =>
    if s.lossPitch.isSome then { s with resend := true, lossPitch := none } else s) })) }) b

/-- The staged schedule becomes active at O (R413, R414): at once where none is active, and otherwise at the start of the
pitch that stands at that boundary. -/
def swapActivate (b : Block) : Block :=
  match b.ps.staged with
  | none => b
  | some t =>
    let at_ : Option Nat := match b.ps.sched with
      | none => some t.origin
      | some s => if swapNext b s then pitchNext b s else none
    match at_ with
    | none => b
    | some a =>
      let g := schedGen b
      let waiting := b.ps.rounds.filter (fun r => r.gen == g && r.released.isNone && !r.abandoned)
      let b := each waiting (fun r b => match cardAt b g r.card with
        | some (_, c) => if c.recv then roundEnd g r.card r.k b else modRound g r.card r.k (fun x => { x with abandoned := true }) b
        | none => b) b
      let b := rput .psPitchLenAct 0 (rget b .psPitchLen 0) <| rput .psPhasesAct 0 (rget b .psPhases 0) <|
        rput .psCycleAct 0 (rget b .psCycle 0) b
      let b := fput F.psSwapCtlGen 0 ((g + 1) % 65536) (fput F.psSwapCtlPending 0 0 b)
      let b := modPs (fun p => { p with
        old := p.sched, sched := some t, staged := none, nextK := []
        rounds := p.rounds.filter (fun r => r.released.isSome || (r.abandoned && !r.live.isEmpty && !waiting.any (fun w => w.card == r.card && w.k == r.k && w.gen == r.gen))) }) b
      let b := lossesDue b
      let b := fput F.psSwapCtlRetiring 0 (b2n (b.ps.rounds.any (roundRetires b))) b
      let b := pitchBegin t 0 a b
      let b := each waiting (fun r b => each r.live rejoin b) b
      retireCheck (sgAssert 1859 b)

/-! ### What the registers report (R425, R427) -/

/-- The current round of a card (R427): from the number `k` on, the first that has not given way to its successor. That is the first one
that is not over, or where all before it are, the last one whose pitch's nominal start has come. -/
def roundNow (b : Block) (s : Sched) (c : Card) (card k : Nat) : Nat :=
  let open_ := (b.ps.rounds.filter (fun r => r.gen == schedGen b && r.card == card && k ≤ r.k && !r.settled && !r.abandoned)).foldl
    (fun m r => Nat.min m r.k) (Nat.max k (tget 1 b.ps.nextK card))
  let pitch := (b.now - s.origin) / s.len
  let begun := if pitch < c.pitch ∨ b.now < s.origin then 0 else (pitch - c.pitch) / s.cycle + 1
  if s.rep then Nat.min open_ (Nat.max k begun) else k

/-- The value of PS_CARD_STATUS for a card (R427). -/
def cardStatus (b : Block) (card : Nat) : BitVec 64 :=
  match cardAt b (schedGen b) card with
  | none => 0#64
  | some (s, c) =>
    let g := schedGen b
    let mine := b.ps.rounds.filter (fun r => r.gen == g && r.card == card)
    let first : Nat := match mine with | r :: _ => r.k | [] => tget 1 b.ps.nextK card
    let rel := mine.foldl (fun m r => if r.released.isSome && m < r.k then r.k else m) (if 1 < first then first - 1 else 1)
    let k := roundNow b s c card rel
    let st := match findRound b g card k with
      | some r =>
        if r.settled then (if s.rep then 3 else 5) else if r.abandoned then 4 else if r.released.isSome then 2 else 1
      | none => if k < tget 1 b.ps.nextK card then 3 else 1
    let bound := match roundWaiting b card with | some r => r.items.length | none => 0
    let late := match (mine.filter (·.settled)).getLast? with | some r => r.late | none => false
    qset (qset (qset (qset 0#64 63 61 st) 60 60 (b2n late)) 47 32 bound) 31 0 k

/-- The value of PS_STATUS (R425). -/
def pitchStatus (b : Block) : BitVec 64 :=
  let lag := if b.ps.lag / 10 < 2 ^ 26 then b.ps.lag / 10 else 2 ^ 26 - 1
  qset (qset (qset (qset (qset (rget b .psStatus 0) 61 60 b.ps.phase) 59 59 (b2n b.ps.ext)) 58 58 (b2n b.ps.sched.isSome))
    57 32 lag) 31 0 b.ps.n

end Sys2Proof.Machine
end

