-- ==== Sys2Proof/Machine/Clk.lean ====
section
/-!
DEFINITION. Clocks, thermal and supply events, gating (R697-R714, R722-R724) and the ramp governor (R715-R721).
-/
namespace Sys2Proof.Machine

open Sys2Proof

/-! ### Tile frequency (R703-R706) -/

/-- A number held between two bounds. -/
def clamp (lo hi x : Nat) : Nat := if x < lo then lo else if hi < x then hi else x

def tileTarget (b : Block) (t : Nat) : Nat := clamp (fMin b) (fMax b) (fget b F.ckTileTarget t)
def tileCap (b : Block) (t : Nat) : Nat := tget (fMax b) b.ck.caps t

/-- The tiles next to a tile on the mesh (R20). -/
def neighbours (t : Nat) : List Nat := (List.range 12).filter (fun u => hops t u == 1)

/-- The effective frequency that is requested for a tile (R703): within 2:1 of each neighbour's current one. -/
def tileWant (b : Block) (t : Nat) : Nat :=
  let f := if tileCap b t < tileTarget b t then tileCap b t else tileTarget b t
  (neighbours t).foldl (fun f u =>
    let e := fget b F.ckTileEffective u
    clamp ((e + 1) / 2) (2 * e) f) (clamp (fMin b) (fMax b) f)

/-- Has the block come as far as configuration ready (R709)? -/
def started (b : Block) : Bool := fget b F.ckStartPhase 0 == 5

/-- A tile takes its effective frequency. -/
def tileSet (t : Nat) (b : Block) : Block :=
  if t < 12 ∧ started b then fput F.ckTileEffective t (tileWant b t) b else b

/-! ### Temperatures (R702, R722, R723) -/

def tripAt (b : Block) : Nat := b.fuses.trip % 256
/-- THROTTLE as it acts (R724). -/
def throttleAt (b : Block) : Nat :=
  if tripAt b - 5 < fget b F.ckThermalThrottle 0 then tripAt b - 5 else fget b F.ckThermalThrottle 0

/-- A tile reports its junction temperature. A neighbour that has reported none is not compared (DESIGN CHOICE, log
entry 25). -/
def tempReport (t c : Nat) (b : Block) : Block :=
  if 12 ≤ t then b
  else
    let b := fput F.ckTileTemp t (if c < 255 then c else 255) b
    let near := (neighbours t).filter (fun u => fget b F.ckTileTemp u != 0)
    let b := if near.any (fun u => fget b F.ckTileTemp u + 30 < c) then fhNote (177 + 2 * t) (.tile t) none b else b
    let b := each (near.filter (fun u => c + 30 < fget b F.ckTileTemp u)) (fun u b => fhNote (177 + 2 * u) (.tile u) none b) b
    let b :=
      if throttleAt b ≤ c && !b.ck.hot.contains t then
        fbump F.ckThermalThrottles 0 1 (modCk (fun k => { k with hot := sins t k.hot }) b)
      else if c + 5 ≤ throttleAt b then modCk (fun k => { k with hot := srem t k.hot }) b
      else b
    if tripAt b ≤ c then fhRaise 248 (.tile t) none false b else b

/-- A step of a tile's thermal cap (R722): down while it is hot, up once it is 5 °C below THROTTLE. -/
def throttleStep (t : Nat) (b : Block) : Block :=
  let c := fget b F.ckTileTemp t
  let put := fun n => modCk (fun k => { k with caps := tset (fMax b) k.caps t n }) b
  if 12 ≤ t then b
  else if throttleAt b ≤ c then put (if tileCap b t < fMin b + 100 then fMin b else tileCap b t - 100)
  else if c + 5 ≤ throttleAt b then put (if fMax b < tileCap b t + 100 then fMax b else tileCap b t + 100)
  else b

/-- A supply has left its island's range (R723): islands 0 to 11 are the tiles', 12 the uncore, 13 always-on. -/
def supplyFault (island : Nat) (b : Block) : Block :=
  if island < 14 then fhRaise 249 (if island < 12 then .tile island else .none) none false b else b

/-! ### Gating (R713, R714) -/

/-- Does a tile hold nothing that needs its core? -/
def tileIdle (b : Block) (t : Nat) : Bool :=
  !(b.he.items.any (fun e => e.2.tile == t)) && !(b.ft.rx.any (fun e => e.2.tile == t))
    && !(b.tu.walks.any (fun e => e.2.tile == t)) && (tget [] b.tc.bufs t).isEmpty
    && (halfOf b (halfTx t)).outs.isEmpty && (halfOf b (halfRx t)).outs.isEmpty

def tileGate (t : Nat) (b : Block) : Block := if t < 12 && tileIdle b t then fput F.ckTileGated t 1 b else b
def tileWake (t : Nat) (b : Block) : Block := if t < 12 then fput F.ckTileGated t 0 b else b

/-- Does a depot channel serve a request? -/
def channelBusy (b : Block) (c : Nat) : Bool :=
  b.txns.any (fun e => match e.2.place, e.2.use with
    | .depot _, .mirror _ level => mirrorChannel e.2.part e.2.asn level (e.2.va / (8 * levelSpan level)) == c
    | .depot x, _ => (depotBlocks b x e.2.len).any (fun k => k.1 == c)
    | _, _ => false)

def channelDown (c : Nat) (b : Block) : Block :=
  if b.fuses.channels.contains c && !channelBusy b c then modCk (fun k => { k with down := sins c k.down }) b else b

/-- Work wakes the tiles and channels that it needs. -/
def wakeAll (b : Block) : Block :=
  let b := eachN 12 (fun t b => if fon b F.ckTileGated t && !tileIdle b t then tileWake t b else b) b
  if b.ck.down.any (channelBusy b) then modCk (fun k => { k with down := k.down.filter (fun c => !channelBusy b c) }) b else b

/-! ### The ramp governor (R715-R719). Power is in microwatts. -/

/-- Quarters of a watt in microwatts. -/
def quarter : Nat := 250000

def diePresent (b : Block) (d : Nat) : Bool := fon b F.idCmemDiePresent d
def diesPresent (b : Block) : List Nat := (List.range 4).filter (diePresent b)
/-- The work power and the most ballast of a die, as it last reported them. -/
def dieWork (b : Block) (d : Nat) : Nat := (tget (0, 0, 0) b.gov.reports d).1 * quarter
def dieMost (b : Block) (d : Nat) : Nat := (tget (0, 0, 0) b.gov.reports d).2.1 * quarter

/-- A die reports its power (R716). -/
def powerReport (d work most : Nat) (b : Block) : Block :=
  if d < 4 && diePresent b d then
    modGov (fun g => { g with reports := tput g.reports d (work % 65536, most % 65536, b.now), missing := srem d g.missing }) b
  else b

/-- A die present has sent no report for 128 us (R719). -/
def powerMissing (d : Nat) (b : Block) : Block :=
  if d < 4 && diePresent b d then modGov (fun g => { g with missing := sins d g.missing }) b else b

/-- The power of a booking of `x` units of 4 KiB (R717). -/
def bookPower (b : Block) (x : Nat) : Nat := govPower b (x * 4096)

/-- The rounds that are due and have not released, in card order (R717). -/
def roundsWaiting (b : Block) (s : Sched) : List (Round × Card) :=
  s.cards.flatMap (fun e =>
    (b.ps.rounds.filter (fun r => r.gen == schedGen b && r.card == e.1 && r.released.isNone && !r.abandoned
      && e.2.nominal s r.k ≤ b.ps.n)).map (fun r => (r, e.2)))

/-- Has a card a round at a nominal pitch? -/
def Card.runsAt (s : Sched) (c : Card) (n : Nat) : Bool :=
  c.valid && c.pitch ≤ n && (if s.rep then (n - c.pitch) % s.cycle == 0 else n == c.pitch)

/-- The forecast of R404 for the pitch `j` ahead; the current one counts the rounds held from earlier ticks too. -/
def bookAhead (b : Block) (s : Sched) (j : Nat) : Nat :=
  let n := s.cards.foldl (fun n e => if e.2.send && e.2.runsAt s (b.ps.n + j) then n + e.2.book else n) 0
  if j = 0 then
    n + (roundsWaiting b s).foldl (fun n e => if e.2.send && e.2.nominal s e.1.k < b.ps.n then n + e.2.book else n) 0
  else n

/-- The meter (R717): due rounds are let in, in card order, while the reserve holds them; those it lets in, and their power. -/
def meter (b : Block) (most : Nat) (l : List (Round × Card)) (sum : Nat) : List Round × Nat :=
  match l with
  | [] => ([], sum)
  | (r, c) :: rest =>
    let f := if c.send then bookPower b c.book else 0
    if most < sum + f then ([], sum)
    else
      let m := meter b most rest (sum + f)
      (r :: m.1, m.2)

/-- The share of ballast of a die (R718), in quarters of a watt. -/
def shareOf (b : Block) (ballast d : Nat) : Nat :=
  let n := (diesPresent b).length
  let each := if n = 0 then 0 else (ballast + n * quarter - 1) / (n * quarter)
  let most := (tget (0, 0, 0) b.gov.reports d).2.1
  if each < most then each else most

/-- Ask a die for its share where it has changed (R718). -/
def ballastAsk (ballast d : Nat) (b : Block) : Block :=
  let q := shareOf b ballast d
  if tget 0 b.gov.share d = q then b
  else emit (.ballast d q) (modGov (fun g => { g with share := tset 0 g.share d q }) b)

/-- A tick of the governor (R717); `blk` is the measured block power less the roped data power. -/
def govTick (blk : Nat) (b : Block) : Block :=
  let g := b.gov
  let len := govPeriod b
  let dt := if g.tickAt = 0 then len else b.now - g.tickAt
  let up := shelfRate b F.ckGovCtlShelfRise * dt
  let dn := shelfRate b F.ckGovCtlShelfFall * dt
  let ahead := shelfRate b F.ckGovCtlShelfRise * len
  let work := (diesPresent b).foldl (fun n d => n + dieWork b d) 0
  let most := (diesPresent b).foldl (fun n d => n + dieMost b d) 0
  let nat := blk + work
  let book := fun j => match b.ps.sched with | some s => bookPower b (bookAhead b s j) | none => 0
  let tgt := (List.range 16).foldl (fun t j => if t < book j - j * ahead then book j - j * ahead else t) 0
  let low := if tgt < g.reserve - dn then g.reserve - dn else tgt
  let r := if g.reserve + up < low then g.reserve + up else low
  let due := match b.ps.sched with | some s => roundsWaiting b s | none => []
  let m := meter b r due 0
  let want := if r - m.2 < g.load - dn - nat - m.2 then g.load - dn - nat - m.2 else r - m.2
  let ballast := if most < want then most else want
  let en := fon b F.ckGovCtlBallastEn 0
  let ramp := most < want || (!en && want != 0) || (g.nat + up < nat && g.natDie < work)
    || g.missing.any (diePresent b)
  let free := govPower b g.freeBytes
  let b := mapRounds (fun x => if due.any (fun e => e.1.card == x.card && e.1.k == x.k && e.1.gen == x.gen)
    then { x with due := m.1.any (fun y => y.card == x.card && y.k == x.k) } else x) b
  let b := modGov (fun g => { g with reserve := r, load := nat + m.2 + ballast, nat := nat, natDie := work, fRel := m.2, blk := blk,
                                     freeBytes := 0, freePrev := free, tickAt := b.now, up := up }) b
  let b := if en then each (diesPresent b) (ballastAsk ballast) b else modGov (fun g => { g with share := [] }) b
  let asked := b.gov.share.foldl (fun n e => n + e.2) 0
  let b := fput F.ckGovStatusLoad 0 ((nat + m.2 + ballast) / 1000000) (fput F.ckGovStatusBallast 0 asked b)
  let b := fbump F.ckGovStatusHeld 0 (due.length - m.1.length) b
  if ramp then fhNote 250 .none none (fbump F.ckGovStatusRamp 0 1 b) else b

/-- BALLAST is sent again while a die's share is not zero (R718). -/
def ballastRepeat (d : Nat) (b : Block) : Block :=
  let q := tget 0 b.gov.share d
  if d < 4 && diePresent b d && q != 0 && fon b F.ckGovCtlBallastEn 0 then emit (.ballast d q) b else b

end Sys2Proof.Machine
end

