-- ==== Sys2Proof/Machine/Trl.lean ====
section
/-!
DEFINITION. What commands and answers do in the translation unit: address-space controls and segments (R86-R99),
invalidations (R123-R132), slots (R82), walks (R107), access-counter decay (R146), ATS and PRI (R115-R122). The commands are
in `Machine/Translate.lean`.
-/
namespace Sys2Proof.Machine

open Sys2Proof

/-! ### Invalidations (R123-R132) -/

/-- The spans of a range up to a position: what lies beyond is looked up again. -/
def Rng.cut (r : Rng) (pos : Nat) : Rng :=
  { r with spans := r.spans.filterMap (fun s =>
             if pos ≤ s.off then none else some { s with len := if pos < s.off + s.len then pos - s.off else s.len })
           upTo := if pos < r.upTo then pos else r.upTo }

/-- Does a scope cover a byte of the resolved part of a range from a position on? -/
def Scope.cuts (s : Scope) (asn : Nat) (r : Rng) (pos : Nat) : Bool :=
  pos < r.upTo && s.covers asn (r.va + pos) (r.upTo - pos)

/-- Where the destination of an item may be cut: behind what has been written or is being combined. -/
def Item.dstPos (it : Item) : Nat :=
  it.comb.foldl (fun m e => let n := e.1 + e.2.length / unitWire (dArith it.desc) * unitOut (dArith it.desc); if m < n then n else m) it.dpos

/-- Does a remote fence of an item still wait to be sent? -/
def fenceUnsent (b : Block) (i : Nat) (it : Item) : Bool :=
  match fencePlace it, tfind b.ft.qps (dQp it.desc) with
  | some (.remote _ _), some q => !(q.sent.any (fun s => s.owner == .item i && s.hdr.type == tyFence))
  | _, _ => false

/-- Take removed translations out of an item (R129, R236): what it read while speculative is undone and waits for the
invalidation; what it has not used yet is looked up again. -/
def itemInval (n i : Nat) (s : Scope) (b : Block) : Block :=
  match tfind b.he.items i with
  | none => b
  | some it =>
    let asn := itemAsn b it
    let b :=
      if !it.committed && 0 < it.rd && s.covers asn it.src.va it.rd then
        modItem i (fun it => { it with hold := some n }) (undo i b)
      else b
    let early := it.stage == .waiting || it.stage == .active || it.stage == .draining || it.stage == .fence
    let unsent := it.stage == .fenceWrite && fenceUnsent b i it
    modItem i (fun it =>
      let src := if s.cuts asn it.src it.rd then it.src.cut it.rd else it.src
      let dst := if s.cuts asn it.dst it.dstPos then it.dst.cut it.dstPos else it.dst
      let again := early || unsent
      let fen := if again && s.cuts asn it.fen 0 then it.fen.cut 0 else it.fen
      { it with src := src, dst := dst, fen := fen, stage := if unsent && s.cuts asn it.fen 0 then .fence else it.stage }) b

/-- What uses a translation of a scope (R129): exchanges, packets that are not yet durable (a fence packet has no bytes of the
destination range), and destination pieces of local combines that are not yet written. -/
def invalUses (b : Block) (p : Nat) (s : Scope) : List Nat × List (Nat × Nat) × List (Nat × Nat × Nat) :=
  let isVirtual := fun (u : Use) => match u with
    | .src _ _ _ => true | .operand _ _ => true | .dst _ _ _ => true | .waitRead _ => true | .fence _ => true
    | .winRead _ _ => true | .winWrite _ _ => true | _ => false
  let ofOwner := fun (o : Sender) (read : Bool) (off len : Nat) => match o with
    | .item i => (match tfind b.he.items i with
        | some it => it.part == p && s.covers (itemAsn b it) ((if read then dSrc it.desc else dDst it.desc) + off) len
        | none => false)
    | .win w => (match tfind b.hp.wins w with
        | some a => a.part == p && s.covers a.asn (a.va + off) len
        | none => false)
    | .dead => false
  let fenced := fun (o : Sender) => match o with
    | .item i => (match tfind b.he.items i with
        | some it => it.part == p && s.covers (itemAsn b it) (dFenceAddr it.desc) 8
        | none => false)
    | _ => false
  let txns := tkeys (fun _ t => t.part == p && isVirtual t.use && s.covers t.asn t.va (if t.len = 0 then 1 else t.len)) b.txns
  let pkts := b.ft.qps.flatMap (fun e =>
    (e.2.sent.filter (fun x => x.hdr.type != tyReadReq &&
        (if x.len = 0 then fenced x.owner else ofOwner x.owner false x.off x.len))).map (fun x => (e.1, x.psn))
      ++ (e.2.reads.filter (fun r => ofOwner r.owner true r.off r.len)).map (fun r => (e.1, r.psn)))
  let pieces := b.he.items.flatMap (fun e => if e.2.part != p then [] else
    (e.2.comb.map (fun c => (e.1, c.1, c.2.length / unitWire (dArith e.2.desc) * unitOut (dArith e.2.desc)))).filter
      (fun c => s.covers (itemAsn b e.2) (dDst e.2.desc + c.2.1) c.2.2))
  (txns, pkts, pieces)

/-- Issue an invalidation: what it covers is removed at once. -/
def invalIssue (fn : Option Nat) (p : Nat) (s : Scope) (seg : Option Nat) (b : Block) : Block :=
  let n := b.tu.nextInval
  let (txns, pkts, pieces) := invalUses b p s
  let b := modTu (fun t =>
    { t with nextInval := n + 1, invals := tput t.invals n ⟨fn, p, s, seg, false, txns, pkts, pieces⟩ }) b
  let b := invalRemove p s b
  let b := each (itemsOf b (fun it => it.part == p)) (fun i b => itemInval n i s b) b
  let b := modHp (fun h => { h with wins := h.wins.map (fun e =>
    if e.2.part = p && s.cuts e.2.asn e.2.rng e.2.issued then (e.1, { e.2 with rng := e.2.rng.cut e.2.issued }) else e) }) b
  accRedo (fun a => a.part == p && s.covers a.asn a.va a.len &&
    (match a.wait with | .done _ => true | .ats _ _ => true | .prgQueue _ _ => true | _ => false)) b

/-- Does nothing that used a removed entry remain outstanding (R129)? -/
def invalIdle (b : Block) (v : Inval) : Bool :=
  v.txns.all (fun n => (tfind b.txns n).isNone)
    && v.packets.all (fun e => match tfind b.ft.qps e.1 with
      | some q => !(q.sent.any (fun s => s.psn == e.2)) && !(q.reads.any (fun r => r.psn == e.2))
      | none => true)
    && v.pieces.all (fun e => match tfind b.he.items e.1 with
      | some it => !(it.comb.any (fun c => c.1 == e.2.1))
          && !(b.txns.any (fun t => match t.2.use with | .dst i o n => i == e.1 && overlaps o n e.2.1 e.2.2 | _ => false))
      | none => true)

/-- DONE advances over a function's invalidations that have completed, in issue order (R125). `n` bounds them. -/
def invalDone (n fn : Nat) (b : Block) : Block :=
  match n with
  | 0 => b
  | m + 1 =>
    match tfirst (fun _ v => v.fn == some fn) b.tu.invals with
    | none => b
    | some k =>
      match tfind b.tu.invals k with
      | some v =>
        if v.complete then
          invalDone m fn (fput F.tuInvStatusDone fn (fget b F.tuInvStatusDone fn + 1)
            (modTu (fun t => { t with invals := tdel t.invals k }) b))
        else b
      | none => b

/-- The register index of a segment, and whether its commit or removal is in progress. -/
def segIdx (p a s : Nat) : Nat := 16 * asKey p a + s

/-- A removal ends: the segment is gone (R94). -/
def segGone (k : Nat) (b : Block) : Block :=
  let b := fput F.tuSegCtlPending k 0 (modTu (fun t => { t with segs := tdel t.segs k }) b)
  wake (fun a => a.wait == .seg && asKey a.part a.asn == k / 16) b

/-- An invalidation completes (R129, R132, R142): accesses parked on held leaves of its scope restart, run-ahead fetches
again, and a segment that is being removed is gone. -/
def invalComplete (n : Nat) (b : Block) : Block :=
  match tfind b.tu.invals n with
  | none => b
  | some v =>
    if v.complete || !invalIdle b v then b
    else
      let b := modTu (fun t =>
        { t with invals := tmod t.invals n (fun v => { v with complete := true }),
                 tileWalks := t.tileWalks.map (fun e => if e.2.part = v.part then (e.1, { e.2 with ahead := e.2.next, pos := 0 }) else e) }) b
      let b := wake (fun a => a.part == v.part && a.wait == .held && v.scope.covers a.asn a.va 1) b
      let b := match v.fn with
        | some fn => invalDone 16 fn b
        | none => modTu (fun t => { t with invals := tdel t.invals n }) b
      match v.seg with
      | some k => if fon b F.tuSegCtlPending k && !fon b F.tuSegCtlValid k then segGone k b else b
      | none => b

/-- A write of TU_INV_CTL (R124-R126): `none` where it is ignored. -/
def invalWrite (fn p : Nat) (scope asn pages : Nat) (b : Block) : Option Block :=
  let issued := fget b F.tuInvStatusIssued fn
  let open_ := (issued + 65536 - fget b F.tuInvStatusDone fn) % 65536
  if 16 ≤ open_ || scope == 3 || (scope == 0 && pages == 0) then none
  else
    let va := (rget b .tuInvVa fn).toNat
    let s : Scope := if scope = 0 then .range asn va (4096 * pages) else if scope = 1 then .space asn else .partition
    some (fput F.tuInvStatusIssued fn (issued + 1) (invalIssue (some fn) p s none b))

/-! ### Address spaces (R87-R89) -/

/-- A write of TU_AS_CTL (R87): `val` and `mask` cover the writable bits. PAGES changes only while REFS reads 0. With VALID at 0
every access that is waiting looks up again, and meets AS_INVALID. -/
def asControl (p a : Nat) (val mask : BitVec 64) (b : Block) : Block :=
  let k := asKey p a
  let idle := asRefs b p a == 0
  let mask := if idle then mask else mask &&& ~~~(fmask 62 62)
  let new := (rget b .tuAsCtl k &&& ~~~mask) ||| (val &&& mask)
  let b := rput .tuAsCtl k new b
  if new.getLsbD 63 then b
  else
    let b := invalIssue none p (.space a) none b
    accRedo (fun x => x.part == p && x.asn == a) b

/-! ### Segments (R90-R99) -/

/-- A write of TU_SEG_CTL (R94, R95). A write that leaves out VALID carries the value that it reads (R733). The invalidation
of an active segment's old range comes first; a removal of a segment that is not active ends at once. Accesses to the old or new
range that are under way in the translate stage wait (R97). -/
def segWrite (p a s : Nat) (val mask : BitVec 64) (b : Block) : Block :=
  let k := segIdx p a s
  let valid := if mask.getLsbD 63 then val.getLsbD 63 else (tfind b.tu.segs k).isSome
  let new := (rget b .tuSegCtl k &&& ~~~mask) ||| (val &&& mask)
  let b := fput F.tuSegCtlPending k 1 (rput .tuSegCtl k (qset new 63 63 (b2n valid)) b)
  let b := accRedo (fun x => x.part == p && x.asn == a && segPending b p a x.va x.len) b
  match tfind b.tu.segs k with
  | some g => invalIssue none p (.range a g.vbase g.len) (some k) b
  | none => if valid then b else segGone k b

/-- The node-list store of a partition, in entries of 16 bits (R95), and the entries that it holds. -/
def listShare (b : Block) : Nat := 2 ^ 25 / (variant b).partitions
def listUsed (b : Block) (p k : Nat) : Nat :=
  b.tu.segs.foldl (fun n e => if e.1 / 16 / 4096 = p ∧ e.1 ≠ k then n + e.2.list.length else n) 0

/-- The staged entry of a segment as it would act. -/
def segStagedEntry (b : Block) (k : Nat) (list : List Nat) : Seg :=
  let map := rget b .tuSegMap k
  let striped := fget b F.tuSegCtlKind k == 1
  { vbase := (rget b .tuSegBase k).toNat, len := (rget b .tuSegLen k).toNat, striped := striped,
    target := if striped then 0 else qbits map 63 21 * 2 ^ 21, nodes := if striped then qbits map 63 52 + 1 else 1,
    localBase := if striped then qbits map 48 21 * 2 ^ 21 else 0, log2 := fget b F.tuSegCtlStripeLog2 k,
    list := if striped then list else [],
    rights := b2n (fon b F.tuSegCtlRead k) * 2 + b2n (fon b F.tuSegCtlWrite k) * 4 + b2n (fon b F.tuSegCtlCombine k) * 8 }

/-- The first cause for which a commit is refused (R95): 0 where it is accepted. The rows of a striped segment whose last one is
not full take whole stripes at each node (R64). -/
def segError (b : Block) (p a k : Nat) (list : Option (List Nat)) : Nat :=
  let kind := fget b F.tuSegCtlKind k
  let g := segStagedEntry b k (list.getD [])
  let size := 2 ^ g.log2
  let others := (segsOf b p a).filter (fun e => e.1 != k % 16)
  if 2 ≤ kind then 7
  else if g.striped && !(21 ≤ g.log2 && g.log2 ≤ 30) then 2
  else if g.len = 0 || (g.striped && (g.vbase % size != 0 || g.len % size != 0 || g.localBase % size != 0)) then 1
  else if 2 ^ 56 < g.vbase + g.len || (!g.striped && 2 ^ 49 < g.target % 2 ^ 49 + g.len)
      || (g.striped && 2 ^ 49 < g.localBase + (g.len / size + g.nodes - 1) / g.nodes * size) then 3
  else if g.striped && (match list with
      | none => true
      | some l => l.length < g.nodes || (l.take g.nodes).any (fun e => 2 ^ 15 ≤ e)) then 4
  else if others.any (fun e => overlaps e.2.vbase e.2.len g.vbase g.len) then 5
  else if g.striped && listShare b < listUsed b p k + g.nodes then 6
  else 0

/-- A commit is checked and ends (R95-R97), once the old range has drained. `list` is the node list, none where it cannot be
read, and `events` is what its reads met. ERR keeps the cause of the last refusal (R94). -/
def segCommitDone (p a s : Nat) (list : Option (List Nat)) (events : List ReadEvent) (b : Block) : Block :=
  let k := segIdx p a s
  if !fon b F.tuSegCtlPending k || !fon b F.tuSegCtlValid k || b.tu.invals.any (fun e => e.2.seg == some k && !e.2.complete) then b
  else
    let b := readEvents events b
    let list := match localPlace b p (rget b .tuSegList k).toNat (2 * (qbits (rget b .tuSegMap k) 63 52 + 1)) with
      | some _ => list
      | none => none
    let e := segError b p a k list
    let b := modTu (fun t => { t with segs := tdel t.segs k }) b
    let b :=
      if e = 0 then
        let g := segStagedEntry b k ((list.getD []).take (qbits (rget b .tuSegMap k) 63 52 + 1))
        modTu (fun t => { t with segs := tput t.segs k g }) b
      else fhNote (256 + 16 * p) .none (some p) b
    let b := fput F.tuSegCtlPending k 0 (if e = 0 then b else fput F.tuSegCtlErr k e b)
    wake (fun x => x.wait == .seg && x.part == p && x.asn == a) b

/-- Remove a segment without waiting (R505, R510). -/
def segDrop (k : Nat) (b : Block) : Block :=
  let b := match tfind b.tu.segs k with
    | some g => invalIssue none (k / 16 / 4096) (.range (k / 16 % 4096) g.vbase g.len) none b
    | none => b
  segGone k (fput F.tuSegCtlValid k 0 b)

/-! ### Slots, walks and counters -/

/-- An address space has loaded into a slot (R82). -/
def slotLoaded (p a : Nat) (b : Block) : Block :=
  if !b.tu.loading.contains (p, a) then b
  else
    let n := slotFree b
    let b := modTu (fun t => { t with loading := t.loading.filter (· != (p, a)), slots := t.slots ++ [(n, p, a)] }) b
    wake (fun x => x.wait == .slot && x.part == p && x.asn == a) b

/-- Begin a walk again from the root (R131). -/
def walkRestart (w : Nat) (b : Block) : Block :=
  match tfind b.tu.walks w with
  | none => b
  | some k => walkRun 8 w (modWalk w (fun x => { x with level := 4, table := walkRoot b k.part k.asn, reread := false, stale := false }) b)

/-- A walk that ended or read under an invalidation (R131): a prefetch walk and one that nothing waits for are discarded, a demand
walk restarts. -/
def walkStale (w : Nat) (k : Walk) (b : Block) : Block :=
  if k.walkOf.isSome || !(b.tu.accs.any (fun a => a.2.wait == .walk w)) then walkEnd w id b else walkRestart w b

/-- A mirror line read for a walk arrives, with or without an uncorrectable ECC error (R107, R113). A prefetch walk records nothing
and stops (R140). -/
def mirrorAnswer (w level : Nat) (t : Txn) (bad : Bool) (b : Block) : Block :=
  match tfind b.tu.walks w with
  | none => if bad then mirrorBad t.part t.asn level t.va b else b
  | some k =>
    if k.walkOf.isSome then (if k.stale then walkStale w k b else if bad then walkEnd w id b else mirrorArrive w b)
    else
      let b := if bad then mirrorBad t.part t.asn level t.va b else b
      if k.stale then walkStale w k b else if bad then walkRead w b else mirrorArrive w b

/-- A table line read for a walk arrives (R107): none where the read returned an error or poison. -/
def walkAnswer (w : Nat) (line : Option (List (BitVec 64))) (b : Block) : Block :=
  match tfind b.tu.walks w with
  | none => b
  | some k =>
    if k.stale then walkStale w k b
    else
      match line with
      | none => walkFail w 0x05 b
      | some l =>
        let (b, more) := walkLine w l true (mirrorFill k.part k.asn k.level k.va l b)
        if more then walkRun 8 w b else b

/-- A decay of an address space's counters (R145, R146): tile counts are merged, then the counters halve, and a flag clears
below half the threshold; half of an odd threshold is rounded down, so that a count of it is not below (DESIGN CHOICE, log entry
89). -/
def counterDecay (p a : Nat) (b : Block) : Block :=
  let k := asKey p a
  if fget b F.tuAsCtlDecay k = 0 then b
  else
    let mine := b.tu.counters.filter (fun c => c.part == p && c.asn == a)
    each mine (fun c b =>
      let (m, b) := counterMerge c (List.replicate 12 0) b
      let v := m.merged / 2
      let m := { m with merged := v, flagged := m.flagged && fget b F.tuAsCtlHotThresh k / 2 ≤ v }
      modTu (fun t => { t with counters := t.counters.map (fun x => if x = c then m else x) }) b) b

/-- A hold has lasted HOLD_LIMIT (R153). -/
def holdExpire (n : Nat) (b : Block) : Block :=
  modAcc n (fun a => if a.wait = .held then { a with wait := .bad ⟨0x08, a.va⟩ } else a) b

/-! ### ATS and PRI (R115-R122) -/

/-- The bus address of the page that an access needs from the host. -/
def Access.bus (a : Access) : Nat := match a.span.place with | .port _ bus _ => bus | _ => 0
def Access.port (a : Access) : Nat := match a.span.place with | .port h _ _ => h | _ => 0

/-- Page Requests of a function that are outstanding. -/
def prgCount (b : Block) (fn : Nat) : Nat := b.tu.prgs.countP (fun e => e.2.1 == fn)

/-- A page request group index of a function that is not outstanding, of the 512 that PCIe gives, from `nextPrg` on. -/
def prgFree (b : Block) (fn : Nat) : Option Nat :=
  ((List.range 512).map (fun k => (b.tu.nextPrg + k) % 512)).find? (fun g => (tfind b.tu.prgs (512 * fn + g)).isNone)

/-- Send a Page Request for an access, or let it wait for room (R118): it names the page and the rights needed, a combine reads
and writes, and it is the last of its group. A function that may send none after a Response Failure fails the access at once with
PRG_FAILURE (DESIGN CHOICE, log entry 90). -/
def pageRequest (n addr len : Nat) (b : Block) : Block :=
  match tfind b.tu.accs n with
  | none => b
  | some a =>
    if b.tu.priFailed.contains a.fn then modAcc n (fun x => { x with wait := .bad ⟨0x21, x.va⟩ }) b
    else if priAlloc b a.fn ≤ prgCount b a.fn || !mastering b a.fn then modAcc n (fun x => { x with wait := .prgQueue addr len }) b
    else
      match prgFree b a.fn with
      | none => modAcc n (fun x => { x with wait := .prgQueue addr len }) b
      | some g =>
        let b := modTu (fun t => { t with nextPrg := (g + 1) % 512, prgs := tput t.prgs (512 * a.fn + g) (a.fn, n) }) b
        emitTlpFor (some a.part) (a.fn / 128) (.pageRequest a.fn (alignDown a.bus 4096) (a.kind != .write) (a.kind != .read) true g (pasidOf b a.fn))
          (modAcc n (fun x => { x with wait := .prg addr len (512 * a.fn + g) }) b)

/-- An ATS completion arrives for an access (R117). A translation that is cached takes the place of what the cache held for its
range. -/
def atsAnswer (n : Nat) (r : AtsResult) (b : Block) : Block :=
  match tfind b.tu.accs n with
  | none => b
  | some a =>
    match a.wait with
    | .ats addr len =>
      (match r with
       | .untranslated => modAcc n (fun x => { x with wait := .done x.span }) b
       | .error _ => modAcc n (fun x => { x with wait := .bad ⟨0x0A, x.va⟩ }) b
       | .translation target rd wr =>
         if atsRight a.kind rd wr then
           let e : AtsEntry := ⟨a.fn, (pasidOf b a.fn).map (·.1), addr, len, target, rd, wr⟩
           let b := atsDrop (fun x => x.fn == e.fn && x.pasid == e.pasid && overlaps x.addr x.len addr len) b
           let mine := b.tu.ats.filter (fun x => x.fn / 128 == a.fn / 128)
           let b := if mine.length < 4096 then b
             else match mine.head? with | some v => atsDrop (· == v) b | none => b
           let b := modTu (fun t => { t with ats := t.ats ++ [e] }) b
           modAcc n (fun x => { x with wait := .again }) b
         else if !priOn b a.fn then modAcc n (fun x => { x with wait := .bad ⟨0x11, x.va⟩ }) b
         else if 2 ≤ a.tries then modAcc n (fun x => { x with wait := .bad ⟨0x23, x.va⟩ }) b
         else pageRequest n addr len b)
    | _ => b

/-- Room for a function's Page Requests: those that wait go, in order (R118). -/
def prgDrain (fn : Nat) (b : Block) : Block :=
  each b.tu.accs (fun e b => if e.2.fn = fn then
    (match e.2.wait with | .prgQueue addr len => pageRequest e.1 addr len b | _ => b) else b) b

/-- A page request group ends (R119). `code` is the cause of a failure, 0 for Success, after which the access looks up again and so
repeats its Translation Request. A Response Failure stops the Page Requests of the function whatever became of the access. -/
def prgEnd (g code : Nat) (b : Block) : Block :=
  match tfind b.tu.prgs g with
  | none => b
  | some (fn, n) =>
    let b := modTu (fun t => { t with prgs := tdel t.prgs g,
                                      priFailed := if code = 0x21 then sins fn t.priFailed else t.priFailed }) b
    prgDrain fn <| modAcc n (fun a => match a.wait with
      | .prg _ _ h => if h ≠ g then a
          else if code = 0 then { a with tries := a.tries + 1, wait := .again }
          else { a with wait := .bad ⟨code, a.va⟩ }
      | _ => a) b

/-- An ATS Invalidate Request (R120, R121): matching entries and links go, requests in flight are repeated, and the answer waits
for the exchanges that used a removed translation. -/
def atsInvalidate (fn : Nat) (pasid : Option Nat) (addr len itag : Nat) (b : Block) : Block :=
  let gone := b.tu.ats.filter (fun e => e.fn == fn && e.pasid == pasid && overlaps e.addr e.len addr len)
  let users := tkeys (fun _ t => t.fn == fn && t.data.isNone && (match t.place with
    | .port _ bus true => gone.any (fun e => overlaps e.target e.len bus (if t.len = 0 then 1 else t.len))
    | _ => false)) b.txns
  let used := fun (it : Item) (c : Nat × List (BitVec 8)) =>
    (it.dst.parts 4 c.1 (c.2.length / unitWire (dArith it.desc) * unitOut (dArith it.desc))).any (fun e => match e.2.2.1 with
      | .port h bus true => portFn b it.part (ownFn b it) h == fn && gone.any (fun g => overlaps g.target g.len bus e.2.1)
      | _ => false)
  let pieces := b.he.items.flatMap (fun e => (e.2.comb.filter (used e.2)).map (fun c => (e.1, c.1)))
  let b := modTu (fun t => { t with atsInvals := t.atsInvals ++ [⟨fn, itag, users, pieces⟩] }) (atsDrop (fun e => gone.contains e) b)
  let b := accRedo (fun a => a.fn == fn && (match a.wait with | .ats x l => overlaps x l addr len | _ => false)) b
  each (itemsOf b (fun _ => true)) (fun i b => match tfind b.he.items i with
    | none => b
    | some it =>
      let linked := fun (r : Rng) => r.spans.any (fun s => match s.place with | .port h _ true => portFn b it.part (ownFn b it) h == fn | _ => false)
      modItem i (fun it =>
        let early := it.stage == .waiting || it.stage == .active || it.stage == .draining || it.stage == .fence
        { it with src := if linked it.src then it.src.cut it.rd else it.src,
                  dst := if linked it.dst then it.dst.cut it.dstPos else it.dst,
                  fen := if early && linked it.fen then it.fen.cut 0 else it.fen }) b) b

/-- ATS invalidations whose users have drained are answered, in order of arrival. -/
def atsInvalCheck (b : Block) : Block :=
  each b.tu.atsInvals (fun v b =>
    let written := fun (e : Nat × Nat) => match tfind b.he.items e.1 with
      | some it => !(it.comb.any (fun c => c.1 == e.2))
      | none => true
    if v.txns.all (fun n => (tfind b.txns n).isNone) && v.pieces.all written then
      emitTlp (v.fn / 128) (.invalidateCompletion v.fn v.itag) (modTu (fun t => { t with atsInvals := t.atsInvals.erase v }) b)
    else b) b

end Sys2Proof.Machine
end

