-- ==== Sys2Proof/Machine/Part.lean ====
section
/-!
DEFINITION. Partitions (R478-R528): their commands, belay points and handovers, loss of host, reset and recomposition,
bivouac and mailboxes; and the resets of functions (R453-R459, R508), which reach partitions.
-/
namespace Sys2Proof.Machine

open Sys2Proof

/-! ### Bindings -/

/-- The functions of a partition's binding: the VFs mapped to it and its requesters. -/
def bindingFns (b : Block) (p : Nat) : List Nat :=
  let req := ((requester b p 0).toList ++ (requester b p 1).toList).filter (fun fn => fn % 128 == 0)
  partVfs b p ++ req

/-- The command that runs on a partition, if any; a RECOMPOSE runs on every partition of its mask. -/
def ptRunning (b : Block) (p : Nat) : Option (Nat × PtCmd) :=
  b.pt.cmds.find? (fun e => if e.2.op = .recompose then e.2.masks.any (fun m => m.1 == p) else e.1 == p)

/-- Map a VF to a partition or to none (R489); its mailbox and its TDI see the change (R521, R474). -/
def vfMap (fn : Nat) (p : Option Nat) (b : Block) : Block :=
  if vfPart b fn = p then b
  else
    let b := match p with
      | some p => fput F.ptVfMapPartition fn p (fput F.ptVfMapValid fn 1 b)
      | none => rclear .ptVfMap fn b
    mbxPartEvent fn (tdiError fn b)

/-- Give a partition its requesters (R488). -/
def setReq (p : Nat) (req : List (Option Nat)) (b : Block) : Block :=
  let r0 := req.getD 0 none
  let r1 := req.getD 1 none
  fput F.ptPartStatusReq0Fn p (r0.getD 0 % 128) <| fput F.ptPartStatusReq0Valid p (b2n r0.isSome) <|
    fput F.ptPartStatusReq1Fn p (r1.getD 0 % 128) <| fput F.ptPartStatusReq1Valid p (b2n r1.isSome) b

/-- Replace a partition's binding (R505 step 1). -/
def rebindTo (p : Nat) (vfs : List Nat) (req : List (Option Nat)) (b : Block) : Block :=
  let b := each ((partVfs b p).filter (fun fn => !vfs.contains fn)) (fun fn b => vfMap fn none b) b
  setReq p req (each vfs (fun fn b => vfMap fn (some p) b) b)

/-! ### The host side (R502-R505) -/

/-- Does a global address lie in a host alias of this node? -/
def toHost (b : Block) (g : Nat) : Bool := gNode g == selfNode b && inHostAlias (gOff g)

/-- Does a segment have a target in a host alias of this node? -/
def segHost (b : Block) (s : Seg) : Bool :=
  if s.striped then inHostAlias s.localBase && (s.list.take s.nodes).contains (selfNode b) else toHost b s.target

/-- Does work of a range from a position on go to a host port, as far as its translation is known (DEDUCED, log entry 26)? -/
def rngHost (b : Block) (p a : Nat) (r : Rng) (pos : Nat) : Bool :=
  let open_ := r.bad.isNone && r.upTo < r.len
  let va := r.va + r.upTo
  let n := r.len - r.upTo
  r.spans.any (fun s => s.place.isPort && pos < s.off + s.len)
    || (open_ && (inHostAlias (walkRoot b p a) && fon b F.tuAsCtlPages (asKey p a)
      || (segsOf b p a).any (fun e => segHost b e.2 && overlaps va n e.2.vbase e.2.len)
      || b.tu.tlb.any (fun e => e.part == p && e.asn == a && toHost b e.target && overlaps va n e.va e.size)))

/-- Has an item a host-port request outstanding (R502, R504): a read or write of its own, a Translation or Page Request of its
access, or a table line that its walk reads on a port? -/
def itemHostOut (b : Block) (i : Nat) (it : Item) : Bool :=
  let asks := match it.acc.bind (tfind b.tu.accs) with
    | some y => y.part == it.part && (match y.wait with | .ats _ _ | .prg _ _ _ | .prgQueue _ _ => true | _ => false)
    | none => false
  asks || b.txns.any (fun e => match e.2.use with
    | .walk w => e.2.place.isPort && (walkItems b w).contains i
    | u => e.2.place.isPort && u.itemOf == some i)

/-- Has an item a host-port request outstanding, or one still to issue (R502, R504)? A WAIT item has one to issue as long as it waits on
a host word. -/
def itemHost (b : Block) (i : Nat) (it : Item) : Bool :=
  let a := itemAsn b it
  let moving := it.stage == .waiting || it.stage == .active || it.stage == .draining
  let fenced := dFence it.desc || dOpcode it.desc == 0x08
  let onHost := match tfind b.sq.rings it.ringKey with
    | some r => (match tfind b.sq.cqs (4096 * it.part + r.cq) with
      | some c => inHostAlias c.base || inHostAlias c.tailWord
      | none => false)
    | none => false
  itemHostOut b i it
    || (moving && (rngHost b it.part a it.src it.rd || rngHost b it.part a it.dst it.dstPos))
    || ((moving || it.stage == .fence) && fenced && rngHost b it.part a it.fen 0)
    || onHost

/-- Is an item on a host ring of a function that leaves the binding? -/
def itemLeaves (b : Block) (leaving : List Nat) (it : Item) : Bool :=
  match tfind b.sq.rings it.ringKey with
  | some r => r.host && leaving.contains r.owner
  | none => leaving.contains it.fn

/-- The items that a rebind or park of a partition reaches (R502). -/
def itemsReached (b : Block) (p : Nat) (leaving : List Nat) : List Nat :=
  tkeys (fun i it => it.part == p && (itemLeaves b leaving it || itemHost b i it)) b.he.items

/-- The functions that leave a partition while a command runs, or that a partition in BIVOUAC has lost. -/
def leavingFns (b : Block) (p : Nat) : List Nat :=
  if partState b p = 4 then tget [] b.pt.lost p
  else match tfind b.pt.cmds p with | some c => c.leaving | none => []

/-- Is a partition at a belay point (R504)? In BIVOUAC the host side is dropped: what counts is the items of the lost functions' host rings
and what is still outstanding (R515). -/
def belay (b : Block) (p : Nat) : Bool :=
  let l := leavingFns b p
  let st := partState b p
  let items := if st = 4 then tkeys (fun i it => it.part == p && (itemLeaves b l it || itemHostOut b i it)) b.he.items else itemsReached b p l
  (st == 2 || st == 4) && items.isEmpty
    && !(b.hp.wins.any (fun e => l.contains e.2.fn && !e.2.read))
    && !(b.sq.rings.any (fun e => e.1 / 4096 == p && e.2.host && l.contains e.2.owner))

/-- Host rings of functions enter DRAINING (R503, R508). -/
def ringsDrain (test : Nat → Ring → Bool) (b : Block) : Block :=
  modSq (fun q => { q with rings := q.rings.map (fun e => if test e.1 e.2 then
    (e.1, { e.2 with state := .draining, discardFetch := e.2.fetching.isSome }) else e) }) b

/-- Drop the host side of a partition (R505, R515): `orphan` is the strand reason of its completion rings in host aliases. -/
def dropHost (p orphan : Nat) (vfs : List Nat) (req : List (Option Nat)) (b : Block) : Block :=
  let old := ((requester b p 0).toList ++ (requester b p 1).toList)
  let b := rebindTo p vfs req b
  let b := each old atsForget b
  let host := b
  let b := tlbEvict (fun e => e.part == p && toHost host e.target) b
  let b := modTu (fun t => { t with
    wcache := t.wcache.filter (fun e => e.part != p)
    counters := t.counters.filter (fun c => !(c.part == p && toHost b c.target))
    mirror := t.mirror.filter (fun m => m.part != p) }) b
  let b := eachN 16 (fun g b =>
    if fon b F.ptGrantCtlValid (16 * p + g) && inHostAlias ((tget (0, 0) b.pt.grants (16 * p + g)).1 * 65536)
    then fput F.ptGrantCtlValid (16 * p + g) 0 b else b) b
  let b := if inHostAlias (fget b F.tuHotqBaseBase p * 4096) then fput F.tuHotqCtlEnable p 0 b else b
  let spaces := b.regs.filter (fun e => e.1 / 2 ^ 32 == Reg.tuAsCtl.code && e.1 % 2 ^ 32 / 4096 == p && e.2.getLsbD 63)
  let b := each spaces (fun e b =>
    let a := e.1 % 2 ^ 32 % 4096
    if inHostAlias (walkRoot b p a) then asControl p a 0#64 (fmask 63 63) b else b) b
  let b := each b.tu.segs (fun e b => if e.1 / 16 / 4096 == p && segHost b e.2 then segDrop e.1 b else b) b
  modSq (fun q => { q with cqs := q.cqs.map (fun e =>
    if e.1 / 4096 = p && inHostAlias e.2.base then (e.1, { e.2 with orphan := orphan }) else e) }) b

/-! ### How commands end -/

/-- A command ends with OK (R497). -/
def ptDone (k : Nat) (b : Block) : Block :=
  match tfind b.pt.cmds k with
  | none => b
  | some c =>
    let b := modPt (fun t => { t with cmds := tdel t.cmds k }) b
    match c.bank with
    | none => b
    | some n =>
      fput F.ptCmdStatusStranded n c.stranded <| fput F.ptCmdStatusEnded n c.ended <| fput F.ptCmdStatusResult n 0 <|
        fput F.ptCmdStatusBusy n 0 b

/-- A partition enters BIVOUAC (R515): its generation advances and the hold starts. -/
def bivouacEnter (p : Nat) (b : Block) : Block :=
  let fns := bindingFns b p
  let b := ringsDrain (fun k r => k / 4096 == p && r.host && fns.contains r.owner) b
  let b := ptEnter p 4 (dropHost p 4 [] [] b)
  let b := modPt (fun t => { t with lost := tput t.lost p fns, since := tput t.since p b.now }) b
  fput F.ptBivouacGen p ((fget b F.ptBivouacGen p + 1) % 2 ^ 32) b

/-- May a partition enter BIVOUAC on loss of host (R509, R528)? -/
def mayBivouac (b : Block) (p : Nat) : Bool :=
  fon b F.ptPartCfgBivouacEn p && !(fon b F.idProtFrameNoBivouac 0) && !(fon b F.idProtFrameForceScrub 0)

/-- A reset of a partition begins (R510 step 1, R511); `c` is the command, or the release that a loss of host starts. -/
def resetBegin (p : Nat) (c : PtCmd) (b : Block) : Block :=
  let b := modPt (fun t => { t with cmds := tput t.cmds p c, lost := tdel t.lost p, since := tdel t.since p }) b
  ptEnter p 5 (ringsDrain (fun k _ => k / 4096 == p) b)

/-- A release that Flovel starts itself (R509, R517). -/
def releaseCmd (scrub : Bool) : PtCmd := ⟨.release, none, scrub, [], [], [], 0, 0, [], [], []⟩

/-- A partition has lost its host (R509). -/
def lose (p : Nat) (b : Block) : Block :=
  if mayBivouac b p then bivouacEnter p b else resetBegin p (releaseCmd (fon b F.idProtFrameForceScrub 0)) b

/-- The functions of the binding that a command has staged. -/
def PtCmd.comes (c : PtCmd) : List Nat := c.vfs ++ (c.req.filterMap id).filter (fun fn => fn % 128 == 0)

/-- After functions have been reset: does a partition lose its host (R509)? One with a command in progress takes note of it, and it is
applied when the command ends (R480): while it quiesces for REBIND, of its new binding; while it is RESETTING, of either. -/
def lossCheck (fns : List Nat) (b : Block) : Block :=
  eachN 16 (fun p b =>
    let hit := fun (l : List Nat) => l.any (fun f => fns.contains f) && !(l.any (fnEnabled b))
    let mine := bindingFns b p
    match ptRunning b p with
    | some (k, c) =>
      let lost := match c.op with
        | .rebind => hit c.comes || (partState b p == 5 && hit mine)
        | _ => hit mine
      if lost then modPt (fun t => { t with cmds := tmod t.cmds k (fun c => { c with gone := c.gone ++ [p] }) }) b else b
    | none => if hit mine && (partState b p == 1 || partState b p == 3) then lose p b else b) b

/-- A partition is BOUND, or STOPPED where a malformation was captured meanwhile (R480). -/
def boundOr (b : Block) (p : Nat) : Nat := if fon b F.sqMalformedValid p then 3 else 1

/-- A command has ended on a partition that is bound again: a loss of its host meanwhile is applied (R480, R509). -/
def lossAfter (p : Nat) (gone : List Nat) (b : Block) : Block :=
  if (partState b p == 1 || partState b p == 3) && gone.contains p then lose p b else b

/-- The handover of a REBIND or PARK, once the belay point is reached (R503 step 6, R505). -/
def handover (p : Nat) (b : Block) : Block :=
  match tfind b.pt.cmds p with
  | none => b
  | some c =>
    if partState b p != 2 || !belay b p then b
    else
      match c.op with
      | .rebind => lossAfter p c.gone (ptDone p (ptEnter p (boundOr b p) (dropHost p 5 c.vfs c.req b)))
      | .park => ptDone p (bivouacEnter p b)
      | _ => b

/-- The belay deadline (R503 step 4): every reached item still in flight ends. A record that is still parked strands with reason 5, REBOUND
(DESIGN CHOICE, log entry 119). -/
def belayEnd (p : Nat) (b : Block) : Block :=
  match tfind b.pt.cmds p with
  | none => b
  | some c =>
    if partState b p != 2 || c.op == .recompose then b
    else
      let l := itemsReached b p c.leaving
      let b := each l (fun i b => match tfind b.he.items i with
        | some it => cmdEnds itemForce i (if itemLeaves b c.leaving it then 0x023 else 0x020) b
        | none => b) b
      let b := itemsForced l b
      each l (fun i b => match tfind b.he.items i with
        | some it => if it.stage = .parked then strand i 5 b else b
        | none => b) b

/-! ### Reset, release and recomposition (R510-R514) -/

/-- Items that have not committed end, and committed ones issue nothing further (R510 steps 2 and 3). -/
def resetUncommitted (p : Nat) (b : Block) : Block :=
  let b := each (itemsOf b (fun it => it.part == p && !it.committed)) (fun i b => cmdEnds itemEarly i 0x022 b) b
  each (itemsOf b (fun it => it.part == p && it.committed)) (fun i b => cmdEnds (fun i st b => itemFail i st 0 b) i 0x022 b) b

/-- Committed items end, released rounds are abandoned, and every QP is destroyed (R510 steps 3 and 4). -/
def resetCommitted (p : Nat) (b : Block) : Block :=
  let l := itemsOf b (fun it => it.part == p)
  let b := itemsForced l (each l (fun i b => cmdEnds itemForce i 0x022 b) b)
  let b := strandParked (fun it => it.part == p) 6 b
  let b := each b.ps.rounds (fun r b => match cardAt b r.gen r.card with
    | some (_, c) => if c.part = p ∧ r.released.isSome then roundAbandonStep 4097 r.gen r.card r.k b else b
    | none => b) b
  each (tkeys (fun _ q => q.part == p) b.ft.qps) (fun k b => qpDrain k none b) b

/-- An item that has not ended by the end of a reset: its record is written if its entry is out, and strands otherwise, with reason 6 whatever
its completion ring holds (DESIGN CHOICE, log entry 120). -/
def itemClear (i : Nat) (b : Block) : Block :=
  match tfind b.he.items i with
  | none => b
  | some it => if it.stage = .written then itemEnd i b else strand i 6 b

/-- Bit 63 of every register of a kind becomes 0, for the copies of a partition, `n` to each. -/
def validOff (r : Reg) (n p : Nat) (b : Block) : Block :=
  { b with regs := b.regs.map (fun e =>
    if e.1 / 2 ^ 32 = r.code ∧ e.1 % 2 ^ 32 / n = p then (e.1, qset e.2 63 63 0) else e) }

/-- Everything of the node side is cleared (R510 step 5). -/
def nodeClear (p : Nat) (b : Block) : Block :=
  let b := each (itemsOf b (fun it => it.part == p)) (fun i b => cmdEnds itemForce i 0x022 b) b
  let b := each (itemsOf b (fun it => it.part == p)) itemClear b
  let b := each (tkeys (fun _ q => q.part == p) b.ft.qps) (fun k b => qpDrainEnd k (qpDrain k none b)) b
  let b := each (tkeys (fun k _ => k / 4096 == p) b.sq.rings) ringFree (epochRetire b)
  let b := each (tkeys (fun k _ => k / 4096 == p) b.sq.cqs) cqFree b
  let b := rclear .sqMalformed p b
  let b := validOff .ptGrantCtl 16 p (validOff .tuAsCtl 4096 p b)
  let b := each (tkeys (fun k _ => k / 16 / 4096 == p) b.tu.segs) segDrop b
  let b := invalRemove p .partition b
  let b := modTu (fun t => { t with slots := t.slots.filter (fun s => s.2.1 != p), loading := t.loading.filter (fun s => s.1 != p) }) b
  let b := mapRounds (fun r => match cardAt b r.gen r.card with
    | some (_, c) => if c.part = p then { r with held := [] } else r
    | none => r) b
  let b := eabNote p (modPs (fun s => { s with rfDue := s.rfDue.filter (fun e => e.part != p) }) b)
  slotRetry (modCe (fun c => { c with slots := c.slots.filter (fun e => e.1 / 4096 != p) }) b)

/-- The reset of a partition ends: UNBOUND after a release or a loss of host meanwhile (R480), else BOUND or rebound (R512). -/
def resetEnd (p : Nat) (b : Block) : Block :=
  match tfind b.pt.cmds p with
  | none => b
  | some c =>
    let b := nodeClear p b
    let unbound := ptDone p (ptEnter p 0 (rebindTo p [] [] b))
    if c.gone.contains p then unbound
    else
      match c.op with
      | .reset => ptDone p (ptEnter p 1 b)
      | .rebind => ptDone p (ptEnter p 1 (dropHost p 5 c.vfs c.req b))
      | _ => unbound

/-- A deadline of a partition's reset (R510). -/
def resetStage (p : Nat) (st : ResetStage) (b : Block) : Block :=
  if partState b p != 5 then b
  else
    match st with
    | .uncommitted => resetUncommitted p b
    | .committed => resetCommitted p b
    | .final => resetEnd p b

/-- Does the end of a reset zero the data area (R512)? -/
def scrubs (b : Block) (p : Nat) : Bool :=
  partState b p == 5 && match tfind b.pt.cmds p with | some c => c.scrub | none => false

/-- The depot without the data area of a partition from an offset on: those bytes are zero. -/
def depotCut (p from_ : Nat) (d : List Host.Cell) : List Host.Cell :=
  d.filter (fun c => !(c.1 / 2 ^ 27 == p && from_ ≤ c.1 % 2 ^ 27))

/-- The RECOMPOSE in progress, if any. -/
def moving (b : Block) : Option (Nat × PtCmd) := b.pt.cmds.find? (fun e => e.2.op == .recompose)

/-- The depot once the areas have moved (R514): each keeps what it retains, and what is added is zero. -/
def depotMoved (b : Block) (d : List Host.Cell) : List Host.Cell :=
  match moving b with
  | none => d
  | some (_, c) => each c.carve (fun e d => depotCut e.1 (e.2.1 * 65536) d) d

/-- The move of a RECOMPOSE ends (R514 step 3). -/
def recomposeEnd (b : Block) : Block :=
  match moving b with
  | none => b
  | some (k, c) =>
    let b := each c.carve (fun e b => fput F.ptCarveQpShare e.1 e.2.2 (fput F.ptCarveData64k e.1 e.2.1 b)) b
    let b := each c.masks (fun m b => ptEnter m.1 (if m.2 = 1 then boundOr b m.1 else m.2) b) b
    each c.masks (fun m b => lossAfter m.1 c.gone b) (ptDone k b)

/-- The bivouac hold of a partition expires (R517): with FORCE_SCRUB the release scrubs (R527). -/
def holdEnd (p : Nat) (b : Block) : Block :=
  if partState b p = 4 && fget b F.ptPartCfgHold p != 0 && (ptRunning b p).isNone then
    resetBegin p (releaseCmd (fon b F.idProtFrameForceScrub 0)) b
  else b

/-! ### Commands (R494-R501) -/

/-- The VFs that a bank has staged, as function numbers (R499), bits beyond VF 120 apart. -/
def stagedVfs (b : Block) (n : Nat) : List Nat :=
  (List.range 2).flatMap (fun h =>
    ((List.range 120).filter (fun v =>
      (rget b .ptStageVf (4 * n + 2 * h + v / 64)).getLsbD (v % 64))).map (fun v => 128 * h + v + 1))

/-- The requesters that a bank has staged (R500). -/
def stagedReq (b : Block) (n : Nat) : List (Option Nat) :=
  [if fon b F.ptStageReqValid0 n then some (fget b F.ptStageReqFn0 n) else none,
   if fon b F.ptStageReqValid1 n then some (128 + fget b F.ptStageReqFn1 n) else none]

/-- The carve-outs that a bank has staged for the partitions of a list (R501). -/
def stagedCarve (b : Block) (n : Nat) (ps : List Nat) : List (Nat × Nat × Nat) :=
  ps.map (fun p => (p, fget b F.ptStageCarveData64k (16 * n + p), fget b F.ptStageCarveQpShare (16 * n + p)))

/-- The QPs that a partition has created (R493). -/
def qpsUsed (b : Block) (p : Nat) : Nat := tcount (fun _ q => q.part == p) b.ft.qps

/-- The packets that a grant admitted and that are not yet placed or answered (R72), those of early-arrival buffers among them. -/
def grantInUse (b : Block) (p g : Nat) : Nat :=
  tcount (fun _ x => x.grant == some g && x.part == p) b.ft.rx
    + b.ps.rounds.foldl (fun n r => n + r.held.countP (fun h => h.grant == some g && h.part == p)) 0

/-- Is a partition idle (R513)? -/
def partIdle (b : Block) (p : Nat) : Bool :=
  !(b.he.items.any (fun e => e.2.part == p))
    && !(b.sq.rings.any (fun e => e.1 / 4096 == p && e.2.state == .active))
    && !(b.ft.qps.any (fun e => e.2.part == p && (!e.2.sent.isEmpty || !e.2.reads.isEmpty)))
    && !(b.ps.rounds.any (fun r => r.released.isSome && !r.settled && !r.abandoned &&
      (match cardAt b r.gen r.card with | some (_, c) => c.part == p | none => false)))
    && (List.range 16).all (fun g => grantInUse b p g == 0)

/-- Does a staged binding break R498's BAD_ARG? -/
def bindingBad (b : Block) (vfs : List Nat) (req : List (Option Nat)) : Bool :=
  vfs.any (fun fn => !portPresent b (fn / 128) || (variant b).vfs < fn % 128)
    || req.any (fun r => match r with
      | some fn => !portPresent b (fn / 128) || (fn % 128 != 0 && !vfs.contains fn)
      | none => false)

def codeOf (l : List (Bool × Nat)) : Nat :=
  match l.find? (·.1) with
  | some e => e.2
  | none => 0

/-- The command of an opcode (R496). -/
def ptOpOf (n : Nat) : Option PtOp :=
  match n with
  | 1 => some .bind
  | 2 => some .rebind
  | 3 => some .park
  | 4 => some .adopt
  | 5 => some .reset
  | 6 => some .release
  | 7 => some .recompose
  | _ => none

/-- Is a command on one partition accepted from its state (R496)? -/
def ptAccepts (b : Block) (op : PtOp) (p : Nat) : Bool :=
  let st := partState b p
  match op with
  | .bind => st == 0
  | .rebind => st == 1
  | .park => st == 1 || st == 3
  | .adopt => st == 4 && belay b p
  | .reset => st == 1 || st == 3 || st == 4
  | .release => st != 0 && st != 5
  | .recompose => false

/-- Is a secure session open on the DOE of a port (R498, R518)? -/
def attested (b : Block) (w : Agent) : Bool :=
  match w with
  | .pf h => b.md.sessions.any (fun s => s.bnd == .doe h && s.open_)
  | _ => true

/-- The first cause of refusal of a command on one partition (R498), 0 for none. `arg` is PT_CMD_ARG. -/
def ptRefusal (b : Block) (w : Agent) (op : PtOp) (p : Nat) (scrub : Bool) (arg : Nat) : Nat :=
  let n := bankOf w
  let vfs := stagedVfs b n
  let stages := op == .bind || op == .rebind || op == .adopt
  let pfOnly := bit (fget b F.idProtFramePfOnly 0) p && !vfs.isEmpty
  let noBiv := fon b F.idProtFrameNoBivouac 0 || fon b F.idProtFrameForceScrub 0
  codeOf [(!owns b w p, 3),
    (((op == .park || op == .adopt) && noBiv) || ((op == .bind || op == .rebind) && pfOnly), 8),
    (!ptAccepts b op p, 2), (op == .adopt && !attested b w, 7),
    ((stages && bindingBad b vfs (stagedReq b n)) || (scrub && (op == .bind || op == .park || op == .adopt))
      || (op == .adopt && arg % 2 ^ 32 != fget b F.ptBivouacGen p), 1),
    (stages && vfs.any (fun fn => match vfPart b fn with | some q => q != p | none => false), 4)]

/-- The carve-out pool (R482): data in units of 64 KiB, and QPs. -/
def dataPool (b : Block) : Nat := (variant b).depotGib * 1024
def qpMost (b : Block) : Nat := qpPool b - 1

/-- The first cause of refusal of a RECOMPOSE (R498), 0 for none. -/
def recomposeRefusal (b : Block) (w : Agent) (scrub : Bool) (mask : List Nat) : Nat :=
  let carve := stagedCarve b (bankOf w) mask
  let here := mask.filter (partPresent b)
  let sum := fun (old : Nat → Nat) (new : Nat × Nat × Nat → Nat) =>
    (List.range (variant b).partitions).foldl (fun n p => n + match carve.find? (fun e => e.1 == p) with | some e => new e | none => old p) 0
  codeOf [(here.any (fun p => !owns b w p), 3),
    (mask.any (fun p => bit (fget b F.idProtFrameSealed 0) p), 8),
    (here.any (fun p => partState b p != 0 && partState b p != 1), 2),
    (here.any (fun p => !partIdle b p), 9),
    (scrub || mask.any (fun p => !partPresent b p) || carve.any (fun e => 2048 < e.2.1), 1),
    (dataPool b < sum (fget b F.ptCarveData64k) (·.2.1) || qpMost b < sum (fget b F.ptCarveQpShare) (·.2.2)
      || carve.any (fun e => e.2.2 < qpsUsed b e.1), 5)]

/-- A command is refused, or has completed at once: PT_CMD_STATUS reports it (R497). -/
def ptResult (n code : Nat) (b : Block) : Block := fput F.ptCmdStatusResult n code (rclear .ptCmdStatus n b)

/-- A command is accepted and runs. -/
def ptStart (k : Nat) (c : PtCmd) (b : Block) : Block :=
  modPt (fun t => { t with cmds := tput t.cmds k c }) b

/-- REBIND and PARK begin (R503 steps 1 and 2). -/
def quiesce (p : Nat) (c : PtCmd) (b : Block) : Block :=
  let b := ptEnter p 2 (ptStart p c b)
  let b := ringsDrain (fun k r => k / 4096 == p && r.host && c.leaving.contains r.owner) b
  each (itemsOf b (fun it => it.part == p && !it.committed && itemLeaves b c.leaving it))
    (fun i b => cmdEnds itemEarly i 0x023 b) b

/-- Is a partition under a command of a bank, which a further command may not meet (R480, R494)? A release that Flovel runs itself is
no command in progress: the partition is RESETTING, and its state refuses the command (R496, R498). -/
def ptTaken (b : Block) (p : Nat) : Bool :=
  match ptRunning b p with
  | some (_, c) => c.bank.isSome
  | none => false

/-- A write of PT_CMD (R494-R501): `none` where it is ignored. One that names an absent partition is (R5). -/
def ptCommand (w : Agent) (val : BitVec 64) (b : Block) : Option Block :=
  let n := bankOf w
  let p := qbits val 51 48
  let scrub := val.getLsbD 0
  let arg := fget b F.ptCmdArgArg n
  let force := fon b F.idProtFrameForceScrub 0
  let mask := (List.range 16).filter (fun p => bit arg p)
  if fon b F.ptCmdStatusBusy n || (ptOpOf (qbits val 63 56) != some .recompose && !partPresent b p) then none
  else
    match ptOpOf (qbits val 63 56) with
    | none => some (ptResult n 6 b)
    | some .recompose =>
      if mask.any (ptTaken b) then none
      else
        let code := recomposeRefusal b w scrub mask
        if code != 0 || mask.isEmpty then some (ptResult n code b)
        else
          let c : PtCmd := ⟨.recompose, some n, false, [], [], stagedCarve b n mask, 0, 0, mask.map (fun p => (p, partState b p)), [], []⟩
          some (each mask (fun p b => ptEnter p 2 b) (ptStart (mask.headD 0) c (fput F.ptCmdStatusBusy n 1 (ptResult n 0 b))))
    | some op =>
      if ptTaken b p then none
      else
        let code := ptRefusal b w op p scrub arg
        if code != 0 then some (ptResult n code b)
        else
          let vfs := stagedVfs b n
          let req := stagedReq b n
          let ok := ptResult n 0 b
          let busy := fput F.ptCmdStatusBusy n 1 ok
          match op with
          | .bind => some (ptEnter p 1 (rebindTo p vfs req ok))
          | .adopt =>
            let b := modPt (fun t => { t with lost := tdel t.lost p, since := tdel t.since p }) (rebindTo p vfs req ok)
            let b := modSq (fun q => { q with cqs := q.cqs.map (fun e =>
              if e.1 / 4096 = p && e.2.orphan == 4 then (e.1, { e.2 with orphan := 5 }) else e) }) b
            some (ptEnter p (boundOr b p) b)
          | .rebind =>
            let stay := vfs ++ (req.filterMap id).filter (fun fn => fn % 128 == 0)
            let leaving := (bindingFns b p).filter (fun fn => !stay.contains fn)
            let c : PtCmd := ⟨.rebind, some n, scrub || force, vfs, req, [], 0, 0, [], leaving, []⟩
            some (if scrub || force then resetBegin p c busy else quiesce p c busy)
          | .park => some (quiesce p ⟨.park, some n, false, [], [], [], 0, 0, [], bindingFns b p, []⟩ busy)
          | _ => some (resetBegin p ⟨op, some n, scrub || force, [], [], [], 0, 0, [], [], []⟩ busy)

/-! ### Mailboxes (R520-R525) -/

/-- The side of a mailbox that an agent reaches: a VF its own, a PF that of the VF it selects; none where there is none. -/
def mbxSide (b : Block) (w : Agent) : Option Nat :=
  match w with
  | .vf h v => some (128 * h + v)
  | .pf h =>
    let v := fget b F.ptMbxSelVf (128 * h)
    if 1 ≤ v ∧ v ≤ (variant b).vfs then some (256 + 128 * h + v) else none
  | .mgmt => none

/-- The other side of a mailbox. -/
def mbxPeer (s : Nat) : Nat := if s < 256 then s + 256 else s - 256

/-- The interrupt source of a side (R578). -/
def mbxSource (s : Nat) : Nat :=
  if s < 128 then 1535 + s else if s < 256 then 1655 + (s - 128) else 1776 + (s - 256) / 128

/-- Send a mailbox message (R520). -/
def mbxSend (s : Nat) (b : Block) : Block :=
  if fon b F.ptMbxCtlPending s then fbump F.ptMbxCtlIgnored s 1 b
  else
    let t := mbxPeer s
    let b := eachN 8 (fun i b => rput .ptMbxRecv (8 * t + i) (rget b .ptMbxSend (8 * s + i)) b) b
    sgAssert (mbxSource t) (fput F.ptMbxCtlFull t 1 (fput F.ptMbxCtlPending s 1 b))

/-- Acknowledge a mailbox message (R520). -/
def mbxAck (s : Nat) (b : Block) : Block :=
  if fon b F.ptMbxCtlFull s then
    sgAssert (mbxSource (mbxPeer s)) (fput F.ptMbxCtlFull s 0 (fput F.ptMbxCtlPending (mbxPeer s) 0 b))
  else b

/-- Clear both directions of a VF's mailbox (R521). -/
def mbxClear (fn : Nat) (b : Block) : Block :=
  each [fn, 256 + fn] (fun s b =>
    rclearRange .ptMbxSend (8 * s) 8 (rclearRange .ptMbxRecv (8 * s) 8
      (fput F.ptMbxCtlFull s 0 (fput F.ptMbxCtlPending s 0 b)))) b

/-! ### Resets of functions (R453-R459, R508) -/

/-- The reset of a PF ends the sessions of its DOE with the requests that wait for the DRBG (R649), and clears its dictionary message
registers (R646). -/
def pfMgmtReset (h : Nat) (b : Block) : Block :=
  let mine := fun (x : Binding) => x == .doe h
  let b := modEn (fun e =>
    { e with queue := e.queue.filter (fun r => match r with | .mgmt x _ => !mine x | _ => true),
             asks := e.asks.filter (fun r => !mine r.1) }) b
  modMd (fun m => { m with sessions := m.sessions.filter (fun s => !mine s.bnd) })
    (rclearRange .mdReq (8 * (128 * h)) 8 (rclearRange .mdRsp (8 * (128 * h)) 8 b))

/-- A function is reset: what its port clears and cuts, its host rings, its mailbox, and the sessions of a PF's DOE. -/
def fnReset (fn : Nat) (b : Block) : Block :=
  let b := ringsDrain (fun _ r => r.host && r.owner == fn) (fnCut fn b)
  if fn % 128 = 0 then
    pfMgmtReset (fn / 128) (eachN 120 (fun v b => mbxClear (fn + 1 + v) b) b)
  else fput F.ptMbxCtlPeerReset (256 + fn) 1 (mbxClear fn b)

/-- Functions are reset, and partitions see whether they have lost their hosts. -/
def fnsReset (l : List Nat) (b : Block) : Block := lossCheck l (each l fnReset b)

/-- A function level reset (R455): a PF's clears VF Enable, so it takes its VFs along. -/
def flrTake (fn : Nat) (b : Block) : Block :=
  if !fnEnabled b fn then b
  else if fn % 128 = 0 then fnsReset (portFns b (fn / 128)) b
  else fnReset fn b

/-- A reset of every function of a port (R453): the port retries configuration requests meanwhile (R457). -/
def portReset (h : Nat) (b : Block) : Block :=
  fnsReset (portFns b h) (modHp (fun p => { p with retry := sins h p.retry }) b)

/-- Hot reset (R453). -/
def hotReset (h : Nat) (b : Block) : Block := if portPresent b h then portReset h b else b

/-- DL_Down (R467). -/
def dlDown (h : Nat) (b : Block) : Block :=
  if !portPresent b h || !hostUp b h then b
  else
    let b := fbump F.hpPortStatusDlDowns h 1 (fput F.hpPortStatusRemoved h 1 (linkLost h 4 b))
    portReset h (fhRaise (32 * h + 35) (.port h) none false b)

/-- A write of VF Enable and NumVFs (R452, R453): the VFs that cease to be enabled are reset. -/
def vfControl (h : Nat) (ctl nvf : BitVec 32) (b : Block) : Block :=
  let pf := 128 * h
  let was := portFns b h
  let b := cfgPut pf 0x368 ctl (cfgPut pf 0x370 nvf b)
  let gone := was.filter (fun fn => !fnEnabled b fn)
  if gone.isEmpty then b else fnsReset gone b

/-- VF disable as the host asks for it (R453): `n` is the new NumVFs. -/
def vfDisable (h : Nat) (en : Bool) (n : Nat) (b : Block) : Block :=
  if !portPresent b h then b
  else
    let pf := 128 * h
    let ctl := cfgGet b pf 0x368
    vfControl h (if en then ctl ||| 1#32 else ctl &&& ~~~1#32)
      ((cfgGet b pf 0x370 &&& 0xFFFF0000#32) ||| BitVec.ofNat 32 (n % 65536)) b

/-! ### Configuration writes (R431-R434, R452-R462) -/

/-- A doubleword of configuration space after a write under a byte mask: writable bits take the value, and a 1 clears a bit
that a write of 1 clears. -/
def cfgNew (b : Block) (fn off : Nat) (mask val : BitVec 32) : BitVec 32 :=
  let old := cfgGet b fn off
  let m := mask &&& BitVec.ofNat 32 (cfgMask b fn off)
  let c := mask &&& val &&& BitVec.ofNat 32 (cfgW1c fn off)
  ((old &&& ~~~m) ||| (val &&& m)) &&& ~~~c

/-- The effect of a configuration write beyond the bits it stores. -/
def cfgEffect (fn off : Nat) (mask val : BitVec 32) (b : Block) : Block :=
  let h := fn / 128
  let pf := fn % 128 == 0
  let old := cfgGet b fn off
  let new := cfgNew b fn off mask val
  let devctl := if pf then 0x68 else 0x58
  let ats := if pf then 0x3A4 else 0x10C
  let pri := if pf then 0x3AC else 0x114
  let msix := if pf then 0x50 else 0x40
  if pf && off == 0x368 then vfControl h new (cfgGet b fn 0x370) b
  else if pf && off == 0x370 then vfControl h (cfgGet b fn 0x368) new b
  else if pf && (off == 0x3C8 || off == 0x3D8) then barSize h (off == 0x3D8) (bits new.toNat 13 8) b
  else if pf && off == 0x44 && mask.getLsbD 0 then
    (if bits val.toNat 1 0 = 3 then d3Enter h b else if bits val.toNat 1 0 = 0 then d0Enter h b else b)
  else
    let b' := cfgPut fn off new b
    if off == 0x04 then
      (if old.getLsbD 2 && !new.getLsbD 2 then bmeClear fn (cfgPut fn off (new ||| 4#32) b)
       else if !old.getLsbD 2 && new.getLsbD 2 then msixFlush fn b' else b')
    else if off == devctl && (mask &&& val).getLsbD 15 then flrTake fn b'
    else if off == ats && (old.getLsbD 31 && !new.getLsbD 31 || bits old.toNat 20 16 != bits new.toNat 20 16) then atsForget fn b'
    else if off == pri && old.getLsbD 0 && !new.getLsbD 0 then
      modTu (fun t => { t with priFailed := t.priFailed.filter (· != fn) }) b'
    else if off == pri + 8 then prgDrain fn b'
    else if off == msix then msixFlush fn b'
    else if pf && 0x3E8 ≤ off && off < 0x3F8 then doeWrite h off (mask &&& val) b'
    else b'

/-- A configuration write (R434): answered with Request Retry Status or Unsupported Request, or taken. -/
def configWrite (h fn off : Nat) (mask val : BitVec 32) (b : Block) : Block :=
  let f := 128 * h + fn
  let off := off / 4 * 4
  if !hostUp b h then b
  else
    let b := hostTlp h b
    if cfgRetry b h then emitTlp h (.completion f .retry) b
    else if !fnEnabled b f || 4096 ≤ off then emitTlp h (.completion f .ur) b
    else emitTlp h (.completion f (.data [] false)) (cfgEffect f off mask val b)

end Sys2Proof.Machine
end

