-- ==== Sys2Proof/Machine/Sigs.lean ====
section
/-!
DEFINITION. The commands on the signal controller's registers (R577-R594) and on the fault hub's (R564, R571-R576).
-/
namespace Sys2Proof.Machine

open Sys2Proof

/-! ### Who may configure a source (R580, R588) -/

/-- The partition that a source belongs to: ring sources, the fault slots of a partition, hot-page queues and trace sinks
(R578, R686). -/
def sgPart (s : Nat) : Option Nat :=
  if s < 1024 then some (s / 64)
  else if 1280 ≤ s ∧ s < 1536 then some ((s - 1280) / 16)
  else if 1778 ≤ s ∧ s < 1810 then some ((s - 1778) % 16)
  else none

/-- May an agent configure a source (R580)? -/
def sgMay (b : Block) (w : Agent) (s : Nat) : Bool :=
  if w = .mgmt then true
  else match sgPart s with
    | some p => owns b w p
    | none => false

/-- The mailbox source of an agent's own side (R578). -/
def sgOwnMailbox (w : Agent) : Option Nat :=
  match w with
  | .pf h => some (1776 + h)
  | .vf h v => some (1535 + 120 * h + v)
  | .mgmt => none

/-- May an agent change a bit of a mask or pending word (R588)? -/
def sgMayBit (b : Block) (w : Agent) (s : Nat) : Bool := sgMay b w s || sgOwnMailbox w == some s

/-- Is a source held by the reset of its target (R586)? -/
def sgHeld (b : Block) (s : Nat) : Bool := let (t, fn, _) := sgTarget b s; sgToFn t && flrActive b fn

/-- The bits of a word that a test picks. -/
def wordMask (p : Nat → Bool) (k : Nat) : BitVec 64 :=
  (List.range 64).foldl (fun m i => if p (64 * k + i) then m ||| (1#64 <<< i) else m) 0#64

/-- A write of a mask or pending word (R588): bits that the writer may not change keep their values, and one that it
would have changed is counted. Sources that become eligible signal. -/
def sgWordWrite (r : Reg) (w : Agent) (k : Nat) (val mask : BitVec 64) (b : Block) : Block :=
  let may := wordMask (sgMayBit b w) k
  let free := wordMask (fun s => !sgHeld b s) k
  let old := rget b r k
  if may = 0#64 then ignored .sg w none b
  else
    let take := may &&& free &&& mask
    let new := (old &&& ~~~take) ||| (val &&& take)
    let wrong := (old ^^^ val) &&& mask &&& ~~~may &&& free
    let c := rput r k new b
    let c := sgNewly b ((List.range 64).map (64 * k + ·)) c
    if wrong = 0#64 then c else ignored .sg w none c

/-! ### Delivery -/

/-- The pending sources, in rising order. -/
def sgPendList (b : Block) : List Nat :=
  (List.range 32).flatMap (fun k =>
    let w := rget b .sgPending k
    if w = 0#64 then [] else ((List.range 64).filter (fun i => w.getLsbD i)).map (64 * k + ·))

/-- The sources whose count is not 0, in rising order. -/
def sgCountList (b : Block) : List Nat :=
  (List.range 256).flatMap (fun j =>
    let w := rget b .sgCount j
    if w = 0#64 then [] else ((List.range 8).map (8 * j + ·)).filter (fun s => sgCount b s != 0))

/-- The recurring set of pending bits (R582). -/
def sgRepend (b : Block) : Block :=
  let l := (sgCountList b).filter (fun s => !sgInService b s)
  sgNewly b l (each l (fun s b => sgSetPending s true b) b)

/-- The priority of a source; 0 for a fixed one (R591). -/
def sgPriority (b : Block) (s : Nat) : Nat := if sgFixed s then 0 else fget b F.sgSrcCfgPriority s

/-- Does a source's target match a target code, and a function where it is one? The number 512, no function, stands for
every function of the target (R593). -/
def sgAims (b : Block) (s t fn : Nat) : Bool :=
  let (t', fn', _) := sgTarget b s
  t' == t && (!sgToFn t || fn == 512 || fn' == fn)

/-- The source that a claim for a target returns (R583): the highest priority, then the lowest number. -/
def sgBest (b : Block) (t fn : Nat) : Option Nat :=
  if t = 14 ∨ t = 15 ∨ t = 17 ∨ t = 18 then none
  else
    ((sgPendList b).filter (fun s => sgEligible b s && sgAims b s t fn)).foldl (fun acc s =>
      match acc with
      | none => some s
      | some x => if sgPriority b x < sgPriority b s then some s else some x) none

/-- The value of a claim (R592). -/
def sgClaimValue (b : Block) (t fn : Nat) : BitVec 64 :=
  match sgBest b t fn with
  | none => 0#64
  | some s => BitVec.ofNat 64 (2 ^ 63 + sgCount b s * 2 ^ 48 + s)

/-- A claim: the source's pending bit and count are cleared and it is in service (R583). -/
def sgClaim (t fn : Nat) (b : Block) : Block :=
  match sgBest b t fn with
  | none => b
  | some s => let c := sgSetCount s 0 (sgSetPending s false b); { c with sgServing := sins s c.sgServing }

/-- A complete for a target (R584). -/
def sgComplete (w : Agent) (t fn s : Nat) (b : Block) : Block :=
  let (t', _, _) := sgTarget b s
  if t' = 19 ∧ sgMay b w s ∧ !sgFixed s then
    let c := sgSetCount s 0 (sgSetPending s false b)
    { c with sgServing := srem s c.sgServing }
  else if sgInService b s && sgAims b s t fn then
    sgNewly b [s] { b with sgServing := srem s b.sgServing }
  else ignored .sg w none b

/-- The target code and function of an agent's own target (R592). -/
def sgOwnTarget (w : Agent) : Nat × Nat :=
  match w with
  | .pf h => (10 + h, 128 * h)
  | .vf h v => (12 + h, 128 * h + v)
  | .mgmt => (19, 0)

/-- A software source is triggered (R594). -/
def sgTrigger (w : Agent) (s : Nat) (b : Block) : Block :=
  if 1984 ≤ s ∧ s < 2048 then sgAssert s b else ignored .sg w none b

/-- May a VF name a target: POLL, or a VF of its own partition (R580)? -/
def sgVfTarget (b : Block) (p : Nat) (val : BitVec 64) : Bool :=
  let t := qbits val 63 59
  let f := qbits val 38 32
  19 ≤ t || (t == 12 && vfPart b f == some p) || (t == 13 && vfPart b (128 + f) == some p)

/-- Does a setting of a source name a port or a VF that is not present (R5)? -/
def sgAbsent (b : Block) (val : BitVec 64) : Bool :=
  let t := qbits val 63 59
  ((t == 11 || t == 13 || t == 15) && !portPresent b 1) || ((t == 12 || t == 13) && (variant b).vfs < qbits val 38 32)

/-- A write of SG_SRC_CFG (R580, R591). One that names an absent port or VF, or configures a source of an absent partition, is ignored
(R5). -/
def sgConfig (w : Agent) (s : Nat) (val mask : BitVec 64) (b : Block) : Block :=
  let new := (rget b .sgSrcCfg s &&& ~~~mask) ||| (val &&& mask)
  let mine := match w, sgPart s with
    | .vf _ _, some p => sgVfTarget b p new
    | _, _ => true
  let gone := sgAbsent b new || (match sgPart s with | some p => !partPresent b p | none => false)
  if sgFixed s || !sgMay b w s || !mine || gone || !sgMaskBit b s || sgInService b s then ignored .sg w none b
  else rput .sgSrcCfg s (new &&& 0xFF00007F000007FF#64) b

/-! ### The fault hub -/

/-- Does an agent reach a fault source (R574)? -/
def fhReach (b : Block) (w : Agent) (s : Nat) : Bool :=
  if 256 ≤ s then owns b w ((s - 256) / 16) else (match w with | .vf _ _ => false | _ => true)

/-- The exit of a source (R571): its status is cleared and capture is armed again. -/
def fhExit (w : Agent) (s : Nat) (val : BitVec 64) (b : Block) : Block :=
  if !fhReach b w s then ignored .fh w none b
  else
    match w with
    | .vf _ _ => ignored .fh w (if 256 ≤ s then some ((s - 256) / 16) else none) b
    | _ => if val.getLsbD 63 then { rclear .fhSrcStatus s b with fhPart := srem s b.fhPart } else b

/-- Does a rung have an effect on the capture of a source (R564)? -/
def rungActs (b : Block) (s rung : Nat) : Bool :=
  match rung with
  | 2 => fget b F.fhSrcStatusKind s == 1
  | 3 => b.fhPart.contains s
  | _ => true

/-- The next rung that has an effect, up to the ceiling. -/
def nextRung (b : Block) (s : Nat) : Option Nat :=
  (List.range (fhCeiling b s + 1)).find? (fun r => fget b F.fhSrcStatusRung s < r && rungActs b s r)

/-- The reaction timer of a source expires (R564). Where no rung up to the ceiling has an effect, the timer stops. -/
def fhExpire (s : Nat) (b : Block) : Block :=
  if !fon b F.fhSrcStatusEscalating s then b
  else
    match nextRung b s with
    | none => fput F.fhSrcStatusEscalating s 0 b
    | some r =>
      let b := fput F.fhSrcStatusRung s r b
      let b := fput F.fhSrcStatusEscalating s (b2n (fhRuns b s)) b
      sgAssert (1024 + s) (rungEffects s r b)

/-- FH_INJECT (R576): the partition it names is the fault's (DEDUCED, log entry 29). `none` where a block source is injected for an
absent partition, or the source is one of an absent partition (R5). -/
def fhInject (val : BitVec 64) (b : Block) : Option Block :=
  let s := qbits val 8 0
  let p := if s < 256 then qbits val 12 9 else (s - 256) / 16
  if !val.getLsbD 63 then some b
  else if !partPresent b p then none
  else some (fhRaise s .none (some p) false b)

/-- A write of FH_SRC_CTL (R575). -/
def fhConfig (w : Agent) (s : Nat) (val mask : BitVec 64) (b : Block) : Block :=
  if !fhReach b w s then ignored .fh w none b
  else if w ≠ .mgmt ∧ s < 256 then b
  else
    let m := 0xF000000000000000#64 &&& mask
    rput .fhSrcCtl s ((rget b .fhSrcCtl s &&& ~~~m) ||| (val &&& m)) b

end Sys2Proof.Machine
end

