-- ==== Sys2Proof/Machine/Cc.lean ====
section
/-!
DEFINITION. Context coherence (R529-R547): caches, homes, messages, Nacks and reservations, push hints, and the poisoning
of lines. A request reaches its home as it is issued; every other message is in flight until the command that names it
delivers it, and such a command changes nothing while the message is not in flight (DESIGN CHOICE, log entry 27).
-/
namespace Sys2Proof.Machine

open Sys2Proof

/-! ### Lines, copies and messages -/

/-- The key of a line's copy in a cache, or of an agent's request for it. -/
def ccKey (line agent : Nat) : Nat := 16 * line + agent

/-- A line that is not listed: in no cache and without a transaction. -/
def lineIdle : CcLine := ⟨none, [], none, none, false⟩
def lineAt (b : Block) (line : Nat) : CcLine := tget lineIdle b.cc.lines line
def lineSet (line : Nat) (l : CcLine) (b : Block) : Block := modCc (fun c => { c with lines := tset lineIdle c.lines line l }) b
def copyAt (b : Block) (line tile : Nat) : Option CcCopy := tfind b.cc.copies (ccKey line tile)
def copySet (line tile : Nat) (c : CcCopy) (b : Block) : Block :=
  modCc (fun x => { x with copies := tput x.copies (ccKey line tile) c }) b
def copyDrop (line tile : Nat) (b : Block) : Block := modCc (fun x => { x with copies := tdel x.copies (ccKey line tile) }) b

/-- A copy in a state, with nothing awaited. -/
def copyIn (st : CcState) : CcCopy := ⟨st, false, false, false, [], none⟩

/-- A message is in flight to an agent; a home has none of its own number, so a message to it names the cache that sent
it. -/
def ccSend (line agent : Nat) (m : CcMsg) (b : Block) : Block := modCc (fun c => { c with msgs := c.msgs ++ [(line, agent, m)] }) b

/-- Is a message of a kind that carries something: a FwdGetS, a FwdGetM, a FwdDone, a PutAck? -/
def CcMsg.isFwdGetS : CcMsg → Bool | .fwdGetS _ => true | _ => false
def CcMsg.isFwdGetM : CcMsg → Bool | .fwdGetM _ => true | _ => false
def CcMsg.isFwdDone : CcMsg → Bool | .fwdDone _ _ => true | _ => false
def CcMsg.isPutAck : CcMsg → Bool | .putAck _ => true | _ => false

/-- The first message of a line to or from an agent that a test picks. -/
def ccFind (b : Block) (line agent : Nat) (p : CcMsg → Bool) : Option CcMsg :=
  (b.cc.msgs.find? (fun m => m.1 == line && m.2.1 == agent && p m.2.2)).map (·.2.2)

/-- Take a message out of flight. -/
def ccTake (line agent : Nat) (m : CcMsg) (b : Block) : Block :=
  modCc (fun c => { c with msgs := c.msgs.erase (line, agent, m) }) b


/-- Is a line that of a QP context, which needs an entry of the owner table (R530)? -/
def lineOfQp (line : Nat) : Bool := line % 4 == 0

/-- Is a line cached, or about to be? -/
def CcLine.cached (l : CcLine) : Bool := l.owner.isSome || l.sharers != [] || l.busy.isSome

/-- The owner table is full for a line (R530). -/
def ownerTableFull (b : Block) (line : Nat) : Bool :=
  lineOfQp line && !(lineAt b line).cached && 16384 ≤ tcount (fun k l => lineOfQp k && l.cached) b.cc.lines

/-- Has a context cache room for a line without an eviction (R22, R543): 2,048 QP contexts, 12 MiB in all? -/
def cacheRoom (b : Block) (line tile : Nat) : Bool :=
  let mine := b.cc.copies.filter (fun e => e.1 % 16 == tile)
  let qps := mine.countP (fun e => lineOfQp (e.1 / 16))
  (!(lineOfQp line) || qps < 2048) && 64 * (mine.length - qps) + 512 * qps + 512 ≤ 12 * 2 ^ 20

/-- The partition that a line belongs to, where its object exists. -/
def linePart (b : Block) (line : Nat) : Option Nat :=
  let o := line / 4
  match line % 4 with
  | 0 => (tfind b.ft.qps o).map (·.part)
  | 1 => (tfind b.sq.rings o).map (fun _ => o / 4096)
  | 2 => (tfind b.sq.cqs o).map (fun _ => o / 4096)
  | _ => some (o / 2 ^ 51 / 4096)

/-- The tile at whose stop a line's home slice attaches (R529): the slices hold the lines in turn (DESIGN CHOICE, log entry
27). -/
def lineTile (b : Block) (line : Nat) : Nat :=
  match b.fuses.channels with
  | [] => 0
  | l => channelTile (l.getD (line % l.length) 0)

/-! ### The home (R537, R540, R542, R543) -/

/-- Count a Nack of a request, and reserve the line once the request has been Nacked STARVE times (R542). -/
def ccNack (line agent : Nat) (b : Block) : Block :=
  let k := ccKey line agent
  let n := tget 0 b.cc.nacks k + 1
  let starve := if fget b F.ccCtlStarve 0 = 0 then 1 else fget b F.ccCtlStarve 0
  let l := lineAt b line
  let b := ccSend line agent .nack (fbump F.ccEventsNacks 0 1 (modCc (fun c => { c with nacks := tput c.nacks k n }) b))
  let b := tcCount (lineTile b line) 0x050 (linePart b line) 1 b
  if starve ≤ n ∧ l.reserved = none then fbump F.ccEventsReserved 0 1 (lineSet line { l with reserved := some agent } b) else b

/-- The home takes a request: its Nacks are forgotten, and a reservation for it ends (R542). -/
def ccAccept (line agent : Nat) (b : Block) : Block :=
  let l := lineAt b line
  let b := modCc (fun c => { c with
    nacks := tdel c.nacks (ccKey line agent)
    copies := tmod c.copies (ccKey line agent) (fun x => { x with accepted := true, retryAt := none }) }) b
  if l.reserved = some agent then lineSet line { l with reserved := none } b else b

/-- Offer a line that an NCWrite has left uncached to the hint tile in E (R543). -/
def ccPush (line tile : Nat) (b : Block) : Block :=
  let l := lineAt b line
  if !fon b F.ccCtlPushEn 0 || 12 ≤ tile then b
  else if (copyAt b line tile).isSome || ownerTableFull b line || !cacheRoom b line tile then fbump F.ccEventsPushDeclined 0 1 b
  else copySet line tile (copyIn .e) (lineSet line { l with owner := some tile, sharers := [] } b)

/-- The open transaction of a line ends once no ack is awaited (R537). -/
def ccFinish (line : Nat) (b : Block) : Block :=
  let l := lineAt b line
  match l.busy with
  | none => b
  | some t =>
    if t.acks != [] || t.fwd.isSome then b
    else
      match t.req with
      | .getM | .upgrade =>
        let fromDepot := t.req == .getM && l.owner.isNone
        let b := lineSet line { l with owner := some t.agent, sharers := [], busy := none } b
        let b := if fromDepot then ccSend line t.agent (.data false) b else b
        ccSend line t.agent .grant b
      | .ncWrite hint =>
        let b := lineSet line { l with owner := none, sharers := [], busy := none } b
        let b := modCc (fun c => { c with ncs := tdel c.ncs (ccKey line t.agent) }) b
        (match hint with
         | some h => ccPush line h b
         | none => b)
      | .putM | .putO => lineSet line { l with owner := none, busy := none } b
      | _ => lineSet line { l with busy := none } b

/-- Open a transaction: forwards and invalidations go out (R537). -/
def ccOpen (line agent : Nat) (r : CcReq) (fwd : Option (Nat × CcMsg)) (invs : List Nat) (b : Block) : Block :=
  let l := lineAt b line
  let b := lineSet line { l with busy := some ⟨r, agent, invs, fwd.map (·.1)⟩ } b
  let b := match fwd with
    | some (o, m) => ccSend line o m b
    | none => b
  ccFinish line (each invs (fun t b => ccSend line t .inv b) b)

/-- The home serves a request that it has taken (R537, R538, R540). -/
def ccServe (line agent : Nat) (r : CcReq) (b : Block) : Block :=
  let l := lineAt b line
  let others := l.sharers.filter (· != agent)
  let other := match l.owner with
    | some o => if o = agent then none else some o
    | none => none
  match r with
  | .getS =>
    (match other with
     | some o => ccOpen line agent r (some (o, .fwdGetS agent)) [] b
     | none =>
       if others = [] then ccSend line agent (.data true) (lineSet line { l with owner := some agent, sharers := [] } b)
       else ccSend line agent (.data false) (lineSet line { l with sharers := sins agent l.sharers } b))
  | .getM | .upgrade =>
    let here := l.owner = some agent ∨ l.sharers.contains agent
    let r := if r = .upgrade ∧ here then CcReq.upgrade else .getM
    ccOpen line agent r (other.map (fun o => (o, .fwdGetM agent))) (others.filter (fun t => some t != other)) b
  | .putM | .putO =>
    if l.owner = some agent then
      ccSend line agent .wbGrant (lineSet line { l with busy := some ⟨r, agent, [], some agent⟩ } b)
    else ccSend line agent (.putAck true) b
  | .putE =>
    if l.owner = some agent then ccSend line agent (.putAck false) (lineSet line { l with owner := none } b)
    else ccSend line agent (.putAck true) b
  | .ncRead =>
    (match l.owner with
     | some o => ccOpen line agent r (some (o, .fwdGetS agent)) [] b
     | none => ccSend line agent (.data false) b)
  | .ncWrite _ => ccOpen line agent r (l.owner.map (fun o => (o, .fwdRecall))) (l.sharers.filter (fun t => some t != l.owner)) b

/-- Does a request cache its line? -/
def CcReq.caches (r : CcReq) : Bool := r == .getS || r == .getM || r == .upgrade

/-- A request reaches its home (R533, R542): it is served, or answered with Nack. Nothing is done with a poisoned line
(R545). -/
def ccArrive (line agent : Nat) (r : CcReq) (b : Block) : Block :=
  let l := lineAt b line
  if l.poisoned then b
  else if l.busy.isSome || (l.reserved.isSome && l.reserved != some agent) || (r.caches && ownerTableFull b line) then
    ccNack line agent b
  else ccServe line agent r (ccAccept line agent b)

/-! ### Requests (R529, R532, R540) -/

/-- A cache issues a request: its copy enters the transient state of it. `none` where the copy's state does not allow
the request. -/
def ccIssue (line tile : Nat) (b : Block) (r : CcReq) (st : Option CcState) : Block :=
  match st with
  | none => b
  | some st =>
    if 12 ≤ tile ∨ linePoisoned b (line % 4) (line / 4) then b
    else ccArrive line tile r (copySet line tile (copyIn st) b)

/-- The transient state that a request gives a copy (R532). -/
def ccEnter (b : Block) (line tile : Nat) (r : CcReq) : Option CcState :=
  let at_ : Option CcState := (copyAt b line tile).map (·.st)
  match r, at_ with
  | .getS, none => some .isD
  | .getM, none => some .imD
  | .upgrade, some .s => some .smD
  | .upgrade, some .o => some .omA
  | .putM, some .m => some .miA
  | .putO, some .o => some .oiA
  | .putE, some .e => some .eiA
  | _, _ => none

/-- Is a state stable, so that the line may give way to another (R531, R541)? -/
def CcState.stable (x : CcState) : Bool := x == .m || x == .o || x == .e || x == .s

/-- The line of a tile's cache that gives way to a new one (R540, R541): a QP context where the cache holds its 2,048 of them and the
new line is one more. Of the lines in a stable state it is the first in number (DESIGN CHOICE, log entry 107). -/
def ccVictim (b : Block) (line tile : Nat) : Option (Nat × CcState) :=
  let qps := b.cc.copies.countP (fun e => e.1 % 16 == tile && lineOfQp (e.1 / 16))
  let full : Bool := lineOfQp line && decide (2048 ≤ qps)
  (b.cc.copies.find? (fun e => e.1 % 16 == tile && e.2.st.stable && (!full || lineOfQp (e.1 / 16)))).map (fun e => (e.1 / 16, e.2.st))

/-- A cache evicts a line in a stable state (R540): an S line silently, any other by announcing it. -/
def ccEvict (line tile : Nat) (st : CcState) (b : Block) : Block :=
  match st with
  | .m => ccIssue line tile b .putM (some .miA)
  | .o => ccIssue line tile b .putO (some .oiA)
  | .e => ccIssue line tile b .putE (some .eiA)
  | _ => copyDrop line tile b

/-- Is an announced eviction of a tile under way? -/
def ccEvicting (b : Block) (tile : Nat) : Bool :=
  b.cc.copies.any (fun e => e.1 % 16 == tile && (e.2.st == .miA || e.2.st == .oiA || e.2.st == .eiA))

/-- What the first request of a tile's cache that waits for room can do (R541): go out once there is room, else evict one line
where one may give way and no eviction is under way. -/
def ccRoomStep (b : Block) : Option Block :=
  b.cc.waiting.findSome? (fun w =>
    let (line, tile, r) := w
    if cacheRoom b line tile then
      some (ccIssue line tile (modCc (fun c => { c with waiting := c.waiting.erase w }) b) r (ccEnter b line tile r))
    else if ccEvicting b tile then none
    else (ccVictim b line tile).map (fun v => ccEvict v.1 tile v.2 b))

/-- Requests that wait for room go on as far as they can. -/
def ccRoom (b : Block) : Block := if b.cc.waiting = [] then b else loop 64 ccRoomStep b

/-- A caching agent's request. One for a new line of a cache that has no room waits for it (R541). -/
def ccRequest (line tile : Nat) (r : CcReq) (b : Block) : Block :=
  if r.caches && (copyAt b line tile).isNone && decide (tile < 12) && !linePoisoned b (line % 4) (line / 4) && !cacheRoom b line tile then
    (if b.cc.waiting.any (fun w => w.1 == line && w.2.1 == tile) || (ccEnter b line tile r).isNone then b
     else ccRoom (modCc (fun c => { c with waiting := c.waiting ++ [(line, tile, r)] }) b))
  else ccIssue line tile b r (ccEnter b line tile r)

/-- A non-caching agent's request; it has one at a time for a line. -/
def ccNcRequest (line agent : Nat) (r : CcReq) (b : Block) : Block :=
  if agent < 12 ∨ 16 ≤ agent ∨ (tfind b.cc.ncs (ccKey line agent)).isSome ∨ linePoisoned b (line % 4) (line / 4) then b
  else ccArrive line agent r (modCc (fun c => { c with ncs := tput c.ncs (ccKey line agent) ⟨r, none⟩ }) b)

/-- Deliver a message: what it does, where it is in flight; requests that waited for room may go on then. -/
def ccDeliver (line agent : Nat) (p : CcMsg → Bool) (f : CcMsg → Block → Block) (b : Block) : Block :=
  match ccFind b line agent p with
  | none => b
  | some m => ccRoom (f m (ccTake line agent m b))

/-- The delay of R542 in ns after `n` Nacks. -/
def ccBackoff (b : Block) (n : Nat) : Nat :=
  let lo := if fget b F.ccCtlBackoffMin 0 = 0 then 1 else fget b F.ccCtlBackoffMin 0
  let hi := if fget b F.ccCtlBackoffMax 0 < lo then lo else fget b F.ccCtlBackoffMax 0
  let d := lo * 2 ^ (n - 1)
  10 * (if d ≤ hi then d else hi)

/-- A Nack reaches its requester, which will issue the request again after its backoff. -/
def ccNacked (line agent : Nat) (b : Block) : Block :=
  let k := ccKey line agent
  ccDeliver line agent (· == .nack) (fun _ b =>
    let t := b.now + ccBackoff b (tget 1 b.cc.nacks k)
    modCc (fun c => { c with
      copies := tmod c.copies k (fun x => { x with retryAt := some t })
      ncs := tmod c.ncs k (fun x => { x with retryAt := some t }) }) b) b

/-- The request that a transient state stands for. -/
def CcState.request (x : CcState) : Option CcReq :=
  match x with
  | .isD => some .getS | .imD => some .getM | .smD => some .upgrade | .omA => some .upgrade
  | .miA => some .putM | .oiA => some .putO | .eiA => some .putE
  | _ => none

/-- The backoff of a request ends: it is issued again, as its state now is (R532, R538, R542). -/
def ccRetry (line agent : Nat) (b : Block) : Block :=
  let k := ccKey line agent
  let later := timeTo
  match tfind b.cc.copies k with
  | some c =>
    (match c.retryAt, c.st.request with
     | some t, some r => ccArrive line agent r (copySet line agent { c with retryAt := none } (later t b))
     | _, _ => b)
  | none =>
    match tfind b.cc.ncs k with
    | some x =>
      (match x.retryAt with
       | some t =>
         ccArrive line agent x.req (modCc (fun c => { c with ncs := tput c.ncs k { x with retryAt := none } }) (later t b))
       | none => b)
    | none => b

/-! ### Forwards at a cache (R537, R539, R540) -/

/-- Must a copy hold a forward until its data, or its grant, has come (R539)? -/
def CcCopy.holds (c : CcCopy) : Bool :=
  c.accepted && (c.st == .isD || c.st == .imD || c.st == .smD || c.st == .omA)

/-- What FwdGetS leaves of a copy. `nc` says that it is for a non-caching agent, with which an E owner stays in E. -/
def CcState.afterGetS (x : CcState) (nc : Bool) : CcState :=
  match x with
  | .m => .o
  | .e => if nc then .e else .s
  | .miA => .oiA
  | _ => x

/-- A cache takes FwdGetS, FwdGetM, FwdRecall or Inv and answers it; an announced eviction then goes on. -/
def ccForward (line tile : Nat) (m : CcMsg) (b : Block) : Block :=
  match copyAt b line tile with
  | none => if m = .inv then ccSend line tile .invAck b else ccSend line tile (.fwdDone false false) b
  | some c =>
    if linePoisoned b (line % 4) (line / 4) then ccSend line tile .invAck (copyDrop line tile b)
    else if c.holds then copySet line tile { c with held := c.held ++ [m] } b
    else
      let give := fun (b : Block) =>
        match c.st with
        | .omA => copySet line tile { c with st := .imD } b
        | .miA | .oiA | .eiA => b
        | _ => copyDrop line tile b
      match m with
      | .fwdGetS agent =>
        let st := c.st.afterGetS (12 ≤ agent)
        let own := !((c.st == .e || c.st == .eiA) && agent < 12)
        ccSend line agent (.data false) (ccSend line tile (.fwdDone own true) (copySet line tile { c with st := st } b))
      | .fwdGetM agent => ccSend line agent (.data false) (ccSend line tile (.fwdDone false false) (give b))
      | .fwdRecall => ccSend line tile (.fwdDone false false) (give b)
      | .inv =>
        let b := match c.st with
          | .s => copyDrop line tile b
          | .smD => copySet line tile { c with st := .imD } b
          | _ => b
        ccSend line tile .invAck b
      | _ => b

/-- A copy whose data, or grant, has come answers the forwards it held. -/
def ccHeld (line tile : Nat) (c : CcCopy) (b : Block) : Block :=
  each c.held (fun m b => ccForward line tile m b) (copySet line tile (copyIn c.st) b)

/-- A forward or invalidation is delivered to a cache. -/
def ccForwardIn (line tile : Nat) (p : CcMsg → Bool) (b : Block) : Block := ccDeliver line tile p (ccForward line tile) b

/-! ### Responses and data (R532, R537, R540) -/

/-- InvAck at the home. -/
def ccInvAck (line tile : Nat) (b : Block) : Block :=
  ccDeliver line tile (· == .invAck) (fun _ b =>
    let l := lineAt b line
    match l.busy with
    | none => b
    | some t =>
      ccFinish line (lineSet line { l with sharers := srem tile l.sharers, busy := some { t with acks := srem tile t.acks } } b)) b

/-- FwdDone at the home: the owner stays, keeps a copy in S, or is gone; after a GetS the requester has one too. -/
def ccFwdDone (line tile : Nat) (b : Block) : Block :=
  ccDeliver line tile CcMsg.isFwdDone (fun m b =>
    let l := lineAt b line
    match l.busy, m with
    | some t, .fwdDone own keeps =>
      if t.fwd != some tile then b
      else
        let sh := if keeps && !own then sins tile l.sharers else l.sharers
        let sh := if t.req == .getS then sins t.agent sh else sh
        let wasGetM := t.req == .getM || t.req == .upgrade
        let owner := if own || wasGetM then l.owner else none
        ccFinish line (lineSet line { l with owner := owner, sharers := sh, busy := some { t with fwd := none } } b)
    | _, _ => b) b

/-- WbGrant at a cache: it sends its data and the line ends in I. -/
def ccWbGrant (line tile : Nat) (b : Block) : Block :=
  ccDeliver line tile (· == .wbGrant) (fun _ b => ccSend line tile .wbData (copyDrop line tile b)) b

/-- PutAck at a cache: the line ends in I. -/
def ccPutAck (line tile : Nat) (b : Block) : Block :=
  ccDeliver line tile CcMsg.isPutAck (fun _ b => copyDrop line tile b) b

/-- Grant at a requester: the line ends in M, in IM_D once the data is there too. -/
def ccGrant (line tile : Nat) (b : Block) : Block :=
  ccDeliver line tile (· == .grant) (fun _ b =>
    match copyAt b line tile with
    | none => b
    | some c =>
      if c.st = .imD ∧ !c.data then copySet line tile { c with grant := true } b
      else ccHeld line tile { c with st := .m } b) b

/-- Data at a requester (R532, R536): it always sinks. -/
def ccData (line agent : Nat) (excl : Bool) (b : Block) : Block :=
  ccDeliver line agent (· == .data excl) (fun _ b =>
    if 12 ≤ agent then modCc (fun c => { c with ncs := tdel c.ncs (ccKey line agent) }) b
    else
      match copyAt b line agent with
      | none => b
      | some c =>
        match c.st with
        | .isD => ccHeld line agent { c with st := if excl then .e else .s } b
        | .imD => if c.grant then ccHeld line agent { c with st := .m } b else copySet line agent { c with data := true } b
        | _ => b) b

/-- WbData at the home: the depot copy is written, and the announced eviction ends. -/
def ccWbData (line tile : Nat) (b : Block) : Block :=
  ccDeliver line tile (· == .wbData) (fun _ b =>
    let l := lineAt b line
    match l.busy with
    | some t => if t.fwd = some tile then ccFinish line (lineSet line { l with busy := some { t with fwd := none } } b) else b
    | none => b) b

/-! ### Poisoning (R544-R547, R556) -/

/-- The object of a line in the fault hub, and in CC_POISON. -/
def lineObj (line : Nat) : Obj :=
  let o := line / 4
  match line % 4 with
  | 0 => .qp o
  | 1 => .ring (o % 4096)
  | 2 => .cq (o % 4096)
  | _ => .none
def lineObject (line : Nat) : Nat :=
  let o := line / 4
  if line % 4 = 3 then 0 else if line % 4 = 0 then o else o % 4096

/-- Capture a poisoned line in its partition (R556). `ecc` is the cause. -/
def poisonCapture (p line : Nat) (ecc : Bool) (b : Block) : Block :=
  if fon b F.ccPoisonValid p then fbump F.ccPoisonCount p 1 b
  else
    fput F.ccPoisonObject p (lineObject line) <| fput F.ccPoisonCount p 1 <| fput F.ccPoisonCause p (b2n ecc) <|
      fput F.ccPoisonKind p (line % 4) <| fput F.ccPoisonValid p 1 b

/-- The items whose work needs a line: those of a QP, or of a ring (R545). -/
def lineItems (b : Block) (line : Nat) : List Nat :=
  match line % 4 with
  | 0 => qpItems b (line / 4)
  | 1 => tkeys (fun _ it => it.ringKey == line / 4) b.he.items
  | _ => []

/-- Poison a line (R544, R545): nothing of its transaction is awaited any more, every cache that may hold a copy is
invalidated, and the work that needs it ends. -/
def linePoison (line : Nat) (ecc : Bool) (b : Block) : Block :=
  let l := lineAt b line
  let tiles := (List.range 12).filter (fun t => l.owner == some t || l.sharers.contains t || (copyAt b line t).isSome)
  let b := fbump F.ccEventsTimeouts 0 1 (lineForget line b)
  let b := lineSet line { lineIdle with poisoned := true } b
  let b := each tiles (fun t b => ccSend line t .inv (copySet line t (copyIn .s) b)) b
  let b := match linePart b line with
    | none => b
    | some p => partFault p 2 (lineObj line) (poisonCapture p line ecc b)
  let b := each (lineItems b line) (fun i b => itemForce i 0x0F0 b) b
  if line % 4 = 0 then
    qpWinsFail (line / 4) 0x31 b
  else b

/-- A forward or Inv of an open transaction has not been answered within HOME_TIMEOUT (R544). -/
def homeTimeout (line : Nat) (b : Block) : Block :=
  match (lineAt b line).busy with
  | none => b
  | some t =>
    let put := t.req == .putM || t.req == .putO
    if (t.acks = [] ∧ t.fwd = none) ∨ put then b else ccRoom (linePoison line false b)

end Sys2Proof.Machine
end

