-- ==== Sys2Proof/Machine/Ciph.lean ====
section
/-!
DEFINITION. Cipher engines at their check slots, key slots and key generations, IDE keys, mask sets (R595-R620), and the
entropy source with the DRBG (R621-R629).
-/
namespace Sys2Proof.Machine

open Sys2Proof

/-! ### Halves -/

/-- The key of a half or pipeline. -/
def unitKey (u : CipherHalf) : Nat :=
  match u with
  | .engine t tx => 2 * t + b2n tx
  | .ide h tx => 100 + 2 * h + b2n tx

/-- Is the unit present and, for an engine, not fenced? -/
def unitHere (b : Block) (u : CipherHalf) : Bool :=
  (variant b).cipher &&
    match u with
    | .engine t _ => t < 12 && !(fon b F.ceEngineStatusFenced t)
    | .ide h _ => portPresent b h

/-- Every stream of a port becomes Insecure (R620). -/
def ideAll (h : Nat) (b : Block) : Block := eachN 5 (fun s b => ideInsecure h s b) b

/-- Does an item still need cipher work (R596, R626): its QP protects what it still has to send or to receive? -/
def itemCipher (b : Block) (it : Item) : Bool :=
  opNeedsQp (dOpcode it.desc) && (it.stage == .active || it.stage == .fenceWrite)
    && (match tfind b.ft.qps (dQp it.desc) with | some q => itemEnc q it | none => false)

/-- Items that wait for a half: senders for a transmit half, readers for a receive half. -/
def halfWaiters (b : Block) (k : Nat) : List Nat :=
  itemsOf b (fun it => itemCipher b it && cipherTile b (dQp it.desc) == k / 2 && (k % 2 == 1 || dOpcode it.desc == 0x03))

/-- The end of an item whose cipher work cannot be done: with what has been acknowledged (R611, R626). -/
def cipherFail (i status : Nat) (b : Block) : Block := qpItemFail i status 0 b

/-! ### Mask sets (R613) -/

def enState (b : Block) : Nat := fget b F.enStatusState 0

/-- A copy asks for new sets; a source that has failed answers at once that it has none (R625). -/
def maskAsk (k : Nat) (b : Block) : Block :=
  if (halfOf b k).asked then b
  else if enState b = 3 then fbump F.enCountsUnavailable 0 1 b
  else modEn (fun e => { e with queue := e.queue ++ [.mask k] }) (modHalf k (fun h => { h with asked := true }) b)

/-- A half that has stalled while the source serves nothing (R620, R626). -/
def stallEffect (k : Nat) (b : Block) : Block :=
  if halfReady b k then b
  else if 100 ≤ k then (if enState b = 2 ∨ enState b = 3 then ideAll ((k - 100) / 2) b else b)
  else if enState b = 3 then each (halfWaiters b k) (fun i b => cipherFail i 0x042 b) b
  else b

/-- A copy's set in use has come to its limit. -/
def maskExpire (u : CipherHalf) (copyB : Bool) (b : Block) : Block :=
  if !unitHere b u then b
  else
    let k := unitKey u
    let n := if copyB then (halfOf b k).setsB else (halfOf b k).setsA
    if n = 0 then b
    else
      let b := modHalf k (fun h => if copyB then { h with setsB := n - 1 } else { h with setsA := n - 1 }) b
      let b := maskAsk k b
      if n = 1 then stallEffect k (fbump F.ceEventsMaskStalls 0 1 b) else b

/-- A half receives a set for each of its copies. -/
def maskServe (k : Nat) (b : Block) : Block :=
  let up := fun n => if n < 2 then n + 1 else 2
  let b := modHalf k (fun h => { h with setsA := up h.setsA, setsB := up h.setsB, asked := false }) b
  if (halfOf b k).setsA < 2 || (halfOf b k).setsB < 2 then maskAsk k b else b

/-! ### Check slots (R614-R616) -/

/-- The owner of the read request that a READ_RESP answers. -/
def respOwner (b : Block) (f : Frame) : Option Sender :=
  match tfind b.ft.qps f.hdr.dstQp with
  | some q => (q.reads.find? (fun r => r.psn == f.hdr.psn)).map (·.owner)
  | none => none

/-- Does a reported mismatch name a result? -/
def CipherVictim.hits (b : Block) (v : CipherVictim) (u : Unchecked) : Bool :=
  match v, u with
  | .sent i, .sent owner _ _ _ => owner == .item i
  | .control q, .control k _ _ => k == q
  | .readResp i, .recv f _ => f.hdr.type == tyReadResp && respOwner b f == some (.item i)
  | .received p, .recv f _ =>
    f.hdr.type != tyReadResp && (match tfind b.ft.qps f.hdr.dstQp with | some q => q.part == p | none => false)
  | _, _ => false

/-- A checked result is released. -/
def outRelease (u : Unchecked) (b : Block) : Block :=
  match u with
  | .sent _ _ _ f => frameOut f b
  | .control _ f _ => frameOut f b
  | .recv f r => rxAgain r (fun b => rxPacket f.hdr.dstQp f (rxClose r b)) b

/-- A mismatch on a result of tile `t` (R611, R616). The packet that an item sent stays with its QP, whose resend fills its PSN
(log entry 22). -/
def outMismatch (t : Nat) (u : Unchecked) (b : Block) : Block :=
  let b := fbump F.ceEngineStatusMismatches t 1 b
  match u with
  | .sent (.item i) _ _ _ => cipherFail i 0x041 b
  | .sent _ _ _ _ => b
  | .control k f body => sendControl k f.hdr body f.hdr.path f.hdr.epoch b
  | .recv f r =>
    let b := rxClose r b
    if f.hdr.type = tyReadResp then
      (match respOwner b f with
       | some (.item i) =>
         modQp f.hdr.dstQp (fun q => { q with reads := q.reads.filter (fun r => r.owner != .item i) }) (zeroItem i 0x041 b)
       | _ => b)
    else fbump F.ceEventsRxDiscarded 0 1 b

/-- Take the unchecked results out of a half. -/
def outsTake (k : Nat) (b : Block) : List Unchecked × Block := ((halfOf b k).outs, modHalf k (fun h => { h with outs := [] }) b)

/-- The comparator of a tile has failed its check: the engine is fenced, and all that it has not released is discarded
(R616, R596). -/
def engineFence (t : Nat) (b : Block) : Block :=
  let b := fhRaise (216 + t) (.tile t) none false (fput F.ceEngineStatusFenced t 1 b)
  let tx := outsTake (halfTx t) b
  let rx := outsTake (halfRx t) tx.2
  let b := each (tx.1 ++ rx.1) (outMismatch t) rx.2
  if allFenced b then
    each (itemsOf b (itemCipher b)) (fun i b => modItem i (fun it => { it with bytesDone := some 0 }) (cipherFail i 0x041 b)) b
  else b

/-- A check slot of a unit. A parity error that names no result spoils all of them. -/
def checkSlot (u : CipherHalf) (flagged parityOk : Bool) (bad : List CipherVictim) (b : Block) : Block :=
  if !unitHere b u then b
  else
    match u with
    | .ide h _ => if flagged then b else ideAll h b
    | .engine t tx =>
      if !flagged then engineFence t b
      else
        let o := outsTake (2 * t + b2n tx) b
        let hit := fun (x : Unchecked) => bad.any (fun v => CipherVictim.hits b v x)
        let all := !parityOk && !(o.1.any hit)
        let b := fbump F.ceEngineStatusChecks t 1 o.2
        each o.1 (fun x b => if all || hit x then outMismatch t x b else outRelease x b) b

/-! ### Key slots (R597-R610) -/

def modKey (s : Nat) (f : KeySlot → KeySlot) (b : Block) : Block :=
  modCe (fun c => { c with slots := tset slotEmpty c.slots s (f (tget slotEmpty c.slots s)) }) b

/-- Does a key slot exist (R597)? -/
def keyPresent (b : Block) (s : Nat) : Bool := (variant b).cipher && s < 65536 && partPresent b (s / 4096)

/-- May a next key be staged (R602)? -/
def stageOk (b : Block) (s tx : Nat) : Bool :=
  let k := keySlotOf b s
  k.state == 2 && k.next.isNone &&
    match tfind b.ft.qps k.qp with
    | some q => let d := psnDist q.nextPsn tx; 1 ≤ d && d < 2 ^ 31
    | none => false

/-- A key command (R602, R609): the result code, and the block after it. -/
def keyCommand (op s key tx rx : Nat) (b : Block) : Nat × Block :=
  if !keyPresent b s then (2, b)
  else
    match op with
    | 1 => if (keySlotOf b s).state = 0 then (0, modKey s (fun k => { k with state := 1, key := key }) b) else (1, b)
    | 2 => if stageOk b s tx then (0, modKey s (fun k => { k with next := some (key, tx, rx) }) b) else (1, b)
    | 3 => if (keySlotOf b s).state = 1 then (0, modKey s (fun k => { k with state := 0, key := 0 }) b) else (1, b)
    | _ => (1, b)

/-- A write of CE_KEY_CMD: the key registers are zeroed whatever comes of it (R607). -/
def keyWrite (op : Nat) (b : Block) : Block :=
  let key := (List.range 4).foldl (fun n i => n + (rget b .ceKeyData i).toNat * 2 ^ (64 * i)) 0
  let r := keyCommand op (fget b F.ceKeySelSlot 256) key (fget b F.ceKeySwitchTxPsn 0) (fget b F.ceKeySwitchRxPsn 0) b
  fput F.ceKeyStatusResult 0 r.1 (rclearRange .ceKeyData 0 4 r.2)

/-- The next key becomes current (R604), where its conditions hold; that they have held for RTO_MAX is the command's to say. -/
def keyCommit (s : Nat) (b : Block) : Block :=
  let k := keySlotOf b s
  match k.next, tfind b.ft.qps k.qp with
  | some (key, tx, rx), some q =>
    let reading := q.reads.any (fun r => psnBefore r.psn tx)
    let answering := b.ft.rx.any (fun e => e.2.qp == k.qp && e.2.stage == .read && psnBefore e.2.frame.hdr.psn rx)
    if k.state != 2 || psnBefore (unaOf q) tx || psnBefore q.cumNext rx || reading || answering then b
    else
      let b := modKey s (fun k => { k with key := key, next := none, gen := (k.gen + 1) % 65536 }) b
      fbump F.ceEventsRekeys 0 1 (modQp k.qp (fun q => { q with keySent := psnDist tx q.nextPsn }) b)
  | _, _ => b

/-! ### IDE keys (R619): the slot of a stream, sub-stream, direction and key set (the order is PRESUMED, log entry 12) -/

def ideSlot (stream sub dir set : Nat) : Nat := ((stream * 3 + sub) * 2 + dir) * 2 + set

def ideKeyProg (h slot : Nat) (key : BitVec 256) (session : Bool) (b : Block) : Block :=
  if session && (variant b).cipher && portPresent b h && slot < 60 then
    modCe (fun c => { c with ideKeys := tput c.ideKeys (64 * h + slot) key }) b
  else b

def ideGo (h stream sub dir set : Nat) (session : Bool) (b : Block) : Block :=
  if session && (variant b).cipher && portPresent b h && stream < 5 && sub < 3 && dir < 2 && set < 2
      && (tfind b.ce.ideKeys (64 * h + ideSlot stream sub dir set)).isSome then
    modHp (fun p => { p with insecure := srem (8 * h + stream) p.insecure })
      (modCe (fun c => { c with ideSet := tput c.ideSet (32 * h + 6 * stream + 2 * sub + dir) set }) b)
  else b

def ideStop (h stream sub dir set : Nat) (session : Bool) (b : Block) : Block :=
  let k := 32 * h + 6 * stream + 2 * sub + dir
  if session && (variant b).cipher && portPresent b h && tfind b.ce.ideSet k == some set then
    modCe (fun c => { c with ideSet := tdel c.ideSet k }) b
  else b

/-! ### The entropy source and the DRBG (R621-R629) -/

/-- The DRBG reseeds (R623). -/
def reseed (b : Block) : Block := modEn (fun e => { e with sinceReseed := 0, reseeds := e.reseeds + 1 }) b

/-- The source is READY: the start-up test has passed, and the DRBG is instantiated (R622). -/
def enReady (b : Block) : Block := reseed (fput F.enStatusState 0 1 b)

/-- Draw `n` words from the DRBG. -/
def drawWords (n : Nat) (b : Block) : List (BitVec 32) × Block :=
  ((List.range n).map (fun i => Config.random (b.fresh + i)), { b with fresh := b.fresh + n })

/-- Does an item wait for a seed from an empty pool? -/
def seedStarved (b : Block) (it : Item) : Bool :=
  it.stage == .active && seedWant b it && (tget [] b.en.seeds (ringTile it.part it.ring)).isEmpty
    && b.en.queue.contains (.seeds (ringTile it.part it.ring))

/-- The halves and pipelines that exist. -/
def allHalves (b : Block) : List Nat :=
  if (variant b).cipher then List.range 24 ++ (List.range (2 * (variant b).hostPorts)).map (100 + ·) else []

/-- The source latches FAILED (R625 step 4, R626). -/
def enFail (cause : Nat) (b : Block) : Block :=
  let starved := itemsOf b (seedStarved b)
  let b := fput F.enStatusState 0 3 (fput F.enStatusCause 0 cause b)
  let b := fhRaise 228 .none none false (fbump F.enCountsUnavailable 0 (b.en.queue.length + b.en.asks.length) b)
  let b := each b.en.queue (fun r b => match r with | .mgmt bnd _ => emit (.spdm bnd (.error 5)) b | _ => b) b
  let b := each b.en.asks (fun r b => emit (.spdm r.1 (.error 5)) b) b
  let b := modCe (fun c => { c with halves := c.halves.map (fun e => (e.1, { e.2 with asked := false })) })
    (modEn (fun e => { e with queue := [], asks := [] }) b)
  let b := each starved (fun i b => itemFail i 0x042 0 (commit i b)) b
  each (allHalves b) stallEffect b

/-- The source enters RETEST (R625 step 2). -/
def enRetest (b : Block) : Block :=
  let b := fhNote 229 .none none (fbump F.enStatusRetests 0 1 (fput F.enStatusState 0 2 b))
  each ((allHalves b).filter (100 ≤ ·)) stallEffect b

def HealthTest.cause (t : HealthTest) : Nat := match t with | .rct => 1 | .apt => 2

def countFail (cause : Nat) (b : Block) : Block :=
  if cause = 1 then fbump F.enCountsRctFail 0 1 b else if cause = 2 then fbump F.enCountsAptFail 0 1 b else b

/-- A continuous health test fails (R625). -/
def healthFail (t : HealthTest) (b : Block) : Block :=
  let c := HealthTest.cause t
  match enState b with
  | 1 =>
    let soon : Bool := match b.en.passedAt with | some t => b.now ≤ t + 10 ^ 9 | none => false
    let b := countFail c b
    if soon then enFail 6 b else enRetest (fput F.enStatusCause 0 c b)
  | 2 => enFail c (countFail c b)
  | 3 => countFail c b
  | _ => b

def RetestResult.cause (r : RetestResult) : Nat :=
  match r with
  | .pass => 0
  | .rct => 1
  | .apt => 2
  | .startUp => 3
  | .kat => 5

/-- A retest ends (R625 steps 3 and 4). -/
def retestDone (r : RetestResult) (b : Block) : Block :=
  if enState b != 2 then b
  else if RetestResult.cause r = 0 then modEn (fun e => { e with passedAt := some b.now }) (enReady b)
  else enFail (RetestResult.cause r) (countFail (RetestResult.cause r) b)

def retestTimeout (b : Block) : Block := if enState b = 2 then enFail 4 b else b

/-- RESTART (R628): `none` where it is ignored. -/
def enRestart (b : Block) : Option Block := if enState b = 3 then some (enRetest b) else none

end Sys2Proof.Machine
end

