-- ==== Sys2Proof/Machine/Sub.lean ====
section
/-!
DEFINITION. Submission commands and doorbells (R173-R189, R207-R223, R332-R335, R579, R600): what a write of SQ_CMD, of a
BAR2 slot or of a submission portal does.
-/
namespace Sys2Proof.Machine

open Sys2Proof

/-! ### Results (R216, R217) -/

def sqOk : Nat := 0
def sqBadArg : Nat := 1
def sqBadState : Nat := 2
def sqNotOwner : Nat := 3
def sqInUse : Nat := 4
def sqNoSpace : Nat := 5
def sqUnsupported : Nat := 6

/-- A command of a bank has ended with a result; the fields of SQ_TEARDOWN read 0 for the others. -/
def sqResult (bank code : Nat) (b : Block) : Block :=
  fput F.sqCmdStatusBusy bank 0 <| fput F.sqCmdStatusResult bank code <| fput F.sqCmdStatusAborted bank 0 <|
    fput F.sqCmdStatusHead bank 0 b

/-- A command of a bank is in progress; its result is OK once it ends (R215). -/
def sqBusy (bank : Nat) (b : Block) : Block :=
  fput F.sqCmdStatusBusy bank 1 <| fput F.sqCmdStatusResult bank sqOk <| fput F.sqCmdStatusAborted bank 0 <|
    fput F.sqCmdStatusHead bank 0 b

/-! ### Arguments -/

/-- Argument register `i` of a bank. -/
def sqArg (b : Block) (bank i : Nat) : BitVec 64 := rget b .sqCmdArg (4 * bank + i)

/-- Does an argument hold a bit outside the fields that the command lists? -/
def sqStray (v mask : BitVec 64) : Bool := v &&& ~~~mask != 0#64

/-- Does a range lie wholly in one region of the local map (R53), which it may have for a ring: a host alias of a port present,
compute memory, or, with `part`, the depot data area of a partition (R173, R187)? Compute memory is one region. -/
def ringRegion (b : Block) (part : Option Nat) (base len : Nat) : Option Region :=
  let r := regionOf base
  if base + len ≤ 4 * dieSlot then some r
  else if regionOf (base + len - 1) ≠ r then none
  else
    match r, part with
    | .port h, _ => if portPresent b h then some r else none
    | .depot, some p => if base - depotBase + len ≤ dataSize b p then some r else none
    | _, _ => none

/-- May a function own a ring of a partition: the PF of the issuer's port, or a VF of it mapped to the partition (R217)? -/
def ownerFits (b : Block) (p fn : Nat) : Bool := fn % 128 == 0 || (fn % 128 ≤ 120 && vfPart b fn == some p)

/-- The owning function that a command names: the issuer itself, if it is a VF. -/
def ownerOf (w : Agent) (field : Nat) : Nat :=
  match w with
  | .pf h => 128 * h + field
  | _ => bankOf w

/-- The state of a submission ring, FREE where it is not listed. -/
def ringState (b : Block) (key : Nat) : RingState := match tfind b.sq.rings key with | some r => r.state | none => .free
/-- The state of a completion ring. -/
def cqState (b : Block) (key : Nat) : RingState := match tfind b.sq.cqs key with | some c => c.state | none => .free

/-- Has the home tile of a ring room for one more resident context (R210)? -/
def ringRoom (b : Block) (cq : Bool) (key : Nat) : Bool :=
  let t := homeTile key
  if cq then tcount (fun k c => homeTile k == t && c.resident) b.sq.cqs < 1024
  else tcount (fun k r => homeTile k == t && r.resident) b.sq.rings < 1024

/-! ### Submission rings -/

/-- A ring as SQ_CREATE leaves it. -/
def ringNew (base n : Nat) : Ring :=
  { state := .created, haltCause := 0, base := base, size := n, head := 0, tail := 0, cq := 0, asn := 0, owner := 0, host := false,
    resident := false, fetching := none, discardFetch := false, shadow := [], marks := [], hostWrites := [], teardown := [], expired := false,
    aborted := 0, bound := false, used := 0 }

/-- SQ_CREATE: the result and the block after it. -/
def sqCreate (key bank : Nat) (b : Block) : Nat × Block :=
  let a0 := sqArg b bank 0
  let a1 := sqArg b bank 1
  let s := a1.toNat
  let base := a0.toNat
  if sqStray a0 0x0001FFFFFFFFF000#64 || 10 < s || sqArg b bank 2 != 0#64 then (sqBadArg, b)
  else if (ringRegion b none base (64 * (64 * 2 ^ s))).isNone then (sqBadArg, b)
  else if ringState b key ≠ .free then (sqInUse, b)
  else (sqOk, modSq (fun q => { q with rings := tput q.rings key { ringNew base (64 * 2 ^ s) with resident := ringRoom b false key } }) b)

/-- SQ_BIND; a poisoned ring or completion ring refuses it (R43, R545; log entry 131). -/
def sqBind (w : Agent) (key bank : Nat) (b : Block) : Nat × Block :=
  let p := key / 4096
  let a0 := sqArg b bank 0
  let a1 := sqArg b bank 1
  let a2 := sqArg b bank 2
  let fn := ownerOf w a2.toNat
  if sqStray a0 0xFFF#64 || sqStray a1 0xFFF#64 || sqStray a2 0xFF#64 then (sqBadArg, b)
  else
    match tfind b.sq.rings key with
    | none => (sqBadState, b)
    | some r =>
      let port : Option Nat := match regionOf r.base with | .port h => some h | _ => none
      let wrong := port.isSome && (port != some (fn / 128) || !ownerFits b p fn || (bankOf w % 128 == 0 && 120 < a2.toNat))
      let cqKey := 4096 * p + a0.toNat
      if wrong then (sqBadArg, b)
      else if r.state ≠ .created ∨ linePoisoned b 1 key ∨ linePoisoned b 2 cqKey then (sqBadState, b)
      else
        match tfind b.sq.cqs cqKey with
        | none => (sqNotOwner, b)
        | some c =>
          if c.state ≠ .active ∨ c.orphan ≠ 0 then (sqNotOwner, b)
          else
            (sqOk, modRing key (fun r => { r with state := .active, cq := a0.toNat, asn := a1.toNat, host := port.isSome,
                                                  owner := if port.isSome then fn else 0, bound := true }) b)

/-- SQ_PAUSE. On a poisoned ring it is a use that fails visibly (R43, R545); the model answers BAD_STATE (DESIGN CHOICE, log entry 131). -/
def sqPause (key bank : Nat) (b : Block) : Nat × Block :=
  if (List.range 3).any (fun i => sqArg b bank i != 0#64) then (sqBadArg, b)
  else if ringState b key ≠ .active ∨ linePoisoned b 1 key then (sqBadState, b)
  else (sqOk, modRing key (fun r => { r with state := .paused }) b)

/-- Is a partition QUIESCING for a RECOMPOSE (R514)? -/
def recomposing (b : Block) (p : Nat) : Bool :=
  partState b p == 2 && match ptRunning b p with | some (_, c) => c.op == .recompose | none => false

/-- SQ_RESUME; refused while a RECOMPOSE holds the partition (R514), and on a poisoned ring (R43, R545; log entry 131). -/
def sqResume (key bank : Nat) (b : Block) : Nat × Block :=
  if (List.range 3).any (fun i => sqArg b bank i != 0#64) then (sqBadArg, b)
  else if (ringState b key ≠ .paused ∧ ringState b key ≠ .halted) ∨ recomposing b (key / 4096) ∨ linePoisoned b 1 key then (sqBadState, b)
  else (sqOk, modRing key (fun r => { r with state := .active, haltCause := 0 }) b)

/-- SQ_TEARDOWN (R208, R218): `none` as its result while it runs. A ring that drains already takes it as well, and each one ends as
the ring becomes FREE. A ring whose context is poisoned takes it in any state (R545). -/
def sqTeardown (key bank : Nat) (b : Block) : Option Nat × Block :=
  if (List.range 3).any (fun i => sqArg b bank i != 0#64) then (some sqBadArg, b)
  else
    match tfind b.sq.rings key with
    | none => if linePoisoned b 1 key then (some sqOk, lineForget (lineOf 1 key) b) else (some sqBadState, b)
    | some r =>
      if r.state = .created then (some sqOk, ringFree key b)
      else
        (none, sqBusy bank (modRing key (fun r => { r with state := .draining, discardFetch := r.fetching.isSome,
                                                           teardown := r.teardown ++ [bank] }) b))

/-- Items of a ring whose SQ_TEARDOWN runs. -/
def teardownItems (b : Block) (key : Nat) : List Nat := itemsOf b (fun it => it.ringKey == key)

/-- Is a SQ_TEARDOWN of a ring in progress? -/
def tearing (b : Block) (key : Nat) : Bool := match tfind b.sq.rings key with | some r => !r.teardown.isEmpty | none => false

/-- The 50 us point of SQ_TEARDOWN (R218 step 2). -/
def teardownSource (key : Nat) (b : Block) : Block :=
  if tearing b key then each (teardownItems b key) (fun i b => itemEarly i 0x023 b) b else b

/-- The items of a teardown that are still in flight at its bound end (R218 step 3). -/
def teardownForce (key : Nat) (b : Block) : Block :=
  if tearing b key then
    let l := teardownItems b key
    itemsEnd l 0x023 (modRing key (fun r => { r with expired := true }) b)
  else b

/-- Records of a teardown that are still parked at its bound strand (R218 step 4). -/
def teardownStrand (key : Nat) (b : Block) : Block :=
  if tearing b key then strandParked (fun it => it.ringKey == key) 3 b else b

/-! ### Completion rings -/

/-- CQ_CREATE. -/
def cqCreate (w : Agent) (key bank : Nat) (b : Block) : Nat × Block :=
  let p := key / 4096
  let a0 := sqArg b bank 0
  let a1 := sqArg b bank 1
  let a2 := sqArg b bank 2
  let s := qbits a1 3 0
  let irq := qbits a1 42 32
  let fn := ownerOf w (qbits a1 54 48)
  let n := 64 * 2 ^ s
  if sqStray a0 0x0001FFFFFFFFF000#64 || sqStray a1 0x007F07FF0000000F#64 || sqStray a2 0x0001FFFFFFFFFFF8#64 || 10 < s
      || irq / 64 != p || !ownerFits b p fn then (sqBadArg, b)
  else
    let ok := fun (r : Option Region) => match r with
      | none => false
      | some (.port h) => h == fn / 128
      | some _ => true
    if !ok (ringRegion b (some p) a0.toNat (32 * n)) || !ok (ringRegion b (some p) a2.toNat 8) then (sqBadArg, b)
    else if cqState b key ≠ .free then (sqInUse, b)
    else
      let c : Cq := { state := .active, base := a0.toNat, size := n, tailWord := a2.toNat, irq := irq, owner := fn, head := 0,
                      tail := 0, orphan := 0, resident := ringRoom b true key, issued := [], owed := [],
                      parked := [], used := 0 }
      (sqOk, modSq (fun q => { q with cqs := tput q.cqs key c }) b)

/-- CQ_TEARDOWN. -/
def cqTeardown (key bank : Nat) (b : Block) : Nat × Block :=
  if (List.range 3).any (fun i => sqArg b bank i != 0#64) then (sqBadArg, b)
  else if cqState b key ≠ .active then (sqBadState, b)
  else if b.sq.rings.any (fun e => e.1 / 4096 == key / 4096 && e.2.cq == key % 4096 && e.2.bound && e.2.state != .free) then
    (sqInUse, b)
  else (sqOk, cqFree key b)

/-! ### Queue pairs (R333-R335) -/

/-- A QP as QP_CREATE leaves it (R333, R363). -/
def qpNew (b : Block) (p : Nat) (a0 a1 a2 : BitVec 64) : Qp :=
  let enc := a0.getLsbD 40
  { state := 1, part := p, peerNode := qbits a0 14 0, peerQp := qbits a0 39 16, enc := enc, clearOk := a0.getLsbD 41,
    pathSet := qbits a0 57 48, resident := false, loading := false, used := b.now, nextPsn := qbits a1 31 0, una := qbits a1 31 0,
    cumNext := qbits a1 63 32, dur := (qbits a1 63 32 + 2 ^ 32 - 1) % 2 ^ 32, nextMsn := 1, expMsn := 1,
    cwnd := Nat.max 4096 (Nat.min 4194304 (fget b F.ftCcCwndInit 0 * 4096)), alpha := 0, rr := 0, srtt := 8000, rttvar := 4000, base := none, baseAt := b.now,
    roundStart := b.now, acked := 0, marked := 0, loss := false, leftAt := none, keySlot := if enc then qbits a2 15 0 else 0,
    keySent := 0, ctl := 0, ctlRx := 0, lastPath := (0, 0), cause := 0, causePsn := 0, sentCount := 0, resentCount := 0,
    rcvdCount := 0, dupCount := 0, bytesSent := 0, bytesRcvd := 0, bytesCe := 0, rx := [], undur := [], lastPsns := [],
    trackers := [], sinceAck := 0, ackBytesCe := 0, ackRp := false, gapAckAt := 0, sent := [], reads := [], awaits := [], skips := [],
    curMsn := [], destroy := none, dues := [], cc := rget b .ftCc 0 }

/-- QP_CREATE. -/
def qpCreate (p k bank : Nat) (b : Block) : Nat × Block :=
  let a0 := sqArg b bank 0
  let a1 := sqArg b bank 1
  let a2 := sqArg b bank 2
  let enc := a0.getLsbD 40
  let slot := keySlotOf b (qbits a2 15 0)
  if noFabric b || (enc && !(variant b).cipher) then (sqUnsupported, b)
  else if k = 0 ∨ qpPool b ≤ k ∨ sqStray a0 0x03FF03FFFFFF7FFF#64 ∨ sqStray a2 0xFFFF#64
      ∨ (fon b F.idNodeValid 0 ∧ qbits a0 14 0 = selfNode b) ∨ qbits a0 14 0 = 0x7FFF ∨ qbits a0 39 16 = 0
      ∨ qpPool b ≤ qbits a0 39 16 ∨ (enc ∧ (slot.state ≠ 1 ∨ qbits a2 15 0 / 4096 ≠ p)) then (sqBadArg, b)
  else if (tfind b.ft.qps k).isSome then (sqBadState, b)
  else if fget b F.ptCarveQpShare p ≤ qpsUsed b p then (sqNoSpace, b)
  else
    let b := modFt (fun t => { t with qps := tput t.qps k (qpNew b p a0 a1 a2) }) (lineForget (lineOf 0 k) b)
    (sqOk, if enc then modKey (qbits a2 15 0) (fun s => { s with state := 2, qp := k }) b else b)

/-- QP_DESTROY: its result, `none` where the QP is not the issuer's (the write is then ignored), and `some none` while
it runs. -/
def qpDestroy (w : Agent) (p k bank : Nat) (b : Block) : Option (Option Nat) × Block :=
  if noFabric b then (some (some sqUnsupported), b)
  else if (List.range 3).any (fun i => sqArg b bank i != 0#64) then (some (some sqBadArg), b)
  else
    match tfind b.ft.qps k with
    | none => (some (some sqBadState), b)
    | some q =>
      if !owns b w q.part then (none, b)
      else if q.part ≠ p then (some (some sqNotOwner), b)
      else if q.state = 3 then (some (some sqBadState), b)
      else (some none, sqBusy bank (qpDrain k (some bank) b))

/-! ### SQ_CMD (R213-R217) -/

/-- The partition that a command of a function names: a VF's own. -/
def sqPart (b : Block) (w : Agent) (val : BitVec 64) : Option Nat :=
  match w with
  | .vf h v => vfPart b (128 * h + v)
  | _ => if owns b w (qbits val 51 48) then some (qbits val 51 48) else none

/-- A write of SQ_CMD: `none` where it is ignored and counted. A ring number above 4,095 is answered BAD_ARG (DEDUCED, log
entry 28). -/
def sqCommand (w : Agent) (val : BitVec 64) (b : Block) : Option Block :=
  let bank := bankOf w
  let op := qbits val 63 56
  let obj := qbits val 19 0
  match sqPart b w val with
  | none => none
  | some p =>
    if fon b F.sqCmdStatusBusy bank then none
    else
      let key := 4096 * p + obj
      let done := fun (r : Nat × Block) => some (sqResult bank r.1 r.2)
      let ring := fun (r : Nat × Block) => if 4096 ≤ obj then done (sqBadArg, b) else done r
      match op with
      | 0x01 => ring (sqCreate key bank b)
      | 0x02 => ring (sqBind w key bank b)
      | 0x03 => ring (sqPause key bank b)
      | 0x04 => ring (sqResume key bank b)
      | 0x05 =>
        if 4096 ≤ obj then done (sqBadArg, b)
        else (match sqTeardown key bank b with
          | (some c, b) => done (c, b)
          | (none, b) => some b)
      | 0x08 => ring (cqCreate w key bank b)
      | 0x09 => ring (cqTeardown key bank b)
      | 0x10 => done (qpCreate p obj bank b)
      | 0x11 =>
        (match qpDestroy w p obj bank b with
         | (none, _) => none
         | (some (some c), b) => done (c, b)
         | (some none, b) => some b)
      | _ => done (sqBadArg, b)

/-! ### Doorbells (R174-R183, R189) -/

/-- Is a partition deaf to doorbells: STOPPED (R205) or RESETTING (R510)? -/
def partDeaf (b : Block) (p : Nat) : Bool := partState b p == 3 || partState b p == 5

/-- Does a submission ring take a tail doorbell (R178, R207)? -/
def ringHears (b : Block) (key : Nat) : Bool :=
  (ringState b key == .active || ringState b key == .paused) && !partDeaf b (key / 4096) && !linePoisoned b 1 key

/-- Does a completion ring take a head doorbell (R178, R505)? One whose context is poisoned takes none (R43, R545). -/
def cqHears (b : Block) (key : Nat) : Bool :=
  match tfind b.sq.cqs key with
  | some c => c.state == .active && c.orphan == 0 && !partDeaf b (key / 4096) && !linePoisoned b 2 key
  | none => false

/-- A new tail at a resident ring (R174, R175). -/
def tailTake (key ptr : Nat) (b : Block) : Block :=
  match tfind b.sq.rings key with
  | none => b
  | some r =>
    let n := r.size
    if 2 ^ 17 ≤ ptr ∨ n ≤ ptr % 65536 ∨ n < ringUsed n r.head r.tail + ringUsed n r.tail ptr then
      malformed (key / 4096) 0x0B false (key % 4096) (ptr % 2 ^ 17) b
    else modRing key (fun r => { r with tail := ptr, used := b.now }) b

/-- A new head at a resident completion ring (R189). -/
def headTake (key ptr : Nat) (b : Block) : Block :=
  match tfind b.sq.cqs key with
  | none => b
  | some c =>
    let n := c.size
    if 2 ^ 17 ≤ ptr ∨ n ≤ ptr % 65536 ∨ ringUsed n c.head c.tail < ringUsed n c.head ptr then
      malformed (key / 4096) 0x0B true (key % 4096) (ptr % 2 ^ 17) b
    else modCq key (fun c => { c with head := ptr, used := b.now }) b

/-- A doorbell of an agent at a ring that takes it: at once if the ring is resident, else behind its load (R212, R728). -/
def doorbell (w : Agent) (cq : Bool) (key ptr : Nat) (b : Block) : Block :=
  let here := if cq then (match tfind b.sq.cqs key with | some c => c.resident | none => false)
    else (match tfind b.sq.rings key with | some r => r.resident | none => false)
  let wait := fun (b : Block) => ringLoad cq key (modSq (fun q => { q with waiting := q.waiting ++ [(cq, key, ptr, w)] }) b)
  if here && !(b.sq.waiting.any (fun w => w.1 == cq && w.2.1 == key)) then (if cq then headTake key ptr b else tailTake key ptr b)
  else wait b

/-- The partition and slot of a BAR2 write (R177): none for a reserved slot. -/
def slotOfBar2 (b : Block) (w : Agent) (slot : Nat) : Option (Nat × Nat) :=
  match w with
  | .vf h v => if slot < 8192 then (vfPart b (128 * h + v)).map (fun p => (p, slot)) else none
  | .pf _ => if slot % 131072 < 8192 ∧ partPresent b (slot / 131072) then some (slot / 131072, slot % 131072) else none
  | .mgmt => none

/-- Is a function a ring's owner, or the PF of the owner's port (R178)? -/
def fromOwner (w : Agent) (owner : Nat) : Bool := bankOf w == owner || bankOf w == owner / 128 * 128

/-- A BAR2 write (R177, R178): `none` where it is ignored and counted. -/
def bar2Write (w : Agent) (slot : Nat) (size : DbSize) (val : BitVec 64) (b : Block) : Option Block :=
  let ptr := if size = .quad then val.toNat else val.toNat % 2 ^ 32
  if size ≠ .quad ∧ size ≠ .lower then none
  else
    match slotOfBar2 b w slot with
    | none => none
    | some (p, j) =>
      let key := 4096 * p + j % 4096
      if j < 4096 then
        match tfind b.sq.rings key with
        | none => none
        | some r => if r.host && fromOwner w r.owner && ringHears b key then some (doorbell w false key ptr b) else none
      else
        match tfind b.sq.cqs key with
        | none => none
        | some c => if fromOwner w c.owner && cqHears b key then some (doorbell w true key ptr b) else none

/-- A BAR2 write is taken: Unsupported Request while the function has no memory space (R434), nothing while the
block is stopped (R566). -/
def bar2Take (w : Agent) (slot : Nat) (size : DbSize) (val : BitVec 64) (b : Block) : Block :=
  let fn := bankOf w
  if w = .mgmt ∨ !hostUp b (fn / 128) ∨ ideOff b fn then b
  else
    let b := hostTlp (fn / 128) b
    if !mseOn b fn || inD3 b (fn / 128) then aerSet (fn / 128) 0x104 20 b
    else if stopped b then b
    else
      match bar2Write w slot size val b with
      | some b => b
      | none => ignored .sq w ((slotOfBar2 b w slot).map (·.1)) b

/-- A BAR2 write arrives (R177, R446). -/
def bar2 (w : Agent) (slot : Nat) (size : DbSize) (val : BitVec 64) (b : Block) : Block :=
  match (if w = .mgmt then none else postHold (bankOf w / 128) (.bar2 w slot size val) b) with
  | some b => b
  | none => bar2Take w slot size val b

/-- A portal message (R179, R180). The portal has no function, so what is ignored is counted for none. A must-be-zero bit is looked
at before the ring that the message names (DESIGN CHOICE, log entry 91). -/
def portalMsg (die portal : Nat) (msg : BitVec 64) (b : Block) : Block :=
  let i := 64 * die + portal
  let p := fget b F.sqPortalMapPartition i
  let cq := msg.getLsbD 47
  let num := qbits msg 43 32
  let key := 4096 * p + num
  if stopped b || 4 ≤ die || 64 ≤ portal then b
  else if !fon b F.sqPortalMapValid i then ignored .sq .mgmt none b
  else if partDeaf b p || !partPresent b p then ignored .sq .mgmt (some p) b
  else if msg &&& 0xFFFF7000FFFE0000#64 != 0#64 then malformed p 0x0B cq num (qbits msg 16 0) b
  else if cq then (if cqHears b key then doorbell .mgmt true key (qbits msg 16 0) b else ignored .sq .mgmt (some p) b)
  else
    match tfind b.sq.rings key with
    | none => ignored .sq .mgmt (some p) b
    | some r => if !r.host && ringHears b key then doorbell .mgmt false key (qbits msg 16 0) b else ignored .sq .mgmt (some p) b

/-! ### Loads of contexts (R212, R728) -/

/-- The resident ring of a tile that gives way to another: the least recently used one that has nothing to fetch, or no entry and no
tail word under way; the spec names no policy (DESIGN CHOICE, log entry 118). -/
def ringVictim (b : Block) (cq : Bool) (t : Nat) : Option Nat :=
  let l : List (Nat × Nat) :=
    if cq then (b.sq.cqs.filter (fun e => homeTile e.1 == t && e.2.resident && e.2.issued.isEmpty && e.2.owed.isEmpty)).map (fun e => (e.1, e.2.used))
    else (b.sq.rings.filter (fun e => homeTile e.1 == t && e.2.resident && e.2.fetching.isNone && (e.2.head == e.2.tail || e.2.state != .active))).map (fun e => (e.1, e.2.used))
  (l.foldl (fun acc e => match acc with
    | none => some e
    | some x => if e.2 < x.2 then some e else some x) none).map (·.1)

/-- Make a ring context resident, or not. -/
def ringPlace (cq : Bool) (key : Nat) (on : Bool) (b : Block) : Block :=
  if cq then modCq key (fun c => { c with resident := on, used := b.now }) b
  else modRing key (fun r => { r with resident := on, used := b.now }) b

/-- The doorbells that waited for a ring act in the order in which they came (R183); one that the ring no longer takes is
ignored and counted. -/
def doorbellsAct (cq : Bool) (key : Nat) (b : Block) : Block :=
  let mine := b.sq.waiting.filter (fun w => w.1 == cq && w.2.1 == key)
  let b := modSq (fun q => { q with waiting := q.waiting.filter (fun w => !(w.1 == cq && w.2.1 == key)) }) b
  each mine (fun w b =>
    if cq then (if cqHears b key then headTake key w.2.2.1 b else ignored .sq w.2.2.2 (some (key / 4096)) b)
    else if ringHears b key then tailTake key w.2.2.1 b else ignored .sq w.2.2.2 (some (key / 4096)) b) b

/-- The load of a ring context ends: it is among the 16 that its tile loads at once. It
lasts while the tile has no room. -/
def ringLoaded (cq : Bool) (key : Nat) (b : Block) : Block :=
  let t := homeTile key
  let mine := (b.sq.loads.filter (fun l => homeTile l.2 == t)).take 16
  if !mine.contains (cq, key) then b
  else
    let enter := fun (b : Block) =>
      doorbellsAct cq key (ringPlace cq key true (modSq (fun q => { q with loads := q.loads.erase (cq, key) }) b))
    if ringRoom b cq key then enter b
    else
      match ringVictim b cq t with
      | some v => enter (ringPlace cq v false b)
      | none => b

end Sys2Proof.Machine
end

