-- ==== Sys2Proof/Machine/RegRead.lean ====
section
/-!
DEFINITION. Where a register access lands (R29-R32, R5, R487) and what each register reads as.
-/
namespace Sys2Proof.Machine

open Sys2Proof

/-- Where an access to a register lands. `absent`: it reads zero and ignores writes (R17, R31). `foreign`: it names what does
not belong to the accessing function, or is not present (R32, R5); it reads zero, and a write is ignored and counted.
`at_`: copy `i` of the register. -/
inductive Where where
  | absent
  | foreign
  | at_ (i : Nat)
  deriving DecidableEq, Repr

/-- The partition that a banked selector of an agent names, where it is the agent's: a VF's own (R86, R490). -/
def selPart (b : Block) (w : Agent) (f : Fld) : Option Nat :=
  match w with
  | .vf h v => vfPart b (128 * h + v)
  | _ => if owns b w (fget b f (bankOf w)) then some (fget b f (bankOf w)) else none

/-- The place of a register that lies by partition. -/
def wherePart (o : Option Nat) (f : Nat → Nat) : Where := match o with | some p => .at_ (f p) | none => .foreign

/-- The place of a register that lies by a partition which its offset names. -/
def whereOwn (b : Block) (w : Agent) (p i : Nat) : Where := if owns b w p then .at_ i else .foreign

/-- Is a function number that of a function present on the variant (R2)? -/
def fnPresent (b : Block) (fn : Nat) : Bool := portPresent b (fn / 128) && fn % 128 ≤ (variant b).vfs

/-- The function that HP_FN_SEL names (R450): a VF's own. -/
def selFn (b : Block) (w : Agent) : Option Nat :=
  match w with
  | .vf h v => some (128 * h + v)
  | .pf h => let fn := 128 * h + fget b F.hpFnSelFunction (bankOf w)
             if fnPresent b fn then some fn else none
  | .mgmt => none

/-- The function whose stranded log HE_STRAND_SEL names (R272). -/
def strandFn (b : Block) (w : Agent) : Option Nat :=
  let h := fget b F.heStrandSelPort (bankOf w)
  let fn := 128 * h + fget b F.heStrandSelFunction (bankOf w)
  match w with
  | .pf h' => if h = h' ∧ fnPresent b fn then some fn else none
  | .mgmt => if fnPresent b fn then some fn else none
  | .vf _ _ => none

/-- May an agent select a QP (R339): one of a partition of its own, or one that no partition has? -/
def qpReach (b : Block) (w : Agent) (k : Nat) : Bool :=
  match tfind b.ft.qps k with
  | some q => owns b w q.part
  | none => k < qpPool b

/-- May an agent select a card (R426): not one of another's partition? -/
def cardReach (b : Block) (w : Agent) (c : Nat) : Bool :=
  match b.ps.sched with
  | none => true
  | some s => match tfind s.cards c with
    | some d => !d.valid || owns b w d.part
    | none => true

/-- May an agent select a counter (R675)? A VF reaches those of its partition. -/
def counterReach (b : Block) (w : Agent) (c : Nat) : Bool :=
  match w with
  | .vf h v => fon b F.tcCntOwnValid c && vfPart b (128 * h + v) == some (fget b F.tcCntOwnPartition c)
  | _ => true

/-- The address-space key that TU_AS_SEL names. -/
def selAs (b : Block) (w : Agent) : Option Nat :=
  (selPart b w F.tuAsSelPartition).map (fun p => 4096 * p + fget b F.tuAsSelAs (bankOf w))

/-- Is a register one that an agent sees (R31)? -/
def Reg.seen (r : Reg) (w : Agent) : Bool :=
  match w with
  | .pf _ => r.spec.pf
  | .vf _ _ => r.spec.vf
  | .mgmt => r.spec.mgmt

/-- The registers that the pitch sequencer has on every variant (the time of day). -/
def Reg.timed (r : Reg) : Bool := r == .psTime || r == .psTimeCtl || r == .psOffset || r == .psStatus

/-- Does a VF that is mapped to no partition reach a register (R487)? -/
def Reg.unmappedOk (r : Reg) : Bool := r == .ptMbxCtl || r == .ptMbxSend || r == .ptMbxRecv || r == .hpFnStatus

/-- The place of copy `c` of a register, for an agent that sees it. -/
def regPlace (b : Block) (w : Agent) (r : Reg) (c : Nat) : Where :=
  let k := bankOf w
  match r with
  | .ptGrantBase | .ptGrantLimit | .ptGrantCtl => whereOwn b w (c / 16) c
  | .ptRefused | .ptPartStatus | .ptPartCfg | .ptCarve | .ptBivouac => wherePart (selPart b w F.ptPartSelPartition) id
  | .ptCmem => wherePart (selPart b w F.ptPartSelPartition) (fun p => 4 * p + c)
  | .ptPartSel | .ptCmd | .ptCmdArg | .ptCmdStatus | .ptStageReq | .ptMbxSel | .tuAsSel | .tuInvVa | .tuInvStatus | .sqCmd | .sqCmdStatus
  | .sqRingSel | .sqIgnored | .heStrandSel | .cxPartSel | .ftQpSel | .psCardSel | .hpFnSel | .sgClaim | .sgComplete | .sgStatus
  | .ceKeySel | .mdCtl | .tcEvtSel | .tcPartSel | .tcDigSel | .tcCntSel | .tcDumpWinSel => .at_ k
  | .ptStageVf => .at_ (4 * k + c)
  | .ptStageCarve => if partPresent b c then .at_ (16 * k + c) else .foreign
  | .ptVfMap =>
    if c % 128 = 0 ∨ 120 < c % 128 then .absent
    else if !fnPresent b c then .foreign
    else (match w with | .pf h => if c / 128 = h then .at_ c else .foreign | _ => .at_ c)
  | .ptMbxCtl => wherePart (mbxSide b w) id
  | .ptMbxSend | .ptMbxRecv => wherePart (mbxSide b w) (fun s => 8 * s + c)
  | .ptMbxPending => .at_ (2 * (k / 128) + c)
  | .tuAsCtl | .tuAsRoot => wherePart (selAs b w) id
  | .tuSegBase | .tuSegLen | .tuSegMap | .tuSegList | .tuSegCtl => wherePart (selAs b w) (fun a => 16 * a + c)
  | .tuPartCtl | .tuHotqBase | .tuHotqCtl | .tuHotqPtr | .tuFaultVa | .tuFaultInfo | .tuCounts =>
    wherePart (selPart b w F.tuAsSelPartition) id
  | .tuInvCtl => wherePart (selPart b w F.tuAsSelPartition) (fun _ => k)
  | .sqCmdArg => .at_ (4 * k + c)
  | .sqRingInfo => wherePart (selPart b w F.sqRingSelPartition) (fun _ => k)
  | .sqMalformed => wherePart (selPart b w F.sqRingSelPartition) id
  | .hePartWeight | .cxPartCtl | .ccWatchdog | .ccPoison => whereOwn b w c c
  | .heStrandStatus | .heStrandCtl => wherePart (strandFn b w) id
  | .heStrandEntry => wherePart (strandFn b w) (fun fn => 8 * fn + c)
  | .cxEvents | .cxEabStatus => wherePart (selPart b w F.cxPartSelPartition) id
  | .ftQpStatus => let q := fget b F.ftQpSelQp k; if qpReach b w q then .at_ q else .foreign
  | .ftQpCtx => if qpReach b w (fget b F.ftQpSelQp k) then .at_ (64 * k + c) else .foreign
  | .ftPortStatus | .ftPortFec => if portHere b c then .at_ c else .foreign
  | .psCardStatus => let d := fget b F.psCardSelCard k; if cardReach b w d then .at_ d else .foreign
  | .hpWinBase | .hpWinLen | .hpWinCtl =>
    (match selFn b w with
     | some fn => if fn % 128 ≠ 0 ∧ 4 ≤ c then .absent else .at_ (64 * fn + c)
     | none => .foreign)
  | .hpFnPasid | .hpFnStatus => wherePart (selFn b w) id
  | .hpPmCtl | .hpPortCtl | .hpPortStatus | .hpEvents => if portPresent b c then .at_ c else .foreign
  | .hpMsixAddr | .hpMsixData => if k % 128 ≠ 0 ∧ 64 ≤ c then .absent else .at_ (2048 * k + c)
  | .hpPba => if k % 128 ≠ 0 ∧ 1 ≤ c then .absent else .at_ (32 * k + c)
  | .fhSrcStatus => if fhReach b w c then .at_ c else .foreign
  | .sgMask | .sgPending => if c < 16 then whereOwn b w c c else .at_ c
  | .sgCount =>
    (match w with
     | .vf h v => if c < 128 ∧ vfPart b (128 * h + v) = some (c / 8) then .at_ c else .foreign
     | _ => .at_ c)
  | .sgSrcCfg =>
    (match w, sgPart c with
     | .vf _ _, none => .foreign
     | _, some p => whereOwn b w p c
     | _, none => .at_ c)
  | .ceKeyStatus | .ceKeyCmd =>
    (match w with
     | .pf _ => whereOwn b w (fget b F.ceKeySelSlot k / 4096) 0
     | _ => .at_ 0)
  | .mdReq | .mdRsp => .at_ (8 * k + c)
  | .tcEvtData => .at_ (2 * k + c)
  | .tcPartCtl | .tcSinkBase | .tcSinkCtl | .tcSinkPtr => wherePart (selPart b w F.tcPartSelPartition) id
  | .tcDigCfg | .tcDigAcc => wherePart (selPart b w F.tcPartSelPartition) (fun p => 16 * p + fget b F.tcDigSelSlot k)
  | .tcCntCfg | .tcCntVal | .tcCntOwn =>
    let n := fget b F.tcCntSelCounter k
    if 6144 ≤ n then .absent else if counterReach b w n then .at_ n else .foreign
  | .tcDumpWin => .at_ (64 * k + c)
  | _ => .at_ c

/-- Where an access of an agent to copy `c` of a register lands. -/
def regIdx (b : Block) (w : Agent) (r : Reg) (c : Nat) : Where :=
  let unmapped : Bool := match w with | .vf h v => vfPart b (128 * h + v) == none | _ => false
  if !r.seen w then .absent
  else if r.spec.unit == .ps && !(variant b).pitch && !r.timed then .absent
  else if r.spec.unit == .ce && !(variant b).cipher then .absent
  else if unmapped && !r.unmappedOk then .foreign
  else regPlace b w r c

/-! ### What registers read as -/

/-- The bits of a register whose fields have one of some access codes. -/
def Reg.bitsOf (r : Reg) (p : Acc → Bool) : BitVec 64 :=
  r.spec.fields.foldl (fun m f => if p f.acc then m ||| fmask f.hi f.lo else m) 0#64

/-- A word with a field set, held at the field's largest value. -/
def fset (f : Fld) (v : Nat) (w : BitVec 64) : BitVec 64 := qset w f.hi f.lo (if f.max < v then f.max else v)
def fsetB (f : Fld) (v : Bool) (w : BitVec 64) : BitVec 64 := fset f (b2n v) w

/-- The state codes of R207. -/
def RingState.code (s : RingState) : Nat :=
  match s with
  | .free => 0 | .created => 1 | .active => 2 | .paused => 3 | .halted => 4 | .stopped => 5 | .draining => 6

/-- ID_VARIANT (R7). -/
def idVariantWord (v : Variant) (code : Nat) : BitVec 64 :=
  fset F.idVariantMaxPower v.watts <| fset F.idVariantDepotGib v.depotGib <| fsetB F.idVariantPitch v.pitch <|
    fsetB F.idVariantCipher v.cipher <| fsetB F.idVariantCombine (!v.combineFull) <| fset F.idVariantHostPorts v.hostPorts <|
    fset F.idVariantHostMax v.hostMax <| fset F.idVariantFabRate v.fabRate <| fset F.idVariantFabPorts v.fabPorts <|
    fset F.idVariantPartitions v.partitions <| fset F.idVariantVfsPerPort v.vfs <| fset F.idVariantVariantCode code 0#64

/-- SQ_RING_INFO of a submission ring (R220); all ones where its line is poisoned (R546). -/
def ringInfo (b : Block) (key : Nat) : BitVec 64 :=
  if linePoisoned b 1 key then BitVec.allOnes 64
  else
    match tfind b.sq.rings key with
    | none => 0#64
    | some r =>
      fset F.sqRingInfoState r.state.code <| fset F.sqRingInfoHaltCause r.haltCause <| fset F.sqRingInfoTail r.tail <|
        fset F.sqRingInfoInflight (ringItems b key) <| fset F.sqRingInfoHead r.head 0#64

/-- SQ_RING_INFO of a completion ring. -/
def cqInfo (b : Block) (key : Nat) : BitVec 64 :=
  if linePoisoned b 2 key then BitVec.allOnes 64
  else
    match tfind b.sq.cqs key with
    | none => 0#64
    | some c =>
      fset F.sqRingInfoState c.state.code <| fset F.sqRingInfoTail c.tail <| fset F.sqRingInfoInflight c.parked.length <|
        fset F.sqRingInfoHead c.head 0#64

/-- HE_TILE_LOAD (R248). -/
def tileLoad (b : Block) (t : Nat) : BitVec 64 :=
  fset F.heTileLoadRoped (tcount (fun _ it => it.tile == t && it.slot && dCard it.desc != 0) b.he.items) <|
    fset F.heTileLoadSpec (tcount (fun _ it => it.tile == t && it.slot && speculative b it) b.he.items) <|
    fset F.heTileLoadStaging (tileBuffers b t) <| fset F.heTileLoadItems (tileItems b t) 0#64

/-- FT_QP_STATUS (R340); all ones where the context is poisoned (R546). A QP that is FREE has only its home. -/
def qpStatus (b : Block) (k : Nat) : BitVec 64 :=
  if linePoisoned b 0 k then BitVec.allOnes 64
  else
    match tfind b.ft.qps k with
    | none => fset F.ftQpStatusHome (homeTile k) 0#64
    | some q =>
      fset F.ftQpStatusState q.state <| fsetB F.ftQpStatusResident q.resident <| fset F.ftQpStatusHome (homeTile k) <|
        fset F.ftQpStatusCause q.cause <| fset F.ftQpStatusCwnd (q.cwnd / 4096) <|
        fset F.ftQpStatusOutstanding ((q.sent.filter (fun s => !s.rcvd)).length) <| fset F.ftQpStatusSrtt (q.srtt / 10) 0#64

/-- A bitmap of 1,024 bits as 16 quadwords, bit `i` for distance `i`. -/
def bitmap (p : Nat → Bool) : List (BitVec 64) :=
  (List.range 16).map (fun w => (List.range 64).foldl (fun x i => if p (64 * w + i) then x ||| (1#64 <<< i) else x) 0#64)

/-- The 64 quadwords of a QP's context (R338). -/
def qpContext (b : Block) (k : Nat) : List (BitVec 64) :=
  if linePoisoned b 0 k then List.replicate 64 (BitVec.allOnes 64)
  else
    match tfind b.ft.qps k with
    | none => List.replicate 64 0#64
    | some q =>
      let out := fun e => (q.sent.filter (fun s => !s.rcvd && s.epoch % 2 == e)).length
      let head : List Nat :=
        [q.state * 2 ^ 61 + q.part * 2 ^ 56 + q.peerNode * 2 ^ 40 + q.peerQp * 2 ^ 16 + b2n q.enc * 2 ^ 15 + b2n q.clearOk * 2 ^ 14 + q.pathSet,
         q.nextPsn * 2 ^ 32 + q.una, q.cumNext * 2 ^ 32 + q.dur, q.nextMsn * 2 ^ 32 + q.expMsn,
         q.cwnd * 2 ^ 32 + q.alpha % 2 ^ 16 * 2 ^ 16 + q.rr % 64, q.srtt % 2 ^ 32 * 2 ^ 32 + q.rttvar % 2 ^ 32,
         q.base.getD 0 % 2 ^ 32 * 2 ^ 32 + q.roundStart % 2 ^ 32, out 1 * 2 ^ 32 + out 0,
         q.keySlot * 2 ^ 48 + q.keySent % 2 ^ 48, q.cause * 2 ^ 56 + q.causePsn,
         q.sentCount % 2 ^ 32 * 2 ^ 32 + q.resentCount % 2 ^ 32, q.rcvdCount % 2 ^ 32 * 2 ^ 32 + q.dupCount % 2 ^ 32,
         q.bytesSent, q.bytesRcvd, q.bytesCe, 0]
      let rx := bitmap (fun i => q.rx.contains ((q.cumNext + i) % 2 ^ 32))
      let tx := bitmap (fun i => q.sent.any (fun s => s.rcvd && psnDist q.una s.psn == i))
      let tr := (List.range 16).map (fun i => match q.trackers[i]? with
        | some t => BitVec.ofNat 64 (2 ^ 63 + t.msn % 2 ^ 24 * 2 ^ 32 + t.bytes % 2 ^ 32)
        | none => 0#64)
      head.map (BitVec.ofNat 64) ++ rx ++ tx ++ tr

/-- HP_FN_STATUS (R452). The Power Management of a VF is that of its PF (R432). -/
def fnStatus (b : Block) (fn : Nat) : BitVec 64 :=
  fset F.hpFnStatusDstate (if inD3 b (fn / 128) then 3 else 0) <| fsetB F.hpFnStatusMse (mseOn b fn) <|
    fsetB F.hpFnStatusBme (bmeOn b fn) <| fsetB F.hpFnStatusFlrActive (flrActive b fn) <|
    fsetB F.hpFnStatusEnabled (fnEnabled b fn) <| fset F.hpFnStatusTdi (tget 0 b.hp.tdi fn) <|
    fset F.hpFnStatusInflight (fnItems b fn) 0#64

/-- PT_PART_STATUS (R491). -/
def partStatus (b : Block) (p : Nat) : BitVec 64 :=
  fsetB F.ptPartStatusMalformed (fon b F.sqMalformedValid p) <|
    fsetB F.ptPartStatusBelay ((partState b p == 2 || partState b p == 4) && belay b p) <|
    fsetB F.ptPartStatusSealed (bit (qbits b.fuses.frame F.idProtFrameSealed.hi F.idProtFrameSealed.lo) p) <|
    fset F.ptPartStatusMgrPort (mgrPort b p) <| fset F.ptPartStatusInflight (partItems b p) (rget b .ptPartStatus p)

/-- PT_BIVOUAC (R519). A hold of 0 has no limit. -/
def bivouac (b : Block) (p : Nat) : BitVec 64 :=
  let hold := fget b F.ptPartCfgHold p
  let left :=
    if hold = 0 then 0xFFFF
    else match tfind b.pt.since p with
      | some t => hold - (b.now - t) / 1000000000
      | none => 0
  fset F.ptBivouacHoldLeft left (rget b .ptBivouac p)

/-- FH_SRC_CTL (R575); zero for a source that no table names (R558). -/
def srcCtl (b : Block) (s : Nat) : BitVec 64 :=
  match fhClass s with
  | none => 0#64
  | some c =>
    fset F.fhSrcCtlClass c <| fset F.fhSrcCtlStart (fhStart s) <|
      (if c = 3 then fset F.fhSrcCtlEnable 1 (rget b .fhSrcCtl s) else rget b .fhSrcCtl s)

/-- SG_SRC_CFG (R591): fixed sources read their fixed values. -/
def srcCfg (b : Block) (s : Nat) : BitVec 64 :=
  if 1863 ≤ s ∧ s < 1984 then 0#64
  else if sgFixed s then
    let (t, fn, v) := sgTarget b s
    fset F.sgSrcCfgTarget t <| fset F.sgSrcCfgFunction (fn % 128) <| fset F.sgSrcCfgVector v 0#64
  else rget b .sgSrcCfg s

/-- The supply of a tile's island in mV: a free value once clocks run (CK_TILE.MV has no stated value; log entry 3). -/
def tileMv (b : Block) (t : Nat) : Nat :=
  if 2 ≤ fget b F.ckStartPhase 0 then (Config.millivolts t (fget b F.ckTileEffective t)).toNat else 0

/-- FT_PORT_STATUS (R378). -/
def portStatus (b : Block) (p : Nat) : BitVec 64 :=
  if !portHere b p then 0#64
  else
    fsetB F.ftPortStatusUp (portUp b p) <| fset F.ftPortStatusMode (portOf b p).state <|
      fsetB F.ftPortStatusLlr (portUp b p && llrCovers b p clsRp) <|
      fsetB F.ftPortStatusLlrAll (portUp b p && llrCovers b p clsFr) (rget b .ftPortStatus p)

/-- The record that an event selector names (R657). -/
def eventSel (b : Block) (k : Nat) : Option (BitVec 64 × BitVec 64) :=
  let t := fget b F.tcEvtSelTile k
  if 12 ≤ t then none else (tget [] b.tc.events (16 * t + fget b F.tcEvtSelEngine k))[fget b F.tcEvtSelAge k]?

/-- A quadword of a dump slot, as far as it is written (R696). -/
def dumpWord (b : Block) (slot i : Nat) : BitVec 64 :=
  match tfind b.tc.dumps slot with
  | some d => tget 0#64 d.body i
  | none => 0#64

/-- What copy `i` of a register reads as, before what WO and self-clearing fields hide. -/
def regValue (b : Block) (w : Agent) (r : Reg) (i : Nat) : BitVec 64 :=
  let v := rget b r i
  let k := bankOf w
  match r with
  | .idVariant => idVariantWord (variant b) b.fuses.variant
  | .idBlock => fset F.idBlockStepping b.fuses.stepping v
  | .idNode => if noFabric b then fset F.idNodeValid 1 (fset F.idNodeNodeId 0 v) else v
  | .idProtFrame => b.fuses.frame &&& r.bitsOf (fun _ => true)
  | .ptGrantCtl => fsetB F.ptGrantCtlBad (v.getLsbD 63 && grantBad b (i / 16) (i % 16)) (fset F.ptGrantCtlInUse (grantInUse b (i / 16) (i % 16)) v)
  | .tuAsSel => (match w with | .vf h n => fset F.tuAsSelPartition ((vfPart b (128 * h + n)).getD 0) v | _ => v)
  | .sqRingSel => (match w with | .vf h n => fset F.sqRingSelPartition ((vfPart b (128 * h + n)).getD 0) v | _ => v)
  | .cxPartSel => (match w with | .vf h n => fset F.cxPartSelPartition ((vfPart b (128 * h + n)).getD 0) v | _ => v)
  | .ptPartSel => (match w with | .vf h n => fset F.ptPartSelPartition ((vfPart b (128 * h + n)).getD 0) v | _ => v)
  | .tcPartSel => (match w with | .vf h n => fset F.tcPartSelPartition ((vfPart b (128 * h + n)).getD 0) v | _ => v)
  | .hpFnSel => (match w with | .vf _ n => fset F.hpFnSelFunction n v | _ => v)
  | .tuAsCtl =>
    (match slotOf b (i / 4096) (i % 4096) with
     | some n => fset F.tuAsCtlResident 1 <| fset F.tuAsCtlSlot n <| fset F.tuAsCtlRefs (asRefs b (i / 4096) (i % 4096)) v
     | none => fset F.tuAsCtlRefs (asRefs b (i / 4096) (i % 4096)) v)
  | .tuSegMap => if fget b F.tuSegCtlKind i = 1 then qset v 51 49 0 else v
  | .tuSegCtl => fsetB F.tuSegCtlValid (tfind b.tu.segs i).isSome v
  | .sqRingInfo =>
    let p := (selPart b w F.sqRingSelPartition).getD 0
    let key := 4096 * p + fget b F.sqRingSelNumber k
    if fon b F.sqRingSelCq k then cqInfo b key else ringInfo b key
  | .heTileLoad => tileLoad b i
  | .heStrandStatus =>
    fset F.heStrandStatusUsed (tget [] b.he.logs i).length <| fset F.heStrandStatusInflight (fnItems b i) 0#64
  | .heStrandEntry => ((tget [] b.he.logs (i / 8)).headD []).getD (i % 8) 0#64
  | .cxEabStatus => if (variant b).pitch then fset F.cxEabStatusShare (eabShare b / 65536) v else 0#64
  | .ftQpStatus => qpStatus b i
  | .ftQpCtx =>
    if i % 64 = 0 then (qpContext b (fget b F.ftQpSelQp (i / 64))).getD 0 0#64 else (tget [] b.ft.snap (i / 64)).getD (i % 64) 0#64
  | .ftEpochCtl => fset F.ftEpochCtlOldOutstanding (epochOutstanding b (epochOld b)) v
  | .ftPortStatus => portStatus b i
  | .psTime => BitVec.ofNat 64 b.now
  | .psStatus => pitchStatus b
  | .psCardStatus => cardStatus b i
  | .hpFnStatus => fnStatus b i
  | .hpPortStatus => if portPresent b i then fset F.hpPortStatusLanding (landing b i) v else 0#64
  | .hpWinCtl =>
    let own := fun (x : BitVec 64) => match w with
      | .vf h n => fset F.hpWinCtlPartition ((vfPart b (128 * h + n)).getD 0) x
      | _ => x
    own (fsetB F.hpWinCtlBusy (winBusy b (i / 64) (i % 64)) v)
  | .ptPartStatus => partStatus b i
  | .ptCarve => fset F.ptCarveQpUsed (qpsUsed b i) v
  | .ptCmdStatus =>
    (match b.pt.cmds.find? (fun e => e.2.bank == some i) with
     | some (_, c) => fset F.ptCmdStatusEnded c.ended (fset F.ptCmdStatusStranded c.stranded v)
     | none => v)
  | .ptBivouac => bivouac b i
  | .ptMbxPending =>
    (List.range 64).foldl (fun x n =>
      let vf := 64 * (i % 2) + n + 1
      if vf ≤ 120 ∧ fon b F.ptMbxCtlFull (256 + 128 * (i / 2) + vf) then x ||| (1#64 <<< n) else x) 0#64
  | .fhSrcCtl => srcCtl b i
  | .sgMask | .sgPending =>
    if i < 16 ∨ w = .mgmt then v else v &&& wordMask (sgMayBit b w) i
  | .sgCount =>
    (match w with
     | .pf _ => (List.range 8).foldl (fun x n =>
         match sgPart (8 * i + n) with
         | some p => if owns b w p then x else qset x (8 * n + 7) (8 * n) 0
         | none => x) v
     | _ => v)
  | .sgSrcCfg => srcCfg b i
  | .sgClaim => sgClaimValue b (sgOwnTarget w).1 (sgOwnTarget w).2
  | .sgClaimT => sgClaimValue b i 512
  | .ceKeyStatus =>
    let s := keySlotOf b (fget b F.ceKeySelSlot k)
    fset F.ceKeyStatusState s.state <| fsetB F.ceKeyStatusNext s.next.isSome <| fset F.ceKeyStatusGen (s.gen % 2 ^ 16) <|
      fset F.ceKeyStatusQp s.qp v
  | .ceEngineStatus => fset F.ceEngineStatusServedBy (servingTile b i) v
  | .enStatus => fset F.enStatusQueued b.en.queue.length v
  | .tcEvtData =>
    if i % 2 = 0 then (match eventSel b (i / 2) with | some e => e.1 | none => 0#64) else tget 0#64 b.tc.captured (i / 2)
  | .tcCntCfg =>
    if fon b F.tcCntOwnValid i then fset F.tcCntCfgFilter 1 (fset F.tcCntCfgPartition (fget b F.tcCntOwnPartition i) v) else v
  | .tcDumpWin => dumpWord b (fget b F.tcDumpWinSelSlot (i / 64)) (64 * fget b F.tcDumpWinSelPage (i / 64) + i % 64)
  | .ckTile =>
    fsetB F.ckTileThrottled (tileCap b i < tileTarget b i) <| fset F.ckTileMv (tileMv b i) v
  | .ckLimits => fset F.ckLimitsFMin (fMin b) v
  | .ckThermal => fset F.ckThermalTrip (tripAt b) v
  | _ => v

/-- Is a field one that reads as zero: write-only, or set by a write and read as 0 (R12)? -/
def Fld.hidden (f : Fld) : Bool := f.acc == .wo || f.acc == .w1s

/-- What copy `i` of a register reads as. -/
def readReg (b : Block) (w : Agent) (r : Reg) (i : Nat) : BitVec 64 :=
  r.spec.fields.foldl (fun v f => if f.hidden then qset v f.hi f.lo 0 else v) (regValue b w r i)

/-- What an access of an agent to a register reads. -/
def regAt (b : Block) (w : Agent) (r : Reg) (c : Nat) : BitVec 64 :=
  match regIdx b w r c with
  | .at_ i => readReg b w r i
  | _ => 0#64

/-! ### What a read clears (R12) -/

/-- Clear the RC fields of a register that lie under a mask. -/
def clearRc (r : Reg) (i : Nat) (mask : BitVec 64) (b : Block) : Block :=
  r.spec.fields.foldl (fun b f =>
    if f.acc == .rc && (mask &&& fmask f.hi f.lo) != 0#64 then rput r i (rget b r i &&& ~~~(mask &&& fmask f.hi f.lo)) b else b) b

/-- The effect of a read of copy `i` of a register on the bits under a mask. PEAK, the highest USED since the last read (R316), starts again
at the present USED (DEDUCED, log entry 122). -/
def readEffect (w : Agent) (r : Reg) (i : Nat) (mask : BitVec 64) (b : Block) : Block :=
  match r with
  | .cxEabStatus =>
    let c := clearRc r i mask b
    if mask &&& fmask F.cxEabStatusPeak.hi F.cxEabStatusPeak.lo = 0#64 then c else fput F.cxEabStatusPeak i (fget b F.cxEabStatusUsed i) c
  | .sgClaim => sgClaim (sgOwnTarget w).1 (sgOwnTarget w).2 b
  | .sgClaimT => sgClaim i 512 b
  | .ftQpCtx =>
    if i % 64 = 0 then modFt (fun t => { t with snap := tput t.snap (i / 64) (qpContext b (fget b F.ftQpSelQp (i / 64))) }) b else b
  | .tcEvtData =>
    if i % 2 = 0 then
      let e := match eventSel b (i / 2) with | some e => e.2 | none => 0#64
      modTc (fun t => { t with captured := tset 0#64 t.captured (i / 2) e }) b
    else b
  | _ => clearRc r i mask b

end Sys2Proof.Machine
end

