-- ==== Sys2Proof/Machine/Trc.lean ====
section
/-!
DEFINITION. Trace sinks (R660-R666), freezes by register (R680-R684) and what a hang dump writes (R688-R696).
-/
namespace Sys2Proof.Machine

open Sys2Proof

/-! ### Sinks -/

/-- Records that a sink holds (R665). -/
def sinkSize (b : Block) (p : Nat) : Nat :=
  let s := fget b F.tcSinkCtlSize p
  128 * 2 ^ (if 14 < s then 14 else s)

/-- The position of an index with its wrap flag in bit 21, in a sink of `n` records, and back. -/
def sinkPos (n p : Nat) : Nat := p % 2 ^ 21 + p / 2 ^ 21 % 2 * n
def sinkPtr (n x : Nat) : Nat := if x % (2 * n) < n then x % (2 * n) else 2 ^ 21 + (x % (2 * n) - n)

/-- Records of a sink that software has not read. -/
def sinkUnread (b : Block) (p : Nat) : Nat :=
  let n := sinkSize b p
  (sinkPos n (fget b F.tcSinkPtrTail p) + 2 * n - sinkPos n (fget b F.tcSinkPtrHead p)) % (2 * n)

/-- The records that the watermark of a sink stands for. -/
def sinkMark (b : Block) (p : Nat) : Nat :=
  let w := fget b F.tcSinkCtlWatermark p
  64 * (if w = 0 then 1 else w)

/-- A list without its first `n` elements that pass a test. -/
def dropFirst {α : Type} (n : Nat) (q : α → Bool) (l : List α) : List α :=
  match l, n with
  | [], _ => []
  | l, 0 => l
  | x :: r, m + 1 => if q x then dropFirst m q r else x :: dropFirst (m + 1) q r

/-- A LOST record for a partition that has dropped records at a tile whose buffer has room again (R658, R661). -/
def traceLost (tile p : Nat) (b : Block) : Block :=
  let k := 16 * tile + p
  let n := tget 0 b.tc.dropped k
  let buf := tget [] b.tc.bufs tile
  if n = 0 ∨ fon b F.tcFreezeFrozen 0 ∨ traceRoom ≤ buf.length then b
  else
    let words : List Nat := [4 + p * 2 ^ 8 + tile * 2 ^ 12, b.now, 0, n % 2 ^ 32]
    modTc (fun t => { t with bufs := tput t.bufs tile (buf ++ [⟨p, words.map (BitVec.ofNat 64)⟩]), dropped := tdel t.dropped k }) b

/-- `n` records of a tile are durable in a partition's sink: TAIL moves past them, and the buffer lets them go. -/
def sinkDone (tile p n : Nat) (b : Block) : Block :=
  let before := sinkUnread b p
  let size := sinkSize b p
  let b := fput F.tcSinkPtrTail p (sinkPtr size (sinkPos size (fget b F.tcSinkPtrTail p) + n)) b
  let b := modTc (fun t => { t with bufs := tput t.bufs tile (dropFirst n (fun r => r.part == p) (tget [] t.bufs tile)) }) b
  let b := eachN 16 (traceLost tile) b
  if fon b F.tcSinkCtlInt p && before < sinkMark b p && sinkMark b p ≤ sinkUnread b p then sgAssert (1794 + p) b else b

/-- Is a write to a partition's sink outstanding? -/
def sinkBusy (b : Block) (p : Nat) : Bool :=
  b.txns.any (fun t => match t.2.use with | .sink _ q _ => q == p | _ => false)

/-- The next write of a tile's records to a partition's sink: how many, their place and their function, where the sink takes
them (R661). -/
def sinkNext (b : Block) (tile p : Nat) : Option (Nat × Place × Nat) :=
  let size := sinkSize b p
  let idx := fget b F.tcSinkPtrTail p % 2 ^ 21
  let have_ := ((tget [] b.tc.bufs tile).filter (fun r => r.part == p)).length
  let room := size - sinkUnread b p
  let n := min have_ (min room (size - idx))
  let base := (rget b .tcSinkBase p).toNat
  if !(fon b F.tcSinkCtlEnable p) || n = 0 || sinkBusy b p then none
  else
    match localPlace b p (base + 32 * idx) (32 * n) with
    | none => none
    | some pl =>
      let fn := match pl with | .port h _ _ => (requester b p h).getD 512 | _ => 512
      if (placeStatus b fn pl).isSome then none else some (n, pl, fn)

/-- Drain the records of one partition from a tile's buffer; `fuel` bounds the writes to a host port, which are durable at
once. -/
def sinkDrain (fuel tile p : Nat) (b : Block) : Block :=
  match fuel with
  | 0 => b
  | f + 1 =>
    match sinkNext b tile p with
    | none => b
    | some (n, pl, fn) =>
      let recs := ((tget [] b.tc.bufs tile).filter (fun r => r.part == p)).take n
      let bytes := quadBytes (recs.flatMap (fun r => r.words))
      let b := issueWrite pl p fn bytes 0 0 false false (.sink tile p n) b
      if pl.isPort then sinkDrain f tile p (sinkDone tile p n b) else b

/-- A tile drains its trace buffer (R660). -/
def traceDrain (tile : Nat) (b : Block) : Block := eachN 16 (sinkDrain 3 tile) b

/-- ENABLE of a sink is written 1: TAIL is set to HEAD (R666), and a write that is outstanding no longer counts. -/
def sinkEnable (p : Nat) (b : Block) : Block :=
  let b := closeTxns (fun t => match t.use with | .sink _ q _ => q == p | _ => false) b
  fput F.tcSinkPtrTail p (fget b F.tcSinkPtrHead p) b

/-! ### Freezes -/

/-- THAW ends a freeze (R682). No rule clears CAUSE: it stays with TC_FREEZE_TIME, which reports the last freeze (R685). -/
def thaw (b : Block) : Block := fput F.tcFreezeFrozen 0 0 b

/-- A timed freeze happens, at AT, once domain time has reached it while ARMED is 1 (R680, R681). -/
def timedFreeze (b : Block) : Block :=
  let at_ := (rget b .tcFreezeAt 0).toNat
  if fon b F.tcFreezeArmed 0 && at_ ≤ b.now then freezeAt 2 at_ (fput F.tcFreezeArmed 0 0 b) else b

/-- A write of TC_FREEZE (R683). A trigger that comes with THAW is taken after it (R682); a timed freeze whose AT has
passed fires at once. -/
def freezeWrite (val : BitVec 64) (b : Block) : Block :=
  let b := if val.getLsbD F.tcFreezeThaw.lo then thaw b else b
  let b := if val.getLsbD F.tcFreezeNow.lo then freezeAt 1 b.now b else b
  if val.getLsbD F.tcFreezeArm.lo then timedFreeze (fput F.tcFreezeArmed 0 1 b) else b

/-! ### What a hang dump holds (R692, R693) -/

/-- The stage code of an item. -/
def dumpStage (it : Item) : Nat :=
  if !it.begun then 0
  else
    match it.stage with
    | .waiting => 0
    | .active =>
      if it.acc.isSome then 1
      else if it.comb != [] || it.ops != [] then 3
      else if opLocalSrc (dOpcode it.desc) && it.rd < dLength it.desc then 2
      else 4
    | .draining => 4
    | _ => 5

/-- What an item waits on. -/
def dumpWait (b : Block) (it : Item) : Nat :=
  let acc : Option Wait := it.acc.bind (fun a => (tfind b.tu.accs a).map (·.wait))
  let sends := it.stage == .active && (if dOpcode it.desc = 0x03 then it.rd else it.cons) < dLength it.desc
  if it.stage == .parked then 5
  else if it.begun && dWait it.desc && it.stage == .active then 6
  else if acc == some .held then 7
  else if acc == some .slot then 8
  else if !it.begun then 0
  else if gateCard it then 1
  else if !it.committed && gateGov b it then 2
  else if (!it.committed || sends) && gateQp b it then
    (match tfind b.ft.qps (dQp it.desc) with
     | some q => if q.resident then 3 else 4
     | none => 0)
  else 0

/-- The 64 B entry of an item. -/
def dumpItem (b : Block) (it : Item) : List (BitVec 64) :=
  let words : List Nat :=
    [dTag it.desc + it.ring * 2 ^ 32 + it.part * 2 ^ 44 + dOpcode it.desc * 2 ^ 48 + it.tile * 2 ^ 56 + it.engine * 2 ^ 60,
     dumpStage it + b2n (it.begun && !it.committed) * 8 + b2n (dCard it.desc != 0) * 16 + dFlags it.desc * 2 ^ 8
       + dArith it.desc * 2 ^ 16 + dCard it.desc * 2 ^ 24 + dQp it.desc * 2 ^ 40,
     dLength it.desc + it.doneDst % 2 ^ 32 * 2 ^ 32, dSrc it.desc, dDst it.desc, dFenceAddr it.desc, it.accepted,
     it.fn % 256 + dumpWait b it * 2 ^ 8]
  words.map (BitVec.ofNat 64)

/-- The 16 B entry of a ring that is not FREE. -/
def dumpRing (b : Block) (items : Tbl Item) (key : Nat) (r : Ring) : List (BitVec 64) :=
  let info :=
    if linePoisoned b 1 key then BitVec.allOnes 64
    else
      fset F.sqRingInfoState r.state.code <| fset F.sqRingInfoHaltCause r.haltCause <| fset F.sqRingInfoTail r.tail <|
        fset F.sqRingInfoInflight (tcount (fun _ it => it.ringKey == key) items) <| fset F.sqRingInfoHead r.head 0#64
  [info, BitVec.ofNat 64 (key % 4096 + key / 4096 * 4096)]

/-- The events of one engine, oldest first, as 128 records. -/
def dumpEvents (b : Block) (k : Nat) : List (BitVec 64) :=
  let l := tget [] b.tc.events k
  (l.reverse ++ List.replicate (128 - l.length) (0#64, 0#64)).flatMap (fun e => [e.1, e.2])

/-- A register as the dump engine reads it. -/
def dumpReg (b : Block) (r : Reg) (i : Nat) : BitVec 64 := readReg b .mgmt r i

/-- The sections of a dump: the ID, the entry size and the quadwords of each. -/
def dumpSections (b : Block) (d : Dump) : List (Nat × Nat × List (BitVec 64)) :=
  let parts := List.range (variant b).partitions
  let c := modGov (fun _ => d.gov) (modFt (fun t => { t with qps := d.qps }) (modTu (fun t => { t with accs := d.accs }) b))
  [(1, 8, (List.range 512).map (dumpReg b .fhSrcStatus)),
   (2, 64, parts.flatMap (fun p => [.ptPartStatus, .ptCarve, .ptBivouac, .sqMalformed, .ccPoison, .tuFaultInfo, .tuFaultVa,
     .cxEabStatus].map (fun r => dumpReg b r p))),
   (3, 64, d.items.flatMap (fun e => dumpItem c e.2)),
   (4, 16, (d.rings.filter (fun e => e.2.state != .free)).flatMap (fun e => dumpRing b d.items e.1 e.2)),
   (5, 16, (List.range 192).flatMap (dumpEvents b)),
   (6, 16, (List.range 6144).flatMap (fun c => [dumpReg b .tcCntCfg c, dumpReg b .tcCntVal c])),
   (7, 8, (List.range 2).map (dumpReg b .hpPortStatus) ++ (List.range 24).map (dumpReg b .ftPortStatus)
     ++ [dumpReg b .ftEpochCtl 0, dumpReg b .psSwapCtl 0, dumpReg b .enStatus 0] ++ (List.range 12).map (dumpReg b .ceEngineStatus))]

/-- Quadwords as entries of a sparse table from an index on; those that are 0 are not listed. -/
def quadTbl (i : Nat) (l : List (BitVec 64)) : Tbl (BitVec 64) :=
  match l with
  | [] => []
  | x :: r => if x = 0#64 then quadTbl (i + 1) r else (i, x) :: quadTbl (i + 1) r

/-- Lay sections out on 4 KiB boundaries from page `p` on: the section table and the contents. -/
def dumpLay (p : Nat) (l : List (Nat × Nat × List (BitVec 64))) : List (BitVec 64) × Tbl (BitVec 64) :=
  match l with
  | [] => ([], [])
  | (id, size, q) :: r =>
    let (tab, body) := dumpLay (p + (8 * q.length + 4095) / 4096) r
    (BitVec.ofNat 64 (id + size * 2 ^ 16 + 8 * q.length / size * 2 ^ 32) :: BitVec.ofNat 64 (4096 * p) :: tab,
     quadTbl (512 * p) q ++ body)

/-- The whole of a dump (R692). -/
def dumpBody (b : Block) (d : Dump) : Tbl (BitVec 64) :=
  let secs := dumpSections b d
  let (tab, body) := dumpLay 1 secs
  let head : List (BitVec 64) :=
    [0x474E4148564F4C46#64, BitVec.ofNat 64 (1 + d.reason * 2 ^ 16 + d.gen % 2 ^ 16 * 2 ^ 32 + secs.length * 2 ^ 48), BitVec.ofNat 64 d.start,
     dumpReg b .idBlock 0, dumpReg b .idVariant 0, dumpReg b .idNode 0, dumpReg b .fhFirst 0, dumpReg b .fhFirstTime 0,
     dumpReg b .fhCtl 0, dumpReg b .psStatus 0, BitVec.ofNat 64 b.now]
  quadTbl 0 head ++ quadTbl 32 tab ++ body

/-- The dump in progress is written to its end (R688). -/
def dumpComplete (b : Block) : Block :=
  match b.tc.dumping with
  | none => b
  | some slot =>
    match tfind b.tc.dumps slot with
    | none => b
    | some d =>
      let body := dumpBody b d
      let b := modTc (fun t => { t with dumps := tput t.dumps slot { d with ended := b.now, body := body }, dumping := none }) b
      sgAssert 1823 (fput F.tcDumpCtlBusy 0 0 (fput F.tcDumpStatusComplete slot 1 b))

end Sys2Proof.Machine
end

