-- ==== Sys2Proof/Machine/RegWrite.lean ====
section
/-!
DEFINITION. What a write of a register does (R12-R16, R733): its stored bits, and the commands and actions that some
registers stand for.
-/
namespace Sys2Proof.Machine

open Sys2Proof

/-! ### Stored bits -/

/-- Store the bits of a write that lie under a mask. -/
def storeBits (r : Reg) (i : Nat) (val m : BitVec 64) (b : Block) : Block :=
  rput r i ((rget b r i &&& ~~~m) ||| (val &&& m)) b

/-- Store the RW fields, and clear the W1C fields that the write has at 1. -/
def storePlain (r : Reg) (i : Nat) (val mask : BitVec 64) (b : Block) : Block :=
  let b := storeBits r i val (r.bitsOf (· == .rw) &&& mask) b
  let ones := r.bitsOf (· == .w1c) &&& mask &&& val
  if ones = 0#64 then b else storeBits r i 0#64 ones b

/-- Store the RWI fields of a register that has other fields too: a write while it is not idle is ignored as far as they go, and
counted (R12; DEDUCED, log entry 30). -/
def storeIdle (r : Reg) (w : Agent) (i : Nat) (idle : Bool) (val mask : BitVec 64) (b : Block) : Block :=
  let m := r.bitsOf (· == .rwi) &&& mask
  if idle then storeBits r i val m b
  else if m = 0#64 then b
  else ignored r.spec.unit w none b

/-- A register of which every field that can be written is RWI: a write of such a field is ignored while it is not idle. -/
def storeRwi (r : Reg) (i : Nat) (idle : Bool) (val mask : BitVec 64) (b : Block) : Option Block :=
  let m := r.bitsOf (· == .rwi) &&& mask
  if idle || m == 0#64 then some (storeBits r i val m b) else none

/-- The word that a register holds once the RW bits of a write are stored. -/
def written (b : Block) (r : Reg) (i : Nat) (val mask : BitVec 64) : BitVec 64 :=
  let m := r.bitsOf (· == .rw) &&& mask
  (rget b r i &&& ~~~m) ||| (val &&& m)

/-- A field of a word. -/
def Fld.of (f : Fld) (v : BitVec 64) : Nat := qbits v f.hi f.lo
/-- Is a one-bit field of a word 1? -/
def Fld.on (f : Fld) (v : BitVec 64) : Bool := f.of v == 1

/-- A write of a selector with a partition field (R86, R490, R32): a VF's own partition stands whatever it writes, and a PF or the
management core path names one that is its own and present. -/
def storeSel (f : Fld) (w : Agent) (i : Nat) (val mask : BitVec 64) (b : Block) : Option Block :=
  match w with
  | .vf _ _ => some (storePlain f.reg i val (mask &&& ~~~(fmask f.hi f.lo)) b)
  | _ => if owns b w (f.of (written b f.reg i val mask)) then some (storePlain f.reg i val mask b) else none

/-! ### Registers with effects -/

/-- The speculation of a partition is forbidden: its speculative items are undone (R246). -/
def specStop (p : Nat) (b : Block) : Block :=
  each (itemsOf b (fun it => it.part == p && it.begun && !it.committed && it.stage == .active)) undo b

/-- A write of HP_WIN_CTL (R439). One that names a partition or a QP of another function is ignored and counted (R32); a QP that is not
created belongs to none. -/
def winWrite (w : Agent) (fn win : Nat) (val mask : BitVec 64) (b : Block) : Option Block :=
  let i := 64 * fn + win
  let new := written b .hpWinCtl i val mask
  let qpMine := fun (q : Nat) => match tfind b.ft.qps q with | some x => owns b w x.part | none => true
  match w with
  | .vf h v =>
    let new := fset F.hpWinCtlPartition ((vfPart b (128 * h + v)).getD 0) new
    if !qpMine (F.hpWinCtlQp.of new) then none
    else some (winCtl fn win false new (rput .hpWinCtl i new b))
  | _ => if owns b w (F.hpWinCtlPartition.of new) && qpMine (F.hpWinCtlQp.of new) then some (winCtl fn win true new (rput .hpWinCtl i new b)) else none

/-- A write of PT_GRANT_CTL puts the staged base and limit into effect (R72, R74). -/
def grantWrite (i : Nat) (val mask : BitVec 64) (b : Block) : Block :=
  let b := storePlain .ptGrantCtl i val mask b
  modPt (fun p => { p with grants := tput p.grants i (fget b F.ptGrantBaseBase i, fget b F.ptGrantLimitLimit i) }) b

/-- A write of an MSI-X table entry: a vector that is pending and no longer held is sent (R585). -/
def msixWrite (r : Reg) (i : Nat) (val mask : BitVec 64) (b : Block) : Block :=
  let b := storePlain r i val mask b
  let fn := i / 2048
  let v := i % 2048
  if pbaBit b fn v && msixOpen b fn v then msixSignal fn v b else b

/-- A write of PT_MBX_CTL (R520, R523). -/
def mbxWrite (w : Agent) (s : Nat) (val mask : BitVec 64) (b : Block) : Block :=
  let b := storePlain .ptMbxCtl s val mask b
  let b := if F.ptMbxCtlAck.on val then mbxAck s b else b
  if !F.ptMbxCtlSend.on val then b
  else if fon b F.ptMbxCtlPending s then ignored .pt w none (mbxSend s b)
  else mbxSend s b

/-- The oldest entry of a stranded log is removed (R274): `none` on an empty log. -/
def strandPop (fn : Nat) (b : Block) : Option Block :=
  match tget [] b.he.logs fn with
  | [] => none
  | _ :: l => some (modHe (fun h => { h with logs := tset [] h.logs fn l }) b)

/-- Is a schedule register's shadow writable (R413, R415)? -/
def shadowFree (b : Block) : Bool := !swapPending b && !swapRetiring b

/-- A write of TC_CNT_CFG (R675, R677). A filter of a PF names a partition of its own (R32; DEDUCED, log entry 31). -/
def counterWrite (w : Agent) (c : Nat) (val mask : BitVec 64) (b : Block) : Option Block :=
  let fixed := fmask F.tcCntCfgFilter.hi F.tcCntCfgFilter.lo ||| fmask F.tcCntCfgPartition.hi F.tcCntCfgPartition.lo
  if fon b F.tcCntOwnValid c then some (storePlain .tcCntCfg c val (mask &&& ~~~fixed) b)
  else
    let new := written b .tcCntCfg c val mask
    if F.tcCntCfgFilter.on new && !owns b w (F.tcCntCfgPartition.of new) then none else some (storePlain .tcCntCfg c val mask b)

/-- A write of copy `i` of a register that its agent may make: the bits `val` under `mask`, where bits outside the mask keep their
values and act as zero in fields that a write of 1 acts on (R733). `none` where the write is ignored and counted. MD_CTL is
not among them. -/
def regApply (w : Agent) (r : Reg) (i : Nat) (val0 mask : BitVec 64) (b : Block) : Option Block :=
  let val := val0 &&& mask
  let plain := storePlain r i val mask
  match r with
  | .ptGrantCtl => some (grantWrite i val mask b)
  | .tuAsSel => storeSel F.tuAsSelPartition w i val mask b
  | .sqRingSel => storeSel F.sqRingSelPartition w i val mask b
  | .cxPartSel => storeSel F.cxPartSelPartition w i val mask b
  | .ptPartSel => storeSel F.ptPartSelPartition w i val mask b
  | .tcPartSel => storeSel F.tcPartSelPartition w i val mask b
  | .tuAsCtl =>
    let p := i / 4096
    let a := i % 4096
    let held := asRefs b p a != 0 && mask &&& fmask 62 62 != 0#64
    let m := (r.bitsOf (fun x => x == .rw || x == .rwi)) &&& mask
    some (asControl p a val m (if held then ignored .tu w (some p) b else b))
  | .tuAsRoot => storeRwi r i (asRefs b (i / 4096) (i % 4096) == 0) val mask b
  | .tuSegBase | .tuSegLen | .tuSegMap | .tuSegList => if fon b F.tuSegCtlPending i then none else some (plain b)
  | .tuSegCtl =>
    if fon b F.tuSegCtlPending i then none
    else some (segWrite (i / 65536) (i / 16 % 4096) (i % 16) val (r.bitsOf (· == .rw) &&& mask) b)
  | .tuInvCtl =>
    (match selPart b w F.tuAsSelPartition with
     | some p => invalWrite i p (F.tuInvCtlScope.of val) (fget b F.tuAsSelAs i) (F.tuInvCtlPages.of val) b
     | none => none)
  | .tuHotqBase => storeRwi r i (!fon b F.tuHotqCtlEnable i) val mask b
  | .tuHotqCtl => some (plain (storeIdle r w i (!fon b F.tuHotqCtlEnable i) val mask b))
  | .tuFaultInfo =>
    some (if F.tuFaultInfoValid.on val then fput F.tuFaultInfoCount i 0 (fput F.tuFaultInfoValid i 0 b) else b)
  | .sqCmd => sqCommand w val b
  | .sqPortalMap => if owns b w (F.sqPortalMapPartition.of (written b r i val mask)) then some (plain b) else none
  | .hePartWeight => let b := plain b; some (if fon b F.hePartWeightSpecOff i then specStop i b else b)
  | .heStrandSel =>
    let new := written b r i val mask
    let fn := 128 * F.heStrandSelPort.of new + F.heStrandSelFunction.of new
    let mine : Bool := match w with | .pf h => fn / 128 == h | _ => true
    if mine && fnPresent b fn then some (plain b) else none
  | .heStrandCtl => if F.heStrandCtlPop.on val then strandPop i b else some b
  | .ftQpSel => if qpReach b w (F.ftQpSelQp.of (written b r i val mask)) then some (plain b) else none
  | .ftPathShadow => if fon b F.ftEpochCtlPending 0 || fon b F.ftEpochCtlRetiring 0 then none else some (plain b)
  | .ftEpochCtl => if F.ftEpochCtlSwitch.on val then epochArm b else some b
  | .ftEpochAt => storeRwi r i (!fon b F.ftEpochCtlPending 0) val mask b
  | .psPitchLen | .psPhases | .psCycle => if shadowFree b then some (plain b) else none
  | .psSchedBase =>
    if shadowFree b && owns b w (F.psSchedBasePartition.of (written b r i val mask)) then some (plain b) else none
  | .psSwapAt => storeRwi r i (!swapPending b) val mask b
  | .psSwapCtl => if F.psSwapCtlSwap.on val then swapArm b else some b
  | .psCardSel => if cardReach b w (F.psCardSelCard.of (written b r i val mask)) then some (plain b) else none
  | .hpWinCtl => winWrite w (i / 64) (i % 64) val mask b
  | .hpWinBase | .hpWinLen =>
    let d := plain b
    some (if (match w with | .pf _ => i / 64 % 128 != 0 && rget d r i != rget b r i | _ => false) then tdiError (i / 64) d else d)
  | .hpFnSel =>
    (match w with
     | .vf _ _ => some b
     | _ => if fnPresent b (i + F.hpFnSelFunction.of (written b r i val mask)) then some (plain b) else none)
  | .hpPortCtl => storeRwi r i (!b.he.items.any (fun e => e.2.fn / 128 == i)) val mask b
  | .ptCmem => storeRwi r i (partState b (i / 4) == 0 || partIdle b (i / 4)) val mask b
  | .ptPartCfg => if portPresent b (F.ptPartCfgMgrPort.of (written b r i val mask)) then some (plain b) else none
  | .ptCmd => ptCommand w val b
  | .ptMbxSel =>
    let v := F.ptMbxSelVf.of (written b r i val mask)
    if v ≤ (variant b).vfs then some (plain b) else none
  | .ptMbxCtl => some (mbxWrite w i val mask b)
  | .ptMbxSend => if fon b F.ptMbxCtlPending (i / 8) then some (ignored .pt w none (fbump F.ptMbxCtlIgnored (i / 8) 1 b)) else some (plain b)
  | .ccPoison => some (if F.ccPoisonValid.on val then fput F.ccPoisonCount i 0 (fput F.ccPoisonValid i 0 b) else b)
  | .fhFirst => some (if F.fhFirstValid.on val then rclear .fhFirst 0 (rclear .fhFirstTime 0 b) else b)
  | .fhSrcStatus => some (fhExit w i val b)
  | .fhSrcCtl => some (fhConfig w i val mask b)
  | .fhInject => fhInject val b
  | .sgMask | .sgPending => some (sgWordWrite r w i val mask b)
  | .sgSrcCfg => some (sgConfig w i val mask b)
  | .sgComplete => some (sgComplete w (sgOwnTarget w).1 (sgOwnTarget w).2 (F.sgCompleteSource.of val) b)
  | .sgCompleteT => some (sgComplete w i 512 (F.sgCompleteTSource.of val) b)
  | .sgSwTrigger => some (sgTrigger w (F.sgSwTriggerSource.of val) b)
  | .ceKeySel =>
    (match w with
     | .pf _ => if owns b w (F.ceKeySelSlot.of (written b r i val mask) / 4096) then some (plain b) else none
     | _ => some (plain b))
  | .ceKeyData => some (rput r i val b)
  | .ceKeyCmd => some (keyWrite (F.ceKeyCmdOp.of val) b)
  | .enCtl =>
    let b := plain b
    if !F.enCtlRestart.on val then some b
    else (match enRestart b with
      | some b => some b
      | none => some (ignored .en w none b))
  | .tcPartCtl =>
    (match w with
     | .vf _ _ => some (storePlain r i val (mask &&& ~~~(fmask F.tcPartCtlEvents.hi F.tcPartCtlEvents.lo)) b)
     | _ => some (plain b))
  | .tcSinkBase => storeRwi r i (!fon b F.tcSinkCtlEnable i) val mask b
  | .tcSinkCtl =>
    let b := plain (storeIdle r w i (!fon b F.tcSinkCtlEnable i) val mask b)
    some (if fon b F.tcSinkCtlEnable i then sinkEnable i b else b)
  | .tcDigCfg =>
    let b := plain b
    some (if F.tcDigCfgClear.on val then rclear .tcDigAcc i (fput F.tcDigCfgCount i 0 (fput F.tcDigCfgFailed i 0 b)) else b)
  | .tcCntCfg => counterWrite w i val mask b
  | .tcCntOwn => if owns b w (F.tcCntOwnPartition.of (written b r i val mask)) then some (plain b) else none
  | .tcFreeze => (match w with | .vf _ _ => none | _ => some (freezeWrite val b))
  | .tcFreezeAt => storeRwi r i (!fon b F.tcFreezeArmed 0) val mask b
  | .tcDumpCtl => some (if F.tcDumpCtlDump.on val then dumpTrigger 3 b else b)
  | .ckTile => some (tileSet i (plain b))
  | .hpMsixAddr | .hpMsixData => some (msixWrite r i val mask b)
  | .ptStageVf => some (storePlain r i val (if i % 2 = 1 then mask &&& fmask 55 0 else mask) b)
  | _ => some (plain b)

/-- A write of a register that is ignored and counted (R33); PS_EVENTS counts those of the shadow and swap registers (R428). -/
def regIgnored (w : Agent) (r : Reg) (b : Block) : Block :=
  let b := ignored r.spec.unit w none b
  match r with
  | .psPitchLen | .psPhases | .psCycle | .psSchedBase | .psSwapAt | .psSwapCtl => fbump F.psEventsIgnored 0 1 b
  | _ => b

/-- A VF that no partition maps: every write that it makes is ignored and counted, but for those of its mailbox and HP_FN_STATUS (R487).
Where the address names no register, PT counts it (DESIGN CHOICE, log entry 133). -/
def unmappedVf (b : Block) (w : Agent) : Bool :=
  match w with
  | .vf h v => (vfPart b (128 * h + v)).isNone
  | _ => false

/-- A write that lands at a register's copy, or is ignored: silently where no such register is there (R17, R31), and counted
where it names what is not the agent's (R32) or where no partition maps the VF that writes (R487). -/
def regStore (w : Agent) (r : Reg) (c : Nat) (val mask : BitVec 64) (b : Block) : Block :=
  match regIdx b w r c with
  | .absent => if unmappedVf b w then regIgnored w r b else b
  | .foreign => regIgnored w r b
  | .at_ i =>
    match regApply w r i val mask b with
    | some b => b
    | none => regIgnored w r b

end Sys2Proof.Machine
end

