-- ==== Sys2Proof/Machine/Md.lean ====
section
/-!
DEFINITION. The management core's dictionary (R630-R646) and SPDM responder (R647-R651).
-/
namespace Sys2Proof.Machine

open Sys2Proof

/-! ### Error codes (R640) -/

def mdOk : Nat := 0
def mdNoEntry : Nat := 1
def mdNoAccess : Nat := 2
def mdReadOnly : Nat := 3
def mdBadValue : Nat := 4
def mdBadLength : Nat := 5
def mdNotIdle : Nat := 6
def mdBusy : Nat := 7
def mdNotSecure : Nat := 8
def mdStoreFailed : Nat := 9
def mdBadOp : Nat := 10

/-! ### Values -/

/-- The fault source and the interrupt source that an entry of index 0x8100 or 0x8200 on sets (R636). -/
def entryFault (idx sub : Nat) : Nat := 256 * (idx - 0x8100) + sub
def entryIntr (idx sub : Nat) : Nat := 256 * (idx - 0x8200) + sub

/-- The partition that an entry belongs to, if it is a partition's (R633). -/
def entryPart (idx sub : Nat) : Option Nat :=
  if 0x7000 ≤ idx ∧ idx < 0x7010 then some (idx - 0x7000)
  else if idx = 0x9000 then some sub
  else if 0x8100 ≤ idx ∧ idx < 0x8200 ∧ 256 ≤ entryFault idx sub then some ((entryFault idx sub - 256) / 16)
  else if 0x8200 ≤ idx ∧ idx < 0x8208 then sgPart (entryIntr idx sub)
  else none

/-- An entry's value as the bits of the field that it sets: ENABLE and CEILING of a fault source, TARGET and VECTOR of an
interrupt source, the host-address limit in units of 4 KiB. -/
def fieldBits (f : Fld) (v : Nat) : BitVec 64 × BitVec 64 :=
  match f.reg with
  | .fhSrcCtl => (fset F.fhSrcCtlEnable (v / 128) (fset F.fhSrcCtlCeiling (v % 8) 0#64), 0xF000000000000000#64)
  | .sgSrcCfg =>
    (fset F.sgSrcCfgTarget (v / 2048) (fset F.sgSrcCfgVector (v % 2048) 0#64),
     fmask F.sgSrcCfgTarget.hi F.sgSrcCfgTarget.lo ||| fmask F.sgSrcCfgVector.hi F.sgSrcCfgVector.lo)
  | .hpPortCtl => if f = F.hpPortCtlHostLimit then (fset f (v / 4096) 0#64, fmask f.hi f.lo) else (fset f v 0#64, fmask f.hi f.lo)
  | _ => (fset f v 0#64, fmask f.hi f.lo)

/-- The value of an entry as a register's word shows it. -/
def fieldValue (f : Fld) (w : BitVec 64) : Nat :=
  match f.reg with
  | .fhSrcCtl => 128 * F.fhSrcCtlEnable.of w + F.fhSrcCtlCeiling.of w
  | .sgSrcCfg => 2048 * F.sgSrcCfgTarget.of w + F.sgSrcCfgVector.of w
  | .hpPortCtl => if f = F.hpPortCtlHostLimit then 4096 * f.of w else f.of w
  | _ => f.of w

/-- The session that carries a request, where it is one of the binding's that FINISH has completed. -/
def sessionOf (b : Block) (bnd : Binding) (id : Option Nat) : Option Session :=
  id.bind (fun s => b.md.sessions.find? (fun x => x.id == s && x.bnd == bnd && x.open_))

/-- The live value of an entry (R635). On a part of 200 Gb/s ports only, MODE reads 2 (R636). -/
def liveValue (b : Block) (ses : Option Session) (idx sub : Nat) (e : Entry) : Nat :=
  match e.loc with
  | .own => if idx = 0x2101 ∧ (variant b).fabRate = 1 then 2 else dict b idx sub
  | .fuse =>
    (match sub with
     | 0 => (readReg b .mgmt .idBlock 0).toNat
     | 1 => (readReg b .mgmt .idVariant 0).toNat
     | 2 => b.fuses.frame.toNat
     | 3 => b.fuses.serial % 2 ^ 64
     | _ => b.fuses.baseMac % 2 ^ 64)
  | .field f i => fieldValue f (readReg b .mgmt f.reg i)
  | .key =>
    if sub = 4 then
      let slot := match ses with | some s => s.keySlot | none => fget b F.ceKeySelSlot 256
      (readReg (fput F.ceKeySelSlot 256 slot b) .mgmt .ceKeyStatus 0).toNat
    else 0

/-- The stored value of an entry (R634). -/
def storedValue (b : Block) (idx sub : Nat) (e : Entry) : Nat := tget e.dflt b.md.stored (256 * idx + sub)

def storePut (idx sub v : Nat) (b : Block) : Block := modMd (fun m => { m with stored := tput m.stored (256 * idx + sub) v }) b
def livePut (idx sub v : Nat) (b : Block) : Block := modMd (fun m => { m with live := tput m.live (256 * idx + sub) v }) b

/-- Does a value lie within the range of an entry (R635, R636)? -/
def valueOk (idx sub : Nat) (e : Entry) (v : Nat) : Bool :=
  e.lo ≤ v && v ≤ e.hi &&
    (if idx = 0x2000 ∧ sub = 0 then v ≤ 32766 || v == 0xFFFF
     else if idx = 0x2001 then v % 4096 == 0
     else if 0x8100 ≤ idx ∧ idx < 0x8200 then
       let s := entryFault idx sub
       v / 8 % 16 == 0 && fhStart s ≤ v % 8 && v % 8 ≤ (if 256 ≤ s then 3 else 5)
     else if 0x8200 ≤ idx ∧ idx < 0x8208 then v / 2048 < 20
     else true)

/-- Write the live value of an entry through the management core path (R635): `none` where the field's own rules would ignore the
write. -/
def liveSet (ses : Option Session) (idx sub v : Nat) (e : Entry) (b : Block) : Option Block :=
  match e.loc with
  | .own => some (livePut idx sub v b)
  | .fuse => none
  | .field f i =>
    let (val, mask) := fieldBits f v
    (match f.reg with
     | .fhSrcCtl => if fhClass i = some 3 ∧ v < 128 then none else some (fhConfig .mgmt i val mask b)
     | .sgSrcCfg => if sgFixed i || !sgMaskBit b i || sgInService b i then none else some (sgConfig .mgmt i val mask b)
     | r => regApply .mgmt r i val mask b)
  | .key =>
    match ses with
    | none => none
    | some s =>
      let upd := fun (g : Session → Session) (b : Block) =>
        modMd (fun m => { m with sessions := m.sessions.map (fun x => if x.id = s.id then g x else x) }) b
      match sub with
      | 0 => some (upd (fun x => { x with keySlot := v }) b)
      | 1 => some (upd (fun x => { x with key := v }) b)
      | 2 => some (upd (fun x => { x with keySwitch := v }) b)
      | 3 =>
        let sw := BitVec.ofNat 64 s.keySwitch
        let r := keyCommand v s.keySlot s.key (F.ceKeySwitchTxPsn.of sw) (F.ceKeySwitchRxPsn.of sw) b
        some (upd (fun x => { x with key := 0 }) (fput F.ceKeyStatusResult 0 r.1 r.2))
      | _ => none

/-! ### Rights (R632, R633) -/

/-- The host port whose PF a binding stands for. -/
def Binding.pfPort (bnd : Binding) : Option Nat :=
  match bnd with
  | .vdm h | .md h | .doe h => some h
  | _ => none

/-- May a right's entries be SET over a binding (R632)? `secure` is a session. -/
def DRight.permits (r : DRight) (bnd : Binding) (secure : Bool) : Bool :=
  match r with
  | .ro => false
  | .rw => secure || (match bnd with | .i3c | .vdm _ | .md _ => true | _ => false)
  | .rwp => bnd == .i3c
  | .rws => secure || bnd == .i3c
  | .ws => secure

/-- May a binding reach an entry of a partition (R633)? -/
def entryReach (b : Block) (bnd : Binding) (idx sub : Nat) : Bool :=
  match Binding.pfPort bnd, entryPart idx sub with
  | some h, some p => owns b (.pf h) p
  | _, _ => true

/-! ### Service (R639-R642) -/

/-- The check of a SET or DEFAULT of an entry to a value, up to its range: its error code. -/
def setCheck (bnd : Binding) (ses : Option Session) (idx sub v : Nat) (e : Entry) : Nat :=
  if e.right = .ro ∨ e.cls = .f then mdReadOnly
  else if !e.right.permits bnd ses.isSome then mdNotSecure
  else if !valueOk idx sub e v then mdBadValue
  else mdOk

/-- An answer: the status, the index and subindex that it names, and its VALUE. -/
structure MdAnswer where
  status : Nat
  idx : Nat
  sub : Nat
  value : List (BitVec 8)
  deriving DecidableEq, Repr

/-- Serve a dictionary request (R639-R642): `store` says whether the non-volatile store takes a write. -/
def dictServe (bnd : Binding) (ses : Option Session) (op : Nat) (r : DictReq) (store : Bool) (b : Block) : MdAnswer × Block :=
  let idx := r.index
  let sub := r.sub
  let fail := fun (c : Nat) => ((⟨c, idx, sub, []⟩ : MdAnswer), b)
  if !started b || (stopped b && (op == 2 || op == 4) && !(0x8000 ≤ idx && idx ≤ 0x82FF)) then fail mdBusy
  else if op = 0 ∨ 5 < op then fail mdBadOp
  else if op = 5 then
    match dictNext (variant b) idx sub with
    | none => fail mdNoEntry
    | some (i, s) =>
      match dictEntry (variant b) i s with
      | none => fail mdNoEntry
      | some e => (⟨mdOk, i, s, leBytes 2 i ++ [BitVec.ofNat 8 s, BitVec.ofNat 8 (e.ty.code + 16 * e.right.code)]⟩, b)
  else
    match dictEntry (variant b) idx sub with
    | none => fail mdNoEntry
    | some e =>
      let live := fun (b : Block) => leBytes e.ty.size (liveValue b ses idx sub e)
      if !entryReach b bnd idx sub then fail mdNoAccess
      else
        match op with
        | 1 => if e.right = .ws then fail mdNoAccess else (⟨mdOk, idx, sub, live b⟩, b)
        | 2 =>
          let c := setCheck bnd ses idx sub r.value e
          if c = mdReadOnly ∨ c = mdNotSecure then fail c
          else if r.count ≠ e.ty.size then fail mdBadLength
          else if c ≠ mdOk then fail c
          else if e.cls = .b then
            let b := storePut idx sub r.value b
            (⟨mdOk, idx, sub, leBytes e.ty.size (storedValue b idx sub e)⟩, b)
          else
            (match liveSet ses idx sub r.value e b with
             | none => fail mdNotIdle
             | some b => (⟨mdOk, idx, sub, if e.right = .ws then leBytes e.ty.size r.value else live b⟩, b))
        | 3 =>
          if e.cls = .f ∨ e.cls = .v then fail mdReadOnly
          else if e.cls = .b then (⟨mdOk, idx, sub, []⟩, b)
          else if !store then fail mdStoreFailed
          else (⟨mdOk, idx, sub, []⟩, storePut idx sub (liveValue b ses idx sub e) b)
        | _ =>
          let c := setCheck bnd ses idx sub e.dflt e
          if c ≠ mdOk then fail c
          else if e.cls = .b then let b := storePut idx sub e.dflt b; (⟨mdOk, idx, sub, live b⟩, b)
          else
            match liveSet ses idx sub e.dflt e b with
            | none => fail mdNotIdle
            | some b =>
              let b := if e.cls = .s then storePut idx sub e.dflt b else b
              (⟨mdOk, idx, sub, live b⟩, b)

/-- Does a binding reach the management core (R643)? The management core path is none of them, and on a DOE dictionary messages
travel in sessions only (R644). -/
def bindingUp (b : Block) (bnd : Binding) (ses : Option Session) : Bool :=
  match bnd with
  | .i3c => true
  | .vdm h => hostUp b h
  | .md h => portPresent b h
  | .doe h => hostUp b h && ses.isSome
  | .fabric => !noFabric b
  | .mgmtPath => false

/-- A dictionary request arrives over a binding: it is served, and its response leaves. One that names a session which the
binding does not have is dropped. -/
def dictRequest (bnd : Binding) (op : Nat) (r : DictReq) (store : Bool) (b : Block) : Block :=
  let ses := sessionOf b bnd r.session
  if (r.session.isSome && ses.isNone) || !bindingUp b bnd ses then b
  else
    let (a, b) := dictServe bnd ses op r store b
    emit (.dict bnd r.session op r.seq a.idx a.sub a.status a.value) b

/-- The quadwords of a dictionary message, eight of them (R638). -/
def mdWords (op seq : Nat) (a : MdAnswer) : List (BitVec 64) :=
  BitVec.ofNat 64 (op + seq * 2 ^ 8 + a.idx * 2 ^ 16 + a.sub * 2 ^ 32 + a.value.length * 2 ^ 40 + a.status * 2 ^ 48)
    :: leQuads 7 a.value

/-- SEND: the request in MD_REQ is served and its response stands in MD_RSP (R645). -/
def mdServe (h : Nat) (store : Bool) (b : Block) : Block :=
  let bank := 128 * h
  let q := (rget b .mdReq (8 * bank)).toNat
  let bytes := quadBytes ((List.range 7).map (fun i => rget b .mdReq (8 * bank + 1 + i)))
  let count := bits q 47 40
  let r : DictReq := { session := none, seq := bits q 15 8, index := bits q 31 16, sub := bits q 39 32, count := count,
                       value := leNat (bytes.take count) }
  let op := bits q 7 0
  let (a, b) := dictServe (.md h) none op r store b
  let w := mdWords op r.seq a
  let b := eachN 8 (fun i b => rput .mdRsp (8 * bank + i) (w.getD i 0#64) b) b
  fput F.mdCtlDone bank 1 b

/-! ### Loading (R634, R709, R711) -/

/-- Put the value of an entry into effect at start-up, as a field or as a live value of its own. Path entries load into both tables
(R636), and the node ID into ID_NODE (R50). -/
def entryLoad (idx sub v : Nat) (e : Entry) (b : Block) : Block :=
  match e.loc with
  | .own =>
    let b := livePut idx sub v b
    if idx = 0x2000 ∧ sub = 0 then
      (if v = 0xFFFF then b else fput F.idNodeValid 0 1 (fput F.idNodeNodeId 0 v b))
    else b
  | .field f i =>
    let (val, mask) := fieldBits f v
    let put := fun (r : Reg) (b : Block) => rput r i ((rget b r i &&& ~~~mask) ||| val) b
    if f.reg = .ftPathShadow then put .ftPathActive (put .ftPathShadow b) else put f.reg b
  | _ => b

/-- The sums of the data areas and of the QP shares never exceed the pool (R482). Where stored carve-outs would, every partition takes the
default of that kind (DESIGN CHOICE, log entry 132). -/
def carveFit (b : Block) : Block :=
  let v := variant b
  let sum := fun (f : Fld) => (List.range v.partitions).foldl (fun n p => n + fget b f p) 0
  let b := if v.depotGib * 1024 < sum F.ptCarveData64k then eachN v.partitions (fun p b => fput F.ptCarveData64k p (carveData v) b) b else b
  if qpPool b - 1 < sum F.ptCarveQpShare then eachN v.partitions (fun p b => fput F.ptCarveQpShare p (carveQps v) b) b else b

/-- The dictionary is loaded: every entry of classes S and B takes its stored value, and what the list does not store its
default. A register field's default is its value at reset, but for the carve-outs, which depend on the variant (R482), and for
the targets of a partition's sources, which follow its managing port (R578). -/
def dictLoad (stored : Tbl Nat) (b : Block) : Block :=
  let v := variant b
  let b := modMd (fun m => { m with live := [] }) b
  let b := eachN v.partitions (fun p b =>
    fput F.ptCarveQpShare p (carveQps v) (fput F.ptCarveData64k p (carveData v) b)) b
  let load := fun (b : Block) => each stored (fun e b =>
    match dictEntry v (e.1 / 256) (e.1 % 256) with
    | some x => if x.cls = .s ∨ x.cls = .b then entryLoad (e.1 / 256) (e.1 % 256) e.2 x b else b
    | none => b) b
  let b := load b
  let b := eachN v.partitions (fun p b =>
    if mgrPort b p = 1 then
      each ((List.range 16).map (1280 + 16 * p + ·) ++ [1778 + p]) (fun s b => fput F.sgSrcCfgTarget s 11 b) b
    else b) b
  carveFit (load b)

/-! ### SPDM (R647-R651) -/

/-- The stored values of every entry of classes S and B, in NEXT order, as bytes (R648). -/
def storedBytes (b : Block) : List (BitVec 8) :=
  let v := variant b
  dictIndices.flatMap (fun i => (List.range 256).flatMap (fun s =>
    match dictEntry v i s with
    | some e => if e.cls = .s ∨ e.cls = .b then leBytes e.ty.size (storedValue b i s e) else []
    | none => []))

/-- A measurement block (R648). -/
def measurement (b : Block) (bnd : Binding) (i : Nat) : Option (List (BitVec 8)) :=
  let q := fun (r : Reg) (k : Nat) => leBytes 8 (readReg b .mgmt r k).toNat
  if i = 1 ∨ i = 2 then some (leBytes 48 (Config.firmware i).toNat)
  else if i = 3 then some (q .idBlock 0 ++ q .idVariant 0 ++ q .idProtFrame 0)
  else if i = 4 then some (leBytes 48 (Config.sha384 (storedBytes b)).toNat)
  else if 0x10 ≤ i ∧ i < 0x10 + (variant b).partitions then
    let p := i - 0x10
    let mine : Bool := match Binding.pfPort bnd with | some h => owns b (.pf h) p | none => true
    if mine then some (q .ptPartStatus p ++ q .ptCarve p ++ q .ptBivouac p ++ (List.range 4).flatMap (fun r => q .ptCmem (4 * p + r)))
    else some (List.replicate 56 0#8)
  else none

/-- The blocks that a GET_MEASUREMENTS asks for: all of them for index 0xFF, as SPDM gives (PRESUMED, log entry 32). -/
def measureList (b : Block) (bnd : Binding) (i : Nat) : Option (List (Nat × List (BitVec 8))) :=
  if i = 0xFF then
    some (([1, 2, 3, 4] ++ (List.range (variant b).partitions).map (0x10 + ·)).filterMap (fun k => (measurement b bnd k).map (fun m => (k, m))))
  else (measurement b bnd i).map (fun m => [(i, m)])

/-- Does an SPDM request reach the responder: over a binding of R643 or a DOE, once the block has started? -/
def spdmUp (b : Block) (bnd : Binding) : Bool :=
  started b && (match bnd with | .doe h => hostUp b h | .mgmtPath => true | x => bindingUp b x none)

def spdmReply (bnd : Binding) (r : SpdmRsp) (b : Block) : Block := emit (.spdm bnd r) b

/-- A fresh signature. -/
def spdmSign (b : Block) : BitVec 768 × Block := (Config.signature b.fresh, { b with fresh := b.fresh + 1 })

/-- Answer a request whose nonce or key material has been drawn. -/
def spdmFinish (bnd : Binding) (ask : SpdmAsk) (nonce : List (BitVec 32)) (b : Block) : Block :=
  let (sig, b) := spdmSign b
  match ask with
  | .challenge _ => spdmReply bnd (.challengeAuth nonce sig) b
  | .measurements i => spdmReply bnd (.measurements ((measureList b bnd i).getD []) (some (nonce, sig))) b
  | .keyExchange =>
    let id := b.md.nextSession
    let b := modMd (fun m => { m with nextSession := id + 1,
                                      sessions := m.sessions ++ [⟨id, bnd, false, 0, 0, 0⟩] }) b
    spdmReply bnd (.keyExchange id nonce sig) b

/-- Requests of the management core enter the consumer queue while fewer than eight of them are outstanding (R624). -/
def askMove (b : Block) : Block :=
  let held := (b.en.queue.filter (fun r => match r with | .mgmt _ _ => true | _ => false)).length
  let now := b.en.asks.take (8 - held)
  modEn (fun e => { e with queue := e.queue ++ now.map (fun r => .mgmt r.1 r.2), asks := e.asks.drop (8 - held) }) b

/-- A request that needs the DRBG takes its place in the queue; while the source is FAILED it is answered with ErrorCode
Unspecified (R650). -/
def spdmAsk (bnd : Binding) (ask : SpdmAsk) (b : Block) : Block :=
  if enState b = 3 then spdmReply bnd (.error 5) (fbump F.enCountsUnavailable 0 1 b)
  else askMove (modEn (fun e => { e with asks := e.asks ++ [(bnd, ask)] }) b)

/-- The sessions of a binding, with those that a KEY_EXCHANGE in progress will open. -/
def sessionsHeld (b : Block) (bnd : Binding) : Nat :=
  (b.md.sessions.filter (fun s => s.bnd == bnd)).length
    + (b.en.queue.filter (fun r => match r with | .mgmt x .keyExchange => x == bnd | _ => false)).length
    + (b.en.asks.filter (fun r => r.1 == bnd && r.2 == .keyExchange)).length

/-- Is a session number one of a binding's? -/
def sessionHere (b : Block) (bnd : Binding) (s : Nat) (opened : Bool) : Bool :=
  b.md.sessions.any (fun x => x.id == s && x.bnd == bnd && (x.open_ || !opened))

/-- The request at the head of the consumer queue is served (R624). -/
def drbgServe (b : Block) : Block :=
  match b.en.queue with
  | [] => b
  | r :: rest =>
    if enState b != 1 then b
    else
      let b := modEn (fun e => { e with queue := rest, sinceReseed := e.sinceReseed + 1 }) b
      let b := match r with
        | .mask k => maskServe k b
        | .seeds t =>
          let d := drawWords 16 b
          modEn (fun e => { e with seeds := tput e.seeds t (tget [] e.seeds t ++ d.1) }) d.2
        | .mgmt bnd ask => let d := drawWords 8 (askMove b); spdmFinish bnd ask d.1 d.2
      if 2 ^ 16 ≤ b.en.sinceReseed then reseed b else b

end Sys2Proof.Machine
end

