-- ==== Sys2Proof/Machine/Access.lean ====
section
/-!
DEFINITION. Accesses of the BARs as they are taken (R12-R17, R28-R33, R178, R733): the register that an offset names, and what a write, a
read and an access that breaks R14 do; and the receive queue of a host port, from which they come where they have waited (R446).
-/
namespace Sys2Proof.Machine

open Sys2Proof

/-- The units of R29. -/
def UnitId.all : List UnitId :=
  [.id, .hp, .tu, .sq, .he, .cx, .ft, .ps, .pt, .cc, .fh, .sg, .ce, .en, .md, .tc, .ck]

/-- The unit whose range an offset lies in, with the offset from its base: in PF BAR0 and on the management core path, or in
VF BAR0 (R29, R30). -/
def unitAt (w : Agent) (off : Nat) : Option (UnitId × Nat) :=
  UnitId.all.findSome? (fun u =>
    let (base, size, view) := u.range
    match w with
    | .vf _ _ =>
      (match view with
       | some (v, n) => if v ≤ off ∧ off < v + n then some (u, off - v) else none
       | none => none)
    | _ => if base ≤ off ∧ off < base + size then some (u, off - base) else none)

/-- The copy of a register that lies at an offset from its unit's base. -/
def Reg.copyAt (r : Reg) (o : Nat) : Option Nat :=
  let e := r.spec
  if e.off ≤ o ∧ (o - e.off) % e.stride = 0 ∧ (o - e.off) / e.stride < e.count then some ((o - e.off) / e.stride) else none

/-- The register and copy that an offset names for an agent, where it sees one there (R17, R31). -/
def regDecode (w : Agent) (off : Nat) : Option (Reg × Nat) :=
  match unitAt w off with
  | none => none
  | some (u, o) =>
    Reg.all.findSome? (fun r => if r.spec.unit == u && r.seen w then (r.copyAt o).map (fun c => (r, c)) else none)

/-- The bits of a register that an access names (R16, R733). -/
def halfMask : Half → BitVec 64
  | .full => 0xFFFFFFFFFFFFFFFF#64
  | .lo => 0xFFFFFFFF#64
  | .hi => 0xFFFFFFFF00000000#64

/-- Does a register access reach the block: always on the management core path; from a host while the port's link is up and
the function has memory space (R434, R462)? -/
def accessReach (b : Block) (w : Agent) : Bool :=
  match w with
  | .mgmt => true
  | _ => hostUp b (bankOf w / 128) && mseOn b (bankOf w) && !inD3 b (bankOf w / 128) && !ideOff b (bankOf w)

/-- An access arrives at the block: on a host port it is a TLP; one that the function does not take is an Unsupported Request,
which a read is answered with and a write reports (R434). What arrives over a stream that is Insecure is discarded (R473). -/
def accessArrive (w : Agent) (read : Bool) (b : Block) : Block :=
  match w with
  | .mgmt => b
  | _ =>
    let fn := bankOf w
    let h := fn / 128
    if !hostUp b h || ideOff b fn then b
    else
      let b := hostTlp h b
      if accessReach b w then b
      else if read then emitTlp h (.completion fn .ur) b else aerSet h 0x104 20 b

/-- A stopped block takes host writes of the FH, SG and TC units only (R566). -/
def stopTakes (b : Block) (w : Agent) (r : Reg) : Bool :=
  w == .mgmt || !stopped b || r.spec.unit == .fh || r.spec.unit == .sg || r.spec.unit == .tc

/-- A write of MD_CTL (R645): SEND serves the request at once, so BUSY is never 1 between commands (DESIGN CHOICE, log
entry 37). `storeOk` is what the non-volatile store answers. -/
def mdCtlWrite (bank : Nat) (val : BitVec 64) (storeOk : Bool) (b : Block) : Block :=
  let b := if F.mdCtlDone.on val then fput F.mdCtlDone bank 0 b else b
  if F.mdCtlSend.on val then mdServe (bank / 128) storeOk b else b

/-- Registers whose writes may open the way for work, or end it. -/
def Reg.opens (r : Reg) : Bool :=
  r == .sqCmd || r == .tuAsCtl || r == .tuSegCtl || r == .tuInvCtl || r == .hePartWeight || r == .ptCmd

/-- What an agent has read of a register in part is let go (log entry 106). -/
def letGo (w : Agent) (b : Block) : Block := { b with halves := tdel b.halves (bankOf w) }

/-- A register write (R12, R733), once it has reached the block; `after` is what follows one that may open the way for work. -/
def regTake (after : Block → Block) (w : Agent) (r : Reg) (c : Nat) (m val : BitVec 64) (storeOk : Bool) (b : Block) : Block :=
  let b := letGo w b
  if !stopTakes b w r then b
  else if r = .mdCtl then mdCtlWrite (bankOf w) (val &&& m) storeOk b
  else if r.opens then after (regStore w r c val m b)
  else regStore w r c val m b

/-- A register write is taken: the bits of `val` in the half that it names. A place that holds no register ignores it (R17, R31), and
counts those of a VF that no partition maps (R487; in PT, log entry 133). -/
def writeTake (after : Block → Block) (w : Agent) (reg : Option (Reg × Nat)) (half : Half) (val : BitVec 64) (storeOk : Bool) (b : Block) : Block :=
  let ok := accessReach b w
  let b := accessArrive w false b
  if !ok then b
  else
    match reg with
    | some (r, c) => regTake after w r c (halfMask half) val storeOk b
    | none => if unmappedVf b w && !stopped b then ignored .pt w none b else b

/-- Registers whose own descriptions say that their fields are read at one instant, two 32-bit reads included (R16). -/
def Reg.whole (r : Reg) : Bool :=
  [Reg.sqRingInfo, .heTileLoad, .heStrandStatus, .ftQpStatus, .ftEpochCtl, .psSwapCtl, .psStatus, .psCardStatus, .hpFnStatus,
    .ptPartStatus, .ceKeyStatus, .enStatus, .tcFreeze, .ckTile, .ckGovStatus].contains r

/-- The word of copy `c` of a register from which an agent reads a half, and what it may still read of it: the second half of a
register that is read at one instant is of the instant of the first (DESIGN CHOICE, log entry 106). -/
def halfRead (w : Agent) (r : Reg) (c : Nat) (half : Half) (b : Block) : BitVec 64 × Block :=
  let k := bankOf w
  let fresh := (regAt b w r c, { b with halves := tput b.halves k (regKey r c, half, regAt b w r c) })
  if half = .full || !r.whole then (regAt b w r c, b)
  else
    match tfind b.halves k with
    | some (x, h, v) => if x = regKey r c ∧ h ≠ half then (v, { b with halves := tdel b.halves k }) else fresh
    | none => fresh

/-- A register read is taken: what it returns, and what it clears (R12, R16). -/
def readTake (w : Agent) (r : Option (Reg × Nat)) (off : Nat) (half : Half) (b : Block) : Block :=
  let ok := accessReach b w
  let b := accessArrive w true b
  if !ok then b
  else
    let (v, b) := match r with
      | some (r, c) => (let x := halfRead w r c half b; (x.1 &&& halfMask half, x.2))
      | none => (0#64, b)
    let b := match r with
      | none => b
      | some (r, c) => (match regIdx b w r c with | .at_ i => readEffect w r i (halfMask half) b | _ => b)
    match w with
    | .mgmt => emit (.regData (bankOf w) off v) b
    | _ => emitTlp (bankOf w / 128) (.regData (bankOf w) off v) b

/-- A BAR2 read returns zero (R178); like every TLP it finds the function's memory space enabled or is an Unsupported Request (R434). The
management core path has no BAR2. -/
def bar2ReadTake (w : Agent) (half : Half) (b : Block) : Block :=
  if w = .mgmt then b
  else
    let ok := accessReach b w
    let b := accessArrive w true b
    if !ok then b
    else emitTlp (bankOf w / 128) (.completion (bankOf w) (.data (List.replicate (if half = .full then 8 else 4) 0#8) false)) b

/-- The offset at which an agent sees copy `c` of a register (R29, R30). -/
def Reg.offset (r : Reg) (w : Agent) (c : Nat) : Nat :=
  let base := match w, r.spec.unit.range with
    | .vf _ _, (_, _, some (v, _)) => v
    | _, (x, _, _) => x
  base + r.spec.off + r.spec.stride * c

/-- An access in BAR0 or on the management core path that is not a naturally aligned access of 32 or 64 bits (R15): a read of
it returns zero, a write is discarded, and the fault hub records it. -/
def badTake (w : Agent) (off : Nat) (read : Bool) (b : Block) : Block :=
  let ok := accessReach b w
  let b := accessArrive w read b
  if !ok then b
  else
    let b := fhNote 3 (match w with | .mgmt => .none | _ => .fn (bankOf w))
      (match w with | .vf h v => vfPart b (128 * h + v) | _ => none) b
    if !read then b
    else match w with
      | .mgmt => emit (.regData (bankOf w) off 0#64) b
      | _ => emitTlp (bankOf w / 128) (.regData (bankOf w) off 0#64) b

/-! ### The receive queue of a host port (R446) -/

/-- A request of the receive queue is taken. -/
def postTake (x : Posted) (b : Block) : Block :=
  match x with
  | .write w reg half val storeOk => writeTake id w reg half val storeOk b
  | .read w reg off half => readTake w reg off half b
  | .bad w off read => badTake w off read b
  | .bar2 w slot size val => bar2Take w slot size val b
  | .bar2Read w half => bar2ReadTake w half b
  | .bar4 fn off len data => barTake fn off len data b

/-- What waits in the receive queue of a port is taken in order, as long as the landing buffer takes it. -/
def postRun (h : Nat) : List Posted → Block → Block
  | [], b => b
  | x :: l, b =>
    if postFits b h x then postRun h l (postTake x (modHp (fun p => { p with queue := tset [] p.queue h l }) b)) else b

def postAll (b : Block) : Block := postRun 1 (postQueue b 1) (postRun 0 (postQueue b 0) b)

/-- A request of an agent waits in its port's receive queue; on the management core path none does. -/
def postHeld (w : Agent) (x : Posted) (b : Block) : Option Block := if w = .mgmt then none else postHold (bankOf w / 128) x b

end Sys2Proof.Machine
end

