-- ==== Sys2Proof/Machine/Settle.lean ====
section
/-!
DEFINITION. What follows an event by itself: all work that can go on goes on, and what has drained is freed. A command
that may open the way for work ends with `settle`.
-/
namespace Sys2Proof.Machine

open Sys2Proof

/-- Free what has drained: rings (R208), QPs (R335), functions in reset (R452), epochs (R358), schedules (R413), ATS
invalidations (R120) and slots (R83, R85). -/
def drained (b : Block) : Block :=
  let b := each (tkeys (fun _ r => r.state == .draining) b.sq.rings) ringDrained b
  let b := each (tkeys (fun _ q => q.state == 3) b.ft.qps) qpDrained b
  let b := each b.hp.flr flrFall b
  slotRetry (atsInvalCheck (retireCheck (epochRetire (straysMove b))))

/-! ### The engines' issue selectors (R242-R245, R277) -/

/-- A step that free work of a tile can take now: the work's partition and age, the bytes that the step reads or places, and the block
after it. -/
structure Work where
  tile : Nat
  part : Nat
  age : Nat
  size : Nat
  next : Block

/-- The step of a roped item or receive context that comes first in the order of the cards (R243). -/
def ropedStep (b : Block) : Option Block :=
  let items := (b.he.items.filter (fun e => dCard e.2.desc != 0)).map (fun e => (cardPlace b e, 2 * e.1))
  let rxs := b.ft.rx.filterMap (fun e => e.2.card.map (fun c =>
    ((match cardAt b c.1 c.2.1 with | some (s, x) => nominalAt s x c.2.2 | none => 0, c.2.1 + 1), 2 * e.1 + 1)))
  (cardOrder (items ++ rxs)).findSome? (fun n => if n % 2 = 0 then pumpStep (n / 2) b else rxStep (n / 2) b)

/-- The steps that free items and free receive contexts can take now. Receive contexts are no items, and go before them within a
partition (log entry 98). -/
def freeWork (b : Block) : List Work :=
  b.ft.rx.filterMap (fun e => if e.2.card.isSome then none else (rxStep e.1 b).map (fun b' =>
      ⟨e.2.tile, e.2.part, e.1, if e.2.step = 0 then frameDst e.2.frame.hdr else 0, b'⟩))
    ++ b.he.items.filterMap (fun e => if dCard e.2.desc ≠ 0 then none else (pumpStep e.1 b).map (fun b' =>
      ⟨e.2.tile, e.2.part, 2 ^ 40 + e.1, (match tfind b'.he.items e.1 with
        | some it => (it.rd - e.2.rd) + (it.dpos - e.2.dpos)
        | none => 0), b'⟩))

/-- The oldest work of a partition on a tile. -/
def workOldest (l : List Work) (t p : Nat) : Option Work :=
  (l.filter (fun w => w.tile == t && w.part == p)).foldl (fun acc w => match acc with
    | none => some w
    | some v => if w.age < v.age then some w else some v) none

/-- The step of free work that goes next: at once where it moves no data, else the one that its tile's issue selectors grant by deficit
round robin (R244, R245). -/
def freeStep (b : Block) : Option Block :=
  let l := freeWork b
  match l.find? (fun w => w.size == 0) with
  | some w => some w.next
  | none =>
    match l with
    | [] => none
    | w :: _ =>
      let size := fun p => (workOldest l w.tile p).map (·.size)
      match drrPick b (issueOf w.tile) size with
      | none => some w.next
      | some (p, _) => (workOldest l w.tile p).map (fun v => drrCharge (issueOf w.tile) v.size size v.next)

/-- Carry items and receive contexts on until none makes progress, roped work before free work. Nothing happens while the block is
stopped (R566). -/
def workAll (b : Block) : Block :=
  if stopped b then b
  else rfencePump (loop 65536 (fun b => match ropedStep b with | some b => some b | none => freeStep b) b)

/-- One pass: what waits at the host ports is taken as it fits; items, receive contexts, completion rings and window accesses go on, rings fetch, rounds complete, tile walks prefetch. -/
def settleOnce (b : Block) : Block :=
  drained (prefetchAll (fetchAll (roundsCheck (winPumpAll (cqPumpAll (workAll (postAll b)))))))

/-- Three passes, for what one piece of work sets free for another of an earlier kind; what is left goes on with the next
event. Tiles and channels that have work wake (R713, R714), and host ports report it (R463, R464). -/
def settle (b : Block) : Block := portsRun (wakeAll (settleOnce (settleOnce (settleOnce b))))

end Sys2Proof.Machine
end

