-- ==== Sys2Proof/Machine/Answers.lean ====
section
/-!
DEFINITION. The answers to exchanges: what data, errors and acknowledgements do to the work that waits for them (R235, R251,
R259-R262, R448), and the commands that bring them.
-/
namespace Sys2Proof.Machine

open Sys2Proof

/-! ### Bad data -/

/-- Where the 64 B block that holds byte `k` of an access begins, as an offset of the access. -/
def badFrom (p : Place) (k : Nat) : Nat :=
  let a := match p with | .die _ a => a | .depot a => a | .port _ a _ => a | .remote _ a => a
  alignDown (a + k) 64 - a

/-- The bytes that arrive of an answer, whose bad block is an offset and a status: poisoned data arrives with its mark, an
error has none. -/
def goodPart (data : List (BitVec 8)) (bad : Option (Nat × Nat)) : List (BitVec 8) :=
  match bad with | some (k, st) => if st = 0x050 then data else data.take k | none => data

/-- The lower of two bad blocks. -/
def lowest (x : Option (Nat × Nat)) (k st : Nat) : Option (Nat × Nat) :=
  match x with | some (p, s) => if p < k then some (p, s) else some (k, st) | none => some (k, st)

/-! ### Reads -/

/-- Issue a source read again whose speculative data were bad (R235). An invalidation that waits for the read waits for this one. -/
def srcAgain (n i off : Nat) (t : Txn) (b : Block) : Block :=
  let m := b.nextTxn
  modTu (fun u => { u with invals := u.invals.map (fun e => (e.1, { e.2 with txns := e.2.txns.map (fun x => if x = n then m else x) })) })
    (issueRead t.place t.part t.fn t.len t.asn t.va true false (.src i off false) b)

/-- Source bytes of an item arrive (R228, R235, R240), by exchange `n`. A bad speculative read is discarded, and read again once
the item is committed; one that no gate holds commits then (DEDUCED, log entry 99). -/
def srcArrive (n i off : Nat) (spec : Bool) (t : Txn) (data : List (BitVec 8)) (bad : Option (Nat × Nat)) (b : Block) : Block :=
  match tfind b.he.items i with
  | none => b
  | some it =>
    match bad, spec with
    | some _, true =>
      if held b it then modItem i (fun it => { it with hold := some noSpec }) (undo i b)
      else srcAgain n i off t (let b := specDiscard i t.len b; if it.committed then b else commit i b)
    | _, _ =>
      let first := it.committed && !spec && !it.passed && !(goodPart data bad).isEmpty
      let b := modItem i (fun it =>
        { it with pieces := it.pieces ++ [(off, goodPart data bad)], passed := it.passed || first,
                  poisonAt := match bad with | some (k, st) => lowest it.poisonAt (off + k) st | none => it.poisonAt }) b
      if first then event i 0x04 b else b

/-- A zero-length read of an item under a requester has completed (R252). An error completion fails the item (R448), with its failure
marks (R195), and the writes before it are not known to be durable. -/
def flushDone (i fn : Nat) (err : Bool) (b : Block) : Block :=
  let b := modItem i (fun it => { it with flushes := it.flushes - 1 }) b
  if err then itemLate i 0x051 0 (match tfind b.he.items i with
    | some it => modRing it.ringKey (fun r => { r with hostWrites := sins fn r.hostWrites }) b
    | none => b)
  else b

/-- A fetch of descriptors has been answered (R184, R186). One that has been discarded changes nothing else. -/
def fetchDone (n key k : Nat) (ds : Option (List (List (BitVec 64)))) (b : Block) : Block :=
  match tfind b.sq.rings key with
  | none => b
  | some r =>
    if r.fetching ≠ some n then b
    else if r.discardFetch then modRing key (fun r => { r with fetching := none, discardFetch := false }) b
    else
      match ds with
      | none => fetchFail key b
      | some l => takeDescs key (l.take k) (modRing key (fun r => { r with fetching := none }) b)

/-- Descriptors of eight quadwords each. -/
def descsOf (k : Nat) (data : List (BitVec 8)) : List (List (BitVec 64)) :=
  (List.range k).map (fun i => leQuads 8 (data.drop (64 * i)))

/-- Data of a window read arrives (R443, R732). -/
def winArrive (w off : Nat) (data : List (BitVec 8)) (bad : Option (Nat × Nat)) (b : Block) : Block :=
  match tfind b.hp.wins w with
  | none => b
  | some a =>
    match bad with
    | some (k, 0x050) =>
      modWin w (fun a => { a with got := a.got ++ [(off, data)],
                                  poison := (lowest (a.poison.map (fun p => (p, 0))) (off + k) 0).map (·.1) }) b
    | some (k, _) => winFail w 0x34 (a.va + off + k) b
    | none => modWin w (fun a => { a with got := a.got ++ [(off, data)] }) b

/-- A read is answered, under its number: `bad` is the first bad block of the answer, if any, with the status that it gives an
item. The exchange is closed. -/
def readArrive (n : Nat) (t : Txn) (data : List (BitVec 8)) (bad : Option (Nat × Nat)) (b : Block) : Block :=
  let b := closeTxn n b
  match t.use with
  | .src i off spec => srcArrive n i off spec t data bad b
  | .operand i off =>
    combineApply i off (goodPart data bad) (bad.map (fun e => (off + e.1, e.2))) b
  | .waitRead i =>
    (match bad with
     | some (_, st) => itemFail i st 0 b
     | none => waitEval i (leNat data) b)
  | .flush i => flushDone i t.fn bad.isSome b
  | .tailFlush p c => tailFlushed p c b
  | .rfenceFlush c => rfenceFlushed t.part c bad.isSome b
  | .irqFlush p c => (match tfind b.sq.cqs (4096 * p + c) with | some q => sgAssert q.irq b | none => b)
  | .mirror w level => mirrorAnswer w level t bad.isSome b
  | .fetch p r k => fetchDone n (4096 * p + r) k (if bad.isSome then none else some (descsOf k data)) b
  | .walk w => walkAnswer w (if bad.isSome then none else some (leQuads 8 data)) b
  | .winRead w off => winArrive w off data bad b
  | .rxOperand x off =>
    (match bad with
     | some (k, _) => modRx x (fun r => { r with bad := some (off + k) }) b
     | none => modRx x (fun r => { r with operand := r.operand ++ [(off, data)] }) b)
  | .rxRead x off =>
    modRx x (fun r =>
      { r with operand := r.operand ++ [(off, data)],
               poison := match bad with
                 | some (k, 0x050) => (lowest (r.poison.map (fun p => (p, 0))) (off + k) 0).map (·.1)
                 | _ => r.poison,
               bad := match bad with
                 | some (k, st) => if st = 0x050 then r.bad else (lowest (r.bad.map (fun p => (p, 0))) (off + k) 0).map (·.1)
                 | none => r.bad }) b
  | _ => b

/-! ### Writes -/

/-- The item of an entry that could not be written strands its record; the slot of the ring is not used (R267 reason 4). Entries
that were issued behind it are issued again, from its slot on (log entry 11). -/
def entryLost (i : Nat) (b : Block) : Block :=
  match tfind b.he.items i with
  | none => b
  | some it =>
    let key := itemCq b it
    match tfind b.sq.cqs key with
    | none => strand i 4 b
    | some c =>
      if !c.issued.any (fun e => e.1 == i) then b
      else
        let later := (c.issued.dropWhile (fun e => e.1 != i)).drop 1
        let b := modCq key (fun c => { c with issued := c.issued.takeWhile (fun e => e.1 != i) }) b
        let b := each later (fun e b =>
          modItem e.1 (fun it => { it with stage := .record }) (closeTxns (fun t => t.use == .entry e.1) b)) b
        cqPump key (strand i 4 b)

/-- A write is durable up to byte `k` of it, or whole where `bad` is none (R251, R260). The exchange is closed. -/
def writeArrive (n : Nat) (t : Txn) (bad : Option Nat) (b : Block) : Block :=
  let b := waitPoke t.part t.place (bad.getD t.len) (closeTxn n b)
  match t.use with
  | .dst i off len =>
    let k := bad.getD len
    (match tfind b.he.items i with
     | none => b
     | some it =>
       let b := blocksDone i t.place t.len (tcCount it.tile 0x014 (some it.part) k b)
       let b := if k = 0 then b else modItem i (fun it => { it with durable := ivAdd off k it.durable }) b
       if bad.isSome then itemFail i 0x051 0 b else b)
  | .fence i =>
    (match tfind b.he.items i with
     | none => b
     | some it =>
       if bad.isSome then fenceFail i 0x051 (dFenceAddr it.desc) b
       else fenceDone i b)
  | .entry i => if bad.isSome then entryLost i b else entryAcked i b
  | .tail p c intr => if intr && bad.isNone then cqInterrupt p c b else b
  | .winWrite w off =>
    (match tfind b.hp.wins w with
     | none => b
     | some a =>
       match bad with
       | some k => winFail w 0x34 (a.va + off + k) b
       | none => modWin w (fun a => { a with done := ivAdd off t.len a.done }) b)
  | .rxWrite x off len =>
    (match bad with
     | some _ => modRx x (fun r => { r with bad := some 0 }) b
     | none => modRx x (fun r => { r with done := ivAdd off len r.done }) b)
  | .rfence c => if bad.isSome then partFault t.part 6 (.card c) b else b
  | .sink tile p k => if bad.isSome then b else sinkDone tile p k b
  | _ => b

/-! ### Answers by number -/

/-- Does an exchange read? -/
def Txn.reads (t : Txn) : Bool := t.data.isNone

/-- Is a place in a compute die, or in the depot? -/
def Place.isDie : Place → Bool | .die _ _ => true | _ => false
def Place.isDepot : Place → Bool | .depot _ => true | _ => false

/-- Was a number ever given to an exchange? The answer to one that never was is a violation that nothing detects (R28). -/
def txnKnown (n : Nat) (b : Block) : Bool := n < b.nextTxn

/-- What an answer of a kind does: nothing where its exchange is closed or of another kind, which is an answer that comes too
late. -/
def onTxn (n : Nat) (p : Txn → Bool) (f : Txn → Block → Block) (b : Block) : Block :=
  match tfind b.txns n with
  | some t => if p t then f t b else b
  | none => b

/-- Is an exchange a table or mirror read of a prefetch walk (R140)? -/
def prefetching (b : Block) (u : Use) : Bool :=
  match u with
  | .walk w | .mirror w _ => (match tfind b.tu.walks w with | some k => k.walkOf.isSome | none => false)
  | _ => false

/-- Is an exchange one of those that are discarded without record where they fail: a speculative read (R235), a read of a walk that
prefetches (R140) or that serves only speculative items that are held (R234)? -/
def unrecorded (b : Block) (u : Use) : Bool :=
  match u with
  | .src _ _ s => s
  | .walk w | .mirror w _ => prefetching b u || walkSpec b w
  | _ => false

/-! ### Compute dies -/

/-- Read data of a compute die, with a poison mark from byte `k` on (R235, R259). -/
def dieData (n : Nat) (data : List (BitVec 8)) (poison : Option Nat) (b : Block) : Block :=
  onTxn n (fun t => t.reads && t.place.isDie) (fun t b =>
    let b := match t.place, poison with
      | .die d _, some _ => if unrecorded b t.use then b else fhNote (201 + 4 * d) (.die d) none b
      | _, _ => b
    readArrive n t data (poison.map (fun k => (badFrom t.place k, 0x050))) b) b

/-- A compute die has acknowledged a write. -/
def dieAck (n : Nat) (b : Block) : Block :=
  onTxn n (fun t => !t.reads && t.place.isDie) (fun t b => writeArrive n t none b) b

/-- An access to a compute die had no answer within DIE_TIMEOUT (R261). -/
def dieLate (n : Nat) (b : Block) : Block :=
  onTxn n (fun t => t.place.isDie) (fun t b =>
    let b := match t.place with
      | .die d _ => if unrecorded b t.use then b else fhRaise (200 + 4 * d) (.die d) none false b
      | _ => b
    if t.reads then readArrive n t [] (some (0, 0x051)) b else writeArrive n t (some 0) b) b

/-! ### The depot -/

/-- The depot channel that holds byte `k` of an exchange: that of its place in the data area, or of the mirror line of a walk
(R24, R113). -/
def ecChannel (b : Block) (t : Txn) (x k : Nat) : Nat :=
  match t.use with
  | .mirror _ level => mirrorChannel t.part t.asn level (t.va / (8 * levelSpan level))
  | _ => depotChannel b (x + k)

/-- What ECC finds in the depot at an exchange (R113, R260), for the record: each block that it corrects, or the one that it cannot.
An uncorrectable mirror line is recorded as it is discarded. A prefetch walk records nothing: it stops (R140). -/
def eccNote (t : Txn) (e : Ecc) (b : Block) : Block :=
  let mirror : Bool := match t.use with | .mirror _ _ => true | _ => false
  match t.place, e with
  | .depot x, .corrected offs =>
    if prefetching b t.use then b else
    each (offs.filter (fun k => k < t.len)) (fun k b => let c := ecChannel b t x k; fhNote (96 + 2 * c) (.channel c) none b) b
  | .depot x, .uncorrectable k =>
    let c := ecChannel b t x k
    if unrecorded b t.use || mirror then b else fhRaise (97 + 2 * c) (.channel c) none false b
  | _, _ => b

def Ecc.bad (t : Txn) : Ecc → Option Nat
  | .uncorrectable k => some (badFrom t.place k)
  | _ => none

/-- The bytes that a depot exchange reads. -/
def depotBytes (t : Txn) (d : List Host.Cell) : List (BitVec 8) :=
  match t.place with
  | .depot x => memRead d (depotAt t.part x) t.len
  | _ => []

/-- The depot answers a read. -/
def depotData (n : Nat) (e : Ecc) (d : List Host.Cell) (b : Block) : Block :=
  onTxn n (fun t => t.reads && t.place.isDepot) (fun t b =>
    let stop : Option Nat := match e with | .corrected (_ :: _) => if prefetching b t.use then some 0 else none | _ => none
    readArrive n t (depotBytes t d) (((Ecc.bad t e).or stop).map (fun k => (k, 0x051))) (eccNote t e b)) b

/-- The depot acknowledges a write. -/
def depotAck (n : Nat) (e : Ecc) (b : Block) : Block :=
  onTxn n (fun t => !t.reads && t.place.isDepot) (fun t b => writeArrive n t (Ecc.bad t e) (eccNote t e b)) b

/-- The depot once a write is acknowledged: the bytes before a bad block are written. -/
def depotWritten (n : Nat) (e : Ecc) (b : Block) (d : List Host.Cell) : List Host.Cell :=
  match tfind b.txns n with
  | some t =>
    (match t.place, t.data with
     | .depot x, some bytes => memWrite d (depotAt t.part x) (bytes.take ((Ecc.bad t e).getD bytes.length))
     | _, _ => d)
  | none => d

/-! ### Host ports -/

/-- A completion whose work has ended meanwhile is discarded, and counted (R264, R471), whatever it was to bring. -/
def strayCpl (n : Nat) (b : Block) : Block :=
  match tfind b.txns n with
  | some t =>
    (match t.use, t.place with
     | .free, .port h _ _ => if t.data.isNone then closeTxn n (fbump F.hpEventsCplDiscard h 1 (hostTlpFor (some t.part) h b)) else b
     | _, _ => b)
  | none => b

/-- The fault of a malformed or unexpected TLP, or of a completer abort (R28). -/
def tlpError (h fn : Nat) (b : Block) : Block :=
  if portPresent b h then fhRaise (32 * h + 33) (.fn (128 * h + fn)) (vfPart b (128 * h + fn)) false b else b

/-- The function that an unexpected completion names, on a port that is present: a free value (DESIGN CHOICE, log entry 7). -/
def strayFn (n : Nat) (b : Block) : Nat :=
  let fn := Config.strayFn n % 256
  if portPresent b (fn / 128) then fn else (fn + 128) % 256

/-- A completion on a host port. One that answers no request, or whose data has another length than its request asked for, is an
unexpected or malformed TLP: PCIe's error logic detects it, and the request stays outstanding (R28). -/
def hostAnswer (n : Nat) (len : Option Nat) (f : Block → Block) (b : Block) : Block :=
  if !txnKnown n b then tlpError (strayFn n b / 128) (strayFn n b % 128) b
  else
    match tfind b.txns n with
    | some t =>
      (match t.place with
       | .port h _ _ => if t.reads && len.any (· != t.len) then tlpError h (t.fn % 128) b else f b
       | _ => f b)
    | none => f b

/-- A read completion on a host port (R448). One whose work has ended is discarded (R264). -/
def hostData (n : Nat) (res : CplResult) (b : Block) : Block :=
  onTxn n (fun t => t.reads && t.place.isPort) (fun t b =>
    let h := match t.place with | .port h _ _ => h | _ => 0
    let b := hostTlpFor (some t.part) h b
    match t.use with
    | .free => closeTxn n (fbump F.hpEventsCplDiscard h 1 b)
    | .ats _ => b
    | _ =>
      match res with
      | .data bytes poison =>
        readArrive n t bytes (poison.map (fun k => (badFrom t.place k, 0x050))) (if poison.isSome then cplPoison t.fn b else b)
      | .error abort =>
        readArrive n t [] (some (0, 0x051)) (fhRaise (32 * h + 34) (.fn t.fn) (vfPart b t.fn) false (cplError t.fn abort b))) b

/-- No completion has come within the completion timeout of the function (R448). -/
def hostLate (n : Nat) (b : Block) : Block :=
  onTxn n (fun t => t.reads && t.place.isPort) (fun t b =>
    let h := match t.place with | .port h _ _ => h | _ => 0
    match t.use with
    | .free => closeTxn n b
    | .ats a => atsAnswer a (.error false) (closeTxn n b)
    | _ => readArrive n t [] (some (0, 0x051)) (fhRaise (32 * h + 34) (.fn t.fn) (vfPart b t.fn) false b)) b

/-- An exchange on a host port ends with an error status (R430). -/
def portError (t : Txn) (abort : Bool) (b : Block) : Block := if t.place.isPort then cplError t.fn abort b else b

/-- A descriptor fetch is answered, wherever the ring lies (R184, R186). -/
def fetchAnswer (n : Nat) (res : FetchResult) (b : Block) : Block :=
  onTxn n (fun t => match t.use with | .fetch _ _ _ => true | _ => false) (fun t b =>
    match t.use with
    | .fetch p r k =>
      (match res with
       | .descs ds => fetchDone n (4096 * p + r) k (some ds) (closeTxn n b)
       | .failed abort => fetchDone n (4096 * p + r) k none (closeTxn n (portError t abort b)))
    | _ => b) (strayCpl n b)

/-- A table line is answered, wherever the table lies (R107). -/
def walkLineAnswer (n : Nat) (res : LineResult) (b : Block) : Block :=
  onTxn n (fun t => match t.use with | .walk _ => true | _ => false) (fun t b =>
    match t.use with
    | .walk w =>
      (match res with
       | .line qs => walkAnswer w (some qs) (closeTxn n b)
       | .error abort => walkAnswer w none (closeTxn n (portError t abort b)))
    | _ => b) (strayCpl n b)

/-- An ATS completion (R117). -/
def atsTxn (n : Nat) (res : AtsResult) (b : Block) : Block :=
  onTxn n (fun t => match t.use with | .ats _ => true | _ => false) (fun t b =>
    match t.use with
    | .ats a =>
      atsAnswer a res (closeTxn n (hostTlpFor (some t.part) (t.fn / 128) (match res with | .error abort => cplError t.fn abort b | _ => b)))
    | _ => b) (strayCpl n b)

end Sys2Proof.Machine
end

