-- ==== Sys2Proof/Machine/Begin.lean ====
section
/-!
DEFINITION. How an item begins (R161, R202, R233), what its opcode checks then, the declaration and consumption of tile walks
(R133-R138), and the reads and the watchdog of a WAIT item (R202, R551).
-/
namespace Sys2Proof.Machine

open Sys2Proof

/-- May an item begin: everything before a BARRIER item has ended, and no item of its ring before it is a WAIT item that has not
ended or a BARRIER item that has not begun (R161, R202, R233)? -/
def mayBegin (b : Block) (i : Nat) (it : Item) : Bool :=
  let before := b.he.items.filter (fun e => e.1 < i && e.2.part == it.part && e.2.ring == it.ring)
  !stopped b && it.stage == .waiting && (!dBarrier it.desc || before.isEmpty)
    && before.all (fun e => !(dOpcode e.2.desc == 0x08 && dWait e.2.desc) && !(dBarrier e.2.desc && !e.2.begun))

/-! ### Tile walks -/

/-- The tile of a walk that an address begins (R136). -/
def TileWalk.tileAt (w : TileWalk) (va : Nat) : Option Nat :=
  let d : Int := (va : Int) - w.base
  if w.stride = 0 then none
  else if d % w.stride = 0 ∧ 0 ≤ d / w.stride ∧ (d / w.stride).toNat < w.count then some (d / w.stride).toNat else none

/-- An item consumes a tile of the walk of its ring that it names (R136-R138), by its source address, or failing that by its
destination address. An index above 4,095 names no walk. A walk ends with its last tile; the entries prefetched for that tile stay. -/
def walkConsume (i : Nat) (b : Block) : Block :=
  match tfind b.he.items i with
  | none => b
  | some it =>
    if dWalk it.desc = 0 ∨ dOpcode it.desc = 0x09 then b
    else if 4096 ≤ dWalk it.desc then modItem i (fun it => { it with walkMiss := true }) b
    else
      let key := 4096 * it.ringKey + dWalk it.desc
      let hit := (tfind b.tu.tileWalks key).bind (fun w =>
        match w.tileAt (dSrc it.desc) with
        | some j => some (w, j)
        | none => (w.tileAt (dDst it.desc)).map (fun j => (w, j)))
      match hit with
      | none => modItem i (fun it => { it with walkMiss := true }) b
      | some (w, j) =>
        let b := walkDiscard it.ringKey (dWalk it.desc) (fun t => t < j) b
        if w.count ≤ j + 1 then modTu (fun t => { t with tileWalks := tdel t.tileWalks key }) b
        else
          modTileWalk key (fun w =>
            { w with next := if w.next < j + 1 then j + 1 else w.next, used := b.now,
                     ahead := if w.ahead < j + 1 then j + 1 else w.ahead,
                     pos := if w.ahead < j + 1 then 0 else w.pos }) b

/-- The active walk of a tile that was least recently consumed, where the tile holds 256 (R210, R211). One that no item has consumed
yet counts from its declaration (DEDUCED, log entry 104). -/
def walkVictim (b : Block) (t : Nat) : Option Nat :=
  let mine := b.tu.tileWalks.filter (fun e => e.2.tile == t)
  if mine.length < 256 then none
  else (mine.foldl (fun acc e => match acc with
    | none => some (e.1, e.2.used)
    | some x => if e.2.used < x.2 then some (e.1, e.2.used) else some x) (none : Option (Nat × Nat))).map (·.1)

/-- A TILE_WALK_DECLARE registers its walk, in place of an earlier one of the index (R133, R135), or of the tile's least recently
consumed one where there is no room (R211). A depth of 0 stands for the partition's DEPTH, of which the register holds one less
(R89). -/
def walkDeclare (i : Nat) (b : Block) : Block :=
  match tfind b.he.items i with
  | none => b
  | some it =>
    let key := 4096 * it.ringKey + dWalk it.desc
    let depth := bits (dSeed it.desc) 7 0
    let w : TileWalk :=
      { part := it.part, asn := itemAsn b it, tile := ringTile it.part it.ring, fn := ownFn b it, base := dSrc it.desc,
        size := dLength it.desc, stride := toSigned 64 (dDst it.desc), count := dScale it.desc,
        depth := if depth = 0 then fget b F.tuPartCtlDepth it.part + 1 else depth, next := 0, ahead := 0, pos := 0, used := b.now }
    let b := walkRemove key b
    let b := match walkVictim b w.tile with | some v => walkRemove v b | none => b
    modTu (fun t => { t with tileWalks := tput t.tileWalks key w }) b

/-! ### The checks of an opcode -/

/-- The status and AUX with which an item that cannot be served ends as it begins (R171, R332, R546, R596): `none` where it
can. A QP that is not created names no peer node: REMOTE_UNREACHABLE then has AUX 0 (DESIGN CHOICE, log entry 117). -/
def beginBad (b : Block) (it : Item) : Option (Nat × Nat) :=
  let d := it.desc
  let o := dOpcode d
  if dArith d ≠ 0 ∧ arithBad (variant b) o (dArith d) (dScale d) (dLength d) (dSrc d) (dDst d) then some (0x060, 0)
  else if !opNeedsQp o then none
  else
    match tfind b.ft.qps (dQp d) with
    | none => some (if linePoisoned b 0 (dQp d) then 0x0F0 else 0x030, 0)
    | some q =>
      if q.part ≠ it.part then some (0x030, 0)
      else if linePoisoned b 0 (dQp d) then some (0x0F0, 0)
      else if q.state ≠ 1 then some (0x030, q.peerNode)
      else if !q.enc && bit (dCipher d) 0 then some (0x040, 0)
      else if q.enc && allFenced b && !(bits (dCipher d) 1 0 == 2 && q.clearOk) then some (0x041, 0)
      else none

/-- An item begins: it ends at once where it cannot be served, else it takes up its work, and asks for the context of its QP. -/
def itemBegin (i : Nat) (b : Block) : Block :=
  match tfind b.he.items i with
  | none => b
  | some it =>
    let start := fun (st : Stage) => modItem i (fun it => { it with begun := true, stage := st })
    if it.status ≠ 0 then modItem i (fun it => { it with stopped := true }) (start .draining b)
    else
      match beginBad b it with
      | some (st, aux) => itemFail i st aux b
      | none =>
        let b := start .active b
        let o := dOpcode it.desc
        if o = 0x00 then modItem i (fun it => { it with stage := .draining }) b
        else if o = 0x09 then modItem i (fun it => { it with stage := .draining }) (walkDeclare i b)
        else
          let b := walkConsume i b
          let b := if opNeedsQp o then
              (match tfind b.ft.qps (dQp it.desc) with
               | some q => if q.resident then b else qpLoad (dQp it.desc) b
               | none => b)
            else b
          match tfind b.he.items i with
          | some x => if gated b x then event i 0x02 b else b
          | none => b

/-- The begin of an item whose descriptor passes a test; nothing where there is no such item that may begin. -/
def beginIf (i : Nat) (p : List (BitVec 64) → Bool) (b : Block) : Block :=
  match tfind b.he.items i with
  | some it => if p it.desc && mayBegin b i it then settle (itemBegin i b) else b
  | none => b

/-! ### Waiting on a fence -/

/-- A WAIT item that waits. -/
def waits (b : Block) (i : Nat) : Bool :=
  match tfind b.he.items i with
  | some it => it.stage == .active && dOpcode it.desc == 0x08 && dWait it.desc && it.fenceReady && !stopped b
  | none => false

/-- The next read of a WAIT item, 2 us after the last (R202). -/
def waitPoll (i : Nat) (b : Block) : Block := if waits b i then settle (waitRead i b) else b

/-- The watchdog of a WAIT item expires: it makes one final read (R551), at once or behind the read that is outstanding. -/
def watchdog (i : Nat) (b : Block) : Block :=
  match tfind b.he.items i with
  | some it =>
    if it.stage == .active && dOpcode it.desc == 0x08 && dWait it.desc && !stopped b then
      if it.fenceReady then settle (modItem i (fun it => { it with final := 1, retry := true }) b)
      else settle (watchdogEnd i b)
    else b
  | none => b

end Sys2Proof.Machine
end

