-- ==== Sys2Proof/Machine/Dies.lean ====
section
/-!
DEFINITION. Compute dies coming and going (R54, R55, R265): their link-up, the loss of all their modules, and a reset that they
announce.
-/
namespace Sys2Proof.Machine

open Sys2Proof

/-- A compute die has completed link-up and declared its sizes (R54, R55). -/
def dieUp (d hbm sram : Nat) (b : Block) : Block :=
  if 4 ≤ d then b
  else
    fput F.idCmemDiePresent d 1 <| fput F.idCmemDieHbm64m d (Nat.min (hbm / 2 ^ 26) 3072) <|
      fput F.idCmemDieSram64m d (Nat.min (sram / 2 ^ 26) 1024) b

/-- Is an exchange one with a die? -/
def Txn.onDie (t : Txn) (d : Nat) : Bool := match t.place with | .die x _ => x == d | _ => false

/-- What a cut does to the work that waits for one exchange with a die (R265, R266): no answer will come. -/
def dieLost (t : Txn) (b : Block) : Block :=
  match t.use with
  | .src i _ _ | .operand i _ | .waitRead i | .dst i _ _ => itemFail i 0x021 0 (undoEarly i b)
  | .fence i => (match tfind b.he.items i with | some it => fenceFail i 0x021 (dFenceAddr it.desc) b | none => b)
  | .entry i => entryLost i b
  | .fetch p r _ => fetchFail (4096 * p + r) b
  | .walk w => walkAnswer w none b
  | .winRead w off | .winWrite w off => (match tfind b.hp.wins w with | some a => winFail w 0x34 (a.va + off) b | none => b)
  | .rxOperand x _ | .rxWrite x _ _ => modRx x (fun r => { r with bad := some 0 }) b
  | .rxRead x off => modRx x (fun r => { r with bad := some (match r.bad with | some n => Nat.min n off | none => off) }) b
  | .rfence c => partFault t.part 6 (.card c) b
  | _ => b

/-- Does a global range lie in a compute die of this node, in part? -/
def inDie (b : Block) (g len d : Nat) : Bool := gNode g == selfNode b && overlaps (gOff g) len (d * dieSlot) dieSlot

/-- Does a segment send part of a virtual range to a die? -/
def Seg.inDie (b : Block) (s : Seg) (va n d : Nat) : Bool :=
  let lo := Nat.max va s.vbase - s.vbase
  let hi := Nat.min (va + n) (s.vbase + s.len) - s.vbase
  if hi ≤ lo then false
  else if !s.striped then Machine.inDie b (s.resolve (s.vbase + lo)) (hi - lo) d
  else
    (List.range ((hi - 1) / 2 ^ s.log2 + 1 - lo / 2 ^ s.log2)).any (fun k =>
      let v := if k = 0 then lo else (lo / 2 ^ s.log2 + k) * 2 ^ s.log2
      Machine.inDie b (s.resolve (s.vbase + v)) 1 d)

/-- Does a range of an address space lie in a die: by its translation as far as it has one, then by segments and by the TLB (DESIGN
CHOICE, log entry 108)? -/
def rngDie (b : Block) (p a : Nat) (r : Rng) (d : Nat) : Bool :=
  let va := r.va + r.upTo
  let n := r.len - r.upTo
  r.spans.any (fun s => match s.place with | .die x _ => x == d | _ => false)
    || (n != 0 && ((segsOf b p a).any (fun e => e.2.inDie b va n d)
      || b.tu.tlb.any (fun e => e.part == p && e.asn == a && overlaps va n e.va e.size && inDie b e.target e.size d)))

/-- Does an item's source or destination lie in a die? -/
def Item.touches (b : Block) (it : Item) (d : Nat) : Bool :=
  let a := itemAsn b it
  (opLocalSrc (dOpcode it.desc) && rngDie b it.part a it.src d) || (opLocalDst (dOpcode it.desc) && rngDie b it.part a it.dst d)

/-- Does an item's completion ring, or its tail word, lie in a die, and its submission ring too (R265)? -/
def Item.ringsIn (b : Block) (it : Item) (d : Nat) : Bool :=
  let at_ := fun (off : Nat) => off / dieSlot == d
  (match tfind b.sq.rings it.ringKey with | some r => !r.host && at_ r.base | none => false)
    && (match tfind b.sq.cqs (itemCq b it) with | some c => at_ c.base || at_ c.tailWord | none => false)

/-- Every burst to or from a die is cut (R265): what waits for the die ends, and so does each item whose data touches it, its
speculation undone where it has not committed (R266). Records of the rings that lie in the die strand. -/
def dieCut (d : Nat) (b : Block) : Block :=
  let lost := (b.txns.filter (fun e => e.2.onDie d)).map (·.2)
  let hit := itemsOf b (fun it => it.touches b d)
  let b := each (itemsOf b (fun it => it.ringsIn b d)) (fun i b => modItem i (fun it => { it with cqLost := true }) b) b
  let b := closeTxns (fun t => t.onDie d) b
  each hit (fun i b => itemFail i 0x021 0 (undoEarly i b)) (each lost dieLost b)

/-- All modules of a die go down. -/
def dieDown (d : Nat) (b : Block) : Block :=
  if 4 ≤ d then b
  else if !fon b F.idCmemDiePresent d then b
  else dieCut d (fhRaise (202 + 4 * d) (.die d) none false (fput F.idCmemDiePresent d 0 b))

/-- A die announces a reset. -/
def dieReset (d : Nat) (b : Block) : Block :=
  if 4 ≤ d then b
  else if !fon b F.idCmemDiePresent d then b
  else dieCut d (fhNote (203 + 4 * d) (.die d) none b)

end Sys2Proof.Machine
end

