-- ==== Sys2Proof/Machine/RegAcc.lean ====
section
/-!
DEFINITION. Register accesses as they arrive (R12-R17, R446): each is taken at once, or waits in its port's receive queue.
-/
namespace Sys2Proof.Machine

open Sys2Proof

/-- A register write arrives. -/
def regWriteFrom (w : Agent) (reg : Option (Reg × Nat)) (half : Half) (val : BitVec 64) (storeOk : Bool) (b : Block) : Block :=
  match postHeld w (.write w reg half val storeOk) b with
  | some b => b
  | none => writeTake settle w reg half val storeOk b

/-- A register write at an offset. -/
def regWrite (w : Agent) (off : Nat) (half : Half) (val : BitVec 64) (b : Block) : Block := regWriteFrom w (regDecode w off) half val true b

/-- The register copy that a command names, where its agent sees it (R31). -/
def regNamed (w : Agent) (r : Reg) (c : Nat) : Option (Reg × Nat) := if r.seen w && c < r.spec.count then some (r, c) else none

/-- A register write that a command names by its register. -/
def regWriteTo (w : Agent) (r : Reg) (c : Nat) (half : Half) (val : BitVec 64) (storeOk : Bool) (b : Block) : Block :=
  regWriteFrom w (regNamed w r c) half val storeOk b

/-- A register read arrives. -/
def regReadFrom (w : Agent) (reg : Option (Reg × Nat)) (off : Nat) (half : Half) (b : Block) : Block :=
  match postHeld w (.read w reg off half) b with
  | some b => b
  | none => readTake w reg off half b

def regRead (w : Agent) (off : Nat) (half : Half) (b : Block) : Block := regReadFrom w (regDecode w off) off half b

/-- A read that a command names by its register. -/
def regReadOf (w : Agent) (r : Reg) (c : Nat) (half : Half) (b : Block) : Block := regReadFrom w (regNamed w r c) (r.offset w c) half b

/-- A read of BAR2 arrives (R178). -/
def bar2Read (w : Agent) (half : Half) (b : Block) : Block :=
  match postHeld w (.bar2Read w half) b with
  | some b => b
  | none => bar2ReadTake w half b

/-- An access that breaks R14 arrives (R15). -/
def regBad (w : Agent) (off : Nat) (read : Bool) (b : Block) : Block :=
  match postHeld w (.bad w off read) b with
  | some b => b
  | none => badTake w off read b

end Sys2Proof.Machine
end

