-- ==== Sys2Proof/Machine/Run.lean ====
section
/-!
DEFINITION. What a command gives: a next state, with the block changed and the queue and the depot as they were, or the fault of an answer that nothing asked for.
-/
namespace Sys2Proof.Machine

open Sys2Proof

/-- A command whose effect is on the block alone. -/
def run (f : Block → Block) (s : State) : Host.Outcome State Fault Refusal := .next { s with blk := f s.blk }

/-- The answer of a compute die, of the depot or of a memory that is read for descriptors or a table, to an exchange: one that was never
issued, or one with other bytes than were asked for, is a violation by the neighbour that Flovel does not detect, and R28
promises nothing then. Host ports detect theirs (`hostAnswer`). -/
def answer (n : Nat) (fits : Txn → Bool) (f : Block → Block) (s : State) : Host.Outcome State Fault Refusal :=
  if !txnKnown n s.blk then .fault .noPromise
  else
    match tfind s.blk.txns n with
    | some t => if fits t then run f s else .fault .noPromise
    | none => run f s

/-- A word with a field at a value: a command that names what a field of its register says carries that value in it. -/
def carry (f : Fld) (v : Nat) (val : BitVec 64) : BitVec 64 := qset val f.hi f.lo v

/-- A command that is a write of copy `c` of a register (R12, R733). -/
def writeReg (w : Agent) (r : Reg) (c : Nat) (half : Half) (val : BitVec 64) : Block → Block :=
  regWriteTo w r c half val true

/-- No command waits: domain time goes on by 1 ns (log entry 41). -/
def idle (s : State) : State := { s with blk := timeTo (s.blk.now + 1) s.blk }

end Sys2Proof.Machine
end

