-- ==== Sys2Proof/Machine/Cipher.lean ====
section
/-!
DEFINITION. Cipher engines, keys and the entropy source (R595-R629).
-/
namespace Sys2Proof.Machine

open Sys2Proof

/-- A command of CE_KEY_CMD (R609). -/
def keyCmdWrite (op : Nat) (who : Agent) (half : Half) (val : BitVec 64) : Block → Block :=
  writeReg who .ceKeyCmd 0 half (carry F.ceKeyCmdOp op val)

/-- LOAD (R609). -/
def execLoad (who : Agent) (half : Half) (val : BitVec 64) (s : State) : Host.Outcome State Fault Refusal :=
  run (keyCmdWrite 0x01 who half val) s

/-- STAGE (R602, R609). -/
def execStage (who : Agent) (half : Half) (val : BitVec 64) (s : State) : Host.Outcome State Fault Refusal :=
  run (keyCmdWrite 0x02 who half val) s

/-- ZERO (R609). -/
def execZero (who : Agent) (half : Half) (val : BitVec 64) (s : State) : Host.Outcome State Fault Refusal :=
  run (keyCmdWrite 0x03 who half val) s

/-- KEY_SWITCH_COMMIT (R604). -/
def execKeySwitchCommit (slot : Nat) (s : State) : Host.Outcome State Fault Refusal := run (keyCommit slot) s

/-- CHECK_SLOT (R615, R616): `flagged` says whether the comparator flagged the injected difference, and `mismatch` names the results whose dual computation disagreed. -/
def execCheckSlot (unit : CipherHalf) (flagged : Bool) (parityOk : Bool) (mismatch : List CipherVictim) (s : State) :
    Host.Outcome State Fault Refusal :=
  run (fun b => settle (checkSlot unit flagged parityOk mismatch b)) s

/-- MASK_SET_EXPIRY (R613). -/
def execMaskSetExpiry (unit : CipherHalf) (copyB : Bool) (s : State) : Host.Outcome State Fault Refusal :=
  run (fun b => settle (maskExpire unit copyB b)) s

/-- HEALTH_TEST_FAILURE (R625 steps 1 and 2). -/
def execHealthTestFailure (test : HealthTest) (s : State) : Host.Outcome State Fault Refusal :=
  run (fun b => settle (healthFail test b)) s

/-- RETEST_DONE (R625 steps 3 and 4). -/
def execRetestDone (res : RetestResult) (s : State) : Host.Outcome State Fault Refusal :=
  run (fun b => settle (retestDone res b)) s

/-- RETEST_TIMEOUT (R625). -/
def execRetestTimeout (s : State) : Host.Outcome State Fault Refusal := run (fun b => settle (retestTimeout b)) s

/-- RESTART (R628): EN_CTL is written with RESTART at 1. -/
def execRestart (who : Agent) (half : Half) (val : BitVec 64) (s : State) : Host.Outcome State Fault Refusal :=
  run (writeReg who .enCtl 0 half (carry F.enCtlRestart 1 val)) s

/-- DRBG_RESEED (R623). -/
def execDrbgReseed (s : State) : Host.Outcome State Fault Refusal := run (fun b => if enState b = 1 then reseed b else b) s

/-- DRBG_REQUEST_SERVED (R624). -/
def execDrbgRequestServed (s : State) : Host.Outcome State Fault Refusal := run (fun b => settle (drbgServe b)) s

end Sys2Proof.Machine
end

