-- ==== Sys2Proof/Machine/Start.lean ====
section
/-!
DEFINITION. Power-on, block reset and the steps of start-up (R707-R712).
-/
namespace Sys2Proof.Machine

open Sys2Proof

/-- What every reset of the block keeps: the number of messages sent, of free values drawn and of exchanges opened, the stored
dictionary values, which the management core holds, and the ports whose PERST# is asserted. -/
def Block.keep (old new : Block) : Block :=
  { new with now := old.now, fresh := old.fresh, out := old.out, nextTxn := old.nextTxn,
             md := { new.md with stored := old.md.stored, nextSession := old.md.nextSession },
             hp := { new.hp with perst := old.hp.perst } }

/-- Power good: the sequence starts with nothing kept but what the management core stores (R707). -/
def powerOn (f : Fuses) (b : Block) : Block := fput F.ckStartCold 0 1 (Block.keep b (Block.empty f))

/-- The registers that a block reset keeps: the fault captures and the status of the dump slots (R562, R691). -/
def stickyRegs : List Reg := [.fhSrcStatus, .fhFirst, .fhFirstTime, .tcDumpStatus]

/-- A block reset takes place: everything but captures, dumps and what every reset keeps is as at power-on (R707). A dump that is
still in progress ends incomplete; the count of refused dumps stays with the dumps (DEDUCED, log entry 33). -/
def blockClear (b : Block) : Block :=
  let c := Block.keep b (Block.empty b.fuses)
  let held := fget b F.tcDumpCtlIgnored 0
  let c := { c with
    regs := b.regs.filter (fun e => stickyRegs.any (fun r => r.code == e.1 / 2 ^ 32)),
    fhPart := b.fhPart,
    tc := { c.tc with dumps := b.tc.dumps, gens := b.tc.gens } }
  if held = 0 then c else fput F.tcDumpCtlIgnored 0 held c

/-- A block reset (R708): a dump with reason 4 comes first unless a block stop is in progress, whose own dump serves; the reset
waits for a dump, with the block held as under R566. -/
def blockReset (b : Block) : Block :=
  if b.ck.resetting then b
  else if stopped b then
    if b.tc.dumping.isSome then modCk (fun k => { k with resetting := true }) b else blockClear b
  else
    let free := b.tc.dumping.isNone
    let c := fput F.fhCtlStopped 0 1 (dumpTrigger 4 b)
    if free && c.tc.dumping.isSome then modCk (fun k => { k with resetting := true }) c else blockClear c

/-- The dump in progress is complete; a block reset that waited for it takes place. -/
def dumpEnd (b : Block) : Block :=
  if b.tc.dumping.isNone then b
  else
    let c := dumpComplete b
    if c.ck.resetting then blockClear c else c

/-! ### Start-up (R709) -/

def phase (b : Block) : Nat := fget b F.ckStartPhase 0
def phaseSet (n : Nat) (b : Block) : Block := fput F.ckStartPhase 0 n b

/-- Fuse load ends, the clocks lock with the tiles at 900 MHz, the entropy source becomes READY and the wrapping key is drawn
(steps 2 to 4); host ports present begin training. -/
def fuseDone (b : Block) : Block :=
  if phase b ≠ 0 then b
  else
    let b := rput .idProtFrame 0 (b.fuses.frame &&& Reg.bitsOf .idProtFrame (fun _ => true)) (phaseSet 2 b)
    let b := eachN 12 (fun t b => fput F.ckTileEffective t 900 b) b
    let b := eachN (variant b).hostPorts (fun h b => fput F.hpPortStatusLstate h 5 (fput F.hpPortStatusProto h 3 b)) b
    let b := enReady b
    let b := { b with ce := { b.ce with wrap := some b.fresh }, fresh := b.fresh + 8 }
    if b.fuses.loadError then fhRaise 0 .none none false b else b

/-- Depot training ends (step 5), or the exit from self-refresh. -/
def trainingDone (b : Block) : Block := if phase b = 2 then phaseSet 3 b else b

/-- The depot is zeroed (step 6). -/
def zeroDone (b : Block) : Block := if phase b = 3 then phaseSet 4 b else b

/-- Configuration is ready (step 8): tiles move to their targets, and host ports answer configuration requests. -/
def ready (us : Nat) (b : Block) : Block :=
  let b := fput F.ckStartReadyUs 0 (if us < 2 ^ 32 then us else 2 ^ 32 - 1) (phaseSet 5 b)
  let b := eachN 12 tileSet b
  modHp (fun h => { h with retry := h.perst }) b

/-- The stored values of class S that a dictionary load brings after DEFAULTED: each as a SET would (R711, R634, R635). -/
def lateLoad (b : Block) : Block :=
  each b.md.stored (fun e b =>
    match dictEntry (variant b) (e.1 / 256) (e.1 % 256) with
    | some x => if x.cls = .s then (liveSet none (e.1 / 256) (e.1 % 256) e.2 x b).getD b else b
    | none => b) b

/-- The management core has loaded the stored values (step 7). -/
def dictDone (us : Nat) (b : Block) : Block :=
  if phase b = 4 then ready us (dictLoad b.md.stored b)
  else if phase b = 5 ∧ fon b F.ckStartDefaulted 0 then lateLoad b
  else b

/-- Step 7 has not been completed by 90 ms: the defaults of R636 apply (R711). -/
def defaulted (us : Nat) (b : Block) : Block :=
  if phase b = 4 then ready us (fput F.ckStartDefaulted 0 1 (dictLoad [] b)) else b

end Sys2Proof.Machine
end

