-- ==== Sys2Proof/Machine/Clocks.lean ====
section
/-!
DEFINITION. Clocks, supplies, temperatures, power states, the ramp governor and start-up (R697-R724).
-/
namespace Sys2Proof.Machine

open Sys2Proof

/-- TILE_FREQUENCY_CHANGE (R703): a tile takes its new effective frequency. -/
def execTileFrequencyChange (tile : Nat) (s : State) : Host.Outcome State Fault Refusal :=
  run (fun b => if tile < 12 && started b then tileSet tile b else b) s

/-- TEMPERATURE_REPORT (R722). -/
def execTemperatureReport (tile celsius : Nat) (s : State) : Host.Outcome State Fault Refusal :=
  run (fun b => settle (tempReport tile celsius b)) s

/-- THROTTLE_STEP (R722). -/
def execThrottleStep (tile : Nat) (s : State) : Host.Outcome State Fault Refusal := run (throttleStep tile) s

/-- SUPPLY (R723): islands 0 to 11 are those of the tiles, 12 the uncore and 13 the one that is always on. -/
def execSupply (island : Nat) (s : State) : Host.Outcome State Fault Refusal := run (fun b => settle (supplyFault island b)) s

/-- TILE_GATE (R713): a tile has been idle for 1 us. -/
def execTileGate (tile : Nat) (s : State) : Host.Outcome State Fault Refusal := run (tileGate tile) s

/-- TILE_WAKE (R713). -/
def execTileWake (tile : Nat) (s : State) : Host.Outcome State Fault Refusal := run (tileWake tile) s

/-- DEPOT_POWER_DOWN (R714). -/
def execDepotPowerDown (channel : Nat) (s : State) : Host.Outcome State Fault Refusal := run (channelDown channel) s

/-- GOVERNOR_TICK (R717): with the power of the block less its roped data power, in microwatts. -/
def execGovernorTick (blkMicroW : Nat) (s : State) : Host.Outcome State Fault Refusal :=
  run (fun b => settle (govTick blkMicroW b)) s

/-- POWER_REPORT (R716). -/
def execPowerReport (die work maxBallast : Nat) (s : State) : Host.Outcome State Fault Refusal :=
  run (powerReport die work maxBallast) s

/-- POWER_REPORT_MISSING (R719). -/
def execPowerReportMissing (die : Nat) (s : State) : Host.Outcome State Fault Refusal := run (powerMissing die) s

/-- BALLAST (R718): 32 us have passed since BALLAST was sent to a die. -/
def execBallast (die : Nat) (s : State) : Host.Outcome State Fault Refusal := run (ballastRepeat die) s

/-- POWER_ON (R709). -/
def execPowerOn (fuses : Fuses) (s : State) : Host.Outcome State Fault Refusal := run (powerOn fuses) s

/-- FUSE_LOAD_DONE (R709 steps 1 to 4, R622). -/
def execFuseLoadDone (s : State) : Host.Outcome State Fault Refusal := run fuseDone s

/-- DEPOT_TRAINING_DONE (R709 step 5). -/
def execDepotTrainingDone (s : State) : Host.Outcome State Fault Refusal := run trainingDone s

/-- DEPOT_ZERO_DONE (R709 step 6): the depot holds zeros. -/
def execDepotZeroDone (s : State) : Host.Outcome State Fault Refusal :=
  run zeroDone { s with depot := if phase s.blk = 3 then [] else s.depot }

/-- DICTIONARY_LOAD_DONE (R709 steps 7 and 8): `us` after power-on. -/
def execDictionaryLoadDone (us : Nat) (s : State) : Host.Outcome State Fault Refusal := run (dictDone us) s

/-- DEFAULTED (R711). -/
def execDefaulted (us : Nat) (s : State) : Host.Outcome State Fault Refusal := run (defaulted us) s

/-- BLOCK_RESET (R707, R708). -/
def execBlockReset (s : State) : Host.Outcome State Fault Refusal := run blockReset s

end Sys2Proof.Machine
end

