-- ==== Sys2Proof/Machine/Coherence.lean ====
section
/-!
DEFINITION. Context coherence: the requests of an agent, and the delivery of each message (R529-R547). Lines and agents are numbered as `Cc` says.
-/
namespace Sys2Proof.Machine

open Sys2Proof

/-- GETS (R537). -/
def execGets (line tile : Nat) (s : State) : Host.Outcome State Fault Refusal := run (ccRequest line tile .getS) s

/-- GETM (R537). -/
def execGetm (line tile : Nat) (s : State) : Host.Outcome State Fault Refusal := run (ccRequest line tile .getM) s

/-- UPGRADE (R538). -/
def execUpgrade (line tile : Nat) (s : State) : Host.Outcome State Fault Refusal := run (ccRequest line tile .upgrade) s

/-- PUTM (R540). -/
def execPutm (line tile : Nat) (s : State) : Host.Outcome State Fault Refusal := run (ccRequest line tile .putM) s

/-- PUTO (R540). -/
def execPuto (line tile : Nat) (s : State) : Host.Outcome State Fault Refusal := run (ccRequest line tile .putO) s

/-- PUTE (R540). -/
def execPute (line tile : Nat) (s : State) : Host.Outcome State Fault Refusal := run (ccRequest line tile .putE) s

/-- NCREAD (R537). -/
def execNcread (line agent : Nat) (s : State) : Host.Outcome State Fault Refusal := run (ccNcRequest line agent .ncRead) s

/-- NCWRITE (R537, R543). -/
def execNcwrite (line agent : Nat) (hint : Option Nat) (s : State) : Host.Outcome State Fault Refusal :=
  run (ccNcRequest line agent (.ncWrite hint)) s

/-- FWDGETS (R539). -/
def execFwdgets (line tile : Nat) (s : State) : Host.Outcome State Fault Refusal :=
  run (ccForwardIn line tile CcMsg.isFwdGetS) s

/-- FWDGETM (R539). -/
def execFwdgetm (line tile : Nat) (s : State) : Host.Outcome State Fault Refusal :=
  run (ccForwardIn line tile CcMsg.isFwdGetM) s

/-- FWDRECALL (R537). -/
def execFwdrecall (line tile : Nat) (s : State) : Host.Outcome State Fault Refusal :=
  run (ccForwardIn line tile (· == .fwdRecall)) s

/-- INV (R540). -/
def execInv (line tile : Nat) (s : State) : Host.Outcome State Fault Refusal := run (ccForwardIn line tile (· == .inv)) s

/-- INVACK (R537). -/
def execInvack (line tile : Nat) (s : State) : Host.Outcome State Fault Refusal := run (ccInvAck line tile) s

/-- FWDDONE (R537). -/
def execFwddone (line tile : Nat) (s : State) : Host.Outcome State Fault Refusal := run (ccFwdDone line tile) s

/-- NACK (R542). -/
def execNack (line agent : Nat) (s : State) : Host.Outcome State Fault Refusal := run (ccNacked line agent) s

/-- NACK_RETRY (R542). -/
def execNackRetry (line agent : Nat) (s : State) : Host.Outcome State Fault Refusal := run (ccRetry line agent) s

/-- WBGRANT (R540). -/
def execWbgrant (line tile : Nat) (s : State) : Host.Outcome State Fault Refusal := run (ccWbGrant line tile) s

/-- PUTACK (R540). -/
def execPutack (line tile : Nat) (s : State) : Host.Outcome State Fault Refusal := run (ccPutAck line tile) s

/-- GRANT (R537). -/
def execGrant (line tile : Nat) (s : State) : Host.Outcome State Fault Refusal := run (ccGrant line tile) s

/-- DATA (R532, R536). -/
def execData (line agent : Nat) (excl : Bool) (s : State) : Host.Outcome State Fault Refusal := run (ccData line agent excl) s

/-- WBDATA (R540). -/
def execWbdata (line tile : Nat) (s : State) : Host.Outcome State Fault Refusal := run (ccWbData line tile) s

/-- HOME_TIMEOUT (R544). -/
def execHomeTimeout (line : Nat) (s : State) : Host.Outcome State Fault Refusal := run (fun b => settle (homeTimeout line b)) s

end Sys2Proof.Machine
end

