-- ==== Sys2Proof/Machine/Host.lean ====
section
/-!
DEFINITION. The host ports: configuration, resets, power states, links, windows, TDISP and IDE (R429-R477, R619).
-/
namespace Sys2Proof.Machine

open Sys2Proof

/-- PERST# of a port is asserted (R453): its link is lost, and every function of the port, or the block, is reset. -/
def perstDown (h : Nat) (b : Block) : Block :=
  if !portPresent b h then b
  else
    let hold := fun (b : Block) => modHp (fun p => { p with perst := sins h p.perst }) (linkLost h 3 b)
    if fon b F.hpPortCtlPerstBlock h then hold (blockReset b) else portReset h (hold b)

/-- PERST# is released: once no function of the port is in reset, the port answers configuration requests (R457). -/
def perstUp (h : Nat) (b : Block) : Block := retryFall h (modHp (fun p => { p with perst := srem h p.perst }) b)

/-- A correctable error of a port (R559). -/
def correctable (h : Nat) (b : Block) : Block := if portPresent b h then fhNote (32 * h + 32) (.port h) none b else b

/-- CONFIG_READ (R430, R434, R457). -/
def execConfigRead (port fn off : Nat) (s : State) : Host.Outcome State Fault Refusal := run (configRead port fn off) s

/-- CONFIG_WRITE (R434): the bytes of a doubleword that `mask` covers. -/
def execConfigWrite (port fn off : Nat) (mask val : BitVec 32) (s : State) : Host.Outcome State Fault Refusal :=
  run (fun b => settle (configWrite port fn off mask val b)) s

/-- BUS_MASTER_CLEAR (R460). -/
def execBusMasterClear (port fn : Nat) (s : State) : Host.Outcome State Fault Refusal :=
  run (fun b => settle (bmeClear (128 * port + fn) b)) s

/-- BUS_MASTER_SET (R461). -/
def execBusMasterSet (port fn : Nat) (s : State) : Host.Outcome State Fault Refusal :=
  run (fun b => settle (bmeSet (128 * port + fn) b)) s

/-- FUNCTION_LEVEL_RESET (R453, R455). -/
def execFunctionLevelReset (port fn : Nat) (s : State) : Host.Outcome State Fault Refusal :=
  run (fun b => settle (flrTake (128 * port + fn) b)) s

/-- FLR_SOURCE_DEADLINE (R455 step 3). -/
def execFlrSourceDeadline (port fn : Nat) (s : State) : Host.Outcome State Fault Refusal :=
  run (fun b => settle (flrSource (128 * port + fn) b)) s

/-- FLR_DEADLINE (R455 steps 4 and 5, R456). -/
def execFlrDeadline (port fn : Nat) (s : State) : Host.Outcome State Fault Refusal :=
  run (fun b => settle (flrBound (128 * port + fn) (settle (flrEnd (128 * port + fn) b)))) s

/-- VF_DISABLE (R453): VF Enable and NumVFs are written. -/
def execVfDisable (port : Nat) (vfEnable : Bool) (numVfs : Nat) (s : State) : Host.Outcome State Fault Refusal :=
  run (fun b => settle (vfDisable port vfEnable numVfs b)) s

/-- SET_D3HOT (R462). -/
def execSetD3hot (port : Nat) (s : State) : Host.Outcome State Fault Refusal := run (fun b => settle (d3Enter port b)) s

/-- SET_D0 (R462). -/
def execSetD0 (port : Nat) (s : State) : Host.Outcome State Fault Refusal := run (fun b => settle (d0Enter port b)) s

/-- BAR_SIZE_WRITE (R436): of the PF's BAR4, or of its VFs'. -/
def execBarSizeWrite (port : Nat) (vf : Bool) (size : Nat) (s : State) : Host.Outcome State Fault Refusal :=
  run (fun b => settle (barSize port vf size b)) s

/-- PERST_ASSERT (R453): a port reset, or a block reset by the choice of the port. -/
def execPerstAssert (port : Nat) (s : State) : Host.Outcome State Fault Refusal := run (fun b => settle (perstDown port b)) s

/-- PERST_RELEASE (R457): the port may train. -/
def execPerstRelease (port : Nat) (s : State) : Host.Outcome State Fault Refusal := run (perstUp port) s

/-- HOT_RESET (R453). -/
def execHotReset (port : Nat) (s : State) : Host.Outcome State Fault Refusal := run (fun b => settle (hotReset port b)) s

/-- DL_DOWN (R453, R467). -/
def execDlDown (port : Nat) (s : State) : Host.Outcome State Fault Refusal := run (fun b => settle (dlDown port b)) s

/-- LINK_UP (R469, R475): a port has trained at a rate code and width. -/
def execLinkUp (port rate width : Nat) (cxl : Bool) (s : State) : Host.Outcome State Fault Refusal :=
  run (fun b => settle (linkUp port rate width cxl b)) s

/-- TLP_ERROR (R28, R559): a malformed or unexpected TLP, or a completer abort. -/
def execTlpError (port fn : Nat) (s : State) : Host.Outcome State Fault Refusal := run (tlpError port fn) s

/-- CORRECTABLE_ERROR (R559). -/
def execCorrectableError (port : Nat) (s : State) : Host.Outcome State Fault Refusal := run (correctable port) s

/-- BAR4_READ (R440-R443). -/
def execBar4Read (port fn off len : Nat) (s : State) : Host.Outcome State Fault Refusal :=
  run (fun b => settle (barAccess (128 * port + fn) off len none b)) s

/-- BAR4_WRITE (R440-R446). -/
def execBar4Write (port fn off : Nat) (data : List (BitVec 8)) (s : State) : Host.Outcome State Fault Refusal :=
  run (fun b => settle (barAccess (128 * port + fn) off data.length (some data) b)) s

/-- WINDOW_READ_TIMEOUT (R443). -/
def execWindowReadTimeout (access : Nat) (s : State) : Host.Outcome State Fault Refusal :=
  run (fun b => settle (winExpire access b)) s

/-- WINDOW_CONTROL_WRITE (R439): HP_WIN_CTL of a window of the selected function. -/
def execWindowControlWrite (who : Agent) (win : Nat) (half : Half) (val : BitVec 64) (s : State) :
    Host.Outcome State Fault Refusal :=
  run (writeReg who .hpWinCtl win half val) s

/-- L1_ENTRY (R463): L1_IDLE has passed with no work. -/
def execL1Entry (port : Nat) (s : State) : Host.Outcome State Fault Refusal := run (l1Enter port) s

/-- L0P_NARROW (R464): L0P_IDLE has passed with little traffic. -/
def execL0pNarrow (port : Nat) (s : State) : Host.Outcome State Fault Refusal := run (l0pNarrow port) s

/-- IDE_INTEGRITY_FAILURE (R473). -/
def execIdeIntegrityFailure (port stream : Nat) (s : State) : Host.Outcome State Fault Refusal :=
  run (fun b => settle (ideInsecure port stream b)) s

/-- TDISP_REQUEST (R474): LOCK_INTERFACE, or START_INTERFACE. -/
def execTdispRequest (port vf : Nat) (start : Bool) (s : State) : Host.Outcome State Fault Refusal :=
  run (tdiRequest (128 * port + vf) start) s

/-- TDISP_STOP_INTERFACE (R474). -/
def execTdispStopInterface (port vf : Nat) (s : State) : Host.Outcome State Fault Refusal := run (tdiStop (128 * port + vf)) s

/-- KEY_PROG (R619). -/
def execKeyProg (port slot : Nat) (key : BitVec 256) (session : Bool) (s : State) : Host.Outcome State Fault Refusal :=
  run (ideKeyProg port slot key session) s

/-- K_SET_GO (R619). -/
def execKSetGo (port stream sub dir set : Nat) (session : Bool) (s : State) : Host.Outcome State Fault Refusal :=
  run (ideGo port stream sub dir set session) s

/-- K_SET_STOP (R619). -/
def execKSetStop (port stream sub dir set : Nat) (session : Bool) (s : State) : Host.Outcome State Fault Refusal :=
  run (ideStop port stream sub dir set session) s

end Sys2Proof.Machine
end

