-- ==== Sys2Proof/Machine/Items.lean ====
section
/-!
DEFINITION. The opcodes of the haul engines (R169): the begin of an item, and the polls and the watchdog of a WAIT item.
-/
namespace Sys2Proof.Machine

open Sys2Proof

/-- NOP (R169): the item ends OK with 0 bytes done. -/
def execNop (item : Nat) (s : State) : Host.Outcome State Fault Refusal := run (beginIf item (fun d => dOpcode d == 0x00)) s

/-- COPY (R169): the item begins to read its source and to write its destination. -/
def execCopy (item : Nat) (s : State) : Host.Outcome State Fault Refusal := run (beginIf item (fun d => dOpcode d == 0x01)) s

/-- WRITE_REMOTE (R169): the item begins to read its source for its QP. -/
def execWriteRemote (item : Nat) (s : State) : Host.Outcome State Fault Refusal :=
  run (beginIf item (fun d => dOpcode d == 0x02)) s

/-- READ_REMOTE (R169, R350): the item begins to fetch from its peer. -/
def execReadRemote (item : Nat) (s : State) : Host.Outcome State Fault Refusal :=
  run (beginIf item (fun d => dOpcode d == 0x03)) s

/-- COMBINE_LOCAL (R287): the item begins to combine its source into its destination. -/
def execCombineLocal (item : Nat) (s : State) : Host.Outcome State Fault Refusal :=
  run (beginIf item (fun d => dOpcode d == 0x04)) s

/-- COMBINE_REMOTE (R169): the item begins to read what its peer combines. -/
def execCombineRemote (item : Nat) (s : State) : Host.Outcome State Fault Refusal :=
  run (beginIf item (fun d => dOpcode d == 0x05)) s

/-- QUANTIZE_SEND (R169): the item begins to convert and send its source. -/
def execQuantizeSend (item : Nat) (s : State) : Host.Outcome State Fault Refusal :=
  run (beginIf item (fun d => dOpcode d == 0x06)) s

/-- DIGEST (R312): the item begins to scan its source. -/
def execDigest (item : Nat) (s : State) : Host.Outcome State Fault Refusal := run (beginIf item (fun d => dOpcode d == 0x07)) s

/-- FENCE_ONLY with FENCE (R194): the item's fence covers every earlier item of its ring. -/
def execFenceOnly (item : Nat) (s : State) : Host.Outcome State Fault Refusal :=
  run (beginIf item (fun d => dOpcode d == 0x08 && dFence d && !dRearm d)) s

/-- FENCE_ONLY with WAIT (R202): the item reads its fence word. -/
def execFenceOnlyWait (item : Nat) (s : State) : Host.Outcome State Fault Refusal :=
  run (beginIf item (fun d => dOpcode d == 0x08 && dWait d)) s

/-- FENCE_ONLY with REARM (R198): a broken shadow entry and the failure marks of the ring are cleared with the fence. -/
def execFenceOnlyRearm (item : Nat) (s : State) : Host.Outcome State Fault Refusal :=
  run (beginIf item (fun d => dOpcode d == 0x08 && dFence d && dRearm d)) s

/-- TILE_WALK_DECLARE (R133-R135): the walk is registered, and the item ends OK with 0 bytes done. -/
def execTileWalkDeclare (item : Nat) (s : State) : Host.Outcome State Fault Refusal :=
  run (beginIf item (fun d => dOpcode d == 0x09)) s

/-- WAIT_FENCE_POLL (R202): 2 us have passed since a WAIT item last read its word. -/
def execWaitFencePoll (item : Nat) (s : State) : Host.Outcome State Fault Refusal := run (waitPoll item) s

/-- RING_WATCHDOG (R551): the watchdog of a WAIT item expires. -/
def execRingWatchdog (item : Nat) (s : State) : Host.Outcome State Fault Refusal := run (watchdog item) s

end Sys2Proof.Machine
end

