-- ==== Sys2Proof/Machine/Manage.lean ====
section
/-!
DEFINITION. The management core: the dictionary and SPDM (R630-R651).
-/
namespace Sys2Proof.Machine

open Sys2Proof

/-- An SPDM request over a binding that reaches the responder (R647). -/
def spdmDo (bnd : Binding) (f : Block → Block) (b : Block) : Block := if spdmUp b bnd then f b else b

/-- A request that is answered at once. -/
def spdmSay (bnd : Binding) (r : Block → SpdmRsp) : Block → Block := spdmDo bnd (fun b => spdmReply bnd (r b) b)

/-- A request within a session of its binding; `opened` asks for one that FINISH has completed. Another is answered with an error
(its code is PRESUMED, log entry 32). -/
def inSession (bnd : Binding) (session : Nat) (opened : Bool) (f : Block → Block) : Block → Block :=
  spdmDo bnd (fun b => if sessionHere b bnd session opened then f b else spdmReply bnd (.error 2) b)

/-- The measurement blocks that a request names, signed or not (R648, R650). -/
def measureAsk (bnd : Binding) (index : Nat) (signed : Bool) (b : Block) : Block :=
  match measureList b bnd index with
  | none => spdmReply bnd (.error 1) b
  | some l => if signed then spdmAsk bnd (.measurements index) b else spdmReply bnd (.measurements l none) b

/-- GET (R639). -/
def execGet (bnd : Binding) (req : DictReq) (s : State) : Host.Outcome State Fault Refusal := run (dictRequest bnd 1 req true) s

/-- SET (R634, R635). -/
def execSet (bnd : Binding) (req : DictReq) (s : State) : Host.Outcome State Fault Refusal := run (dictRequest bnd 2 req true) s

/-- STORE (R634): `storeOk` is what the non-volatile store answers. -/
def execStore (bnd : Binding) (req : DictReq) (storeOk : Bool) (s : State) : Host.Outcome State Fault Refusal :=
  run (dictRequest bnd 3 req storeOk) s

/-- DEFAULT (R639). -/
def execDefault (bnd : Binding) (req : DictReq) (s : State) : Host.Outcome State Fault Refusal :=
  run (dictRequest bnd 4 req true) s

/-- NEXT (R639). -/
def execNext (bnd : Binding) (req : DictReq) (s : State) : Host.Outcome State Fault Refusal :=
  run (dictRequest bnd 5 req true) s

/-- MD_SEND (R645): MD_CTL is written with SEND at 1. -/
def execMdSend (who : Agent) (half : Half) (val : BitVec 64) (storeOk : Bool) (s : State) : Host.Outcome State Fault Refusal :=
  run (regWriteTo who .mdCtl 0 half (carry F.mdCtlSend 1 val) storeOk) s

/-- GET_VERSION (R647). -/
def execGetVersion (bnd : Binding) (s : State) : Host.Outcome State Fault Refusal := run (spdmSay bnd (fun _ => .version)) s

/-- GET_CAPABILITIES (R647). -/
def execGetCapabilities (bnd : Binding) (s : State) : Host.Outcome State Fault Refusal :=
  run (spdmSay bnd (fun _ => .capabilities)) s

/-- NEGOTIATE_ALGORITHMS (R647). -/
def execNegotiateAlgorithms (bnd : Binding) (s : State) : Host.Outcome State Fault Refusal :=
  run (spdmSay bnd (fun _ => .algorithms)) s

/-- GET_DIGESTS (R647): the digest of the chain of slot 0. -/
def execGetDigests (bnd : Binding) (s : State) : Host.Outcome State Fault Refusal :=
  run (spdmSay bnd (fun _ => .digests (Config.sha384 Config.certificateChain))) s

/-- GET_CERTIFICATE (R647). There is a slot 0 only (the error code is PRESUMED, log entry 32). -/
def execGetCertificate (bnd : Binding) (slot : Nat) (s : State) : Host.Outcome State Fault Refusal :=
  run (spdmSay bnd (fun _ => if slot = 0 then .certificate Config.certificateChain else .error 1)) s

/-- CHALLENGE (R650). -/
def execChallenge (bnd : Binding) (slot : Nat) (s : State) : Host.Outcome State Fault Refusal :=
  run (spdmDo bnd (fun b => if slot = 0 then spdmAsk bnd (.challenge slot) b else spdmReply bnd (.error 1) b)) s

/-- GET_MEASUREMENTS (R648, R650). -/
def execGetMeasurements (bnd : Binding) (index : Nat) (signed : Bool) (s : State) : Host.Outcome State Fault Refusal :=
  run (spdmDo bnd (measureAsk bnd index signed)) s

/-- KEY_EXCHANGE (R649, R650): beyond four sessions of the binding it is answered with Busy. -/
def execKeyExchange (bnd : Binding) (s : State) : Host.Outcome State Fault Refusal :=
  run (spdmDo bnd (fun b => if 4 ≤ sessionsHeld b bnd then spdmReply bnd (.error 3) b else spdmAsk bnd .keyExchange b)) s

/-- FINISH (R647, R649): the session opens. -/
def execFinish (bnd : Binding) (session : Nat) (s : State) : Host.Outcome State Fault Refusal :=
  run (inSession bnd session false (fun b => spdmReply bnd (.finish session) (modMd (fun m => { m with sessions := m.sessions.map (fun x => if x.id = session then { x with open_ := true } else x) }) b))) s

/-- HEARTBEAT (R647). -/
def execHeartbeat (bnd : Binding) (session : Nat) (s : State) : Host.Outcome State Fault Refusal :=
  run (inSession bnd session true (spdmReply bnd (.heartbeatAck session))) s

/-- KEY_UPDATE (R647). -/
def execKeyUpdate (bnd : Binding) (session : Nat) (s : State) : Host.Outcome State Fault Refusal :=
  run (inSession bnd session true (spdmReply bnd (.keyUpdateAck session))) s

/-- END_SESSION (R649): the session ends, and what it set of keys is gone. -/
def execEndSession (bnd : Binding) (session : Nat) (s : State) : Host.Outcome State Fault Refusal :=
  run (inSession bnd session true (fun b => spdmReply bnd (.endSessionAck session) (modMd (fun m => { m with sessions := m.sessions.filter (fun x => x.id != session) }) b))) s

/-- VENDOR_DEFINED_REQUEST (R644): a dictionary message in a secure session. -/
def execVendorDefinedRequest (bnd : Binding) (session op : Nat) (req : DictReq) (storeOk : Bool) (s : State) :
    Host.Outcome State Fault Refusal :=
  run (spdmDo bnd (dictRequest bnd op { req with session := some session } storeOk)) s

end Sys2Proof.Machine
end

