-- ==== Sys2Proof/Machine/Observe.lean ====
section
/-!
DEFINITION. Trace, counters, digests, freezes and hang dumps (R652-R696).
-/
namespace Sys2Proof.Machine

open Sys2Proof

/-- TRACE_DRAIN (R660-R666). -/
def execTraceDrain (tile : Nat) (s : State) : Host.Outcome State Fault Refusal := run (fun b => settle (traceDrain tile b)) s

/-- TRACE_SINK_ENABLE (R666): TC_SINK_CTL is written with ENABLE at 1. -/
def execTraceSinkEnable (who : Agent) (half : Half) (val : BitVec 64) (s : State) : Host.Outcome State Fault Refusal :=
  run (writeReg who .tcSinkCtl 0 half (carry F.tcSinkCtlEnable 1 val)) s

/-- EVENT_RECORD_CAPTURE (R657): a read of TC_EVT_DATA0. -/
def execEventRecordCapture (who : Agent) (half : Half) (s : State) : Host.Outcome State Fault Refusal :=
  run (regReadOf who .tcEvtData 0 half) s

/-- DIGEST_CLEAR (R670): TC_DIG_CFG is written with CLEAR at 1. -/
def execDigestClear (who : Agent) (half : Half) (val : BitVec 64) (s : State) : Host.Outcome State Fault Refusal :=
  run (writeReg who .tcDigCfg 0 half (carry F.tcDigCfgClear 1 val)) s

/-- NOW (R680, R683): TC_FREEZE is written with NOW at 1. -/
def execNow (who : Agent) (half : Half) (val : BitVec 64) (s : State) : Host.Outcome State Fault Refusal :=
  run (writeReg who .tcFreeze 0 half (carry F.tcFreezeNow 1 val)) s

/-- THAW (R682, R683). -/
def execThaw (who : Agent) (half : Half) (val : BitVec 64) (s : State) : Host.Outcome State Fault Refusal :=
  run (writeReg who .tcFreeze 0 half (carry F.tcFreezeThaw 1 val)) s

/-- ARM (R680, R683). -/
def execArm (who : Agent) (half : Half) (val : BitVec 64) (s : State) : Host.Outcome State Fault Refusal :=
  run (writeReg who .tcFreeze 0 half (carry F.tcFreezeArm 1 val)) s

/-- TIMED_FREEZE (R680): the domain time has reached TC_FREEZE_AT. -/
def execTimedFreeze (s : State) : Host.Outcome State Fault Refusal := run timedFreeze s

/-- DUMP (R688, R694): TC_DUMP_CTL is written with DUMP at 1. -/
def execDump (who : Agent) (half : Half) (val : BitVec 64) (s : State) : Host.Outcome State Fault Refusal :=
  run (writeReg who .tcDumpCtl 0 half (carry F.tcDumpCtlDump 1 val)) s

/-- DUMP_SLOT_RELEASE (R695): TC_DUMP_STATUS of a slot is written with VALID at 1. -/
def execDumpSlotRelease (who : Agent) (slot : Nat) (half : Half) (val : BitVec 64) (s : State) :
    Host.Outcome State Fault Refusal :=
  run (writeReg who .tcDumpStatus slot half (carry F.tcDumpStatusValid 1 val)) s

/-- HANG_DUMP_COMPLETE (R688): the dump is written. A block reset that waited for it takes place, and start-up zeroes the depot
again (R708, R709). -/
def execHangDumpComplete (s : State) : Host.Outcome State Fault Refusal := run dumpEnd s

end Sys2Proof.Machine
end

