-- ==== Sys2Proof/Machine/Partition.lean ====
section
/-!
DEFINITION. Partitions: grants, the commands of PT_CMD with their deadlines, and mailboxes (R478-R528).
-/
namespace Sys2Proof.Machine

open Sys2Proof

/-- A command of PT_CMD (R494-R498). -/
def ptWrite (op : Nat) (who : Agent) (half : Half) (val : BitVec 64) : Block → Block :=
  writeReg who .ptCmd 0 half (carry F.ptCmdOp op val)

/-- GRANT_CONTROL_WRITE (R72, R74): PT_GRANT_CTL of grant number 16 × partition + grant. -/
def execGrantControlWrite (who : Agent) (grant : Nat) (half : Half) (val : BitVec 64) (s : State) :
    Host.Outcome State Fault Refusal :=
  run (writeReg who .ptGrantCtl grant half val) s

/-- BIND (R496). -/
def execBind (who : Agent) (half : Half) (val : BitVec 64) (s : State) : Host.Outcome State Fault Refusal :=
  run (ptWrite 0x01 who half val) s

/-- REBIND (R496, R503). -/
def execRebind (who : Agent) (half : Half) (val : BitVec 64) (s : State) : Host.Outcome State Fault Refusal :=
  run (ptWrite 0x02 who half val) s

/-- PARK (R479, R496, R503). -/
def execPark (who : Agent) (half : Half) (val : BitVec 64) (s : State) : Host.Outcome State Fault Refusal :=
  run (ptWrite 0x03 who half val) s

/-- ADOPT (R496, R518). -/
def execAdopt (who : Agent) (half : Half) (val : BitVec 64) (s : State) : Host.Outcome State Fault Refusal :=
  run (ptWrite 0x04 who half val) s

/-- RESET (R496, R510). -/
def execReset (who : Agent) (half : Half) (val : BitVec 64) (s : State) : Host.Outcome State Fault Refusal :=
  run (ptWrite 0x05 who half val) s

/-- RELEASE (R496, R511). -/
def execRelease (who : Agent) (half : Half) (val : BitVec 64) (s : State) : Host.Outcome State Fault Refusal :=
  run (ptWrite 0x06 who half val) s

/-- RECOMPOSE (R496, R514). -/
def execRecompose (who : Agent) (half : Half) (val : BitVec 64) (s : State) : Host.Outcome State Fault Refusal :=
  run (ptWrite 0x07 who half val) s

/-- PARTITION_RESET_DEADLINE (R510): 50 us, 3 ms and 5 ms after a reset began. At its end the depot area is zeroed where the
command or the protection frame says so (R512). -/
def execPartitionResetDeadline (part : Nat) (stage : ResetStage) (s : State) : Host.Outcome State Fault Refusal :=
  run (fun b => settle (resetStage part stage b))
    { s with depot := if stage = .final ∧ scrubs s.blk part then depotCut part 0 s.depot else s.depot }

/-- RECOMPOSE_MOVE_DONE (R514): the data areas have moved. -/
def execRecomposeMoveDone (s : State) : Host.Outcome State Fault Refusal :=
  run (fun b => settle (recomposeEnd b)) { s with depot := depotMoved s.blk s.depot }

/-- BELAY_DEADLINE (R503 step 4). -/
def execBelayDeadline (part : Nat) (s : State) : Host.Outcome State Fault Refusal := run (fun b => settle (belayEnd part b)) s

/-- HANDOVER (R503 step 6, R505): the belay point is reached. -/
def execHandover (part : Nat) (s : State) : Host.Outcome State Fault Refusal := run (fun b => settle (handover part b)) s

/-- BIVOUAC_HOLD_EXPIRY (R517). -/
def execBivouacHoldExpiry (part : Nat) (s : State) : Host.Outcome State Fault Refusal :=
  run (fun b => settle (holdEnd part b)) s

/-- MAILBOX_SEND (R520): PT_MBX_CTL is written with SEND at 1. -/
def execMailboxSend (who : Agent) (half : Half) (val : BitVec 64) (s : State) : Host.Outcome State Fault Refusal :=
  run (writeReg who .ptMbxCtl 0 half (carry F.ptMbxCtlSend 1 val)) s

/-- MAILBOX_ACK (R520): PT_MBX_CTL is written with ACK at 1. -/
def execMailboxAck (who : Agent) (half : Half) (val : BitVec 64) (s : State) : Host.Outcome State Fault Refusal :=
  run (writeReg who .ptMbxCtl 0 half (carry F.ptMbxCtlAck 1 val)) s

end Sys2Proof.Machine
end

