-- ==== Sys2Proof/Machine/Registers.lean ====
section
/-!
DEFINITION. Register accesses (R12-R17, R28-R33, R733), and the commands that are accesses of a register of their own in no other family.
-/
namespace Sys2Proof.Machine

open Sys2Proof

/-- REGISTER_WRITE (R12, R31-R33, R733): a write at an offset of BAR0 or of the management core path. -/
def execRegisterWrite (who : Agent) (off : Nat) (half : Half) (val : BitVec 64) (s : State) : Host.Outcome State Fault Refusal :=
  run (regWrite who off half val) s

/-- READ_CLEAR (R12): a read at an offset returns the register and clears its RC fields. A read of BAR2 returns zero (R178). -/
def execReadClear (who : Agent) (off : ReadAt) (half : Half) (s : State) : Host.Outcome State Fault Refusal :=
  run (match off with | .bar0 o => regRead who o half | .bar2 => bar2Read who half) s

/-- BAD_REGISTER_ACCESS (R15): an access that breaks R14. -/
def execBadRegisterAccess (who : Agent) (off : Nat) (read : Bool) (s : State) : Host.Outcome State Fault Refusal :=
  run (regBad who off read) s

/-- STRANDED_POP (R274): POP removes the oldest entry of the selected stranded log. -/
def execStrandedPop (who : Agent) (half : Half) (val : BitVec 64) (s : State) : Host.Outcome State Fault Refusal :=
  run (writeReg who .heStrandCtl 0 half (carry F.heStrandCtlPop 1 val)) s

/-- PARTITION_WEIGHT_WRITE (R246): the weight of a partition and SPEC_OFF. -/
def execPartitionWeightWrite (who : Agent) (part : Nat) (half : Half) (val : BitVec 64) (s : State) :
    Host.Outcome State Fault Refusal :=
  run (writeReg who .hePartWeight part half val) s

end Sys2Proof.Machine
end

