-- ==== Sys2Proof/Machine/Replies.lean ====
section
/-!
DEFINITION. Answers of the compute dies, the depot and the host ports to exchanges (R235, R251, R259-R261, R448), and the coming and going of compute dies (R54, R265).
-/
namespace Sys2Proof.Machine

open Sys2Proof

/-- A read answer has as many bytes as were asked for, where it brings data at all. -/
def lenFits (n : Nat) (t : Txn) : Bool := !t.reads || t.len == n

/-- DIE_READ_DATA (R235, R259): data of a compute die, with a poison mark from a byte on. -/
def execDieReadData (txn : Nat) (data : List (BitVec 8)) (poison : Option Nat) (s : State) : Host.Outcome State Fault Refusal :=
  answer txn (lenFits data.length) (fun b => settle (dieData txn data poison b)) s

/-- DIE_WRITE_ACK (R251): a compute die acknowledges a write. -/
def execDieWriteAck (txn : Nat) (s : State) : Host.Outcome State Fault Refusal :=
  answer txn (fun _ => true) (fun b => settle (dieAck txn b)) s

/-- DEPOT_READ_DATA (R260): the depot answers a read with what it holds now. -/
def execDepotReadData (txn : Nat) (ecc : Ecc) (s : State) : Host.Outcome State Fault Refusal :=
  answer txn (fun _ => true) (fun b => settle (depotData txn ecc s.depot b)) s

/-- DEPOT_WRITE_ACK (R251): the depot has taken a write. -/
def execDepotWriteAck (txn : Nat) (ecc : Ecc) (s : State) : Host.Outcome State Fault Refusal :=
  answer txn (fun _ => true) (fun b => settle (depotAck txn ecc b)) { s with depot := depotWritten txn ecc s.blk s.depot }

/-- DIE_TIMEOUT (R261): an access to a compute die has had no answer in time. -/
def execDieTimeout (txn : Nat) (s : State) : Host.Outcome State Fault Refusal := run (fun b => settle (dieLate txn b)) s

/-- HOST_READ_COMPLETION (R28, R448, R259): a read of host memory is answered. -/
def execHostReadCompletion (txn : Nat) (res : CplResult) (s : State) : Host.Outcome State Fault Refusal :=
  run (fun b => settle (hostAnswer txn (match res with | .data bytes _ => some bytes.length | .error _ => none) (hostData txn res) b)) s

/-- HOST_COMPLETION_TIMEOUT (R448): a read of host memory has had no completion in time. -/
def execHostCompletionTimeout (txn : Nat) (s : State) : Host.Outcome State Fault Refusal := run (fun b => settle (hostLate txn b)) s

/-- DESCRIPTOR_FETCH_DONE (R184, R186): a fetch of descriptors is answered. -/
def execDescriptorFetchDone (txn : Nat) (res : FetchResult) (s : State) : Host.Outcome State Fault Refusal :=
  answer txn (fun _ => true) (fun b => settle (fetchAnswer txn res b)) s

/-- WALK_READ_DONE (R107): a table line is answered. -/
def execWalkReadDone (txn : Nat) (res : LineResult) (s : State) : Host.Outcome State Fault Refusal :=
  answer txn (fun _ => true) (fun b => settle (walkLineAnswer txn res b)) s

/-- ATS_COMPLETION (R28, R117): the host answers a Translation Request. -/
def execAtsCompletion (txn : Nat) (res : AtsResult) (s : State) : Host.Outcome State Fault Refusal :=
  run (fun b => settle (hostAnswer txn none (atsTxn txn res) b)) s

/-- DIE_LINK_UP (R54, R55): a compute die declares its sizes. -/
def execDieLinkUp (die hbmBytes sramBytes : Nat) (s : State) : Host.Outcome State Fault Refusal :=
  run (fun b => settle (dieUp die hbmBytes sramBytes b)) s

/-- DIE_LINK_DOWN (R55, R265): all modules of a die are down. -/
def execDieLinkDown (die : Nat) (s : State) : Host.Outcome State Fault Refusal := run (fun b => settle (dieDown die b)) s

/-- DIE_RESET_ANNOUNCE (R265): a die announces a reset. -/
def execDieResetAnnounce (die : Nat) (s : State) : Host.Outcome State Fault Refusal := run (fun b => settle (dieReset die b)) s

end Sys2Proof.Machine
end

