-- ==== Sys2Proof/Machine/Sequencer.lean ====
section
/-!
DEFINITION. The time state and the pitch sequencer (R385-R428).
-/
namespace Sys2Proof.Machine

open Sys2Proof

/-- TIME_STATE_REPORT (R386, R390): the time-of-day unit reports a Sync. -/
def execTimeStateReport (time : Nat) (offset : Int) (s : State) : Host.Outcome State Fault Refusal :=
  run (timeReport time offset) s

/-- SYNC_MISS (R386): a sync interval has passed without a Sync. -/
def execSyncMiss (s : State) : Host.Outcome State Fault Refusal := run timeMiss s

/-- HOLDOVER_EXPIRY (R386). -/
def execHoldoverExpiry (s : State) : Host.Outcome State Fault Refusal := run timeUnlock s

/-- PITCH_START (R420): the next pitch begins with its guard phase. -/
def execPitchStart (s : State) : Host.Outcome State Fault Refusal := run (fun b => settle (pitchStart b)) s

/-- ROPED_PHASE_START (R392): the guard phase ends. -/
def execRopedPhaseStart (s : State) : Host.Outcome State Fault Refusal := run (fun b => settle (ropedStart b)) s

/-- ROPED_EXTENSION (R419, R421): the roped phase goes on past its nominal end. -/
def execRopedExtension (s : State) : Host.Outcome State Fault Refusal := run (fun b => settle (ropedExtend b)) s

/-- ROPED_PHASE_END (R419): the roped phase ends. -/
def execRopedPhaseEnd (s : State) : Host.Outcome State Fault Refusal := run (fun b => settle (ropedStop b)) s

/-- SLACK_PHASE_START (R420, R421): the free phase ends. -/
def execSlackPhaseStart (s : State) : Host.Outcome State Fault Refusal := run (fun b => settle (slackStart b)) s

/-- ROUND_RELEASE (R405): a round of a card whose conditions hold releases. -/
def execRoundRelease (card : Nat) (s : State) : Host.Outcome State Fault Refusal :=
  run (fun b => settle (roundRelease card b)) s

/-- ROUND_ABANDON (R422, R423). -/
def execRoundAbandon (card : Nat) (round : Nat) (s : State) : Host.Outcome State Fault Refusal :=
  run (fun b => settle (roundAbandon card round b)) s

/-- SCHEDULE_SWAP_ARM (R413, R415): PS_SWAP_CTL is written with SWAP at 1. -/
def execScheduleSwapArm (who : Agent) (half : Half) (val : BitVec 64) (s : State) : Host.Outcome State Fault Refusal :=
  run (writeReg who .psSwapCtl 0 half (carry F.psSwapCtlSwap 1 val)) s

/-- SCHEDULE_CHECK_DONE (R412, R413): the shadow schedule has been read and is checked. -/
def execScheduleCheckDone (res : SchedData) (s : State) : Host.Outcome State Fault Refusal :=
  run (fun b => settle (swapChecked res s.depot b)) s

/-- SCHEDULE_ACTIVATE (R413, R414): the checked schedule becomes active. -/
def execScheduleActivate (s : State) : Host.Outcome State Fault Refusal := run (fun b => settle (swapActivate b)) s

end Sys2Proof.Machine
end

