-- ==== Sys2Proof/Machine/Signals.lean ====
section
/-!
DEFINITION. The fault hub and the signal controller (R557-R594).
-/
namespace Sys2Proof.Machine

open Sys2Proof

/-- A parity error is fatal (R559). There are twelve tiles (R20). -/
def parity (tile : Option Nat) (b : Block) : Block :=
  match tile with
  | none => fhRaise 1 .none none false b
  | some t => if t < 12 then fhRaise (176 + 2 * t) (.tile t) none false b else b

/-- REACT_TIMER_EXPIRY (R564). -/
def execReactTimerExpiry (src : Nat) (s : State) : Host.Outcome State Fault Refusal := run (fun b => settle (fhExpire src b)) s

/-- FAULT_EXIT (R571): FH_SRC_STATUS of a source is written with CAPTURED at 1. -/
def execFaultExit (who : Agent) (src : Nat) (half : Half) (val : BitVec 64) (s : State) : Host.Outcome State Fault Refusal :=
  run (writeReg who .fhSrcStatus src half (carry F.fhSrcStatusCaptured 1 val)) s

/-- FAULT_INJECT (R576). -/
def execFaultInject (who : Agent) (half : Half) (val : BitVec 64) (s : State) : Host.Outcome State Fault Refusal :=
  run (writeReg who .fhInject 0 half val) s

/-- PARITY_ERROR (R559): in uncore state, or in the state of a tile. -/
def execParityError (tile : Option Nat) (s : State) : Host.Outcome State Fault Refusal :=
  run (fun b => settle (parity tile b)) s

/-- MESH_LINK_ERROR (R559). -/
def execMeshLinkError (tile : Nat) (s : State) : Host.Outcome State Fault Refusal :=
  run (fun b => settle (if tile < 12 then fhRaise 2 (.tile tile) none false b else b)) s

/-- SIGNAL_REPEND (R582). -/
def execSignalRepend (s : State) : Host.Outcome State Fault Refusal := run sgRepend s

/-- INTERRUPT_CLAIM (R583, R592): a read of SG_CLAIM, or of SG_CLAIM_T of a target. -/
def execInterruptClaim (who : Agent) (target : Option Nat) (half : Half) (s : State) : Host.Outcome State Fault Refusal :=
  run (match target with | none => regReadOf who .sgClaim 0 half | some t => regReadOf who .sgClaimT t half) s

/-- INTERRUPT_COMPLETE (R584, R592): a write of SG_COMPLETE, or of SG_COMPLETE_T of a target. -/
def execInterruptComplete (who : Agent) (target : Option Nat) (half : Half) (val : BitVec 64) (s : State) :
    Host.Outcome State Fault Refusal :=
  run (match target with | none => writeReg who .sgComplete 0 half val | some t => writeReg who .sgCompleteT t half val) s

/-- SW_TRIGGER (R594). -/
def execSwTrigger (who : Agent) (half : Half) (val : BitVec 64) (s : State) : Host.Outcome State Fault Refusal :=
  run (writeReg who .sgSwTrigger 0 half val) s

/-- SOURCE_CONFIG_WRITE (R580, R591). -/
def execSourceConfigWrite (who : Agent) (src : Nat) (half : Half) (val : BitVec 64) (s : State) :
    Host.Outcome State Fault Refusal :=
  run (writeReg who .sgSrcCfg src half val) s

/-- MASK_WRITE (R588). -/
def execMaskWrite (who : Agent) (word : Nat) (half : Half) (val : BitVec 64) (s : State) : Host.Outcome State Fault Refusal :=
  run (writeReg who .sgMask word half val) s

/-- PENDING_WRITE (R588, R589). -/
def execPendingWrite (who : Agent) (word : Nat) (half : Half) (val : BitVec 64) (s : State) :
    Host.Outcome State Fault Refusal :=
  run (writeReg who .sgPending word half val) s

end Sys2Proof.Machine
end

