-- ==== Sys2Proof/Machine/Submission.lean ====
section
/-!
DEFINITION. Doorbells, ring contexts and the commands of SQ_CMD (R173-R221, R332-R338).
-/
namespace Sys2Proof.Machine

open Sys2Proof

/-- TAIL_DOORBELL (R175, R178): a BAR2 write of a submission ring. -/
def execTailDoorbell (who : Agent) (slot : Nat) (size : DbSize) (val : BitVec 64) (s : State) : Host.Outcome State Fault Refusal :=
  run (fun b => settle (bar2 who slot size val b)) s

/-- HEAD_DOORBELL (R178, R189): a BAR2 write of a completion ring. -/
def execHeadDoorbell (who : Agent) (slot : Nat) (size : DbSize) (val : BitVec 64) (s : State) : Host.Outcome State Fault Refusal :=
  run (fun b => settle (bar2 who slot size val b)) s

/-- PORTAL_TAIL_DOORBELL (R179, R180): a portal message of a submission ring. -/
def execPortalTailDoorbell (die portal : Nat) (msg : BitVec 64) (s : State) : Host.Outcome State Fault Refusal :=
  run (fun b => settle (portalMsg die portal msg b)) s

/-- PORTAL_HEAD_DOORBELL (R179, R180): a portal message of a completion ring. -/
def execPortalHeadDoorbell (die portal : Nat) (msg : BitVec 64) (s : State) : Host.Outcome State Fault Refusal :=
  run (fun b => settle (portalMsg die portal msg b)) s

/-- RING_CONTEXT_LOAD (R212, R728): the context of a ring or completion ring becomes resident. -/
def execRingContextLoad (cq : Bool) (ring : Nat) (s : State) : Host.Outcome State Fault Refusal :=
  run (fun b => settle (ringLoaded cq ring b)) s

/-- A command of SQ_CMD (R213, R215). -/
def sqWrite (op : Nat) (who : Agent) (half : Half) (val : BitVec 64) : Block → Block :=
  writeReg who .sqCmd 0 half (carry F.sqCmdOp op val)

/-- SQ_CREATE (R215). -/
def execSqCreate (who : Agent) (half : Half) (val : BitVec 64) (s : State) : Host.Outcome State Fault Refusal :=
  run (sqWrite 0x01 who half val) s

/-- SQ_BIND (R215). -/
def execSqBind (who : Agent) (half : Half) (val : BitVec 64) (s : State) : Host.Outcome State Fault Refusal :=
  run (sqWrite 0x02 who half val) s

/-- SQ_PAUSE (R208). -/
def execSqPause (who : Agent) (half : Half) (val : BitVec 64) (s : State) : Host.Outcome State Fault Refusal :=
  run (sqWrite 0x03 who half val) s

/-- SQ_RESUME (R208). -/
def execSqResume (who : Agent) (half : Half) (val : BitVec 64) (s : State) : Host.Outcome State Fault Refusal :=
  run (sqWrite 0x04 who half val) s

/-- SQ_TEARDOWN (R218). -/
def execSqTeardown (who : Agent) (half : Half) (val : BitVec 64) (s : State) : Host.Outcome State Fault Refusal :=
  run (sqWrite 0x05 who half val) s

/-- CQ_CREATE (R215). -/
def execCqCreate (who : Agent) (half : Half) (val : BitVec 64) (s : State) : Host.Outcome State Fault Refusal :=
  run (sqWrite 0x08 who half val) s

/-- CQ_TEARDOWN (R215). -/
def execCqTeardown (who : Agent) (half : Half) (val : BitVec 64) (s : State) : Host.Outcome State Fault Refusal :=
  run (sqWrite 0x09 who half val) s

/-- QP_CREATE (R333). -/
def execQpCreate (who : Agent) (half : Half) (val : BitVec 64) (s : State) : Host.Outcome State Fault Refusal :=
  run (sqWrite 0x10 who half val) s

/-- QP_DESTROY (R335). -/
def execQpDestroy (who : Agent) (half : Half) (val : BitVec 64) (s : State) : Host.Outcome State Fault Refusal :=
  run (sqWrite 0x11 who half val) s

/-- TEARDOWN_SOURCE_DEADLINE (R218 step 2): 50 us after a teardown began; the ring by 4,096 × partition + number. -/
def execTeardownSourceDeadline (ring : Nat) (s : State) : Host.Outcome State Fault Refusal :=
  run (fun b => settle (teardownSource ring b)) s

/-- TEARDOWN_DEADLINE (R218 steps 3 and 4): 3 ms after a teardown began. -/
def execTeardownDeadline (ring : Nat) (s : State) : Host.Outcome State Fault Refusal :=
  run (fun b => settle (teardownStrand ring (settle (teardownForce ring b)))) s

/-- QP_DESTROY_DEADLINE (R335): 3 ms after a QP_DESTROY began. -/
def execQpDestroyDeadline (qp : Nat) (s : State) : Host.Outcome State Fault Refusal :=
  run (fun b => settle (qpDrainEnd qp b)) s

/-- QP_CONTEXT_LOAD (R338): the context of a QP becomes resident, and the packets that waited for it go on. -/
def execQpContextLoad (qp : Nat) (s : State) : Host.Outcome State Fault Refusal :=
  run (fun b => settle (rxLoaded qp (qpResident qp b))) s

end Sys2Proof.Machine
end

