-- ==== Sys2Proof/Machine/Translate.lean ====
section
/-!
DEFINITION. Translation: slots, address spaces, segments, invalidations, held leaves, access counters, and ATS with PRI (R79-R158).
-/
namespace Sys2Proof.Machine

open Sys2Proof

/-- TRANSLATION_SLOT_LOADED (R82). -/
def execTranslationSlotLoaded (part asn : Nat) (s : State) : Host.Outcome State Fault Refusal :=
  run (fun b => settle (slotLoaded part asn b)) s

/-- HOLD_TIMEOUT (R153): an access has been parked on a held leaf for HOLD_LIMIT. -/
def execHoldTimeout (access : Nat) (s : State) : Host.Outcome State Fault Refusal :=
  run (fun b => settle (holdExpire access b)) s

/-- ACCESS_COUNTER_DECAY (R145, R146). -/
def execAccessCounterDecay (part asn : Nat) (s : State) : Host.Outcome State Fault Refusal := run (counterDecay part asn) s

/-- AS_CONTROL_WRITE (R87): a write of TU_AS_CTL of the selected address space. -/
def execAsControlWrite (who : Agent) (half : Half) (val : BitVec 64) (s : State) : Host.Outcome State Fault Refusal :=
  run (writeReg who .tuAsCtl 0 half val) s

/-- SEGMENT_COMMIT (R95): TU_SEG_CTL of a segment of the selected address space is written with VALID at 1. -/
def execSegmentCommit (who : Agent) (seg : Nat) (half : Half) (val : BitVec 64) (s : State) : Host.Outcome State Fault Refusal :=
  run (writeReg who .tuSegCtl seg half (carry F.tuSegCtlValid 1 val)) s

/-- SEGMENT_REMOVE (R94): TU_SEG_CTL is written with VALID at 0. -/
def execSegmentRemove (who : Agent) (seg : Nat) (half : Half) (val : BitVec 64) (s : State) : Host.Outcome State Fault Refusal :=
  run (writeReg who .tuSegCtl seg half (carry F.tuSegCtlValid 0 val)) s

/-- SEGMENT_COMMIT_DONE (R95): the old range has drained and the node list has been read, or could not be. -/
def execSegmentCommitDone (part asn seg : Nat) (list : Option (List Nat)) (events : List ReadEvent) (s : State) :
    Host.Outcome State Fault Refusal :=
  run (fun b => settle (segCommitDone part asn seg list events b)) s

/-- INVALIDATE_RANGE (R124): TU_INV_CTL is written with SCOPE 0. -/
def execInvalidateRange (who : Agent) (half : Half) (val : BitVec 64) (s : State) : Host.Outcome State Fault Refusal :=
  run (writeReg who .tuInvCtl 0 half (carry F.tuInvCtlScope 0 val)) s

/-- INVALIDATE_ADDRESS_SPACE (R124): SCOPE 1. -/
def execInvalidateAddressSpace (who : Agent) (half : Half) (val : BitVec 64) (s : State) : Host.Outcome State Fault Refusal :=
  run (writeReg who .tuInvCtl 0 half (carry F.tuInvCtlScope 1 val)) s

/-- INVALIDATE_PARTITION (R124): SCOPE 2. -/
def execInvalidatePartition (who : Agent) (half : Half) (val : BitVec 64) (s : State) : Host.Outcome State Fault Refusal :=
  run (writeReg who .tuInvCtl 0 half (carry F.tuInvCtlScope 2 val)) s

/-- INVALIDATION_COMPLETE (R129): nothing can use what an invalidation removed any more. -/
def execInvalidationComplete (inv : Nat) (s : State) : Host.Outcome State Fault Refusal :=
  run (fun b => settle (invalComplete inv b)) s

/-- The cause with which an access fails whose Page Request Group a response ends (R119), 0 where it goes on. -/
def prgCause : PrgCode → Nat
  | .success => 0
  | .invalid => 0x20
  | .failure => 0x21

/-- A PRG Response reaches the port of the access that waits for it. -/
def prgArrive (prg : Nat) (b : Block) : Block :=
  match tfind b.tu.prgs prg with
  | some (fn, _) => hostTlp (fn / 128) b
  | none => b

/-- PRG_RESPONSE (R119). -/
def execPrgResponse (prg : Nat) (code : PrgCode) (s : State) : Host.Outcome State Fault Refusal :=
  run (fun b => settle (prgEnd prg (prgCause code) (prgArrive prg b))) s

/-- PRI_TIMEOUT (R119). -/
def execPriTimeout (prg : Nat) (s : State) : Host.Outcome State Fault Refusal := run (fun b => settle (prgEnd prg 0x22 b)) s

/-- ATS_INVALIDATE_REQUEST (R120, R121): from the host of a port, for a function of it. -/
def execAtsInvalidateRequest (port fn : Nat) (pasid : Option Nat) (addr len itag : Nat) (s : State) :
    Host.Outcome State Fault Refusal :=
  run (fun b => if hostUp b port && fnEnabled b (128 * port + fn)
    then settle (atsInvalidate (128 * port + fn) pasid addr len itag (hostTlp port b)) else b) s

end Sys2Proof.Machine
end

