-- ==== Sys2Proof/Machine/Transport.lean ====
section
/-!
DEFINITION. The fabric transport: packets, timers, link-level replay, ports and epochs (R316-R381), and the PTP messages that pass the ports (R383, R384).
-/
namespace Sys2Proof.Machine

open Sys2Proof

/-- A frame that carries a packet of a type arrives. -/
def frameIn (ty : Nat) (f : Frame) (b : Block) : Block := settle (rxFrame { f with hdr := { f.hdr with type := ty } } b)

/-- PACKET_SEND (R342, R355, R364): a sequenced packet of a QP leaves, where the windows, pacing and a path allow; `fullPorts` are
the ports, by bit, whose class queue has no room. -/
def execPacketSend (qp : Nat) (fullPorts : Nat) (s : State) : Host.Outcome State Fault Refusal :=
  run (fun b => settle (packetStep qp fullPorts b)) s

/-- WRITE (R336): a WRITE packet is checked, admitted and placed, refused, held or acknowledged again. -/
def execWrite (frame : Frame) (s : State) : Host.Outcome State Fault Refusal := run (frameIn tyWrite frame) s

/-- COMBINE (R305): a COMBINE packet is applied, held in its order keeper or answered RNR. -/
def execCombine (frame : Frame) (s : State) : Host.Outcome State Fault Refusal := run (frameIn tyCombine frame) s

/-- FENCE (R253): a remote fence is written after admission. -/
def execFence (frame : Frame) (s : State) : Host.Outcome State Fault Refusal := run (frameIn tyFence frame) s

/-- READ_REQ (R350): a READ_REQ is admitted and answered. -/
def execReadReq (frame : Frame) (s : State) : Host.Outcome State Fault Refusal := run (frameIn tyReadReq frame) s

/-- READ_RESP (R350, R373): a READ_RESP brings data to its owner. -/
def execReadResp (frame : Frame) (s : State) : Host.Outcome State Fault Refusal := run (frameIn tyReadResp frame) s

/-- ACK (R342, R347, R363): an ACK advances what is received and durable. -/
def execAck (frame : Frame) (s : State) : Host.Outcome State Fault Refusal := run (frameIn tyAck frame) s

/-- NAK (R329, R351, R380): a NAK fails an item, consumes a PSN or puts the QP in ERROR. -/
def execNak (frame : Frame) (s : State) : Host.Outcome State Fault Refusal := run (frameIn tyNak frame) s

/-- APPLIED (R345, R346): an APPLIED reports the bytes applied of a message. -/
def execApplied (frame : Frame) (s : State) : Host.Outcome State Fault Refusal := run (frameIn tyApplied frame) s

/-- CREDIT (R308): a CREDIT lets a rank send for an order block. -/
def execCredit (frame : Frame) (s : State) : Host.Outcome State Fault Refusal := run (frameIn tyCredit frame) s

/-- PROBE (R346, R354): a PROBE is answered. -/
def execProbe (frame : Frame) (s : State) : Host.Outcome State Fault Refusal := run (frameIn tyProbe frame) s

/-- PROBE_REPLY (R354): a PROBE_REPLY brings a label up. -/
def execProbeReply (frame : Frame) (s : State) : Host.Outcome State Fault Refusal := run (frameIn tyProbeReply frame) s

/-- SKIP (R327): a SKIP consumes a run of PSNs. -/
def execSkip (frame : Frame) (s : State) : Host.Outcome State Fault Refusal := run (frameIn tySkip frame) s

/-- MGMT (R318, R327): a QP 0 datagram goes to the management core. -/
def execMgmt (frame : Frame) (s : State) : Host.Outcome State Fault Refusal := run (mgmtRx frame) s

/-- RTO_EXPIRY (R347): a packet has been unacknowledged for its RTO. -/
def execRtoExpiry (qp psn : Nat) (s : State) : Host.Outcome State Fault Refusal := run (fun b => settle (rtoExpire qp psn b)) s

/-- DELIVERY_TIMEOUT (R348): a free packet has not been acknowledged in time. -/
def execDeliveryTimeout (qp psn : Nat) (s : State) : Host.Outcome State Fault Refusal :=
  run (fun b => settle (deliveryExpire qp psn b)) s

/-- READ_RETRY (R350): a range of a read request is asked for again. -/
def execReadRetry (qp psn : Nat) (s : State) : Host.Outcome State Fault Refusal := run (fun b => settle (readRetry qp psn b)) s

/-- READ_DELIVERY_TIMEOUT (R350): data of a read request is still missing. -/
def execReadDeliveryTimeout (qp psn : Nat) (s : State) : Host.Outcome State Fault Refusal :=
  run (fun b => settle (readExpire qp psn b)) s

/-- NO_PATH_TIMEOUT (R355): an item has sent no byte while every label was DOWN. -/
def execNoPathTimeout (item : Nat) (s : State) : Host.Outcome State Fault Refusal :=
  run (fun b => settle (noPathExpire item b)) s

/-- APPLIED_PROBE_TIMER (R346): a message awaits APPLIED for RTO_MAX. -/
def execAppliedProbeTimer (qp msn : Nat) (s : State) : Host.Outcome State Fault Refusal := run (appliedProbe qp msn) s

/-- LABEL_PROBE_TIMER (R354): a DOWN label is probed over a QP of its set. -/
def execLabelProbeTimer (set label qp : Nat) (s : State) : Host.Outcome State Fault Refusal := run (labelProbe set label qp) s

/-- COOLDOWN_EXPIRY (R354): a COOLED label is UP again. -/
def execCooldownExpiry (set label : Nat) (s : State) : Host.Outcome State Fault Refusal := run (coolExpire set label) s

/-- ACK_DELAY_EXPIRY (R345). -/
def execAckDelayExpiry (qp : Nat) (s : State) : Host.Outcome State Fault Refusal := run (ackExpire qp) s

/-- BASE_RTT_RESET (R363). -/
def execBaseRttReset (qp : Nat) (s : State) : Host.Outcome State Fault Refusal := run (baseReset qp) s

/-- LLR_ACK (R369): frames up to a replay number are covered. -/
def execLlrAck (port seq : Nat) (s : State) : Host.Outcome State Fault Refusal := run (llrAck port seq) s

/-- LLR_NAK (R369, R370): frames from a replay number on are sent again. -/
def execLlrNak (port seq : Nat) (s : State) : Host.Outcome State Fault Refusal := run (llrNak port seq) s

/-- LLR_ACK_TIMER (R369). -/
def execLlrAckTimer (port : Nat) (s : State) : Host.Outcome State Fault Refusal := run (llrTimer port) s

/-- PORT_LINK_DOWN (R376). -/
def execPortLinkDown (port : Nat) (s : State) : Host.Outcome State Fault Refusal := run (fun b => settle (portDown port b)) s

/-- PORT_TRAINED (R375, R377). -/
def execPortTrained (port : Nat) (s : State) : Host.Outcome State Fault Refusal := run (portTrained port) s

/-- TRAINING_RETRY (R375). -/
def execTrainingRetry (port : Nat) (s : State) : Host.Outcome State Fault Refusal := run (portRetry port) s

/-- LINK_HOLD_EXPIRY (R377). -/
def execLinkHoldExpiry (port : Nat) (s : State) : Host.Outcome State Fault Refusal := run (portHeld port) s

/-- EPOCH_SWITCH_ARM (R358, R359): FT_EPOCH_CTL is written with SWITCH at 1. -/
def execEpochSwitchArm (who : Agent) (half : Half) (val : BitVec 64) (s : State) : Host.Outcome State Fault Refusal :=
  run (writeReg who .ftEpochCtl 0 half (carry F.ftEpochCtlSwitch 1 val)) s

/-- EPOCH_SWITCH (R358): an armed switch reaches its boundary. -/
def execEpochSwitch (s : State) : Host.Outcome State Fault Refusal := run (fun b => settle (epochSwitch (b.ps.start == b.now) b)) s

/-- MAC_CONTROL_FRAME (R320, R323, R327, R381): a frame is discarded before the transport, whatever its kind. -/
def execMacControlFrame (port : Nat) (kind : BadFrame) (s : State) : Host.Outcome State Fault Refusal :=
  run (badFrame port (match kind with | .macControl | .vlan => none | .unknownType shim | .unknownVer shim => shim)) s

/-- FEC_RESULT (R379). -/
def execFecResult (port corrected uncorrected : Nat) (s : State) : Host.Outcome State Fault Refusal :=
  run (fecResult port corrected uncorrected) s

/-- PTP_FRAME (R383, R384): a PTP message is timestamped and handed on. -/
def execPtpFrame (frame : PtpFrame) (s : State) : Host.Outcome State Fault Refusal := run (ptpRx frame) s

/-- MG_FRAME_SEND (R318, R383): the management core sends a message of class MG. -/
def execMgFrameSend (port : Nat) (msg : MgMsg) (s : State) : Host.Outcome State Fault Refusal := run (mgSend port msg) s

end Sys2Proof.Machine
end

