-- ==== Sys2Proof/Machine/Dispatch.lean ====
section
/-!
DEFINITION. One arm per command: the call of its meaning.
-/
namespace Sys2Proof.Machine

open Sys2Proof

def exec (i : Instr) (s : State) : Host.Outcome State Fault Refusal :=
  match i with
  | .powerOn fuses => Sys2Proof.Machine.execPowerOn fuses s
  | .fuseLoadDone => Sys2Proof.Machine.execFuseLoadDone s
  | .depotTrainingDone => Sys2Proof.Machine.execDepotTrainingDone s
  | .depotZeroDone => Sys2Proof.Machine.execDepotZeroDone s
  | .dictionaryLoadDone us => Sys2Proof.Machine.execDictionaryLoadDone us s
  | .defaulted us => Sys2Proof.Machine.execDefaulted us s
  | .blockReset => Sys2Proof.Machine.execBlockReset s
  | .registerWrite who off half val => Sys2Proof.Machine.execRegisterWrite who off half val s
  | .badRegisterAccess who off read => Sys2Proof.Machine.execBadRegisterAccess who off read s
  | .tailDoorbell who slot size val => Sys2Proof.Machine.execTailDoorbell who slot size val s
  | .headDoorbell who slot size val => Sys2Proof.Machine.execHeadDoorbell who slot size val s
  | .portalTailDoorbell die portal msg => Sys2Proof.Machine.execPortalTailDoorbell die portal msg s
  | .portalHeadDoorbell die portal msg => Sys2Proof.Machine.execPortalHeadDoorbell die portal msg s
  | .descriptorFetchDone txn res => Sys2Proof.Machine.execDescriptorFetchDone txn res s
  | .ringContextLoad cq ring => Sys2Proof.Machine.execRingContextLoad cq ring s
  | .nop item => Sys2Proof.Machine.execNop item s
  | .copy item => Sys2Proof.Machine.execCopy item s
  | .writeRemote item => Sys2Proof.Machine.execWriteRemote item s
  | .readRemote item => Sys2Proof.Machine.execReadRemote item s
  | .combineLocal item => Sys2Proof.Machine.execCombineLocal item s
  | .combineRemote item => Sys2Proof.Machine.execCombineRemote item s
  | .quantizeSend item => Sys2Proof.Machine.execQuantizeSend item s
  | .digest item => Sys2Proof.Machine.execDigest item s
  | .fenceOnly item => Sys2Proof.Machine.execFenceOnly item s
  | .fenceOnlyWait item => Sys2Proof.Machine.execFenceOnlyWait item s
  | .fenceOnlyRearm item => Sys2Proof.Machine.execFenceOnlyRearm item s
  | .tileWalkDeclare item => Sys2Proof.Machine.execTileWalkDeclare item s
  | .waitFencePoll item => Sys2Proof.Machine.execWaitFencePoll item s
  | .ringWatchdog item => Sys2Proof.Machine.execRingWatchdog item s
  | .dieReadData txn data poison => Sys2Proof.Machine.execDieReadData txn data poison s
  | .dieWriteAck txn => Sys2Proof.Machine.execDieWriteAck txn s
  | .depotReadData txn ecc => Sys2Proof.Machine.execDepotReadData txn ecc s
  | .depotWriteAck txn ecc => Sys2Proof.Machine.execDepotWriteAck txn ecc s
  | .dieTimeout txn => Sys2Proof.Machine.execDieTimeout txn s
  | .strandedPop who half val => Sys2Proof.Machine.execStrandedPop who half val s
  | .partitionWeightWrite who part half val => Sys2Proof.Machine.execPartitionWeightWrite who part half val s
  | .dieLinkUp die hbmBytes sramBytes => Sys2Proof.Machine.execDieLinkUp die hbmBytes sramBytes s
  | .dieLinkDown die => Sys2Proof.Machine.execDieLinkDown die s
  | .dieResetAnnounce die => Sys2Proof.Machine.execDieResetAnnounce die s
  | .translationSlotLoaded part asn => Sys2Proof.Machine.execTranslationSlotLoaded part asn s
  | .walkReadDone txn res => Sys2Proof.Machine.execWalkReadDone txn res s
  | .holdTimeout access => Sys2Proof.Machine.execHoldTimeout access s
  | .accessCounterDecay part asn => Sys2Proof.Machine.execAccessCounterDecay part asn s
  | .asControlWrite who half val => Sys2Proof.Machine.execAsControlWrite who half val s
  | .segmentCommit who seg half val => Sys2Proof.Machine.execSegmentCommit who seg half val s
  | .segmentRemove who seg half val => Sys2Proof.Machine.execSegmentRemove who seg half val s
  | .segmentCommitDone part asn seg list events => Sys2Proof.Machine.execSegmentCommitDone part asn seg list events s
  | .invalidateRange who half val => Sys2Proof.Machine.execInvalidateRange who half val s
  | .invalidateAddressSpace who half val => Sys2Proof.Machine.execInvalidateAddressSpace who half val s
  | .invalidatePartition who half val => Sys2Proof.Machine.execInvalidatePartition who half val s
  | .invalidationComplete inv => Sys2Proof.Machine.execInvalidationComplete inv s
  | .atsCompletion txn res => Sys2Proof.Machine.execAtsCompletion txn res s
  | .prgResponse prg code => Sys2Proof.Machine.execPrgResponse prg code s
  | .priTimeout prg => Sys2Proof.Machine.execPriTimeout prg s
  | .atsInvalidateRequest port fn pasid addr len itag => Sys2Proof.Machine.execAtsInvalidateRequest port fn pasid addr len itag s
  | .sqCreate who half val => Sys2Proof.Machine.execSqCreate who half val s
  | .sqBind who half val => Sys2Proof.Machine.execSqBind who half val s
  | .sqPause who half val => Sys2Proof.Machine.execSqPause who half val s
  | .sqResume who half val => Sys2Proof.Machine.execSqResume who half val s
  | .sqTeardown who half val => Sys2Proof.Machine.execSqTeardown who half val s
  | .teardownSourceDeadline ring => Sys2Proof.Machine.execTeardownSourceDeadline ring s
  | .teardownDeadline ring => Sys2Proof.Machine.execTeardownDeadline ring s
  | .cqCreate who half val => Sys2Proof.Machine.execCqCreate who half val s
  | .cqTeardown who half val => Sys2Proof.Machine.execCqTeardown who half val s
  | .qpCreate who half val => Sys2Proof.Machine.execQpCreate who half val s
  | .qpDestroy who half val => Sys2Proof.Machine.execQpDestroy who half val s
  | .qpDestroyDeadline qp => Sys2Proof.Machine.execQpDestroyDeadline qp s
  | .qpContextLoad qp => Sys2Proof.Machine.execQpContextLoad qp s
  | .packetSend qp fullPorts => Sys2Proof.Machine.execPacketSend qp fullPorts s
  | .write frame => Sys2Proof.Machine.execWrite frame s
  | .combine frame => Sys2Proof.Machine.execCombine frame s
  | .fence frame => Sys2Proof.Machine.execFence frame s
  | .readReq frame => Sys2Proof.Machine.execReadReq frame s
  | .readResp frame => Sys2Proof.Machine.execReadResp frame s
  | .ack frame => Sys2Proof.Machine.execAck frame s
  | .nak frame => Sys2Proof.Machine.execNak frame s
  | .applied frame => Sys2Proof.Machine.execApplied frame s
  | .credit frame => Sys2Proof.Machine.execCredit frame s
  | .probe frame => Sys2Proof.Machine.execProbe frame s
  | .probeReply frame => Sys2Proof.Machine.execProbeReply frame s
  | .skip frame => Sys2Proof.Machine.execSkip frame s
  | .mgmt frame => Sys2Proof.Machine.execMgmt frame s
  | .rtoExpiry qp psn => Sys2Proof.Machine.execRtoExpiry qp psn s
  | .deliveryTimeout qp psn => Sys2Proof.Machine.execDeliveryTimeout qp psn s
  | .readRetry qp psn => Sys2Proof.Machine.execReadRetry qp psn s
  | .readDeliveryTimeout qp psn => Sys2Proof.Machine.execReadDeliveryTimeout qp psn s
  | .noPathTimeout item => Sys2Proof.Machine.execNoPathTimeout item s
  | .appliedProbeTimer qp msn => Sys2Proof.Machine.execAppliedProbeTimer qp msn s
  | .labelProbeTimer set label qp => Sys2Proof.Machine.execLabelProbeTimer set label qp s
  | .cooldownExpiry set label => Sys2Proof.Machine.execCooldownExpiry set label s
  | .ackDelayExpiry qp => Sys2Proof.Machine.execAckDelayExpiry qp s
  | .baseRttReset qp => Sys2Proof.Machine.execBaseRttReset qp s
  | .llrAck port seq => Sys2Proof.Machine.execLlrAck port seq s
  | .llrNak port seq => Sys2Proof.Machine.execLlrNak port seq s
  | .llrAckTimer port => Sys2Proof.Machine.execLlrAckTimer port s
  | .portLinkDown port => Sys2Proof.Machine.execPortLinkDown port s
  | .portTrained port => Sys2Proof.Machine.execPortTrained port s
  | .trainingRetry port => Sys2Proof.Machine.execTrainingRetry port s
  | .linkHoldExpiry port => Sys2Proof.Machine.execLinkHoldExpiry port s
  | .epochSwitchArm who half val => Sys2Proof.Machine.execEpochSwitchArm who half val s
  | .epochSwitch => Sys2Proof.Machine.execEpochSwitch s
  | .load who half val => Sys2Proof.Machine.execLoad who half val s
  | .stage who half val => Sys2Proof.Machine.execStage who half val s
  | .zero who half val => Sys2Proof.Machine.execZero who half val s
  | .keySwitchCommit slot => Sys2Proof.Machine.execKeySwitchCommit slot s
  | .checkSlot unit flagged parityOk mismatch => Sys2Proof.Machine.execCheckSlot unit flagged parityOk mismatch s
  | .maskSetExpiry unit copyB => Sys2Proof.Machine.execMaskSetExpiry unit copyB s
  | .healthTestFailure test => Sys2Proof.Machine.execHealthTestFailure test s
  | .retestDone res => Sys2Proof.Machine.execRetestDone res s
  | .retestTimeout => Sys2Proof.Machine.execRetestTimeout s
  | .restart who half val => Sys2Proof.Machine.execRestart who half val s
  | .drbgReseed => Sys2Proof.Machine.execDrbgReseed s
  | .drbgRequestServed => Sys2Proof.Machine.execDrbgRequestServed s
  | .ptpFrame frame => Sys2Proof.Machine.execPtpFrame frame s
  | .timeStateReport time offset => Sys2Proof.Machine.execTimeStateReport time offset s
  | .syncMiss => Sys2Proof.Machine.execSyncMiss s
  | .holdoverExpiry => Sys2Proof.Machine.execHoldoverExpiry s
  | .pitchStart => Sys2Proof.Machine.execPitchStart s
  | .ropedPhaseStart => Sys2Proof.Machine.execRopedPhaseStart s
  | .ropedPhaseEnd => Sys2Proof.Machine.execRopedPhaseEnd s
  | .slackPhaseStart => Sys2Proof.Machine.execSlackPhaseStart s
  | .roundRelease card => Sys2Proof.Machine.execRoundRelease card s
  | .roundAbandon card round => Sys2Proof.Machine.execRoundAbandon card round s
  | .scheduleSwapArm who half val => Sys2Proof.Machine.execScheduleSwapArm who half val s
  | .scheduleCheckDone res => Sys2Proof.Machine.execScheduleCheckDone res s
  | .scheduleActivate => Sys2Proof.Machine.execScheduleActivate s
  | .configRead port fn off => Sys2Proof.Machine.execConfigRead port fn off s
  | .configWrite port fn off mask val => Sys2Proof.Machine.execConfigWrite port fn off mask val s
  | .busMasterClear port fn => Sys2Proof.Machine.execBusMasterClear port fn s
  | .busMasterSet port fn => Sys2Proof.Machine.execBusMasterSet port fn s
  | .functionLevelReset port fn => Sys2Proof.Machine.execFunctionLevelReset port fn s
  | .flrSourceDeadline port fn => Sys2Proof.Machine.execFlrSourceDeadline port fn s
  | .flrDeadline port fn => Sys2Proof.Machine.execFlrDeadline port fn s
  | .vfDisable port vfEnable numVfs => Sys2Proof.Machine.execVfDisable port vfEnable numVfs s
  | .setD3hot port => Sys2Proof.Machine.execSetD3hot port s
  | .setD0 port => Sys2Proof.Machine.execSetD0 port s
  | .barSizeWrite port vf size => Sys2Proof.Machine.execBarSizeWrite port vf size s
  | .perstAssert port => Sys2Proof.Machine.execPerstAssert port s
  | .perstRelease port => Sys2Proof.Machine.execPerstRelease port s
  | .hotReset port => Sys2Proof.Machine.execHotReset port s
  | .dlDown port => Sys2Proof.Machine.execDlDown port s
  | .linkUp port rate width cxl => Sys2Proof.Machine.execLinkUp port rate width cxl s
  | .tlpError port fn => Sys2Proof.Machine.execTlpError port fn s
  | .bar4Read port fn off len => Sys2Proof.Machine.execBar4Read port fn off len s
  | .bar4Write port fn off data => Sys2Proof.Machine.execBar4Write port fn off data s
  | .windowReadTimeout access => Sys2Proof.Machine.execWindowReadTimeout access s
  | .windowControlWrite who win half val => Sys2Proof.Machine.execWindowControlWrite who win half val s
  | .hostReadCompletion txn res => Sys2Proof.Machine.execHostReadCompletion txn res s
  | .hostCompletionTimeout txn => Sys2Proof.Machine.execHostCompletionTimeout txn s
  | .l1Entry port => Sys2Proof.Machine.execL1Entry port s
  | .l0pNarrow port => Sys2Proof.Machine.execL0pNarrow port s
  | .ideIntegrityFailure port stream => Sys2Proof.Machine.execIdeIntegrityFailure port stream s
  | .tdispStopInterface port vf => Sys2Proof.Machine.execTdispStopInterface port vf s
  | .keyProg port slot key session => Sys2Proof.Machine.execKeyProg port slot key session s
  | .kSetGo port stream sub dir set session => Sys2Proof.Machine.execKSetGo port stream sub dir set session s
  | .kSetStop port stream sub dir set session => Sys2Proof.Machine.execKSetStop port stream sub dir set session s
  | .grantControlWrite who grant half val => Sys2Proof.Machine.execGrantControlWrite who grant half val s
  | .bind who half val => Sys2Proof.Machine.execBind who half val s
  | .rebind who half val => Sys2Proof.Machine.execRebind who half val s
  | .park who half val => Sys2Proof.Machine.execPark who half val s
  | .adopt who half val => Sys2Proof.Machine.execAdopt who half val s
  | .reset who half val => Sys2Proof.Machine.execReset who half val s
  | .partitionResetDeadline part stage => Sys2Proof.Machine.execPartitionResetDeadline part stage s
  | .release who half val => Sys2Proof.Machine.execRelease who half val s
  | .recompose who half val => Sys2Proof.Machine.execRecompose who half val s
  | .recomposeMoveDone => Sys2Proof.Machine.execRecomposeMoveDone s
  | .belayDeadline part => Sys2Proof.Machine.execBelayDeadline part s
  | .handover part => Sys2Proof.Machine.execHandover part s
  | .bivouacHoldExpiry part => Sys2Proof.Machine.execBivouacHoldExpiry part s
  | .mailboxSend who half val => Sys2Proof.Machine.execMailboxSend who half val s
  | .mailboxAck who half val => Sys2Proof.Machine.execMailboxAck who half val s
  | .gets line tile => Sys2Proof.Machine.execGets line tile s
  | .getm line tile => Sys2Proof.Machine.execGetm line tile s
  | .upgrade line tile => Sys2Proof.Machine.execUpgrade line tile s
  | .putm line tile => Sys2Proof.Machine.execPutm line tile s
  | .puto line tile => Sys2Proof.Machine.execPuto line tile s
  | .pute line tile => Sys2Proof.Machine.execPute line tile s
  | .ncread line agent => Sys2Proof.Machine.execNcread line agent s
  | .ncwrite line agent hint => Sys2Proof.Machine.execNcwrite line agent hint s
  | .fwdgets line tile => Sys2Proof.Machine.execFwdgets line tile s
  | .fwdgetm line tile => Sys2Proof.Machine.execFwdgetm line tile s
  | .fwdrecall line tile => Sys2Proof.Machine.execFwdrecall line tile s
  | .inv line tile => Sys2Proof.Machine.execInv line tile s
  | .invack line tile => Sys2Proof.Machine.execInvack line tile s
  | .fwddone line tile => Sys2Proof.Machine.execFwddone line tile s
  | .nack line agent => Sys2Proof.Machine.execNack line agent s
  | .nackRetry line agent => Sys2Proof.Machine.execNackRetry line agent s
  | .wbgrant line tile => Sys2Proof.Machine.execWbgrant line tile s
  | .putack line tile => Sys2Proof.Machine.execPutack line tile s
  | .grant line tile => Sys2Proof.Machine.execGrant line tile s
  | .data line agent excl => Sys2Proof.Machine.execData line agent excl s
  | .wbdata line tile => Sys2Proof.Machine.execWbdata line tile s
  | .homeTimeout line => Sys2Proof.Machine.execHomeTimeout line s
  | .reactTimerExpiry src => Sys2Proof.Machine.execReactTimerExpiry src s
  | .faultExit who src half val => Sys2Proof.Machine.execFaultExit who src half val s
  | .faultInject who half val => Sys2Proof.Machine.execFaultInject who half val s
  | .signalRepend => Sys2Proof.Machine.execSignalRepend s
  | .interruptClaim who target half => Sys2Proof.Machine.execInterruptClaim who target half s
  | .interruptComplete who target half val => Sys2Proof.Machine.execInterruptComplete who target half val s
  | .swTrigger who half val => Sys2Proof.Machine.execSwTrigger who half val s
  | .sourceConfigWrite who src half val => Sys2Proof.Machine.execSourceConfigWrite who src half val s
  | .maskWrite who word half val => Sys2Proof.Machine.execMaskWrite who word half val s
  | .pendingWrite who word half val => Sys2Proof.Machine.execPendingWrite who word half val s
  | .get bnd req => Sys2Proof.Machine.execGet bnd req s
  | .set bnd req => Sys2Proof.Machine.execSet bnd req s
  | .store bnd req storeOk => Sys2Proof.Machine.execStore bnd req storeOk s
  | .default bnd req => Sys2Proof.Machine.execDefault bnd req s
  | .next bnd req => Sys2Proof.Machine.execNext bnd req s
  | .mdSend who half val storeOk => Sys2Proof.Machine.execMdSend who half val storeOk s
  | .getVersion bnd => Sys2Proof.Machine.execGetVersion bnd s
  | .getCapabilities bnd => Sys2Proof.Machine.execGetCapabilities bnd s
  | .negotiateAlgorithms bnd => Sys2Proof.Machine.execNegotiateAlgorithms bnd s
  | .getDigests bnd => Sys2Proof.Machine.execGetDigests bnd s
  | .getCertificate bnd slot => Sys2Proof.Machine.execGetCertificate bnd slot s
  | .challenge bnd slot => Sys2Proof.Machine.execChallenge bnd slot s
  | .getMeasurements bnd index signed => Sys2Proof.Machine.execGetMeasurements bnd index signed s
  | .keyExchange bnd => Sys2Proof.Machine.execKeyExchange bnd s
  | .finish bnd session => Sys2Proof.Machine.execFinish bnd session s
  | .heartbeat bnd session => Sys2Proof.Machine.execHeartbeat bnd session s
  | .keyUpdate bnd session => Sys2Proof.Machine.execKeyUpdate bnd session s
  | .endSession bnd session => Sys2Proof.Machine.execEndSession bnd session s
  | .vendorDefinedRequest bnd session op req storeOk => Sys2Proof.Machine.execVendorDefinedRequest bnd session op req storeOk s
  | .traceDrain tile => Sys2Proof.Machine.execTraceDrain tile s
  | .traceSinkEnable who half val => Sys2Proof.Machine.execTraceSinkEnable who half val s
  | .eventRecordCapture who half => Sys2Proof.Machine.execEventRecordCapture who half s
  | .digestClear who half val => Sys2Proof.Machine.execDigestClear who half val s
  | .now who half val => Sys2Proof.Machine.execNow who half val s
  | .thaw who half val => Sys2Proof.Machine.execThaw who half val s
  | .arm who half val => Sys2Proof.Machine.execArm who half val s
  | .timedFreeze => Sys2Proof.Machine.execTimedFreeze s
  | .dump who half val => Sys2Proof.Machine.execDump who half val s
  | .hangDumpComplete => Sys2Proof.Machine.execHangDumpComplete s
  | .dumpSlotRelease who slot half val => Sys2Proof.Machine.execDumpSlotRelease who slot half val s
  | .tileFrequencyChange tile => Sys2Proof.Machine.execTileFrequencyChange tile s
  | .temperatureReport tile celsius => Sys2Proof.Machine.execTemperatureReport tile celsius s
  | .throttleStep tile => Sys2Proof.Machine.execThrottleStep tile s
  | .supply island => Sys2Proof.Machine.execSupply island s
  | .tileGate tile => Sys2Proof.Machine.execTileGate tile s
  | .tileWake tile => Sys2Proof.Machine.execTileWake tile s
  | .depotPowerDown channel => Sys2Proof.Machine.execDepotPowerDown channel s
  | .governorTick blkMicroW => Sys2Proof.Machine.execGovernorTick blkMicroW s
  | .powerReport die work maxBallast => Sys2Proof.Machine.execPowerReport die work maxBallast s
  | .powerReportMissing die => Sys2Proof.Machine.execPowerReportMissing die s
  | .ballast die => Sys2Proof.Machine.execBallast die s
  | .readClear who off half => Sys2Proof.Machine.execReadClear who off half s
  | .macControlFrame port kind => Sys2Proof.Machine.execMacControlFrame port kind s
  | .fecResult port corrected uncorrected => Sys2Proof.Machine.execFecResult port corrected uncorrected s
  | .correctableError port => Sys2Proof.Machine.execCorrectableError port s
  | .parityError tile => Sys2Proof.Machine.execParityError tile s
  | .meshLinkError tile => Sys2Proof.Machine.execMeshLinkError tile s
  | .ropedExtension => Sys2Proof.Machine.execRopedExtension s
  | .tdispRequest port vf start => Sys2Proof.Machine.execTdispRequest port vf start s
  | .mgFrameSend port msg => Sys2Proof.Machine.execMgFrameSend port msg s

end Sys2Proof.Machine
end

