-- ==== Sys2Proof/Safety.lean ====
section
/-!
DEFINITION. What counts as a safe run, in the terms that claims use: that a command runs, what it leaves alone in the queue
and in the depot, and the invariant of the state.
-/
namespace Sys2Proof.Safety

open Sys2Proof.Machine

/-- The invariant of the state: the depot data areas are in their canonical form. -/
def DepotCanonical (s : State) : Prop := Memory.wf s.depot = true

/-- A command runs in a state: its execution answers a next state, no fault and no refusal. -/
def Runs (c : Instr) (s : State) : Prop := ∃ t, exec c s = .next t

/-- A command stops in a state with a fault. -/
def Faults (c : Instr) (s : State) : Prop := ∃ f, exec c s = .fault f

/-- Every byte of the depot data areas reads as before. -/
def DepotSame (s t : State) : Prop := ∀ a, memByte t.depot a = memByte s.depot a

/-- Every byte of the depot data areas outside `n` bytes from key `lo` on reads as before. -/
def DepotSameBut (lo n : Nat) (s t : State) : Prop := ∀ a, (a < lo ∨ lo + n ≤ a) → memByte t.depot a = memByte s.depot a

/-- The queue of waiting commands is as before. -/
def QueueSame (s t : State) : Prop := t.pending = s.pending

/-- No request waits in the receive queue of an agent's port, so that one that arrives is taken at once; on the management core path none
does. -/
def Unheld (b : Block) (w : Agent) : Prop := w = .mgmt ∨ hostUp b (bankOf w / 128) = false ∨ postQueue b (bankOf w / 128) = []

/-- A register write of agent `w` that names copy `c` of register `r` in block `b0` lands at stored copy `i`; `b` is the block as
the access finds it, with what `w` has read of a register in part let go. -/
def Lands (b0 : Block) (w : Agent) (r : Reg) (c i : Nat) (b : Block) : Prop :=
  Unheld b0 w ∧ accessReach b0 w = true ∧ r.seen w = true ∧ c < r.spec.count ∧ letGo w (accessArrive w false b0) = b ∧ stopTakes b w r = true ∧
    regIdx b w r c = .at_ i

/-- The half of a register that an access names holds the whole of a field. -/
def Names (half : Half) (f : Fld) : Prop := fmask f.hi f.lo &&& halfMask half = fmask f.hi f.lo

/-- A state from which no step stops with a fault: the next command is one that runs. -/
def Safe (s : State) : Prop := ∀ f, step s ≠ .fault f

end Sys2Proof.Safety
end

