-- ==== Sys2Proof/Certificates/Slice0/Obligations.lean ====
section
/-!
DEFINITION. The statements for the provers: what the commands of the block do, by the rules of the spec.
-/
open Sys2Proof Sys2Proof.Machine Sys2Proof.Safety

/-- For every command c and state s, a step of s with c put at the front of its queue is exec of c on s, whose queue
is the rest. A block is modelled as commands taken first in, first out; the queue is the model's own. -/
def Obligations.StepRunsTheCommandInFront : Prop :=
  ∀ (c : Instr) (s : State), step { s with pending := c :: s.pending } = exec c s

/-- With an empty queue a step answers a next state whose domain time is one more, whose queue and depot are as
before, and in which no item, ring, exchange, QP, translation state or fault capture has changed. That an idle step
passes 1 ns is the model's choice (log entry 41); domain time never decreases (R385). -/
def Obligations.IdleStepPassesOneNanosecond : Prop :=
  ∀ (s : State), s.pending = [] →
    ∃ b, step s = .next { s with blk := b } ∧ b.now = s.blk.now + 1 ∧ b.he = s.blk.he ∧ b.sq = s.blk.sq ∧ b.txns = s.blk.txns ∧
      b.ft = s.blk.ft ∧ b.tu = s.blk.tu ∧ b.ps = s.blk.ps ∧ b.cc = s.blk.cc ∧
      (∀ i, i < 512 → rget b .fhSrcStatus i = rget s.blk .fhSrcStatus i)

/-- For every state whose depot is in its canonical form (keys strictly rising, no listed byte 0), a step that answers
a next state leaves it in that form, whatever the command and whatever the state of the block. Equal depots are
therefore equal data. -/
def Obligations.DepotCanonicalFormIsKept : Prop :=
  ∀ (s t : State), DepotCanonical s → step s = .next t → DepotCanonical t

/-- State.reset has no command waiting, an empty depot in canonical form, no item, ring, QP, exchange or capture,
every register at the reset value of its table, start-up in phase 0, HOLD_LIMIT 1000 and DEPTH 3 (R89), THROTTLE 105
(R724) and E_MOVE 34 (R720). The fuses it has before a power-on are the model's choice (log entry 2). -/
def Obligations.ResetHoldsTheStatedValues : Prop :=
  DepotCanonical State.reset ∧ State.reset.pending = [] ∧ State.reset.depot = [] ∧ State.reset.blk.he.items = [] ∧
    State.reset.blk.sq.rings = [] ∧ State.reset.blk.ft.qps = [] ∧ State.reset.blk.txns = [] ∧
    (∀ r i, rget State.reset.blk r i = regReset r i) ∧ phase State.reset.blk = 0 ∧
    (∀ p, fget State.reset.blk F.tuPartCtlHoldLimit p = 1000 ∧ fget State.reset.blk F.tuPartCtlDepth p = 3) ∧
    fget State.reset.blk F.ckThermalThrottle 0 = 105 ∧ fget State.reset.blk F.ckGovCtlEMove 0 = 34

/-- For every command and state, where exec answers a next state its queue is the one it was given: only a step takes
a command, and only the outside puts one in. -/
def Obligations.CommandsLeaveTheQueueAlone : Prop :=
  ∀ (c : Instr) (s t : State), exec c s = .next t → QueueSame s t

/-- The exchange with a die, with the depot, or of a fetch or a table line that a command answers, with the length of the data that it
brings, if it brings any. -/
def Sys2Proof.Safety.answerOf (c : Instr) : Option (Nat × Option Nat) :=
  match c with
  | .dieReadData n data _ => some (n, some data.length)
  | .dieWriteAck n => some (n, none)
  | .depotReadData n _ => some (n, none)
  | .depotWriteAck n _ => some (n, none)
  | .descriptorFetchDone n _ => some (n, none)
  | .walkReadDone n _ => some (n, none)
  | _ => none

/-- Does an answer fit what was asked: its exchange was opened, and its data has the length that a read asked for? -/
def Sys2Proof.Safety.AnswerFits (b : Block) (n : Nat) (len : Option Nat) : Prop :=
  n < b.nextTxn ∧ ∀ t l, tfind b.txns n = some t → t.reads = true → len = some l → t.len = l

/-- No command is ever refused. A command that is not an answer of a die, of the depot, of a fetch or of a table line
always answers a next state, a completion or a timeout on a host port among them. Such an answer answers a next state
exactly where the exchange was opened and the data has the length that was asked for; otherwise it stops with the
fault noPromise, since a neighbour that breaks its protocol undetected voids every promise (R28). -/
def Obligations.OnlyAnswersCanStopTheBlock : Prop :=
  ∀ (c : Instr) (s : State), (∀ r, exec c s ≠ .refused r) ∧
    (answerOf c = none → Runs c s) ∧
    (∀ n len, answerOf c = some (n, len) →
      (AnswerFits s.blk n len → Runs c s) ∧ (¬ AnswerFits s.blk n len → exec c s = .fault .noPromise))

/-- The commands that can change the depot data areas. -/
def Sys2Proof.Safety.writesDepot (c : Instr) : Bool :=
  match c with
  | .depotWriteAck _ _ => true
  | .depotZeroDone => true
  | .partitionResetDeadline _ .final => true
  | .recomposeMoveDone => true
  | _ => false

/-- DEPOT_WRITE_ACK of an open write exchange of partition p at offset x stores its bytes, as far as the ECC result
lets them, from key 2^27 p + x on. Every byte outside them reads as before, and byte i of them reads as the i-th byte
sent. Where the exchange is closed or no depot write, the depot is unchanged. -/
def Obligations.DepotWritesLandWhereTheyWereSent : Prop :=
  ∀ (s : State) (n : Nat) (e : Ecc), n < s.blk.nextTxn → ∃ d, (∃ b, exec (.depotWriteAck n e) s = .next { s with depot := d, blk := b }) ∧
    (∀ t x bytes, tfind s.blk.txns n = some t → t.place = .depot x → t.data = some bytes →
      let sent := bytes.take ((Ecc.bad t e).getD bytes.length)
      (∀ a, (a < depotAt t.part x ∨ depotAt t.part x + sent.length ≤ a) → memByte d a = memByte s.depot a) ∧
      (DepotCanonical s → ∀ i, i < sent.length → some (memByte d (depotAt t.part x + i)) = sent[i]?)) ∧
    ((∀ t x bytes, ¬ (tfind s.blk.txns n = some t ∧ t.place = .depot x ∧ t.data = some bytes)) → d = s.depot)

/-- A command that answers a next state leaves the depot as it was, unless it is DEPOT_WRITE_ACK, DEPOT_ZERO_DONE,
PARTITION_RESET_DEADLINE at its last stage or RECOMPOSE_MOVE_DONE. At the last stage of a partition reset that scrubs
(R512), every byte of the partition's data area reads 0 and every other byte as before; without a scrub, and at
earlier stages, no byte changes. RECOMPOSE_MOVE_DONE with no recomposition in progress changes no byte.
DEPOT_ZERO_DONE in its phase leaves every byte 0 (R709 step 6), and in any other phase changes none. -/
def Obligations.OnlyFourCommandsTouchTheDepot : Prop :=
  (∀ (c : Instr) (s t : State), writesDepot c = false → exec c s = .next t → t.depot = s.depot) ∧
  (∀ (s : State) (p : Nat),
    (scrubs s.blk p = true → ∃ b, exec (.partitionResetDeadline p .final) s =
      .next { s with depot := depotCut p 0 s.depot, blk := b } ∧
      (∀ a, a / 2 ^ 27 = p → memByte (depotCut p 0 s.depot) a = 0#8) ∧
      (∀ a, a / 2 ^ 27 ≠ p → memByte (depotCut p 0 s.depot) a = memByte s.depot a)) ∧
    (scrubs s.blk p = false → ∃ b, exec (.partitionResetDeadline p .final) s = .next { s with blk := b }) ∧
    (∀ stage, stage ≠ .final → ∃ b, exec (.partitionResetDeadline p stage) s = .next { s with blk := b }) ∧
    (moving s.blk = none → ∃ b, exec .recomposeMoveDone s = .next { s with blk := b }) ∧
    (phase s.blk = 3 → exec .depotZeroDone s = .next { s with depot := [], blk := phaseSet 4 s.blk }) ∧
    (phase s.blk ≠ 3 → exec .depotZeroDone s = .next s))

/-- FUSE_LOAD_DONE in phase 0 leads to phase 2: every tile runs at 900 MHz, the entropy source is READY and a wrapping
key is drawn (R709 steps 2 to 4, R622); a load error then raises fault source 0. DEPOT_TRAINING_DONE leads from phase
2 to 3 and changes nothing else. DICTIONARY_LOAD_DONE and DEFAULTED lead from phase 4 to 5, note the time in READY_US,
and end Request Retry Status of every port whose PERST# is not asserted (R709 step 8, R710, R711). FUSE_LOAD_DONE,
DEPOT_TRAINING_DONE and DEFAULTED in another phase leave the state as it is (the model's reading of the sequence). -/
def Obligations.StartUpRunsItsSteps : Prop :=
  ∀ (s : State) (us : Nat),
    (phase s.blk = 0 → ∃ b, exec .fuseLoadDone s =
        .next { s with blk := if s.blk.fuses.loadError then fhRaise 0 .none none false b else b } ∧
      phase b = 2 ∧ (∀ t, t < 12 → fget b F.ckTileEffective t = 900) ∧ fget b F.enStatusState 0 = 1 ∧ b.ce.wrap.isSome = true) ∧
    (phase s.blk = 2 → exec .depotTrainingDone s = .next { s with blk := phaseSet 3 s.blk }) ∧
    (phase s.blk = 4 → ∃ b, exec (.dictionaryLoadDone us) s = .next { s with blk := b } ∧ phase b = 5 ∧
      fget b F.ckStartReadyUs 0 = (if us < 2 ^ 32 then us else 2 ^ 32 - 1) ∧ b.hp.retry = b.hp.perst) ∧
    (phase s.blk = 4 → ∃ b, exec (.defaulted us) s = .next { s with blk := b } ∧ phase b = 5 ∧
      fget b F.ckStartReadyUs 0 = (if us < 2 ^ 32 then us else 2 ^ 32 - 1) ∧ b.hp.retry = b.hp.perst) ∧
    (phase s.blk ≠ 0 → exec .fuseLoadDone s = .next s) ∧ (phase s.blk ≠ 2 → exec .depotTrainingDone s = .next s) ∧
    (phase s.blk ≠ 4 → exec (.defaulted us) s = .next s)

/-- POWER_ON takes the fuses of the part and clears dumps, stranded logs, rings, completion rings, items, QPs, key
slots, partition commands, address-space slots, schedules, coherence lines and sessions; every register but CK_START
is at its reset value, and CK_START tells of a cold start (R707, R691, R562). The stored dictionary values stay. -/
def Obligations.PowerOnKeepsOnlyStoredValues : Prop :=
  ∀ (s : State) (f : Fuses), ∃ b, exec (.powerOn f) s = .next { s with blk := b } ∧ b.fuses = f ∧
    fget b F.ckStartCold 0 = 1 ∧ phase b = 0 ∧ (∀ r i, r ≠ .ckStart → i < 2 ^ 32 → rget b r i = regReset r i) ∧
    b.he.items = [] ∧ b.he.logs = [] ∧ b.sq.rings = [] ∧ b.sq.cqs = [] ∧ b.ft.qps = [] ∧ b.ce.slots = [] ∧ b.tc.dumps = [] ∧
    b.pt.cmds = [] ∧ b.tu.slots = [] ∧ b.ps.sched = none ∧ b.cc.lines = [] ∧ b.md.sessions = [] ∧ b.md.stored = s.blk.md.stored

/-- BLOCK_RESET while the block is not stopped and a dump slot takes its dump of reason 4 stops the block and waits
with that dump in progress (R708). BLOCK_RESET while the block is stopped and no dump is in progress takes place: the
fault captures, FH_FIRST, FH_FIRST_TIME (R562) and the dumps (R691) stay; items, rings, QPs, key slots (R601),
stranded logs (R271), schedules, address-space slots and sessions are gone; start-up is in its first phase; every
other register is at its reset value, but for the count of refused dumps. HANG_DUMP_COMPLETE with a dump in progress
ends it (COMPLETE 1, BUSY 0, interrupt source 1,823), and the reset that waited for it takes place; with none in
progress it changes nothing. -/
def Obligations.BlockResetKeepsCapturesAndDumps : Prop :=
  ∀ (s : State),
    (s.blk.ck.resetting = false → stopped s.blk = false → s.blk.tc.dumping = none → (∃ n, dumpSlot s.blk 4 = some n) →
      ∃ b, exec .blockReset s = .next { s with blk := b } ∧ b.ck.resetting = true ∧ b.tc.dumping.isSome = true ∧
        stopped b = true ∧ b.he.items = s.blk.he.items) ∧
    (s.blk.ck.resetting = false → stopped s.blk = true → s.blk.tc.dumping = none →
      ∃ b, exec .blockReset s = .next { s with blk := b } ∧ b.he.items = [] ∧ b.he.logs = [] ∧ b.sq.rings = [] ∧ b.ft.qps = [] ∧
        b.ce.slots = [] ∧ b.ps.sched = none ∧ b.tu.slots = [] ∧ b.md.sessions = [] ∧ phase b = 0 ∧ b.tc.dumps = s.blk.tc.dumps ∧
        (∀ i, i < 512 → rget b .fhSrcStatus i = rget s.blk .fhSrcStatus i) ∧ rget b .fhFirst 0 = rget s.blk .fhFirst 0 ∧
        rget b .fhFirstTime 0 = rget s.blk .fhFirstTime 0 ∧ (∀ i, i < 2 → rget b .tcDumpStatus i = rget s.blk .tcDumpStatus i) ∧
        (∀ r i, r ∉ stickyRegs → r ≠ .tcDumpCtl → i < 2 ^ 32 → rget b r i = regReset r i)) ∧
    (s.blk.tc.dumping = none → exec .hangDumpComplete s = .next s) ∧
    (s.blk.tc.dumping ≠ none → ∃ b, exec .hangDumpComplete s = .next { s with blk := b } ∧
      (s.blk.ck.resetting = true → b = blockClear (dumpComplete s.blk)) ∧
      (s.blk.ck.resetting = false → b = dumpComplete s.blk)) ∧
    (∀ n d, s.blk.tc.dumping = some n → n < 2 → tfind s.blk.tc.dumps n = some d → ∃ c, dumpComplete s.blk = sgAssert 1823 c ∧
      c.tc.dumping = none ∧ fget c F.tcDumpStatusComplete n = 1 ∧ fget c F.tcDumpCtlBusy 0 = 0 ∧ c.he = s.blk.he)

/-- TILE_FREQUENCY_CHANGE of a tile of a started block moves the frequency of that tile (R703): where the neighbours
run below 2,048 MHz and are themselves within 4:1 of each other, it lies within 2:1 of the current frequency of every
neighbour, and every other tile keeps its own. Before configuration is ready, and for a tile that is not there,
nothing changes. -/
def Obligations.TileFrequencyStaysWithinTwoToOne : Prop :=
  ∀ (s : State) (t : Nat),
    (t < 12 → started s.blk = true →
      (∀ u, u ∈ neighbours t → fget s.blk F.ckTileEffective u < 2 ^ 11) →
      (∀ u v, u ∈ neighbours t → v ∈ neighbours t → fget s.blk F.ckTileEffective u ≤ 4 * fget s.blk F.ckTileEffective v) →
      ∃ b, exec (.tileFrequencyChange t) s = .next { s with blk := b } ∧
        (∀ u, u ∈ neighbours t → fget b F.ckTileEffective t ≤ 2 * fget b F.ckTileEffective u ∧
          fget b F.ckTileEffective u ≤ 2 * fget b F.ckTileEffective t) ∧
        (∀ u, u < 2 ^ 32 → u ≠ t → fget b F.ckTileEffective u = fget s.blk F.ckTileEffective u)) ∧
    ((12 ≤ t ∨ started s.blk = false) → exec (.tileFrequencyChange t) s = .next s)

/-- TEMPERATURE_REPORT of c degrees for a tile is held (saturated at 255) with whatever the hub then records of a
gradient; a tile at or above THROTTLE becomes hot (R722), one 5 degrees below is no longer hot, and TRIP raises fault
source 248 (R723), after which the work that can goes on. THROTTLE_STEP lowers the thermal cap of a tile at or above
THROTTLE by 100 MHz, not below F_MIN, raises it by 100 MHz, not above F_MAX, once the temperature is 5 degrees below
THROTTLE, and does nothing between. -/
def Obligations.TemperaturesThrottleAndTrip : Prop :=
  ∀ (s : State) (t c : Nat), t < 12 →
    (∃ b, exec (.temperatureReport t c) s =
        .next { s with blk := settle (if tripAt b ≤ c then fhRaise 248 (.tile t) none false b else b) } ∧
      b.fuses = s.blk.fuses ∧ fget b F.ckTileTemp t = (if c < 255 then c else 255) ∧
      (throttleAt s.blk ≤ c → b.ck.hot.contains t = true) ∧ (c + 5 ≤ throttleAt s.blk → b.ck.hot.contains t = false)) ∧
    (throttleAt s.blk ≤ fget s.blk F.ckTileTemp t →
      let n := if tileCap s.blk t < fMin s.blk + 100 then fMin s.blk else tileCap s.blk t - 100
      exec (.throttleStep t) s = .next { s with blk := modCk (fun k => { k with caps := tset (fMax s.blk) k.caps t n }) s.blk }) ∧
    (fget s.blk F.ckTileTemp t + 5 ≤ throttleAt s.blk →
      let n := if fMax s.blk < tileCap s.blk t + 100 then fMax s.blk else tileCap s.blk t + 100
      exec (.throttleStep t) s = .next { s with blk := modCk (fun k => { k with caps := tset (fMax s.blk) k.caps t n }) s.blk }) ∧
    (fget s.blk F.ckTileTemp t < throttleAt s.blk → throttleAt s.blk < fget s.blk F.ckTileTemp t + 5 →
      exec (.throttleStep t) s = .next s)

/-- SUPPLY, TILE_GATE, TILE_WAKE and DEPOT_POWER_DOWN answer a next state on every state. SUPPLY of one of the 14
islands raises fault source 249, with the tile as its object (R723); where the block runs and source 249 holds no
capture, the capture is of class 3 and rung 4, and the block is stopped. TILE_GATE gates the clock of a tile that is
idle and leaves one that holds work; TILE_WAKE ungates it (R713). DEPOT_POWER_DOWN powers down a channel that is
present and serves no request (R714), and leaves any other. An island, tile or channel that does not exist changes
nothing but that work goes on. None of the last three changes an item, a ring or a message. GOVERNOR_TICK,
POWER_REPORT, POWER_REPORT_MISSING and BALLAST answer a next state on every state. GOVERNOR_TICK: the roped reserve
rises by at most s_up and falls by at most s_dn (R717), and the tick is noted. POWER_REPORT of a die present is held
with the time, and the die is no longer missing (R716); POWER_REPORT_MISSING of a die present marks it (R719); of a
die that is not there each changes nothing. BALLAST repeats the request to a die whose share is not zero while
BALLAST_EN is 1, and sends nothing otherwise (R718). -/
def Obligations.PowerAndItsGovernor : Prop :=
  (∀ (s : State) (n : Nat),
    (n < 14 → ∃ b, exec (.supply n) s = .next { s with blk := settle b } ∧
      b = fhRaise 249 (if n < 12 then .tile n else .none) none false s.blk ∧
      (stopped s.blk = false → fon s.blk F.fhSrcStatusCaptured 249 = false →
        stopped b = true ∧ fget b F.fhSrcStatusCaptured 249 = 1 ∧ fget b F.fhSrcStatusClass 249 = 3 ∧
        fget b F.fhSrcStatusRung 249 = 4 ∧ b.he = s.blk.he ∧ b.sq = s.blk.sq)) ∧
    (14 ≤ n → exec (.supply n) s = .next { s with blk := settle s.blk }) ∧
    (n < 12 → tileIdle s.blk n = true → exec (.tileGate n) s = .next { s with blk := fput F.ckTileGated n 1 s.blk }) ∧
    ((12 ≤ n ∨ tileIdle s.blk n = false) → exec (.tileGate n) s = .next s) ∧
    (n < 12 → exec (.tileWake n) s = .next { s with blk := fput F.ckTileGated n 0 s.blk }) ∧
    (12 ≤ n → exec (.tileWake n) s = .next s) ∧
    (n ∈ s.blk.fuses.channels → channelBusy s.blk n = false → ∃ b, exec (.depotPowerDown n) s = .next { s with blk := b } ∧
      n ∈ b.ck.down ∧ b.regs = s.blk.regs ∧ b.he = s.blk.he ∧ b.out = s.blk.out) ∧
    ((n ∉ s.blk.fuses.channels ∨ channelBusy s.blk n = true) → exec (.depotPowerDown n) s = .next s)) ∧
  (∀ (s : State) (blkW d work most : Nat),
    (∃ b, exec (.governorTick blkW) s = .next { s with blk := settle b } ∧
      (let dt := if s.blk.gov.tickAt = 0 then govPeriod s.blk else s.blk.now - s.blk.gov.tickAt
       b.gov.reserve ≤ s.blk.gov.reserve + shelfRate s.blk F.ckGovCtlShelfRise * dt ∧
       (s.blk.gov.reserve - shelfRate s.blk F.ckGovCtlShelfFall * dt ≤ b.gov.reserve)) ∧
      b.gov.blk = blkW ∧ b.gov.tickAt = s.blk.now ∧ b.he.items = s.blk.he.items) ∧
    (d < 4 → diePresent s.blk d = true → ∃ b, exec (.powerReport d work most) s = .next { s with blk := b } ∧
      tfind b.gov.reports d = some (work % 65536, most % 65536, s.blk.now) ∧ d ∉ b.gov.missing ∧ b.regs = s.blk.regs) ∧
    (d < 4 → diePresent s.blk d = true → ∃ b, exec (.powerReportMissing d) s = .next { s with blk := b } ∧ d ∈ b.gov.missing ∧
      b.gov.reports = s.blk.gov.reports ∧ b.regs = s.blk.regs) ∧
    ((4 ≤ d ∨ diePresent s.blk d = false) → exec (.powerReport d work most) s = .next s ∧
      exec (.powerReportMissing d) s = .next s ∧ exec (.ballast d) s = .next s) ∧
    (d < 4 → diePresent s.blk d = true → tget 0 s.blk.gov.share d ≠ 0 → fon s.blk F.ckGovCtlBallastEn 0 = true →
      exec (.ballast d) s = .next { s with blk := emit (.ballast d (tget 0 s.blk.gov.share d)) s.blk }) ∧
    ((tget 0 s.blk.gov.share d = 0 ∨ fon s.blk F.ckGovCtlBallastEn 0 = false) → exec (.ballast d) s = .next s))

/-- The register write that a command stands for: its agent, register, copy, half, word, and what the non-volatile store answers. -/
def Sys2Proof.Safety.writeOf (c : Instr) : Option (Agent × Reg × Nat × Half × BitVec 64 × Bool) :=
  match c with
  | .strandedPop w h v => some (w, .heStrandCtl, 0, h, carry F.heStrandCtlPop 1 v, true)
  | .partitionWeightWrite w p h v => some (w, .hePartWeight, p, h, v, true)
  | .asControlWrite w h v => some (w, .tuAsCtl, 0, h, v, true)
  | .segmentCommit w g h v => some (w, .tuSegCtl, g, h, carry F.tuSegCtlValid 1 v, true)
  | .segmentRemove w g h v => some (w, .tuSegCtl, g, h, carry F.tuSegCtlValid 0 v, true)
  | .invalidateRange w h v => some (w, .tuInvCtl, 0, h, carry F.tuInvCtlScope 0 v, true)
  | .invalidateAddressSpace w h v => some (w, .tuInvCtl, 0, h, carry F.tuInvCtlScope 1 v, true)
  | .invalidatePartition w h v => some (w, .tuInvCtl, 0, h, carry F.tuInvCtlScope 2 v, true)
  | .sqCreate w h v => some (w, .sqCmd, 0, h, carry F.sqCmdOp 1 v, true)
  | .sqBind w h v => some (w, .sqCmd, 0, h, carry F.sqCmdOp 2 v, true)
  | .sqPause w h v => some (w, .sqCmd, 0, h, carry F.sqCmdOp 3 v, true)
  | .sqResume w h v => some (w, .sqCmd, 0, h, carry F.sqCmdOp 4 v, true)
  | .sqTeardown w h v => some (w, .sqCmd, 0, h, carry F.sqCmdOp 5 v, true)
  | .cqCreate w h v => some (w, .sqCmd, 0, h, carry F.sqCmdOp 8 v, true)
  | .cqTeardown w h v => some (w, .sqCmd, 0, h, carry F.sqCmdOp 9 v, true)
  | .qpCreate w h v => some (w, .sqCmd, 0, h, carry F.sqCmdOp 0x10 v, true)
  | .qpDestroy w h v => some (w, .sqCmd, 0, h, carry F.sqCmdOp 0x11 v, true)
  | .epochSwitchArm w h v => some (w, .ftEpochCtl, 0, h, carry F.ftEpochCtlSwitch 1 v, true)
  | .load w h v => some (w, .ceKeyCmd, 0, h, carry F.ceKeyCmdOp 1 v, true)
  | .stage w h v => some (w, .ceKeyCmd, 0, h, carry F.ceKeyCmdOp 2 v, true)
  | .zero w h v => some (w, .ceKeyCmd, 0, h, carry F.ceKeyCmdOp 3 v, true)
  | .restart w h v => some (w, .enCtl, 0, h, carry F.enCtlRestart 1 v, true)
  | .scheduleSwapArm w h v => some (w, .psSwapCtl, 0, h, carry F.psSwapCtlSwap 1 v, true)
  | .windowControlWrite w n h v => some (w, .hpWinCtl, n, h, v, true)
  | .grantControlWrite w g h v => some (w, .ptGrantCtl, g, h, v, true)
  | .bind w h v => some (w, .ptCmd, 0, h, carry F.ptCmdOp 1 v, true)
  | .rebind w h v => some (w, .ptCmd, 0, h, carry F.ptCmdOp 2 v, true)
  | .park w h v => some (w, .ptCmd, 0, h, carry F.ptCmdOp 3 v, true)
  | .adopt w h v => some (w, .ptCmd, 0, h, carry F.ptCmdOp 4 v, true)
  | .reset w h v => some (w, .ptCmd, 0, h, carry F.ptCmdOp 5 v, true)
  | .release w h v => some (w, .ptCmd, 0, h, carry F.ptCmdOp 6 v, true)
  | .recompose w h v => some (w, .ptCmd, 0, h, carry F.ptCmdOp 7 v, true)
  | .mailboxSend w h v => some (w, .ptMbxCtl, 0, h, carry F.ptMbxCtlSend 1 v, true)
  | .mailboxAck w h v => some (w, .ptMbxCtl, 0, h, carry F.ptMbxCtlAck 1 v, true)
  | .faultExit w n h v => some (w, .fhSrcStatus, n, h, carry F.fhSrcStatusCaptured 1 v, true)
  | .faultInject w h v => some (w, .fhInject, 0, h, v, true)
  | .interruptComplete w none h v => some (w, .sgComplete, 0, h, v, true)
  | .interruptComplete w (some t) h v => some (w, .sgCompleteT, t, h, v, true)
  | .swTrigger w h v => some (w, .sgSwTrigger, 0, h, v, true)
  | .sourceConfigWrite w n h v => some (w, .sgSrcCfg, n, h, v, true)
  | .maskWrite w n h v => some (w, .sgMask, n, h, v, true)
  | .pendingWrite w n h v => some (w, .sgPending, n, h, v, true)
  | .mdSend w h v ok => some (w, .mdCtl, 0, h, carry F.mdCtlSend 1 v, ok)
  | .traceSinkEnable w h v => some (w, .tcSinkCtl, 0, h, carry F.tcSinkCtlEnable 1 v, true)
  | .digestClear w h v => some (w, .tcDigCfg, 0, h, carry F.tcDigCfgClear 1 v, true)
  | .now w h v => some (w, .tcFreeze, 0, h, carry F.tcFreezeNow 1 v, true)
  | .thaw w h v => some (w, .tcFreeze, 0, h, carry F.tcFreezeThaw 1 v, true)
  | .arm w h v => some (w, .tcFreeze, 0, h, carry F.tcFreezeArm 1 v, true)
  | .dump w h v => some (w, .tcDumpCtl, 0, h, carry F.tcDumpCtlDump 1 v, true)
  | .dumpSlotRelease w n h v => some (w, .tcDumpStatus, n, h, carry F.tcDumpStatusValid 1 v, true)
  | _ => none

/-- What follows a write of a register: where it may open the way for work, the work that can goes on. -/
def Sys2Proof.Safety.after (r : Reg) (b : Block) : Block := if r.opens then settle b else b

/-- For every command that is a register write, let b be the block as the access found it (on a host port the access
is a TLP). While requests wait in the receive queue of the agent's port it waits behind them (R446). Else: An access
that the port or function does not take, one of a register that the agent does not see (R31) and one past the last
copy leave b; one that a stopped block does not take (R566) and one where no such copy is (R17) leave b with what the
agent has read of a register in part let go (log entry 106). One that names a partition, VF, ring or QP that is not
the agent's is ignored, and the ignored-write counter of the register's unit is one higher, saturating (R32, R33);
that of TC is at least one higher, since its signal may be a dump that is refused in turn. Writes of a VF that no
partition maps are ignored and counted in each of these places (R487). MD_CTL is banked, so nothing there is foreign.
-/
def Obligations.WritesThatLandNowhereChangeNothing : Prop :=
  ∀ (c : Instr) (s : State) (w : Agent) (r : Reg) (k : Nat) (half : Half) (val : BitVec 64) (ok : Bool),
    writeOf c = some (w, r, k, half, val, ok) →
    let b := accessArrive w false s.blk
    let q := postQueue s.blk (bankOf w / 128)
    (¬ Unheld s.blk w → exec c s = .next { s with
      blk := modHp (fun p => { p with queue := tput p.queue (bankOf w / 128) (q ++ [.write w (regNamed w r k) half val ok]) }) s.blk }) ∧
    (Unheld s.blk w → accessReach s.blk w = false → exec c s = .next { s with blk := b }) ∧
    (Unheld s.blk w → accessReach s.blk w = true → (r.seen w = false ∨ r.spec.count ≤ k) → exec c s =
      .next { s with blk := if unmappedVf b w && !stopped b then ignored .pt w none b else b }) ∧
    (Unheld s.blk w → accessReach s.blk w = true → r.seen w = true → k < r.spec.count →
      (stopTakes b w r = false → exec c s = .next { s with blk := letGo w b }) ∧
      (stopTakes b w r = true → r ≠ .mdCtl →
        (regIdx b w r k = .absent → exec c s = .next { s with blk := after r (if unmappedVf b w then regIgnored w r (letGo w b) else letGo w b) }) ∧
        (regIdx b w r k = .foreign → ∃ b', exec c s = .next { s with blk := after r b' } ∧
          (let more := satAdd F.idIgnoredCount.max (fget b F.idIgnoredCount r.spec.unit.row) 1
           more ≤ fget b' F.idIgnoredCount r.spec.unit.row ∧
            (r.spec.unit ≠ .tc → fget b' F.idIgnoredCount r.spec.unit.row = more)))))

/-- Registers whose writes only store: their RW fields take what is written, and their W1C fields are cleared by a 1. -/
def Sys2Proof.Safety.storesOnly (r : Reg) : Bool :=
  r == .tuPartCtl || r == .tuInvVa || r == .cxPartCtl || r == .heLimits || r == .ftXport || r == .ftCc || r == .psTimeCtl
    || r == .hpPmCtl || r == .hpPortStatus || r == .ptCmdArg || r == .sqCmdArg || r == .ceKeySwitch
    || r == .mdReq || r == .tcEvtSel || r == .tcDigSel || r == .tcCntSel || r == .tcCntVal || r == .ckGovCtl || r == .ckThermal

/-- REGISTER_WRITE at an offset of a register whose writes only store (storesOnly names them): each bit of an RW field
that the access names takes the written value, each W1C bit that it names and writes as 1 becomes 0, and every other
bit of the register keeps its value (R12, R13, R733). No other register, and nothing else of the block, changes from
the block b as the access found it. -/
def Obligations.RegisterWriteStoresItsBits : Prop :=
  ∀ (s : State) (w : Agent) (off k i : Nat) (r : Reg) (half : Half) (val : BitVec 64) (b : Block),
    Lands s.blk w r k i b → regDecode w off = some (r, k) → storesOnly r = true →
    ∃ b', exec (.registerWrite w off half val) s = .next { s with blk := b' } ∧
      (∀ n, n < 64 → (rget b' r i).getLsbD n =
        if (r.bitsOf (· == .w1c) &&& halfMask half &&& val).getLsbD n then false
        else if (r.bitsOf (· == .rw) &&& halfMask half).getLsbD n then val.getLsbD n
        else (rget b r i).getLsbD n) ∧
      (∀ q j, regKey q j ≠ regKey r i → rget b' q j = rget b q j) ∧ { b' with regs := b.regs } = b

/-- The answer to a register read leaves: on the management core path, or as a TLP of the agent's host port. -/
def Sys2Proof.Safety.answered (w : Agent) (off : Nat) (v : BitVec 64) (b : Block) : Block :=
  match w with
  | .mgmt => emit (.regData (bankOf w) off v) b
  | _ => emitTlp (bankOf w / 128) (.regData (bankOf w) off v) b

/-- Registers whose reads do no more than clear their RC fields. -/
def Sys2Proof.Safety.clearsOnly (r : Reg) : Bool :=
  !(r == .cxEabStatus || r == .sgClaim || r == .sgClaimT || r == .ftQpCtx || r == .tcEvtData)

/-- Let b be the block as the access found it (on a host port the access is a TLP), and nothing wait in the receive
queue of its port (R446). A read of BAR2 that the function takes is answered with zero (R178). READ_CLEAR of an access
that the port and function take answers with the register's value under the half that the access names, or with zero
where no register is (R16, R17, R31); in a register whose read has no other effect (clearsOnly), each RC bit that the
access names is then 0, every other bit is as before, and nothing else has changed before the answer leaves (R12). Of
a register that is read at one instant, a 32-bit read answers with its half of the word of which the agent has last
read the other half, if it has, and else keeps the word for the other half (R16; the model's choice, log entry 106).
An access that they do not take leaves b. BAD_REGISTER_ACCESS that they take records corrected event 3, with the
function on a host port, and answers zero to a read; a write is discarded with the same record (R15). STRANDED_POP
that lands at the log of a function removes its oldest entry and changes nothing else; on an empty log the write is
ignored and counted (R274). PARTITION_WEIGHT_WRITE that lands stores the bits of SPEC_OFF and WEIGHT that the access
names (R246); unless SPEC_OFF is then 1, which undoes speculation, nothing else changes before work goes on. -/
def Obligations.ReadsClearAndPopsRemove : Prop :=
  (∀ (s : State) (w : Agent) (off : Nat) (half : Half) (read : Bool),
    let b := accessArrive w read s.blk
    Unheld s.blk w →
    (w ≠ .mgmt → accessReach s.blk w = true → read = true → exec (.readClear w .bar2 half) s = .next { s with
      blk := emitTlp (bankOf w / 128) (.completion (bankOf w) (.data (List.replicate (if half = .full then 8 else 4) 0#8) false)) b }) ∧
    (accessReach s.blk w = false → exec (.badRegisterAccess w off read) s = .next { s with blk := b } ∧
      (read = true → ∀ at_, (at_ = .bar0 off ∨ at_ = .bar2 ∧ w ≠ .mgmt) → exec (.readClear w at_ half) s = .next { s with blk := b })) ∧
    (accessReach s.blk w = true → read = true → regDecode w off = none →
      exec (.readClear w (.bar0 off) half) s = .next { s with blk := answered w off 0#64 b }) ∧
    (∀ r k i, accessReach s.blk w = true → read = true → regDecode w off = some (r, k) → regIdx b w r k = .at_ i →
      clearsOnly r = true →
      ∃ c v, exec (.readClear w (.bar0 off) half) s = .next { s with blk := answered w off (v &&& halfMask half) c } ∧
        (∀ n, n < 64 → (rget c r i).getLsbD n =
          ((rget b r i).getLsbD n && !(r.bitsOf (· == .rc) &&& halfMask half).getLsbD n)) ∧
        (∀ q j, regKey q j ≠ regKey r i → rget c q j = rget b q j) ∧ { c with regs := b.regs, halves := b.halves } = b ∧
        (half = .full ∨ r.whole = false → v = readReg b w r i ∧ c.halves = b.halves) ∧
        (half ≠ .full → r.whole = true →
          (∀ x h, tfind b.halves (bankOf w) = some (regKey r k, h, x) → h ≠ half →
            v = x ∧ c.halves = tdel b.halves (bankOf w)) ∧
          ((∀ x h, tfind b.halves (bankOf w) = some (regKey r k, h, x) → h = half) →
            v = readReg b w r i ∧ tfind c.halves (bankOf w) = some (regKey r k, half, v)))) ∧
    (accessReach s.blk w = true →
      let c := fhNote 3 (match w with | .mgmt => .none | _ => .fn (bankOf w))
        (match w with | .vf h v => vfPart b (128 * h + v) | _ => none) b
      exec (.badRegisterAccess w off read) s = .next { s with blk := if read then answered w off 0#64 c else c })) ∧
  (∀ (s : State) (w : Agent) (half : Half) (val : BitVec 64) (b : Block) (i : Nat),
    (Lands s.blk w .heStrandCtl 0 i b → Names half F.heStrandCtlPop →
      (∀ e l, tget [] b.he.logs i = e :: l → exec (.strandedPop w half val) s =
        .next { s with blk := modHe (fun h => { h with logs := tset [] h.logs i l }) b }) ∧
      (tget [] b.he.logs i = [] → exec (.strandedPop w half val) s = .next { s with blk := ignored .he w none b })) ∧
    (∀ p, Lands s.blk w .hePartWeight p i b → ∃ b', { b' with regs := b.regs } = b ∧
      (∀ q j, regKey q j ≠ regKey .hePartWeight i → rget b' q j = rget b q j) ∧
      (half ≠ .hi → fget b' F.hePartWeightWeight i = F.hePartWeightWeight.of val) ∧
      (half ≠ .lo → fget b' F.hePartWeightSpecOff i = F.hePartWeightSpecOff.of val) ∧
      exec (.partitionWeightWrite w p half val) s =
        .next { s with blk := settle (if fon b' F.hePartWeightSpecOff i then specStop i b' else b') }))

/-- A BAR2 write of `w` reaches the block and names a submission ring (`cq` false) or a completion ring by its key, with a pointer;
`b` is the block as the access finds it (R177, R178). -/
def Sys2Proof.Safety.RingsBell (b0 : Block) (w : Agent) (slot : Nat) (size : DbSize) (val : BitVec 64) (cq : Bool) (key ptr : Nat)
    (b : Block) : Prop :=
  w ≠ .mgmt ∧ Unheld b0 w ∧ ideOff b0 (bankOf w) = false ∧ hostUp b0 (bankOf w / 128) = true ∧ b = hostTlp (bankOf w / 128) b0 ∧ mseOn b (bankOf w) = true ∧
    inD3 b (bankOf w / 128) = false ∧ stopped b = false ∧
    (size = .quad ∧ ptr = val.toNat ∨ size = .lower ∧ ptr = val.toNat % 2 ^ 32) ∧
    ∃ p j, slotOfBar2 b w slot = some (p, j) ∧ key = 4096 * p + j % 4096 ∧ (cq = true ↔ 4096 ≤ j)

/-- A tail doorbell of a ring is valid (R174): a pointer of 17 bits to a slot of the ring that leaves no more than its size in use. -/
def Sys2Proof.Safety.TailValid (r : Ring) (ptr : Nat) : Prop :=
  ptr < 2 ^ 17 ∧ ptr % 65536 < r.size ∧ ringUsed r.size r.head r.tail + ringUsed r.size r.tail ptr ≤ r.size

/-- A head doorbell of a completion ring is valid (R189): it returns no more entries than are in use. -/
def Sys2Proof.Safety.HeadValid (c : Cq) (ptr : Nat) : Prop :=
  ptr < 2 ^ 17 ∧ ptr % 65536 < c.size ∧ ringUsed c.size c.head ptr ≤ ringUsed c.size c.head c.tail

/-- No doorbell waits for the context of a ring. -/
def Sys2Proof.Safety.NoneWaits (b : Block) (cq : Bool) (key : Nat) : Prop :=
  b.sq.waiting.any (fun w => w.1 == cq && w.2.1 == key) = false

/-- TAIL_DOORBELL from the owner of a host ring that hears it and is resident sets TAIL to a valid pointer (R174,
R175, R178); HEAD_DOORBELL from the owner of a completion ring that hears it and is resident sets HEAD to a valid
pointer (R189). An invalid pointer leaves both and makes the partition MALFORMED with reason BAD_DOORBELL, 0x0B. A
doorbell of a ring whose context is not resident waits for its load (R212). One of a ring that is not there, that the
function does not own or that does not hear it is ignored and counted (R178). Then the work that can goes on. -/
def Obligations.DoorbellsMoveTheirPointers : Prop :=
  ∀ (s : State) (w : Agent) (slot : Nat) (size : DbSize) (val : BitVec 64) (key ptr : Nat) (b : Block),
    (∀ r, RingsBell s.blk w slot size val false key ptr b → tfind b.sq.rings key = some r → r.host = true →
      fromOwner w r.owner = true → ringHears b key = true →
      (r.resident = true → NoneWaits b false key → TailValid r ptr → exec (.tailDoorbell w slot size val) s =
        .next { s with blk := settle (modRing key (fun r => { r with tail := ptr, used := b.now }) b) }) ∧
      (r.resident = true → NoneWaits b false key → ¬ TailValid r ptr → exec (.tailDoorbell w slot size val) s =
        .next { s with blk := settle (malformed (key / 4096) 0x0B false (key % 4096) (ptr % 2 ^ 17) b) }) ∧
      (r.resident = false → exec (.tailDoorbell w slot size val) s = .next { s with blk := settle (ringLoad false key
        (modSq (fun q => { q with waiting := q.waiting ++ [(false, key, ptr, w)] }) b)) })) ∧
    (∀ c, RingsBell s.blk w slot size val true key ptr b → tfind b.sq.cqs key = some c → fromOwner w c.owner = true →
      cqHears b key = true → c.resident = true → NoneWaits b true key →
      (HeadValid c ptr → exec (.headDoorbell w slot size val) s =
        .next { s with blk := settle (modCq key (fun c => { c with head := ptr, used := b.now }) b) }) ∧
      (¬ HeadValid c ptr → exec (.headDoorbell w slot size val) s =
        .next { s with blk := settle (malformed (key / 4096) 0x0B true (key % 4096) (ptr % 2 ^ 17) b) })) ∧
    (∀ c, RingsBell s.blk w slot size val true key ptr b → tfind b.sq.cqs key = some c → fromOwner w c.owner = true →
      cqHears b key = true → c.resident = false → exec (.headDoorbell w slot size val) s = .next { s with blk := settle (ringLoad true key
        (modSq (fun q => { q with waiting := q.waiting ++ [(true, key, ptr, w)] }) b)) }) ∧
    (∀ cq, RingsBell s.blk w slot size val cq key ptr b →
      (match cq with
       | false => ∀ r, tfind b.sq.rings key = some r → r.host = false ∨ fromOwner w r.owner = false ∨ ringHears b key = false
       | true => ∀ c, tfind b.sq.cqs key = some c → fromOwner w c.owner = false ∨ cqHears b key = false) →
      exec (.tailDoorbell w slot size val) s = .next { s with blk := settle (ignored .sq w (some (key / 4096)) b) } ∧
      exec (.headDoorbell w slot size val) s = .next { s with blk := settle (ignored .sq w (some (key / 4096)) b) })

/-- A portal message of a mapped portal whose partition takes doorbells, with its must-be-zero bits zero (R179, R180). -/
def Sys2Proof.Safety.PortalTakes (b : Block) (die portal : Nat) (msg : BitVec 64) (p : Nat) : Prop :=
  stopped b = false ∧ die < 4 ∧ portal < 64 ∧ fon b F.sqPortalMapValid (64 * die + portal) = true ∧
    p = fget b F.sqPortalMapPartition (64 * die + portal) ∧ partPresent b p = true ∧ partDeaf b p = false ∧
    msg &&& 0xFFFF7000FFFE0000#64 = 0#64

/-- PORTAL_TAIL_DOORBELL of a compute ring that hears it and is resident sets TAIL to a valid pointer;
PORTAL_HEAD_DOORBELL does so for HEAD of a completion ring, with bit 47 of the message at 1 (R179, R180). A message of
an unmapped portal, or for a host ring (R38), is ignored and counted; one with a must-be-zero bit set makes the
portal's partition MALFORMED with BAD_DOORBELL. -/
def Obligations.PortalMessagesActForTheMappedPartition : Prop :=
  ∀ (s : State) (die portal : Nat) (msg : BitVec 64) (p : Nat),
    (∀ r, PortalTakes s.blk die portal msg p → msg.getLsbD 47 = false →
      tfind s.blk.sq.rings (4096 * p + qbits msg 43 32) = some r → ringHears s.blk (4096 * p + qbits msg 43 32) = true →
      (r.host = false → r.resident = true → NoneWaits s.blk false (4096 * p + qbits msg 43 32) → TailValid r (qbits msg 16 0) →
        exec (.portalTailDoorbell die portal msg) s = .next { s with blk := settle (modRing (4096 * p + qbits msg 43 32)
          (fun r => { r with tail := qbits msg 16 0, used := s.blk.now }) s.blk) }) ∧
      (r.host = true → exec (.portalTailDoorbell die portal msg) s =
        .next { s with blk := settle (ignored .sq .mgmt (some p) s.blk) })) ∧
    (∀ c, PortalTakes s.blk die portal msg p → msg.getLsbD 47 = true →
      tfind s.blk.sq.cqs (4096 * p + qbits msg 43 32) = some c → cqHears s.blk (4096 * p + qbits msg 43 32) = true →
      c.resident = true → NoneWaits s.blk true (4096 * p + qbits msg 43 32) → HeadValid c (qbits msg 16 0) →
      exec (.portalHeadDoorbell die portal msg) s = .next { s with blk := settle (modCq (4096 * p + qbits msg 43 32)
        (fun c => { c with head := qbits msg 16 0, used := s.blk.now }) s.blk) }) ∧
    (stopped s.blk = false → die < 4 → portal < 64 → fon s.blk F.sqPortalMapValid (64 * die + portal) = false →
      exec (.portalTailDoorbell die portal msg) s = .next { s with blk := settle (ignored .sq .mgmt none s.blk) } ∧
      exec (.portalHeadDoorbell die portal msg) s = .next { s with blk := settle (ignored .sq .mgmt none s.blk) }) ∧
    (stopped s.blk = false → die < 4 → portal < 64 → fon s.blk F.sqPortalMapValid (64 * die + portal) = true →
      p = fget s.blk F.sqPortalMapPartition (64 * die + portal) → partPresent s.blk p = true → partDeaf s.blk p = false →
      msg &&& 0xFFFF7000FFFE0000#64 ≠ 0#64 → exec (.portalTailDoorbell die portal msg) s =
        .next { s with blk := settle (malformed p 0x0B (msg.getLsbD 47) (qbits msg 43 32) (qbits msg 16 0) s.blk) })

/-- A command of SQ_CMD lands in the bank of its agent, which is not BUSY: for the ring or QP `obj` of partition `p` (R213, R215). -/
def Sys2Proof.Safety.Issues (b0 : Block) (w : Agent) (op : Nat) (half : Half) (val : BitVec 64) (b : Block) (p obj : Nat) : Prop :=
  Lands b0 w .sqCmd 0 (bankOf w) b ∧ half ≠ .lo ∧ fon b F.sqCmdStatusBusy (bankOf w) = false ∧
    sqPart b w (carry F.sqCmdOp op val &&& halfMask half) = some p ∧ obj = qbits (carry F.sqCmdOp op val &&& halfMask half) 19 0

/-- The argument registers of an agent's bank all read 0, as a command without arguments needs (R215). -/
def Sys2Proof.Safety.NoArgs (b : Block) (w : Agent) : Prop := ∀ i, i < 3 → sqArg b (bankOf w) i = 0#64

/-- For a command of SQ_CMD that lands: SQ_CREATE of a FREE ring with good arguments leaves the ring CREATED, empty,
at its base and size; SQ_PAUSE of an ACTIVE ring leaves it PAUSED; SQ_RESUME of a PAUSED or HALTED ring of a partition
that no RECOMPOSE holds leaves it ACTIVE with no halt cause; each with result OK and BUSY 0 (R207, R208, R215-R217).
SQ_TEARDOWN of a CREATED ring frees it with OK; of a ring in any other state but FREE it leaves it DRAINING with BUSY
1 (R208, R218). A ring in another state, or with a poisoned context (the model's choice, log entry 131), answers
SQ_PAUSE and SQ_RESUME with BAD_STATE, one that is not FREE answers SQ_CREATE with IN_USE, and nothing else changes.
-/
def Obligations.RingCommandsChangeTheirRing : Prop :=
  ∀ (s : State) (w : Agent) (half : Half) (val : BitVec 64) (b : Block) (p obj : Nat), obj < 4096 →
    let key := 4096 * p + obj
    (Issues s.blk w 1 half val b p obj → sqStray (sqArg b (bankOf w) 0) 0x0001FFFFFFFFF000#64 = false →
      (sqArg b (bankOf w) 1).toNat ≤ 10 → sqArg b (bankOf w) 2 = 0#64 →
      (ringRegion b none (sqArg b (bankOf w) 0).toNat (64 * (64 * 2 ^ (sqArg b (bankOf w) 1).toNat))).isSome = true →
      (ringState b key = .free → ∃ b', exec (.sqCreate w half val) s = .next { s with blk := settle (sqResult (bankOf w) 0 b') } ∧
        b'.regs = b.regs ∧ ∃ r, tfind b'.sq.rings key = some r ∧ r.state = .created ∧ r.base = (sqArg b (bankOf w) 0).toNat ∧
          r.size = 64 * 2 ^ (sqArg b (bankOf w) 1).toNat ∧ r.head = 0 ∧ r.tail = 0 ∧ r.shadow = [] ∧
          (∀ k, k ≠ key → tfind b'.sq.rings k = tfind b.sq.rings k)) ∧
      (ringState b key ≠ .free → exec (.sqCreate w half val) s = .next { s with blk := settle (sqResult (bankOf w) sqInUse b) })) ∧
    (Issues s.blk w 3 half val b p obj → NoArgs b w →
      (ringState b key = .active → linePoisoned b 1 key = false → exec (.sqPause w half val) s =
        .next { s with blk := settle (sqResult (bankOf w) 0 (modRing key (fun r => { r with state := .paused }) b)) }) ∧
      (ringState b key ≠ .active ∨ linePoisoned b 1 key = true → exec (.sqPause w half val) s =
        .next { s with blk := settle (sqResult (bankOf w) sqBadState b) })) ∧
    (Issues s.blk w 4 half val b p obj → NoArgs b w →
      (ringState b key = .paused ∨ ringState b key = .halted → recomposing b (key / 4096) = false →
        linePoisoned b 1 key = false → exec (.sqResume w half val) s =
        .next { s with blk := settle (sqResult (bankOf w) 0 (modRing key (fun r => { r with state := .active, haltCause := 0 }) b)) }) ∧
      (¬(ringState b key = .paused ∨ ringState b key = .halted) ∨ recomposing b (key / 4096) = true ∨ linePoisoned b 1 key = true →
        exec (.sqResume w half val) s =
        .next { s with blk := settle (sqResult (bankOf w) sqBadState b) })) ∧
    (Issues s.blk w 5 half val b p obj → NoArgs b w → ∀ r, tfind b.sq.rings key = some r →
      (r.state = .created → exec (.sqTeardown w half val) s = .next { s with blk := settle (sqResult (bankOf w) 0 (ringFree key b)) }) ∧
      (r.state ≠ .created → exec (.sqTeardown w half val) s = .next { s with blk := settle (sqBusy (bankOf w) (modRing key (fun r =>
        { r with state := .draining, discardFetch := r.fetching.isSome, teardown := r.teardown ++ [bankOf w] }) b)) }))

/-- For a command of SQ_CMD that lands: SQ_BIND of a CREATED ring to an ACTIVE completion ring leaves the ring ACTIVE,
bound to that completion ring and address space; a ring in a host alias is then a host ring of the function that the
command names, which must be on that port and able to own it; a CREATED ring and a completion ring that is not there,
or not ACTIVE, answer NOT_OWNER (R215-R217). CQ_CREATE of a FREE completion ring with good arguments leaves it ACTIVE
and empty with its base, size, tail word and interrupt source (R187, R579). CQ_TEARDOWN of an ACTIVE completion ring
that no bound ring uses frees it; one that a bound ring uses answers IN_USE. -/
def Obligations.BindingAndCompletionRings : Prop :=
  ∀ (s : State) (w : Agent) (half : Half) (val : BitVec 64) (b : Block) (p obj : Nat), obj < 4096 →
    let key := 4096 * p + obj
    let a := sqArg b (bankOf w)
    (Issues s.blk w 2 half val b p obj → sqStray (a 0) 0xFFF#64 = false → sqStray (a 1) 0xFFF#64 = false →
      sqStray (a 2) 0xFF#64 = false → ∀ r, tfind b.sq.rings key = some r → r.state = .created →
      linePoisoned b 1 key = false → linePoisoned b 2 (4096 * p + (a 0).toNat) = false →
      let fn := ownerOf w (a 2).toNat
      let port : Option Nat := match regionOf r.base with | .port h => some h | _ => none
      (∀ h, port = some h → h = fn / 128 ∧ ownerFits b p fn = true ∧ ((a 2).toNat ≤ 120 ∨ bankOf w % 128 ≠ 0)) →
      (∀ c, tfind b.sq.cqs (4096 * p + (a 0).toNat) = some c → c.state = .active → c.orphan = 0 → exec (.sqBind w half val) s =
        .next { s with blk := settle (sqResult (bankOf w) 0 (modRing key (fun r =>
          { r with state := .active, cq := (a 0).toNat, asn := (a 1).toNat, host := port.isSome,
                   owner := if port.isSome then fn else 0, bound := true }) b)) }) ∧
      (cqState b (4096 * p + (a 0).toNat) ≠ .active → exec (.sqBind w half val) s =
        .next { s with blk := settle (sqResult (bankOf w) sqNotOwner b) })) ∧
    (Issues s.blk w 8 half val b p obj → sqStray (a 0) 0x0001FFFFFFFFF000#64 = false → sqStray (a 1) 0x007F07FF0000000F#64 = false →
      sqStray (a 2) 0x0001FFFFFFFFFFF8#64 = false → qbits (a 1) 3 0 ≤ 10 → qbits (a 1) 42 32 / 64 = p →
      ownerFits b p (ownerOf w (qbits (a 1) 54 48)) = true →
      (∃ g, ringRegion b (some p) (a 0).toNat (32 * (64 * 2 ^ qbits (a 1) 3 0)) = some g ∧
        ∀ h, g = .port h → h = ownerOf w (qbits (a 1) 54 48) / 128) →
      (∃ g, ringRegion b (some p) (a 2).toNat 8 = some g ∧ ∀ h, g = .port h → h = ownerOf w (qbits (a 1) 54 48) / 128) →
      cqState b key = .free →
      ∃ b', exec (.cqCreate w half val) s = .next { s with blk := settle (sqResult (bankOf w) 0 b') } ∧ b'.regs = b.regs ∧
        ∃ c, tfind b'.sq.cqs key = some c ∧ c.state = .active ∧ c.base = (a 0).toNat ∧ c.size = 64 * 2 ^ qbits (a 1) 3 0 ∧
          c.tailWord = (a 2).toNat ∧ c.irq = qbits (a 1) 42 32 ∧ c.head = 0 ∧ c.tail = 0 ∧ c.parked = []) ∧
    (Issues s.blk w 9 half val b p obj → NoArgs b w → cqState b key = .active →
      let used := b.sq.rings.any (fun e => e.1 / 4096 == key / 4096 && e.2.cq == key % 4096 && e.2.bound && e.2.state != .free)
      (used = false → exec (.cqTeardown w half val) s = .next { s with blk := settle (sqResult (bankOf w) 0 (cqFree key b)) }) ∧
      (used = true → exec (.cqTeardown w half val) s = .next { s with blk := settle (sqResult (bankOf w) sqInUse b) }))

/-- For a command of SQ_CMD that lands on a variant with a fabric: QP_CREATE of a QP number of the pool that is not
created, with good arguments and room in the partition's share, makes a QP of that partition that is READY, with the
peer, the path set and the first PSNs that the arguments give, and an encrypted one, on a variant with ciphers, puts
the LOADED key slot of the partition that it names IN_USE by it, while an unencrypted one touches no key slot (R333,
R334); a number that is created answers BAD_STATE. QP_DESTROY of the partition's own QP drains it with BUSY 1 (R335);
a number that is not created answers BAD_STATE. -/
def Obligations.QueuePairsAreMadeAndDrained : Prop :=
  ∀ (s : State) (w : Agent) (half : Half) (val : BitVec 64) (b : Block) (p obj : Nat), noFabric b = false →
    let a := sqArg b (bankOf w)
    let slot := qbits (a 2) 15 0
    (Issues s.blk w 0x10 half val b p obj → obj ≠ 0 → obj < qpPool b →
      ((a 0).getLsbD 40 = true → (variant b).cipher = true ∧ (keySlotOf b slot).state = 1 ∧ slot / 4096 = p) →
      sqStray (a 0) 0x03FF03FFFFFF7FFF#64 = false → sqStray (a 2) 0xFFFF#64 = false →
      ¬ (fon b F.idNodeValid 0 = true ∧ qbits (a 0) 14 0 = selfNode b) → qbits (a 0) 14 0 ≠ 0x7FFF → qbits (a 0) 39 16 ≠ 0 →
      qbits (a 0) 39 16 < qpPool b →
      (tfind b.ft.qps obj = none → qpsUsed b p < fget b F.ptCarveQpShare p →
        ∃ b', exec (.qpCreate w half val) s = .next { s with blk := settle (sqResult (bankOf w) 0 b') } ∧ b'.regs = b.regs ∧
          ((a 0).getLsbD 40 = false → b'.ce = b.ce) ∧
          ((a 0).getLsbD 40 = true → keySlotOf b' slot = { (keySlotOf b slot) with state := 2, qp := obj }) ∧
          ∃ q, tfind b'.ft.qps obj = some q ∧ q.state = 1 ∧ q.part = p ∧ q.peerNode = qbits (a 0) 14 0 ∧
            q.peerQp = qbits (a 0) 39 16 ∧ q.pathSet = qbits (a 0) 57 48 ∧ q.nextPsn = qbits (a 1) 31 0 ∧
            q.cumNext = qbits (a 1) 63 32 ∧ q.sent = [] ∧ q.enc = (a 0).getLsbD 40) ∧
      (tfind b.ft.qps obj ≠ none → exec (.qpCreate w half val) s =
        .next { s with blk := settle (sqResult (bankOf w) sqBadState b) })) ∧
    (Issues s.blk w 0x11 half val b p obj → NoArgs b w →
      (∀ q, tfind b.ft.qps obj = some q → q.part = p → owns b w p = true → q.state ≠ 3 → exec (.qpDestroy w half val) s =
        .next { s with blk := settle (sqBusy (bankOf w) (qpDrain obj (some (bankOf w)) b)) }) ∧
      (tfind b.ft.qps obj = none → exec (.qpDestroy w half val) s =
        .next { s with blk := settle (sqResult (bankOf w) sqBadState b) }))

/-- RING_CONTEXT_LOAD of a ring context that its tile is loading, with room on the tile, makes it resident and lets
its waiting doorbells act (R212, R728). QP_CONTEXT_LOAD of a loading QP on a tile with room, in a block with fewer
than 16,384 resident, makes it resident and lets its packets go on (R210, R338). TEARDOWN_SOURCE_DEADLINE ends early
each item of a ring whose SQ_TEARDOWN runs, and TEARDOWN_DEADLINE ends each by force and strands what stays parked
(R218); QP_DESTROY_DEADLINE ends what a draining QP still has in flight, and the QP is then gone and its QP_DESTROY no
longer BUSY (R335). On a ring with no teardown, and on a QP that does not drain, a deadline changes nothing before
work goes on. -/
def Obligations.LoadsAndDeadlinesAct : Prop :=
  ∀ (s : State) (cq : Bool) (key qp : Nat),
    ((cq, key) ∈ (s.blk.sq.loads.filter (fun l => homeTile l.2 == homeTile key)).take 16 → ringRoom s.blk cq key = true →
      exec (.ringContextLoad cq key) s = .next { s with blk := settle (doorbellsAct cq key (ringPlace cq key true
        (modSq (fun q => { q with loads := q.loads.erase (cq, key) }) s.blk))) }) ∧
    (∀ q, tfind s.blk.ft.qps qp = some q → q.loading = true →
      tcount (fun n q => homeTile n == homeTile qp && q.resident) s.blk.ft.qps < 2048 → tcount (fun _ q => q.resident) s.blk.ft.qps < 16384 →
      ∃ b, exec (.qpContextLoad qp) s =
        .next { s with blk := settle (rxLoaded qp (tcCount (homeTile qp) 0x051 (some q.part) 1 b)) } ∧ b.regs = s.blk.regs ∧
        tfind b.ft.qps qp = some { q with resident := true, loading := false, used := s.blk.now } ∧
        (∀ k, k ≠ qp → tfind b.ft.qps k = tfind s.blk.ft.qps k)) ∧
    (tearing s.blk key = true →
      exec (.teardownSourceDeadline key) s =
        .next { s with blk := settle (each (teardownItems s.blk key) (fun i b => itemEarly i 0x023 b) s.blk) } ∧
      (let forced := settle (itemsEnd (teardownItems s.blk key) 0x023 (modRing key (fun r => { r with expired := true }) s.blk))
       exec (.teardownDeadline key) s = .next { s with blk := settle (teardownStrand key forced) })) ∧
    (tearing s.blk key = false → exec (.teardownSourceDeadline key) s = .next { s with blk := settle s.blk }) ∧
    (∀ q, tfind s.blk.ft.qps qp = some q →
      (q.state = 3 → ∃ b, exec (.qpDestroyDeadline qp) s = .next { s with blk := settle (qpGone qp b) } ∧
        (∀ r, tfind b.ft.qps qp = some r → r.sent = [] ∧ r.reads = [] ∧ r.awaits = [] ∧ r.skips = [])) ∧
      (tcount (fun k _ => k == qp) s.blk.ft.qps = 1 → tfind (qpGone qp s.blk).ft.qps qp = none ∧
        ∀ bank, q.destroy = some bank → fget (qpGone qp s.blk) F.sqCmdStatusBusy bank = 0) ∧
      (q.state ≠ 3 → exec (.qpDestroyDeadline qp) s = .next { s with blk := settle s.blk }))

/-- The item that a command begins, and the test that the command puts to its descriptor (R169). -/
def Sys2Proof.Safety.beginOf (c : Instr) : Option (Nat × (List (BitVec 64) → Bool)) :=
  match c with
  | .nop i => some (i, fun d => dOpcode d == 0x00)
  | .copy i => some (i, fun d => dOpcode d == 0x01)
  | .writeRemote i => some (i, fun d => dOpcode d == 0x02)
  | .readRemote i => some (i, fun d => dOpcode d == 0x03)
  | .combineLocal i => some (i, fun d => dOpcode d == 0x04)
  | .combineRemote i => some (i, fun d => dOpcode d == 0x05)
  | .quantizeSend i => some (i, fun d => dOpcode d == 0x06)
  | .digest i => some (i, fun d => dOpcode d == 0x07)
  | .fenceOnly i => some (i, fun d => dOpcode d == 0x08 && dFence d && !dRearm d)
  | .fenceOnlyWait i => some (i, fun d => dOpcode d == 0x08 && dWait d)
  | .fenceOnlyRearm i => some (i, fun d => dOpcode d == 0x08 && dFence d && dRearm d)
  | .tileWalkDeclare i => some (i, fun d => dOpcode d == 0x09)
  | _ => none

/-- An item of the table that a command names, passes its test, and may begin (R161, R202, R233). -/
def Sys2Proof.Safety.Begins (c : Instr) (b : Block) (i : Nat) (it : Item) : Prop :=
  (∃ p, beginOf c = some (i, p) ∧ p it.desc = true) ∧ tfind b.he.items i = some it ∧ mayBegin b i it = true

/-- For the twelve commands that begin an item of their opcode that may begin (R161, R169, R233): an item already
failed stops; one whose opcode, arithmetic, QP or encryption does not let it run fails with the status that the check
gives (R171, R332, R546, R596); of the rest NOP has nothing left to do, TILE_WALK_DECLARE registers its walk with
base, size, stride and count of its descriptor (R133, R135) and has nothing left to do, and every other opcode is
active. The descriptor, partition and ring stay. A command that names no such item, or one that may not begin, leaves
the state as it is. -/
def Obligations.ItemsBeginAsTheirOpcodeSays : Prop :=
  ∀ (c : Instr) (s : State) (i : Nat),
    (∀ it, Begins c s.blk i it →
      (it.status ≠ 0 → ∃ b, exec c s = .next { s with blk := settle b } ∧
        tfind b.he.items i = some { it with begun := true, stage := .draining, stopped := true } ∧ b.regs = s.blk.regs ∧
        b.sq = s.blk.sq ∧ b.txns = s.blk.txns) ∧
      (it.status = 0 → ∀ st aux, beginBad s.blk it = some (st, aux) → exec c s =
        .next { s with blk := settle (itemFail i st aux s.blk) } ∧
        ∃ x, tfind (itemFail i st aux s.blk).he.items i = some x ∧ x.status = st ∧ x.aux = aux ∧ x.stage = .draining) ∧
      (it.status = 0 → beginBad s.blk it = none → ∃ b x, exec c s = .next { s with blk := settle b } ∧
        tfind b.he.items i = some x ∧ x.begun = true ∧ x.status = 0 ∧ x.desc = it.desc ∧ x.part = it.part ∧ x.ring = it.ring ∧
        x.stage = (if dOpcode it.desc = 0x00 ∨ dOpcode it.desc = 0x09 then Stage.draining else Stage.active) ∧
        (dOpcode it.desc = 0x09 → ∃ w, tfind b.tu.tileWalks (4096 * it.ringKey + dWalk it.desc) = some w ∧ w.part = it.part ∧
          w.base = dSrc it.desc ∧ w.size = dLength it.desc ∧ w.stride = toSigned 64 (dDst it.desc) ∧ w.count = dScale it.desc ∧
          w.next = 0))) ∧
    ((∃ p, beginOf c = some (i, p)) → (∀ it, ¬ Begins c s.blk i it) → exec c s = .next s)

/-- WAIT_FENCE_POLL of a WAIT item that waits, whose word can be reached and that has no read of it outstanding, opens
a read of 8 bytes at that place for it (R202); of an item that does not wait it changes nothing. RING_WATCHDOG lets
such an item make one final read (R551). One whose fence address is not translated ends at once: its ring is HALTED
with cause 1, the item fails with status 0x024, WATCHDOG_EXPIRED counts it, and then the ring-halt fault of the
partition is raised. -/
def Obligations.WaitItemsPollAndExpire : Prop :=
  ∀ (s : State) (i : Nat),
    (waits s.blk i = true → exec (.ringWatchdog i) s =
      .next { s with blk := settle (modItem i (fun it => { it with final := 1, retry := true }) s.blk) }) ∧
    (waits s.blk i = true → exec (.waitFencePoll i) s = .next { s with blk := settle (waitRead i s.blk) }) ∧
    (∀ it p, tfind s.blk.he.items i = some it → fencePlace it = some p → s.blk.txns.any (fun t => t.2.use == .waitRead i) = false →
      placeStatus s.blk (itemFn s.blk it p) p = none → ∃ n t, s.blk.nextTxn ≤ n ∧ tfind (waitRead i s.blk).txns n = some t ∧
        t.use = .waitRead i ∧ t.len = 8 ∧ t.place = p ∧ t.reads = true ∧ t.part = it.part ∧
        (waitRead i s.blk).nextTxn = n + 1) ∧
    (waits s.blk i = false → exec (.waitFencePoll i) s = .next s) ∧
    (∀ it r, tfind s.blk.he.items i = some it → it.stage = .active → dOpcode it.desc = 0x08 → dWait it.desc = true →
      stopped s.blk = false → it.fenceReady = false → it.status = 0 → tfind s.blk.sq.rings it.ringKey = some r →
      r.state = .active ∨ r.state = .paused →
      ∃ c, exec (.ringWatchdog i) s = .next { s with blk := settle (partFault it.part 3 (.ring it.ring) c) } ∧
        tfind c.sq.rings it.ringKey = some { r with state := .halted, haltCause := 1 } ∧
        (∃ x, tfind c.he.items i = some x ∧ x.status = 0x024 ∧ x.stage = .draining) ∧
        fget c F.ccWatchdogExpired it.part = satAdd F.ccWatchdogExpired.max (fget s.blk F.ccWatchdogExpired it.part) 1)

/-- An exchange whose uncorrectable errors are not recorded where they arrive: a speculative read (R234, R235), a read of a prefetch walk
(R140), and the read of a mirror line, which is recorded as the line is discarded (R113). -/
def Sys2Proof.Safety.quiet (b : Block) (u : Use) : Bool :=
  unrecorded b u || (match u with | .mirror _ _ => true | _ => false)

/-- An open exchange: it has been given its number, and no answer has come. -/
def Sys2Proof.Safety.Open (b : Block) (n : Nat) (t : Txn) : Prop := n < b.nextTxn ∧ tfind b.txns n = some t

/-- The command answers an exchange, and the length of its data is the one asked for. -/
def Sys2Proof.Safety.Answers (c : Instr) (n : Nat) (b : Block) : Prop := ∃ len, answerOf c = some (n, len) ∧ AnswerFits b n len

/-- An answer to an open exchange of its own kind: data of a compute die arrives whole, or with the 64 B block of its
poison mark bad (status 0x050) and, unless the read goes unrecorded (a speculative one, or one of a prefetch walk,
R140, R234), corrected event 201+4d recorded (R235, R259); an acknowledged write is durable whole (R251); DIE_TIMEOUT
raises source 200+4d, again unless unrecorded, and fails the exchange from its first byte on (R261). A depot read
brings what the depot holds now; each corrected error records source 96+2c of the channel c on which its byte lies
(R24), but a prefetch walk stops there instead (R140), an uncorrectable one raises 97+2c and makes its block bad
(R260), with status 0x051; one of a write ends it before its block. The work then takes the answer and what can goes
on. -/
def Obligations.DieAndDepotAnswersReachTheirWork : Prop :=
  ∀ (s : State) (n : Nat) (t : Txn), Open s.blk n t →
    (∀ d a data, t.place = .die d a → t.reads = true → t.len = data.length →
      exec (.dieReadData n data none) s = .next { s with blk := settle (readArrive n t data none s.blk) } ∧
      ∀ k, exec (.dieReadData n data (some k)) s = .next { s with blk := settle (readArrive n t data
        (some (alignDown (a + k) 64 - a, 0x050)) (if unrecorded s.blk t.use then s.blk else fhNote (201 + 4 * d) (.die d) none s.blk)) }) ∧
    (∀ d a, t.place = .die d a → t.reads = false →
      exec (.dieWriteAck n) s = .next { s with blk := settle (writeArrive n t none s.blk) }) ∧
    (∀ d a, t.place = .die d a →
      let b := if unrecorded s.blk t.use then s.blk else fhRaise (200 + 4 * d) (.die d) none false s.blk
      exec (.dieTimeout n) s = .next { s with blk := settle (if t.reads then readArrive n t [] (some (0, 0x051)) b
        else writeArrive n t (some 0) b) }) ∧
    (∀ x, t.place = .depot x → t.reads = true →
      let data := memRead s.depot (depotAt t.part x) t.len
      exec (.depotReadData n .ok) s = .next { s with blk := settle (readArrive n t data none s.blk) } ∧
      let ch := fun (b : Block) (k : Nat) => ecChannel b t x k
      (∀ offs, prefetching s.blk t.use = true → exec (.depotReadData n (.corrected offs)) s =
        .next { s with blk := settle (readArrive n t data (if offs = [] then none else some (0, 0x051)) s.blk) }) ∧
      (∀ offs, prefetching s.blk t.use = false → exec (.depotReadData n (.corrected offs)) s = .next { s with blk := settle (readArrive n t data none
        (each (offs.filter (fun k => k < t.len)) (fun k b => fhNote (96 + 2 * ch b k) (.channel (ch b k)) none b) s.blk)) }) ∧
      (∀ k, exec (.depotReadData n (.uncorrectable k)) s = .next { s with blk := settle (readArrive n t data
        (some (alignDown (x + k) 64 - x, 0x051)) (if quiet s.blk t.use then s.blk else fhRaise (97 + 2 * ch s.blk k)
          (.channel (ch s.blk k)) none false s.blk)) }) ∧
      ((∀ w l, t.use ≠ .mirror w l) → ∀ k, ch s.blk k = depotChannel s.blk (x + k))) ∧
    (∀ x, t.place = .depot x → t.reads = false → exec (.depotWriteAck n .ok) s =
        .next { s with depot := depotWritten n .ok s.blk s.depot, blk := settle (writeArrive n t none s.blk) } ∧
      ∀ k, exec (.depotWriteAck n (.uncorrectable k)) s = .next { s with
        depot := depotWritten n (.uncorrectable k) s.blk s.depot
        blk := settle (writeArrive n t (some (alignDown (x + k) 64 - x)) (if quiet s.blk t.use then s.blk
          else fhRaise (97 + 2 * ecChannel s.blk t x k) (.channel (ecChannel s.blk t x k)) none false s.blk)) })

/-- A completion on host port h brings its data to the work of an open read (poison makes its 64 B block bad), an
error status or a timeout raises source 32h+34 and fails the read (R448), and an error status shows in the function's
Status register (R430); one whose work has ended is discarded and counted (R264). A fetch answers its ring with
descriptors or a failure (R184, R186), a table line its walk (R107), an ATS completion its access (R117), whose
timeout is an error, and each of these closes its exchange. An answer to an exchange that is closed already changes
nothing but what can go on anyway, and a timeout of one that is not open neither. A completion that answers no
request, or brings data of another length than its read asked for, raises source 32h+33, TLP_ERROR, of its port, and
leaves the request outstanding (R28). -/
def Obligations.HostAnswersReachTheirWork : Prop :=
  ∀ (s : State) (n : Nat),
    (∀ c, Answers c n s.blk → tfind s.blk.txns n = none → exec c s = .next { s with blk := settle s.blk }) ∧
    (tfind s.blk.txns n = none → (∀ c, c = .dieTimeout n ∨ c = .hostCompletionTimeout n ∨ (n < s.blk.nextTxn ∧
      ((∃ res, c = .hostReadCompletion n res) ∨ ∃ res, c = .atsCompletion n res)) → exec c s = .next { s with blk := settle s.blk })) ∧
    (s.blk.nextTxn ≤ n → ∀ c, ((∃ res, c = .hostReadCompletion n res) ∨ ∃ res, c = .atsCompletion n res) →
      exec c s = .next { s with blk := settle (tlpError (strayFn n s.blk / 128) (strayFn n s.blk % 128) s.blk) }) ∧
    (∀ t h a tr data poison, Open s.blk n t → t.place = .port h a tr → t.reads = true → t.len ≠ data.length →
      exec (.hostReadCompletion n (.data data poison)) s = .next { s with blk := settle (tlpError h (t.fn % 128) s.blk) }) ∧
    (∀ t, Open s.blk n t →
      (∀ h a tr, t.place = .port h a tr → t.reads = true → (t.use ≠ .free ∧ ∀ x, t.use ≠ .ats x) →
        let late := readArrive n t [] (some (0, 0x051))
        (∀ data, t.len = data.length →
          exec (.hostReadCompletion n (.data data none)) s = .next { s with blk := settle (readArrive n t data none (hostTlpFor (some t.part) h s.blk)) } ∧
          ∀ k, exec (.hostReadCompletion n (.data data (some k))) s = .next { s with blk := settle (readArrive n t data
            (some (alignDown (a + k) 64 - a, 0x050)) (cplPoison t.fn (hostTlpFor (some t.part) h s.blk))) }) ∧
        (∀ abort, exec (.hostReadCompletion n (.error abort)) s = .next { s with blk := settle (late (fhRaise (32 * h + 34) (.fn t.fn)
          (vfPart (hostTlpFor (some t.part) h s.blk) t.fn) false (cplError t.fn abort (hostTlpFor (some t.part) h s.blk)))) }) ∧
        exec (.hostCompletionTimeout n) s = .next { s with blk := settle (late (fhRaise (32 * h + 34) (.fn t.fn)
          (vfPart s.blk t.fn) false s.blk)) }) ∧
      (∀ h a tr, t.place = .port h a tr → t.reads = true → t.use = .free →
        (∀ data poison, t.len = data.length → exec (.hostReadCompletion n (.data data poison)) s =
          .next { s with blk := settle (closeTxn n (fbump F.hpEventsCplDiscard h 1 (hostTlpFor (some t.part) h s.blk))) }) ∧
        ∀ abort, exec (.hostReadCompletion n (.error abort)) s = .next { s with blk := settle (closeTxn n (fbump F.hpEventsCplDiscard h 1 (hostTlpFor (some t.part) h s.blk))) } ∧
          exec (.hostCompletionTimeout n) s = .next { s with blk := settle (closeTxn n s.blk) }) ∧
      (∀ p r k, t.use = .fetch p r k →
        (∀ ds, exec (.descriptorFetchDone n (.descs ds)) s =
          .next { s with blk := settle (fetchDone n (4096 * p + r) k (some ds) (closeTxn n s.blk)) }) ∧
        ∀ abort, exec (.descriptorFetchDone n (.failed abort)) s =
          .next { s with blk := settle (fetchDone n (4096 * p + r) k none (closeTxn n (portError t abort s.blk))) }) ∧
      (∀ w, t.use = .walk w →
        (∀ qs, exec (.walkReadDone n (.line qs)) s = .next { s with blk := settle (walkAnswer w (some qs) (closeTxn n s.blk)) }) ∧
        ∀ abort, exec (.walkReadDone n (.error abort)) s =
          .next { s with blk := settle (walkAnswer w none (closeTxn n (portError t abort s.blk))) }) ∧
      (∀ a res, t.use = .ats a → exec (.atsCompletion n res) s =
        .next { s with blk := settle (atsAnswer a res (closeTxn n (hostTlpFor (some t.part) (t.fn / 128)
          (match res with | .error abort => cplError t.fn abort s.blk | _ => s.blk)))) }) ∧
      (∀ h a tr x, t.place = .port h a tr → t.reads = true → t.use = .ats x → exec (.hostCompletionTimeout n) s =
        .next { s with blk := settle (atsAnswer x (.error false) (closeTxn n s.blk)) }))

/-- Of a WAIT item whose word is read: a word at or above its value ends the wait, one with bit 63 set fails the item
with status 0x025 and the word as AUX, and one below lets it wait on (R202). A fence write that is durable takes the
item on to its record (R194), unless the item has failed meanwhile and writes it once more, broken (R197); one that
fails breaks the shadow entry, which keeps its last good value, and the item keeps an earlier status (R195, R200). The
acknowledgement of an entry marks it among those its completion ring has issued, and the ring then goes on (R254).
Descriptors that fail to arrive leave an ACTIVE or PAUSED ring HALTED with cause 2 and then raise the partition's ring
fault (R186). A translated ATS answer is held for the function, an untranslated one lets the access use its
untranslated address, an error ends the access with reason 0x0A (R117, R118). -/
def Obligations.AnswersDoTheirWork : Prop :=
  ∀ (b : Block) (i w : Nat) (it : Item), tfind b.he.items i = some it →
    (dFenceValue it.desc ≤ w % 2 ^ 63 → tfind (waitEval i w b).he.items i = some { it with stage := .draining }) ∧
    (w % 2 ^ 63 < dFenceValue it.desc → 2 ^ 63 ≤ w → it.status = 0 → it.stage = .active →
      ∃ x, tfind (waitEval i w b).he.items i = some x ∧ x.status = 0x025 ∧ x.aux = w ∧ x.stage = .draining) ∧
    (w % 2 ^ 63 < dFenceValue it.desc → w < 2 ^ 63 → it.final ≠ 2 → tfind (waitEval i w b).he.items i = some { it with slot := false }) ∧
    (∀ n t, t.use = .fence i → it.stage = .fenceWrite →
      (it.status = 0 ∨ it.fenceBroken = true → ∃ x, tfind (writeArrive n t none b).he.items i = some x ∧ x.stage = .record ∧ x.status = it.status ∧ x.fenced = true) ∧
      (∃ x, tfind (writeArrive n t (some 0) b).he.items i = some x ∧ x.stage = .record ∧ x.fenced = it.fenced ∧
        x.status = if it.status = 0 then 0x051 else it.status) ∧
      (∀ r e, tfind b.sq.rings it.ringKey = some r → e ∈ r.shadow → e.addr = dFenceAddr it.desc →
        ∃ r', tfind (writeArrive n t (some 0) b).sq.rings it.ringKey = some r' ∧
          { e with broken := true, good := it.fencePrior.getD e.good } ∈ r'.shadow)) ∧
    (∀ n t c, t.use = .entry i → tfind b.sq.cqs (itemCq b it) = some c → ∃ d, writeArrive n t none b = cqPump (itemCq b it) d ∧
      tfind d.sq.cqs (itemCq b it) = some { c with issued := c.issued.map (fun e => if e.1 = i then (i, e.2.1, true) else e) }) ∧
    (∀ key r, tfind b.sq.rings key = some r → (r.state = .active ∨ r.state = .paused) → ∃ c,
      fetchFail key b = partFault (key / 4096) 3 (.ring (key % 4096)) c ∧
      tfind c.sq.rings key = some { r with state := .halted, haltCause := 2, fetching := none, discardFetch := false } ∧ c.regs = b.regs) ∧
    (∀ n a addr len, tfind b.tu.accs n = some a → a.wait = .ats addr len →
      (∀ abort, tfind (atsAnswer n (.error abort) b).tu.accs n = some { a with wait := .bad ⟨0x0A, a.va⟩ }) ∧
      tfind (atsAnswer n .untranslated b).tu.accs n = some { a with wait := .done a.span } ∧
      (∀ target rd wr, atsRight a.kind rd wr = true → ∃ e, e ∈ (atsAnswer n (.translation target rd wr) b).tu.ats ∧ e.fn = a.fn ∧
        tfind (atsAnswer n (.translation target rd wr) b).tu.accs n = some { a with wait := .again }))

/-- DIE_LINK_UP of one of the four dies stores PRESENT 1 and its HBM and SRAM sizes in units of 64 MiB, at most 192
GiB and 64 GiB (R54, R55), and changes no other field of a register. DIE_LINK_DOWN of a present die stores PRESENT 0,
raises source 202+4d and cuts the die; DIE_RESET_ANNOUNCE records event 203+4d and cuts it (R265). A cut fails with
status 0x021 each active item whose data touches the die; that much is stated for a die with no exchange open. A die
that is not present, or not there, is not cut. -/
def Obligations.DiesComeAndGo : Prop :=
  ∀ (s : State) (d hbm sram : Nat),
    (d < 4 → ∃ b, exec (.dieLinkUp d hbm sram) s = .next { s with blk := settle b } ∧
      fget b F.idCmemDiePresent d = 1 ∧ fget b F.idCmemDieHbm64m d = Nat.min (hbm / 2 ^ 26) 3072 ∧
      fget b F.idCmemDieSram64m d = Nat.min (sram / 2 ^ 26) 1024 ∧ b.he = s.blk.he ∧ b.txns = s.blk.txns ∧
      (∀ q j, regKey q j ≠ regKey .idCmemDie d → rget b q j = rget s.blk q j)) ∧
    (d < 4 → fon s.blk F.idCmemDiePresent d = true →
      exec (.dieLinkDown d) s = .next { s with blk := settle (dieCut d (fhRaise (202 + 4 * d) (.die d) none false
        (fput F.idCmemDiePresent d 0 s.blk))) } ∧
      exec (.dieResetAnnounce d) s = .next { s with blk := settle (dieCut d (fhNote (203 + 4 * d) (.die d) none s.blk)) }) ∧
    (∀ (c : Block) i it, (∀ e, e ∈ c.txns → e.2.onDie d = false) → tfind c.he.items i = some it → it.touches c d = true →
      it.status = 0 → it.stage = .active → ∃ x, tfind (dieCut d c).he.items i = some x ∧ x.status = 0x021 ∧ x.stage = .draining) ∧
    (fon s.blk F.idCmemDiePresent d = false ∨ 4 ≤ d → exec (.dieLinkDown d) s = .next { s with blk := settle s.blk } ∧
      exec (.dieResetAnnounce d) s = .next { s with blk := settle s.blk }) ∧
    (4 ≤ d → exec (.dieLinkUp d hbm sram) s = .next { s with blk := settle s.blk })

/-- AS_CONTROL_WRITE stores the bits it names, but not PAGES of an address space in use, and where VALID is then 0
everything of the address space is invalidated (R87). SEGMENT_COMMIT and SEGMENT_REMOVE of a segment that is not
PENDING store the bits with PENDING 1, and invalidate the old range, if there was one (R94, R95); a PENDING segment
refuses them. A removal of a segment that was not there ends at once. SEGMENT_COMMIT_DONE of a PENDING segment whose
old range has drained ends with PENDING 0. Where its checks find no cause, the segment is then the staged one and ERR
keeps the cause of the last refusal; else the segment is gone and ERR holds the cause (R94). The checks see the block
after what the reads of the list met is recorded (R260, R261). -/
def Obligations.AddressSpacesAndSegmentsChange : Prop :=
  ∀ (s : State) (w : Agent) (half : Half) (val : BitVec 64) (b : Block) (c i : Nat),
    (Lands s.blk w .tuAsCtl 0 i b → i < 2 ^ 32 →
      let idle := if asRefs b (i / 4096) (i % 4096) = 0 then BitVec.allOnes 64 else ~~~(fmask 62 62)
      let m := Reg.bitsOf .tuAsCtl (fun x => x == .rw || x == .rwi) &&& halfMask half &&& idle
      let new := (rget b .tuAsCtl i &&& ~~~m) ||| (val &&& halfMask half &&& m)
      ∃ d, exec (.asControlWrite w half val) s = .next { s with blk := settle d } ∧ rget d .tuAsCtl i = new ∧
        (new.getLsbD 63 = true → d.tu = b.tu) ∧
        (new.getLsbD 63 = false → ∃ v, tfind d.tu.invals b.tu.nextInval = some v ∧ v.part = i / 4096 ∧
          v.scope = .space (i % 4096) ∧ v.complete = false)) ∧
    (Lands s.blk w .tuSegCtl c i b → Names half F.tuSegCtlValid →
      (fon b F.tuSegCtlPending i = true → exec (.segmentCommit w c half val) s =
        .next { s with blk := settle (regIgnored w .tuSegCtl b) } ∧ exec (.segmentRemove w c half val) s =
        .next { s with blk := settle (regIgnored w .tuSegCtl b) }) ∧
      (fon b F.tuSegCtlPending i = false → i < 2 ^ 32 → ∃ x y, exec (.segmentCommit w c half val) s = .next { s with blk := settle x } ∧
        exec (.segmentRemove w c half val) s = .next { s with blk := settle y } ∧
        fget x F.tuSegCtlPending i = 1 ∧ fget x F.tuSegCtlValid i = 1 ∧ fget y F.tuSegCtlValid i = 0 ∧
        (tfind b.tu.segs i = none → x.tu = { b.tu with accs := x.tu.accs } ∧ fget y F.tuSegCtlPending i = 0) ∧
        (∀ g, tfind b.tu.segs i = some g → fget y F.tuSegCtlPending i = 1 ∧
          ∀ z, (z = x ∨ z = y) → ∃ v, tfind z.tu.invals b.tu.nextInval = some v ∧ v.seg = some i ∧ v.part = i / 65536 ∧
            v.scope = .range (i / 16 % 4096) g.vbase g.len))) ∧
    (∀ p a k list ev, let n := segIdx p a k
      let b := readEvents ev s.blk
      fon s.blk F.tuSegCtlPending n = true → fon s.blk F.tuSegCtlValid n = true → n < 2 ^ 32 →
      s.blk.tu.invals.any (fun e => e.2.seg == some n && !e.2.complete) = false →
      (localPlace b p (rget b .tuSegList n).toNat (2 * (qbits (rget b .tuSegMap n) 63 52 + 1))).isSome = true →
      ∃ d, exec (.segmentCommitDone p a k list ev) s = .next { s with blk := settle d } ∧ fget d F.tuSegCtlPending n = 0 ∧
        fget d F.tuSegCtlErr n = (if segError b p a n list = 0 then fget b F.tuSegCtlErr n else segError b p a n list) ∧
        (segError b p a n list = 0 → tfind d.tu.segs n = some (segStagedEntry b n
          ((list.getD []).take (qbits (rget b .tuSegMap n) 63 52 + 1)))) ∧
        (segError b p a n list ≠ 0 → d.tu.segs = tdel b.tu.segs n))

/-- The commands of TU_INV_CTL by their scope (R124). -/
def Sys2Proof.Safety.invalidates (scope : Nat) (w : Agent) (half : Half) (val : BitVec 64) : Instr :=
  if scope = 0 then .invalidateRange w half val else if scope = 1 then .invalidateAddressSpace w half val
  else .invalidatePartition w half val

/-- A write to TU_INV_CTL that lands in the bank i of a function, by INVALIDATE_RANGE, INVALIDATE_ADDRESS_SPACE,
INVALIDATE_PARTITION or REGISTER_WRITE, while ISSUED minus DONE is 16, or with SCOPE 0b11, or with SCOPE 0b00 and
PAGES 0, is ignored: the ignored-write counter of the TU is one higher, saturating, ISSUED is unchanged, and no
register of the TU and nothing of the translation state changes before work goes on. (R126) -/
def Obligations.InvalidationWritesThatAreIgnored : Prop :=
  ∀ (s : State) (w : Agent) (half : Half) (val : BitVec 64) (b : Block) (i : Nat), Lands s.blk w .tuInvCtl 0 i b → i < 2 ^ 32 →
    let put := fun (scope : Nat) => if scope < 3 then invalidates scope w half val else .registerWrite w (Reg.offset .tuInvCtl w 0) half val
    let word := fun (scope : Nat) => if scope < 3 then carry F.tuInvCtlScope scope val else val
    ∀ scope, scope < 4 → F.tuInvCtlScope.of (word scope &&& halfMask half) = scope →
      ((fget b F.tuInvStatusIssued i + 65536 - fget b F.tuInvStatusDone i) % 65536 = 16 ∨ scope = 3 ∨
        (scope = 0 ∧ F.tuInvCtlPages.of (word scope &&& halfMask half) = 0)) →
      ∃ d, exec (put scope) s = .next { s with blk := settle d } ∧
        fget d F.tuInvStatusIssued i = fget b F.tuInvStatusIssued i ∧ d.tu = b.tu ∧
        fget d F.idIgnoredCount (Reg.spec .tuInvCtl).unit.row =
          satAdd F.idIgnoredCount.max (fget b F.idIgnoredCount (Reg.spec .tuInvCtl).unit.row) 1 ∧
        (∀ q j, (Reg.spec q).unit = .tu → j < 2 ^ 32 → rget d q j = rget b q j)

/-- INVALIDATE_RANGE (with PAGES not 0), INVALIDATE_ADDRESS_SPACE and INVALIDATE_PARTITION that land with fewer than
16 open add one to ISSUED and issue an invalidation of their scope for the selected partition (R124); one of a range
covers PAGES 4 KiB pages from TU_INV_VA on in the selected address space. INVALIDATION_COMPLETE of one that waits for
nothing completes it (R129): as the oldest of its function it is counted in DONE. ATS_INVALIDATE_REQUEST of an enabled
function of a port that is up removes every matching entry of its ATS cache and notes the ITag to be answered once its
users are done (R120); with no TLB entry linked to the cache it changes no register but for the TLP itself. Of any
other function it changes nothing. -/
def Obligations.InvalidationsAreIssuedAndComplete : Prop :=
  ∀ (s : State) (w : Agent) (half : Half) (val : BitVec 64) (b : Block) (i p scope : Nat),
    (Lands s.blk w .tuInvCtl 0 i b → selPart b w F.tuAsSelPartition = some p → scope < 3 →
      F.tuInvCtlScope.of (carry F.tuInvCtlScope scope val &&& halfMask half) = scope →
      (fget b F.tuInvStatusIssued i + 65536 - fget b F.tuInvStatusDone i) % 65536 < 16 →
      let pages := F.tuInvCtlPages.of (carry F.tuInvCtlScope scope val &&& halfMask half)
      (scope = 0 → pages ≠ 0) →
      ∃ d v, exec (invalidates scope w half val) s = .next { s with blk := settle d } ∧
        fget d F.tuInvStatusIssued i = (fget b F.tuInvStatusIssued i + 1) % 65536 ∧ d.tu.nextInval = b.tu.nextInval + 1 ∧
        tfind d.tu.invals b.tu.nextInval = some v ∧ v.fn = some i ∧ v.part = p ∧ v.complete = false ∧
        v.scope = (if scope = 0 then .range (fget b F.tuAsSelAs i) (rget b .tuInvVa i).toNat (4096 * pages)
          else if scope = 1 then .space (fget b F.tuAsSelAs i) else .partition)) ∧
    (∀ n v fn, tfind s.blk.tu.invals n = some v → v.complete = false → invalIdle s.blk v = true → v.fn = some fn → v.seg = none →
      tfirst (fun _ u => u.fn == some fn) s.blk.tu.invals = some n → tfind (tdel s.blk.tu.invals n) n = none →
      (∀ k u, tfind s.blk.tu.invals k = some u → k ≠ n → u.complete = false) →
      ∃ d, exec (.invalidationComplete n) s = .next { s with blk := settle d } ∧
        fget d F.tuInvStatusDone fn = (fget s.blk F.tuInvStatusDone fn + 1) % 65536 ∧ d.tu.invals = tdel
          (tmod s.blk.tu.invals n (fun v => { v with complete := true })) n ∧ d.he = s.blk.he ∧
        fget d F.tuInvStatusIssued fn = fget s.blk F.tuInvStatusIssued fn) ∧
    (∀ n, tfind s.blk.tu.invals n = none → exec (.invalidationComplete n) s = .next { s with blk := settle s.blk }) ∧
    (∀ port f pasid addr len itag, hostUp s.blk port = true → fnEnabled s.blk (128 * port + f) = true →
      ∃ d, exec (.atsInvalidateRequest port f pasid addr len itag) s = .next { s with blk := settle d } ∧
        (∀ e, e ∈ d.tu.ats ↔ e ∈ s.blk.tu.ats ∧ ¬ (e.fn = 128 * port + f ∧ e.pasid = pasid ∧ overlaps e.addr e.len addr len = true)) ∧
        (∃ x, x ∈ d.tu.atsInvals ∧ x.fn = 128 * port + f ∧ x.itag = itag) ∧
        (s.blk.tu.tlb.all (fun e => e.link == none) = true → d.regs = (hostTlp port s.blk).regs)) ∧
    (∀ port f pasid addr len itag, (hostUp s.blk port && fnEnabled s.blk (128 * port + f)) = false →
      exec (.atsInvalidateRequest port f pasid addr len itag) s = .next s)

/-- TRANSLATION_SLOT_LOADED of an address space that is loading gives it a slot, ends the load, and lets the accesses
that waited for it try again (R82); one that is not loading changes nothing. HOLD_TIMEOUT of an access that is parked
on a held leaf ends it with cause 0x08, HOLD_TIMEOUT (R153), and leaves an access that waits for something else.
ACCESS_COUNTER_DECAY with DECAY 0 changes nothing; else, with one counter that is not near its threshold, its tile
counts are merged into it and then half of it is left, its flag cleared below half the threshold (R145, R146; an odd
threshold is halved downwards, log entry 89), and the counters of other address spaces keep their values. PRG_RESPONSE
to the group of an access that waits for it (R119): after Success the access looks up again, and so repeats its
Translation Request; Invalid Request ends the access with cause 0x20; Response Failure ends it with cause 0x21 and the
function sends no further Page Request, also where the access is gone; PRI_TIMEOUT ends it with cause 0x22. The group
is closed. A response or timeout of a group that is closed changes nothing. -/
def Obligations.AccessesWaitAndGoOn : Prop :=
  (∀ (s : State) (p a n : Nat),
    ((p, a) ∈ s.blk.tu.loading → ∃ b, exec (.translationSlotLoaded p a) s = .next { s with blk := settle b } ∧
      (slotFree s.blk, p, a) ∈ b.tu.slots ∧ (p, a) ∉ b.tu.loading ∧ b.regs = s.blk.regs ∧ b.he = s.blk.he ∧
      (∀ k x, tfind s.blk.tu.accs k = some x → tfind b.tu.accs k =
        some (if x.wait = .slot ∧ x.part = p ∧ x.asn = a then { x with wait := .again } else x))) ∧
    ((p, a) ∉ s.blk.tu.loading → exec (.translationSlotLoaded p a) s = .next { s with blk := settle s.blk }) ∧
    (∀ x, tfind s.blk.tu.accs n = some x → ∃ b, exec (.holdTimeout n) s = .next { s with blk := settle b } ∧
      tfind b.tu.accs n = some (if x.wait = .held then { x with wait := .bad ⟨0x08, x.va⟩ } else x) ∧ b.regs = s.blk.regs ∧
      b.he = s.blk.he ∧ (∀ k, k ≠ n → tfind b.tu.accs k = tfind s.blk.tu.accs k)) ∧
    (fget s.blk F.tuAsCtlDecay (asKey p a) = 0 → exec (.accessCounterDecay p a) s = .next s) ∧
    (∀ c, fget s.blk F.tuAsCtlDecay (asKey p a) ≠ 0 → s.blk.tu.counters.filter (fun c => c.part == p && c.asn == a) = [c] →
      let sum := satAdd 65535 c.merged (c.tiles.foldl (· + ·) 0)
      (fget s.blk F.tuAsCtlHotThresh (asKey p a) = 0 ∨ sum < fget s.blk F.tuAsCtlHotThresh (asKey p a)) →
      ∃ b, exec (.accessCounterDecay p a) s = .next { s with blk := b } ∧ b.regs = s.blk.regs ∧
        (∃ d, d ∈ b.tu.counters ∧ d.part = p ∧ d.asn = a ∧ d.va = c.va ∧ d.merged = sum / 2 ∧ d.tiles = List.replicate 12 0 ∧
          d.flagged = (c.flagged && decide (fget s.blk F.tuAsCtlHotThresh (asKey p a) / 2 ≤ sum / 2))) ∧
        b.tu.counters.filter (fun c => !(c.part == p && c.asn == a)) = s.blk.tu.counters.filter (fun c => !(c.part == p && c.asn == a)))) ∧
  (∀ (s : State) (g fn n : Nat),
    (∀ addr len a, tfind s.blk.tu.prgs g = some (fn, n) → tfind s.blk.tu.accs n = some a → a.wait = .prg addr len g →
      (∀ e, e ∈ s.blk.tu.accs → ∀ x y, e.2.wait ≠ .prgQueue x y) →
      (∃ d, exec (.prgResponse g .success) s = .next { s with blk := settle d } ∧
        tfind d.tu.accs n = some { a with tries := a.tries + 1, wait := .again } ∧ d.tu.prgs = tdel s.blk.tu.prgs g ∧
        d.tu.priFailed = s.blk.tu.priFailed) ∧
      (∃ d, exec (.prgResponse g .invalid) s = .next { s with blk := settle d } ∧
        tfind d.tu.accs n = some { a with wait := .bad ⟨0x20, a.va⟩ } ∧ d.tu.prgs = tdel s.blk.tu.prgs g ∧ d.txns = s.blk.txns) ∧
      (∃ d, exec (.prgResponse g .failure) s = .next { s with blk := settle d } ∧
        tfind d.tu.accs n = some { a with wait := .bad ⟨0x21, a.va⟩ } ∧ fn ∈ d.tu.priFailed ∧ d.tu.prgs = tdel s.blk.tu.prgs g) ∧
      (∃ d, exec (.priTimeout g) s = .next { s with blk := settle d } ∧
        tfind d.tu.accs n = some { a with wait := .bad ⟨0x22, a.va⟩ } ∧ d.tu.prgs = tdel s.blk.tu.prgs g ∧ d.regs = s.blk.regs)) ∧
    (tfind s.blk.tu.prgs g = some (fn, n) → tfind s.blk.tu.accs n = none → ∃ d,
      exec (.prgResponse g .failure) s = .next { s with blk := settle d } ∧ fn ∈ d.tu.priFailed) ∧
    (tfind s.blk.tu.prgs g = none → exec (.priTimeout g) s = .next { s with blk := settle s.blk } ∧
      ∀ code, exec (.prgResponse g code) s = .next { s with blk := settle s.blk }))

/-- The frame of a command that brings a packet of a QP, with the packet's type. -/
def Sys2Proof.Safety.frameOf (c : Instr) : Option Frame :=
  match c with
  | .write f => some { f with hdr := { f.hdr with type := tyWrite } }
  | .combine f => some { f with hdr := { f.hdr with type := tyCombine } }
  | .fence f => some { f with hdr := { f.hdr with type := tyFence } }
  | .readReq f => some { f with hdr := { f.hdr with type := tyReadReq } }
  | .readResp f => some { f with hdr := { f.hdr with type := tyReadResp } }
  | .ack f => some { f with hdr := { f.hdr with type := tyAck } }
  | .nak f => some { f with hdr := { f.hdr with type := tyNak } }
  | .applied f => some { f with hdr := { f.hdr with type := tyApplied } }
  | .credit f => some { f with hdr := { f.hdr with type := tyCredit } }
  | .probe f => some { f with hdr := { f.hdr with type := tyProbe } }
  | .probeReply f => some { f with hdr := { f.hdr with type := tyProbeReply } }
  | .skip f => some { f with hdr := { f.hdr with type := tySkip } }
  | _ => none

/-- A frame that arrives whole (R323, R325, R330), on a port without replay, at a block that is not stopped. -/
def Sys2Proof.Safety.FrameWhole (b : Block) (f : Frame) : Prop :=
  portUp b f.port = true ∧ f.shim = none ∧ f.fcsOk = true ∧ f.udpOk = true ∧ f.crc = packetCrc f.hdr f.payload f.tag ∧
    stopped b = false

/-- A frame that passes every check before its QP is looked at (R324, R325, R330, R51, R360), on a port without replay. -/
def Sys2Proof.Safety.FrameSound (b : Block) (f : Frame) : Prop :=
  FrameWhole b f ∧ f.ifaceId = selfNode b ∧ f.hdr.dstNode = selfNode b ∧ f.hdr.srcNode ≠ selfNode b ∧
    (f.hdr.epoch = epochNow b % 2 ∨ fon b F.ftEpochCtlPending 0 = true ∨ fon b F.ftEpochCtlRetiring 0 = true)

/-- The block once it has counted the packet of a sound frame (R673). -/
def Sys2Proof.Safety.counted (b : Block) (f : Frame) : Block := tcCount (f.port / 2) 0x042 (packetPart b f.hdr.dstQp) 1 b

/-- A sound frame for a QP that knows its sender, with a receive context free (R319, R336). -/
def Sys2Proof.Safety.FrameFor (b : Block) (f : Frame) (k : Nat) (q : Qp) : Prop :=
  FrameSound b f ∧ k = f.hdr.dstQp ∧ (rxPool b (homeTile k) f.hdr.cls).isSome = true ∧ tfind b.ft.qps k = some q ∧
    q.peerNode = f.hdr.srcNode ∧ q.peerQp = f.hdr.srcQp ∧ partPresent b q.part = true ∧ linePoisoned b 0 k = false

/-- Such a frame in clear, for a resident QP that is not encrypted. -/
def Sys2Proof.Safety.FrameClear (b : Block) (f : Frame) (k : Nat) (q : Qp) : Prop :=
  FrameFor b f k q ∧ q.resident = true ∧ f.hdr.enc = false ∧ q.enc = false

/-- WRITE, COMBINE, FENCE and READ_REQ in clear for a resident QP not in ERROR. A new PSN of the window and no card:
an admitted packet opens a receive context with the parts that admission gives (R59, R67), a refused one is counted in
PT_REFUSED; either way the PSN is marked, CUM advances where it is the next one, and else the PSN is held in the
bitmap (R342, R343). A PSN seen before is counted as a duplicate, its bytes as marked where its arrival is (R365), and
it is acknowledged again (R344); one beyond the window is misdirected. With a card that this node does not hold, or
whose rules the packet breaks, it is refused (R408); a stale one is counted and its PSN marked (R409). -/
def Obligations.SequencedPacketsArePlacedOrRefused : Prop :=
  ∀ (c : Instr) (s : State) (f : Frame) (k : Nat) (q : Qp), frameOf c = some f → FrameClear s.blk f k q → f.hdr.type ≤ 4 →
    let h := f.hdr
    let b1 := counted s.blk f
    let new := psnDist q.cumNext h.psn < 1024 ∧ h.psn ∉ q.rx
    let marked := fun (y : Qp) => y.rcvdCount = (q.rcvdCount + 1) % 2 ^ 32 ∧ (h.psn = q.cumNext → q.rx = [] → y.cumNext = psnNext h.psn) ∧
      (h.psn ≠ q.cumNext → y.cumNext = q.cumNext ∧ h.psn ∈ y.rx)
    (new → q.state ≠ 2 → h.card = 0 → (h.type = tyReadReq → 0 < h.msgLen ∧ h.msgLen ≤ 65536) →
      (∀ parts g, frameAdmit b1 q.part h = some (parts, g) → depotMoves b1 q.part parts = false →
        ∃ b x y, exec c s = .next { s with blk := settle b } ∧ tfind b.ft.rx s.blk.ft.nextRx = some x ∧ x.frame = f ∧ x.qp = k ∧
          x.parts = parts ∧ x.stage = (if h.type = tyReadReq then .read else .place) ∧ tfind b.ft.qps k = some y ∧ marked y) ∧
      (frameAdmit b1 q.part h = none → q.part < 16 → ∃ b y, exec c s = .next { s with blk := settle b } ∧ b.ft.rx = s.blk.ft.rx ∧
        fget b F.ptRefusedRefused q.part = satAdd F.ptRefusedRefused.max (fget s.blk F.ptRefusedRefused q.part) 1 ∧
        tfind b.ft.qps k = some y ∧ marked y)) ∧
    (¬ new → h.psn ∈ q.rx ∨ psnBefore h.psn q.cumNext = true → let n := ceBytes b1 k q f
      exec c s = .next { s with blk := settle (sendAck k (respCls h) h.path h.epoch (modQp k (fun q =>
        { q with dupCount := (q.dupCount + 1) % 2 ^ 32, ackBytesCe := q.ackBytesCe + n, bytesCe := (q.bytesCe + n) % 2 ^ 64 })
        (tcCount (homeTile k) 0x043 (some q.part) n b1))) }) ∧
    (¬ new → h.psn ∉ q.rx → psnBefore h.psn q.cumNext = false →
      exec c s = .next { s with blk := settle (fbump F.ftRxErrorsMisdirected 0 1 b1) }) ∧
    (new → q.state ≠ 2 → h.card ≠ 0 → h.type = tyWrite ∨ h.type = tyCombine →
      (cardAt b1 (cardGen b1 (h.card - 1)) (h.card - 1) = none → exec c s = .next { s with blk := settle (rxRefuse k q.part f true b1) }) ∧
      (∀ sch x, cardAt b1 (cardGen b1 (h.card - 1)) (h.card - 1) = some (sch, x) →
        (cardRefuses sch x q.part h = true → exec c s = .next { s with blk := settle (rxRefuse k q.part f true b1) }) ∧
        (cardRefuses sch x q.part h = false → (roundOf b1 sch (cardGen b1 (h.card - 1)) (h.card - 1) x).2 = true →
          exec c s = .next { s with blk := settle (rxMark k f true (fbump F.psEventsStale 0 1 b1)) })))

/-- In clear for a resident QP. ACK: no packet that it covers is left waiting as unreceived, and what stays as
received is not durable yet (R342, R347). NAK 0x01 consumes the PSN, and the item that owns it fails with status 0x031
and the peer as AUX (R329, R351); NAK 0x03 and 0x04 put the QP in ERROR with causes 5 and 8 (R380). A QP in ERROR has
nothing outstanding and keeps its first cause; that is stated where the partition's QP-error source is off, since that
fault may do more. APPLIED of all bytes of a message ends its wait, and of fewer leaves it with the larger count
(R345, R346). -/
def Obligations.AcknowledgementsMoveWhatIsOutstanding : Prop :=
  ∀ (s : State) (f0 : Frame) (k : Nat) (q : Qp),
    let typed := fun (ty : Nat) => { f0 with hdr := { f0.hdr with type := ty } }
    let b1 := modQp k (fun q => { q with ctlRx := q.ctlRx, used := s.blk.now }) (counted s.blk f0)
    (FrameClear s.blk (typed tyAck) k q → ∃ b y, exec (.ack f0) s = .next { s with blk := settle b } ∧ tfind b.ft.qps k = some y ∧
      (∀ x, x ∈ y.sent → ackCovers f0.hdr.psn (leNat f0.payload) x.psn = true → x.rcvd = true) ∧
      (∀ x, x ∈ y.sent → x.rcvd = true → psnBefore f0.hdr.address x.psn = true) ∧ y.cumNext = q.cumNext ∧ y.nextPsn = q.nextPsn) ∧
    (FrameClear s.blk (typed tyNak) k q →
      (∀ x i it, f0.hdr.address % 256 = 0x01 → q.sent.find? (fun x => x.psn == f0.hdr.psn) = some x → x.owner = .item i →
        tfind s.blk.he.items i = some it → it.stage = .active → it.status = 0 →
        ∃ b y z, exec (.nak f0) s = .next { s with blk := settle b } ∧ tfind b.ft.qps k = some y ∧ tfind b.he.items i = some z ∧
          z.status = 0x031 ∧ z.aux = q.peerNode ∧ z.stage = .draining ∧ (∀ x, x ∈ y.sent → x.psn ≠ f0.hdr.psn)) ∧
      (∀ x, q.sent.find? (fun x => x.psn == f0.hdr.psn) = some x →
        (f0.hdr.address % 256 = 0x03 → exec (.nak f0) s = .next { s with blk := settle (qpError k 5 f0.hdr.psn x.owner 0x030 b1) }) ∧
        (f0.hdr.address % 256 = 0x04 → exec (.nak f0) s = .next { s with blk := settle (qpError k 8 f0.hdr.psn x.owner 0x040 b1) }))) ∧
    (∀ (b : Block) cause psn owner status, tfind b.ft.qps k = some q → q.state = 1 → fhEnabled b (256 + 16 * q.part + 7) = false →
      ∃ y, tfind (qpError k cause psn owner status b).ft.qps k = some y ∧ y.state = 2 ∧
        y.cause = (if q.cause = 0 then cause else q.cause) ∧ y.sent = [] ∧ y.reads = [] ∧ y.awaits = []) ∧
    (FrameClear s.blk (typed tyApplied) k q → ∀ a, q.awaits.find? (fun a => a.msn == f0.hdr.msn) = some a →
      ∃ b y, exec (.applied f0) s = .next { s with blk := settle b } ∧ tfind b.ft.qps k = some y ∧
        (a.len ≤ f0.hdr.msgLen → ∀ x, x ∈ y.awaits → x.msn ≠ f0.hdr.msn) ∧
        (a.applied ≤ f0.hdr.msgLen → f0.hdr.msgLen < a.len →
          ∀ x, x ∈ y.awaits → x.msn = f0.hdr.msn → x.applied = f0.hdr.msgLen))

/-- In clear for a resident QP. CREDIT lets the card send for the order block that it names (R308). PROBE is answered
with a PROBE_REPLY that names its label (R327); one that names no message with that alone (R346, R354). PROBE_REPLY
brings its label up with no losses (R354). SKIP of the next PSN advances CUM by one (R327). READ_RESP for an open read
request of an item brings its bytes as a piece of the item's source at their offset, and the request is over once all
its bytes have come (R350). -/
def Obligations.CreditsProbesAndReadDataArrive : Prop :=
  ∀ (s : State) (f0 : Frame) (k : Nat) (q : Qp),
    let typed := fun (ty : Nat) => { f0 with hdr := { f0.hdr with type := ty } }
    let b1 := modQp k (fun q => { q with ctlRx := q.ctlRx, used := s.blk.now }) (counted s.blk f0)
    (FrameClear s.blk (typed tyCredit) k q → ∃ b, exec (.credit f0) s = .next { s with blk := settle b } ∧
      (f0.hdr.card - 1, q.peerNode, f0.hdr.address / 65536) ∈ b.ps.credits ∧ (f0.hdr.card - 1, q.peerNode) ∈ b.ps.inOrder ∧
      (∀ x, x ∈ s.blk.ps.credits → x ∈ b.ps.credits) ∧ b.regs = b1.regs ∧ b.he = s.blk.he) ∧
    (FrameClear s.blk (typed tyProbe) k q → f0.hdr.msn = 0 → exec (.probe f0) s = .next { s with blk := settle (sendControl k
      { hdrZero with cls := clsFr, type := tyProbeReply, path := f0.hdr.path, psn := f0.hdr.psn, msn := 0 } [] f0.hdr.path f0.hdr.epoch b1) }) ∧
    (FrameClear s.blk (typed tyProbeReply) k q → ∃ b, exec (.probeReply f0) s = .next { s with blk := settle b } ∧
      b.ft.labels = tset labelUnlisted b1.ft.labels (64 * q.pathSet + f0.hdr.path)
        { (tget labelUnlisted s.blk.ft.labels (64 * q.pathSet + f0.hdr.path)) with down := false, losses := 0 } ∧
      b.regs = b1.regs ∧ b.he = s.blk.he) ∧
    (FrameClear s.blk (typed tySkip) k q → f0.hdr.msgLen = 1 → f0.hdr.psn = q.cumNext → q.cumNext < 2 ^ 32 → q.rx = [] →
      ∃ b y, exec (.skip f0) s = .next { s with blk := settle b } ∧ tfind b.ft.qps k = some y ∧ y.cumNext = psnNext q.cumNext ∧
        y.rcvdCount = (q.rcvdCount + 1) % 2 ^ 32 ∧ b.ft.rx = s.blk.ft.rx) ∧
    (FrameClear s.blk (typed tyReadResp) k q → ∀ r i it, q.reads.find? (fun r => r.psn == f0.hdr.psn) = some r → r.owner = .item i →
      tfind s.blk.he.items i = some it → ∃ b y z, exec (.readResp f0) s = .next { s with blk := settle b } ∧
        tfind b.ft.qps k = some y ∧ tfind b.he.items i = some z ∧ z.pieces = it.pieces ++ [(r.off + f0.hdr.address, f0.payload)] ∧
        z.passed = true ∧ z.status = it.status ∧
        (ivCovers r.len (ivAdd f0.hdr.address f0.payload.length r.got) = true → ∀ x, x ∈ y.reads → x.psn ≠ f0.hdr.psn))

/-- PACKET_SEND of a resident QP with a packet ready that the arbiter of its tile grants, in clear, on a label that
takes it: a new packet gets the QP's next PSN, is addressed to the peer, is outstanding with one try, and the next PSN
is one more (R342, R347, R364); a lost one leaves under its own PSN with RESEND set and one more try, and the next PSN
stays. With no packet ready, or none granted, nothing leaves. A QP that is not resident is loaded for its next packet
(R338). PACKET_SEND never changes which PSN the QP expects. -/
def Obligations.PacketSendSendsTheNextPacket : Prop :=
  ∀ (s : State) (k full : Nat),
    (∀ q, tfind s.blk.ft.qps k = some q → q.resident = true → readyDraft s.blk full k q = none →
      exec (.packetSend k full) s = .next { s with blk := settle s.blk }) ∧
    (∀ q d, tfind s.blk.ft.qps k = some q → q.resident = true → readyDraft s.blk full k q = some d → granted s.blk full k d = false →
      exec (.packetSend k full) s = .next { s with blk := settle s.blk }) ∧
    (∀ q, tfind s.blk.ft.qps k = some q → q.resident = false →
      let here := { q with resident := true }
      let next := nextDraft (modQp k (fun _ => here) s.blk) k here
      exec (.packetSend k full) s = .next { s with blk := settle (if next.isSome then qpLoad k s.blk else s.blk) }) ∧
    (tfind s.blk.ft.qps k = none → exec (.packetSend k full) s = .next { s with blk := settle s.blk }) ∧
    (∀ q d l, tfind s.blk.ft.qps k = some q → q.resident = true → readyDraft s.blk full k q = some d →
      granted s.blk full k d = true → d.enc = false → draftLabel s.blk q d full = some l →
      (d.resend = none → ∃ b y x, exec (.packetSend k full) s = .next { s with blk := settle b } ∧ tfind b.ft.qps k = some y ∧
        y.nextPsn = psnNext q.nextPsn ∧ y.sent = q.sent ++ [x] ∧ x.psn = q.nextPsn ∧ x.owner = d.owner ∧ x.tries = 1 ∧
        x.rcvd = false ∧ x.hdr.dstQp = q.peerQp ∧ x.hdr.dstNode = q.peerNode ∧ x.hdr.srcQp = k ∧ x.hdr.path = l ∧ x.body = d.body ∧
        y.cumNext = q.cumNext) ∧
      (∀ psn x, d.resend = some psn → q.sent.find? (fun x => x.psn == psn) = some x → x.hdr.enc = false →
        ∃ b y, exec (.packetSend k full) s = .next { s with blk := settle b } ∧ tfind b.ft.qps k = some y ∧ y.nextPsn = q.nextPsn ∧
          y.cumNext = q.cumNext ∧ y.sent.length = q.sent.length ∧ ∃ z, z ∈ y.sent ∧ z.psn = psn ∧ z.tries = x.tries + 1 ∧
            z.resend = false ∧ z.hdr.path = l ∧ z.body = x.body ∧ hdrFlag z.hdr flResend = true))

/-- RTO_EXPIRY of an unreceived packet whose RTO, doubled at each timeout of it, has passed marks its loss (R347; log
entry 102), and nothing before that; of a SKIP it sends it again (R349). DELIVERY_TIMEOUT of an unreceived free packet
puts the QP in ERROR with cause 7 and gives its owner status 0x032 (R348). READ_RETRY has what is missing of an
acknowledged read request asked for again, its first gap first (R350); READ_DELIVERY_TIMEOUT fails its item with
0x032. NO_PATH_TIMEOUT fails an active free item that has sent nothing with status 0x030 (R355). APPLIED_PROBE_TIMER
sends a PROBE that names the message (R346). COOLDOWN_EXPIRY ends a label's cooling once COOLDOWN has passed (R354),
ACK_DELAY_EXPIRY sends an ACK that is due (R345), BASE_RTT_RESET forgets the base RTT (R363; that the next sample then
sets it is the model's reading, log entry 21). -/
def Obligations.TimersOfAQueuePairExpire : Prop :=
  ∀ (s : State) (k n : Nat) (q : Qp), tfind s.blk.ft.qps k = some q →
    (∀ e, q.skips.find? (fun e => e.1 == n) = some e →
      exec (.rtoExpiry k n) s = .next { s with blk := settle (sendSkip k e.1 e.2 s.blk) }) ∧
    (∀ x, q.skips.find? (fun e => e.1 == n) = none → q.sent.find? (fun x => x.psn == n && !x.rcvd) = some x → x.resend = false →
      x.lossPitch = none → rtoDue s.blk q x = true → ∃ b y z, exec (.rtoExpiry k n) s = .next { s with blk := settle b } ∧ tfind b.ft.qps k = some y ∧ z ∈ y.sent ∧
        z.psn = n ∧ (x.roped = false → z.resend = true ∧ y.loss = true) ∧ (x.roped = true → z.lossPitch = some s.blk.ps.n) ∧
        z.touts = x.touts + 1 ∧ b.regs = s.blk.regs ∧ b.he = s.blk.he) ∧
    (q.skips.find? (fun e => e.1 == n) = none → (∀ x, x ∈ q.sent → x.psn = n → x.rcvd = false → x.resend = false → x.lossPitch = none →
      rtoDue s.blk q x = false) → exec (.rtoExpiry k n) s = .next { s with blk := settle s.blk }) ∧
    (∀ x, q.sent.find? (fun x => x.psn == n && !x.rcvd && !x.roped) = some x →
      exec (.deliveryTimeout k n) s = .next { s with blk := settle (qpError k 7 n x.owner 0x032 s.blk) }) ∧
    (q.sent.find? (fun x => x.psn == n && !x.rcvd && !x.roped) = none →
      exec (.deliveryTimeout k n) s = .next { s with blk := settle s.blk }) ∧
    (∀ r, q.reads.find? (fun r => r.psn == n && r.ackedAt.isSome) = some r → exec (.readRetry k n) s =
      .next { s with blk := settle (modQp k (fun q => { q with reads := q.reads.map (fun x =>
        if x.psn = n ∧ x.ackedAt.isSome then { x with again := true } else x) }) s.blk) }) ∧
    (∀ (b : Block) r d g, r ∈ q.reads → againDraft b q r = some d → (ivGaps (2 * r.got.length + 2) 0 r.len r.got).head? = some g →
      d.hdr.type = tyReadReq ∧ d.owner = r.owner ∧ d.off = r.off + g.1 ∧ d.len = g.2 ∧ d.resend = none) ∧
    (∀ r i it, q.reads.find? (fun r => r.psn == n) = some r → r.owner = .item i → tfind s.blk.he.items i = some it →
      it.stage = .active → it.status = 0 → ∃ b z, exec (.readDeliveryTimeout k n) s = .next { s with blk := settle b } ∧
        tfind b.he.items i = some z ∧ z.status = 0x032 ∧ z.aux = q.peerNode ∧
        tfind b.ft.qps k = some { q with reads := q.reads.filter (fun r => r.owner != .item i) }) ∧
    (∀ i it, tfind s.blk.he.items i = some it → dQp it.desc = k → opNeedsQp (dOpcode it.desc) = true → dCard it.desc = 0 →
      it.stage = .active → it.begun = true → it.rd = 0 → it.cons = 0 → noPath s.blk q = true →
      exec (.noPathTimeout i) s = .next { s with blk := settle (itemFail i 0x030 q.peerNode s.blk) }) ∧
    (q.awaits.any (fun a => a.msn == n && a.rcvdAt.isSome) = true → 
      let h := { hdrZero with cls := clsFr, type := tyProbe, msn := n }
      exec (.appliedProbeTimer k n) s = .next { s with blk := sendControl k h [] q.rr (epochNow s.blk % 2) s.blk }) ∧
    (∀ set l, (labelCooled s.blk set l = false → exec (.cooldownExpiry set l) s =
        .next { s with blk := modLabel set l (fun x => { x with cooledTo := none }) s.blk }) ∧
      (labelCooled s.blk set l = true → exec (.cooldownExpiry set l) s = .next s)) ∧
    (q.sinceAck ≠ 0 → exec (.ackDelayExpiry k) s = .next { s with blk := sendAck k clsFr q.lastPath.1 q.lastPath.2 s.blk }) ∧
    (∃ b, exec (.baseRttReset k) s = .next { s with blk := b } ∧
      tfind b.ft.qps k = some { q with base := none, baseAt := s.blk.now } ∧ b.regs = s.blk.regs)

/-- PORT_LINK_DOWN of a port that is up leaves it down with an empty replay buffer, counted in DOWN_EVENTS (R376);
PORT_TRAINED of one that is down gives it its mode (R375), TRAINING_RETRY trains again, LINK_HOLD_EXPIRY ends the hold
once LINK_HOLD has passed (R377). LLR_ACK drops what it covers from the buffer; LLR_NAK below the eighth for one
number without progress is counted and sends the buffer again from it on, and the eighth takes the port down (R369,
R370); LLR_ACK_TIMER acknowledges what was accepted. EPOCH_SWITCH_ARM sets PENDING, or is ignored while PENDING or
RETIRING (R359); it switches at once where the time has passed and no schedule runs (R362). EPOCH_SWITCH at or after
FT_EPOCH_AT, and at a pitch boundary while a schedule runs, advances EPOCH and clears PENDING (R358).
MAC_CONTROL_FRAME is counted and discarded (R323); FEC_RESULT adds to its counters (R379). -/
def Obligations.PortsReplayAndEpochsChange : Prop :=
  ∀ (s : State) (p n : Nat) (w : Agent) (half : Half) (val : BitVec 64) (b0 : Block) (i : Nat),
    (portUp s.blk p = true → (portOf s.blk p).wait = [] → p < 2 ^ 32 → ∃ b x, exec (.portLinkDown p) s = .next { s with blk := settle b } ∧
      tfind b.ft.ports p = some x ∧ x.state = 4 ∧ x.held = true ∧ x.buf = [] ∧ x.wait = [] ∧
      fget b F.ftPortStatusDownEvents p = satAdd F.ftPortStatusDownEvents.max (fget s.blk F.ftPortStatusDownEvents p) 1) ∧
    (portHere s.blk p = true → portUp s.blk p = false → fon s.blk F.idNodeValid 0 = true → ∃ b x, exec (.portTrained p) s =
      .next { s with blk := b } ∧ tfind b.ft.ports p = some x ∧ (x.state = 1 ∨ x.state = 2) ∧ x.upAt = s.blk.now ∧ b.he = s.blk.he) ∧
    (portHere s.blk p = true → portUp s.blk p = false →
      exec (.trainingRetry p) s = .next { s with blk := modPort p (fun x => { x with state := 3 }) s.blk }) ∧
    (portUp s.blk p = true → let held := dict s.blk 0x2120 6 * 1000000
      ((portOf s.blk p).upAt + held ≤ s.blk.now → exec (.linkHoldExpiry p) s =
        .next { s with blk := modPort p (fun x => { x with held := false }) s.blk }) ∧
      (s.blk.now < (portOf s.blk p).upAt + held → exec (.linkHoldExpiry p) s = .next s)) ∧
    (portUp s.blk p = true → (portOf s.blk p).wait = [] → ∃ b x, exec (.llrAck p n) s = .next { s with blk := b } ∧
      tfind b.ft.ports p = some x ∧ x.buf = (portOf s.blk p).buf.filter (fun e => !llrUpTo e.1 n) ∧ b.out = s.blk.out ∧
      x.nak = (if (portOf s.blk p).buf.any (fun e => llrUpTo e.1 n) then (0, 0) else (portOf s.blk p).nak)) ∧
    (portUp s.blk p = true → ((portOf s.blk p).nak.1 = n → (portOf s.blk p).nak.2 < 7) → p < 2 ^ 32 → ∃ b, exec (.llrNak p n) s =
      .next { s with blk := b } ∧ fget b F.ftPortStatusReplays p = satAdd F.ftPortStatusReplays.max (fget s.blk F.ftPortStatusReplays p) 1 ∧
      b.out.length = s.blk.out.length + ((portOf s.blk p).buf.filter (fun e => llrUpTo n e.1)).length ∧ b.he = s.blk.he) ∧
    (portUp s.blk p = true → (portOf s.blk p).nak.1 = n → (portOf s.blk p).nak.2 = 7 → exec (.llrNak p n) s =
      .next { s with blk := portDown p (modPort p (fun x => { x with nak := (n, 8) }) s.blk) }) ∧
    (portUp s.blk p = true → (portOf s.blk p).rxUnacked ≠ 0 → ∃ b, exec (.llrAckTimer p) s = .next { s with blk := b } ∧
      (∃ wire, b.out = .llr p false (((portOf s.blk p).rxNext + 2 ^ 24 - 1) % 2 ^ 24) wire :: s.blk.out) ∧ b.regs = s.blk.regs) ∧
    (Lands s.blk w .ftEpochCtl 0 i b0 → Names half F.ftEpochCtlSwitch →
      (fon b0 F.ftEpochCtlPending 0 = true ∨ fon b0 F.ftEpochCtlRetiring 0 = true → exec (.epochSwitchArm w half val) s =
        .next { s with blk := regIgnored w .ftEpochCtl b0 }) ∧
      (fon b0 F.ftEpochCtlPending 0 = false → fon b0 F.ftEpochCtlRetiring 0 = false →
        (b0.ps.sched.isSome = true ∨ b0.now < (rget b0 .ftEpochAt 0).toNat → exec (.epochSwitchArm w half val) s =
          .next { s with blk := fput F.ftEpochCtlPending 0 1 b0 }) ∧
        (b0.ps.sched = none → (rget b0 .ftEpochAt 0).toNat ≤ b0.now → ∃ b, exec (.epochSwitchArm w half val) s = .next { s with blk := b } ∧
          fget b F.ftEpochCtlPending 0 = 0 ∧ epochNow b = (epochNow b0 + 1) % 65536 ∧ b.he = b0.he))) ∧
    (fon s.blk F.ftEpochCtlPending 0 = true → s.blk.ps.sched.isSome = true → s.blk.ps.start ≠ s.blk.now →
      exec .epochSwitch s = .next { s with blk := settle s.blk }) ∧
    (fon s.blk F.ftEpochCtlPending 0 = true → (rget s.blk .ftEpochAt 0).toNat ≤ s.blk.now →
      s.blk.ps.sched = none ∨ s.blk.ps.start = s.blk.now → ∃ b, exec .epochSwitch s =
      .next { s with blk := settle b } ∧ fget b F.ftEpochCtlPending 0 = 0 ∧ epochNow b = (epochNow s.blk + 1) % 65536 ∧ b.he = s.blk.he) ∧
    (fon s.blk F.ftEpochCtlPending 0 = false → exec .epochSwitch s = .next { s with blk := settle s.blk }) ∧
    (∀ kind, portUp s.blk p = true → kind = .macControl ∨ kind = .vlan ∨ kind = .unknownType none ∨ kind = .unknownVer none →
      ∃ b, exec (.macControlFrame p kind) s = .next { s with blk := b } ∧ b.ft = s.blk.ft ∧
      fget b F.ftRxErrorsMisdirected 0 = satAdd F.ftRxErrorsMisdirected.max (fget s.blk F.ftRxErrorsMisdirected 0) 1) ∧
    (portHere s.blk p = true → p < 2 ^ 32 → ∃ b, exec (.fecResult p n i) s = .next { s with blk := b } ∧ b.ft = s.blk.ft ∧
      fget b F.ftPortFecCorrected p = satAdd F.ftPortFecCorrected.max (fget s.blk F.ftPortFecCorrected p) n ∧
      fget b F.ftPortFecUncorrected p = satAdd F.ftPortFecUncorrected.max (fget s.blk F.ftPortFecUncorrected p) i)

/-- For the twelve commands that bring a packet of a QP: on a port that is down the frame is lost; one that fails FCS,
the UDP checks or its CRC is discarded and counted in CRC of FT_RX_ERRORS, and changes no QP and no item (R323, R325),
and where replay runs on the port one with a bad FCS is answered with an LLR_NAK of the number expected (R369); one
that this node sent, or that is for another node, is counted in MISDIRECTED in the same way (R51, R324). A sound one
is counted as received (R673); one for a QP that is not resident waits in a receive context for the QP's load (R338);
in clear for a resident QP it goes to the QP; protected while every engine is fenced, it is discarded (R596). One for
a QP that does not exist is answered QP_UNKNOWN where it is sequenced, and discarded where it is not (R336). A QP 0
datagram goes to the management core (R318). LABEL_PROBE_TIMER of a valid DOWN label whose port is up and no longer
held sends a PROBE that names no message, in clear, on that label over a QP of its path set (R354, R377), once the QP
is resident (R338); of a label that is up nothing is sent. PTP_FRAME on UDP port 319 or 320 to this port passes to the
management core, an event message with its ingress time corrected by the port's dictionary value (R383, R384); one
that fails its checks is discarded and counted (R325). MG_FRAME_SEND sends a PTP message in a frame to a node, an
event message with its egress time, or a QP 0 datagram of class MG from this node to its target (R318). -/
def Obligations.FramesAreCheckedAndMessagesPass : Prop :=
  (∀ (c : Instr) (s : State) (f : Frame),
    (frameOf c = some f →
      (portUp s.blk f.port = false → exec c s = .next { s with blk := settle s.blk }) ∧
      (portUp s.blk f.port = true → f.shim = none →
        (f.fcsOk = false ∨ f.udpOk = false ∨ f.crc ≠ packetCrc f.hdr f.payload f.tag) →
        ∃ b, exec c s = .next { s with blk := settle b } ∧ { b.ft with ports := s.blk.ft.ports } = s.blk.ft ∧ b.he = s.blk.he ∧
          b.txns = s.blk.txns ∧ (fon s.blk F.ftPortStatusLlr f.port = false ∨ f.fcsOk = true → b.ft = s.blk.ft ∧ b.out = s.blk.out) ∧
          (fon s.blk F.ftPortStatusLlr f.port = true → f.fcsOk = false → ∃ wire,
            b.out = .llr f.port true (portOf s.blk f.port).rxNext wire :: s.blk.out) ∧
          fget b F.ftRxErrorsCrc 0 = satAdd F.ftRxErrorsCrc.max (fget s.blk F.ftRxErrorsCrc 0) 1) ∧
      (∀ k q, FrameFor s.blk f k q → q.resident = false → ∃ b x y, exec c s = .next { s with blk := settle b } ∧
        tfind b.ft.rx s.blk.ft.nextRx = some x ∧ x.frame = f ∧ x.qp = k ∧ x.stage = .load ∧
        tfind b.ft.qps k = some y ∧ y.loading = true ∧ y.cumNext = q.cumNext) ∧
      (FrameWhole s.blk f → f.hdr.srcNode = selfNode s.blk ∨ f.ifaceId ≠ selfNode s.blk ∨ f.hdr.dstNode ≠ selfNode s.blk →
        ∃ b, exec c s = .next { s with blk := settle b } ∧ b.ft = s.blk.ft ∧ b.he = s.blk.he ∧ b.txns = s.blk.txns ∧
          fget b F.ftRxErrorsMisdirected 0 = satAdd F.ftRxErrorsMisdirected.max (fget s.blk F.ftRxErrorsMisdirected 0) 1) ∧
      (∀ k q, FrameFor s.blk f k q → q.resident = true →
        (f.hdr.enc = false → exec c s = .next { s with blk := settle (rxPacket k f (counted s.blk f)) }) ∧
        (f.hdr.enc = true → allFenced s.blk = true → exec c s = .next { s with blk := settle (counted s.blk f) })) ∧
      (FrameSound s.blk f → (rxPool s.blk (homeTile f.hdr.dstQp) f.hdr.cls).isSome = true → tfind s.blk.ft.qps f.hdr.dstQp = none →
        exec c s = .next { s with blk := settle (if f.hdr.type ≤ 4 then sendNakUnknown f (counted s.blk f) else counted s.blk f) })) ∧
    (FrameSound s.blk f → f.hdr.dstQp = 0 →
      exec (.mgmt f) s = .next { s with blk := emit (.qp0 f.port f.hdr.srcNode f.payload) (counted s.blk f) })) ∧
  (∀ (s : State) (p : Nat),
    (∀ set l k q, tfind s.blk.ft.qps k = some q → q.pathSet = set → q.enc = false →
      let e := epochNow s.blk % 2
      let w := pathEntry s.blk e set l
      let h := { hdrZero with cls := clsFr, type := tyProbe, epoch := e, enc := false, path := l, dstQp := q.peerQp, srcQp := k,
                              srcNode := selfNode s.blk, dstNode := q.peerNode }
      (entValid s.blk w = true → (labelState s.blk set l).down = true → portUp s.blk (entPort w) = true →
        (portOf s.blk (entPort w)).held = false →
        (q.resident = true → linePoisoned s.blk 0 k = false → exec (.labelProbeTimer set l k) s =
          .next { s with blk := frameOut (mkFrame (entPort w) (entFlow w) (entUdp w) h [] []) s.blk }) ∧
        (q.resident = false → exec (.labelProbeTimer set l k) s =
          .next { s with blk := qpLoad k (modQp k (fun q => { q with dues := q.dues ++ [.probe set l] }) s.blk) })) ∧
      ((labelState s.blk set l).down = false → exec (.labelProbeTimer set l k) s = .next s)) ∧
    (∀ f, portUp s.blk f.port = true → f.shim = none → (f.udpDst = 319 ∨ f.udpDst = 320) → f.toSelf = true →
      let at_ := if PtpKind.isEvent f.kind then some (s.blk.now - dict s.blk 0x2104 f.port) else none
      (f.fcsOk = true → f.udpOk = true → exec (.ptpFrame f) s = .next { s with blk := emit (.ptp f.port f.kind f.payload at_) s.blk }) ∧
      (f.fcsOk = false ∨ f.udpOk = false → ∃ b, exec (.ptpFrame f) s = .next { s with blk := b } ∧ b.he = s.blk.he ∧
        fget b F.ftRxErrorsCrc 0 = satAdd F.ftRxErrorsCrc.max (fget s.blk F.ftRxErrorsCrc 0) 1)) ∧
    (∀ f, portUp s.blk f.port = true → f.toSelf = false ∨ (f.udpDst ≠ 319 ∧ f.udpDst ≠ 320) →
      exec (.ptpFrame f) s = .next { s with blk := badFrame f.port f.shim s.blk }) ∧
    (portUp s.blk p = true → (∀ k node payload, let at_ := if PtpKind.isEvent k then some (s.blk.now + dict s.blk 0x2105 p) else none
        let f : PtpOut := ⟨p, k, node, payload, none⟩
        exec (.mgFrameSend p (.ptp k node payload)) s = .next { s with blk := linkOut (.ptp f) s.blk } ∧
        (llrCovers s.blk p clsMg = false → linkOut (.ptp f) s.blk = emit (.ptpFrame p k (ptpBytes s.blk f) at_) s.blk)) ∧
      ∀ node payload, ∃ f, exec (.mgFrameSend p (.qp0 node payload)) s = .next { s with blk := frameOut f s.blk } ∧ f.port = p ∧
        f.hdr.cls = clsMg ∧ f.hdr.type = tyMgmt ∧ f.hdr.epoch = epochNow s.blk % 2 ∧ f.hdr.srcNode = selfNode s.blk ∧ f.hdr.dstNode = node ∧ f.payload = payload ∧
        f.crc = packetCrc f.hdr payload []) ∧
    (portUp s.blk p = false → ∀ m, exec (.mgFrameSend p m) s = .next s))

/-- The 256-bit key that CE_KEY_DATA holds, byte 0 lowest (R607). -/
def Sys2Proof.Safety.keyHeld (b : Block) : Nat :=
  (rget b .ceKeyData 0).toNat + (rget b .ceKeyData 1).toNat * 2 ^ 64 + (rget b .ceKeyData 2).toNat * 2 ^ 128 +
    (rget b .ceKeyData 3).toNat * 2 ^ 192

/-- For a command of CE_KEY_CMD that lands: LOAD takes an EMPTY slot to LOADED with the key held, ZERO a LOADED one to
EMPTY, STAGE gives an ACTIVE slot with no next key its next key and switch points where the transmit point lies ahead
(R602, R609), each with RESULT 0. A slot that does not exist answers 2, one in another state 1, and no slot changes.
All four key registers then read 0, whatever the result (R607). KEY_SWITCH_COMMIT of a slot whose switch points have
passed makes the next key current, counts the generation and a rekey (R604); with no next key it changes nothing.
CHECK_SLOT of an engine that is there, whose comparator flags the injected difference and with no mismatch, counts a
check and releases every result of that half in order (R615, R616); not flagged, it fences the engine; on an IDE
pipeline a failed check makes the streams of the port insecure (R620) and a good one changes nothing. MASK_SET_EXPIRY
uses up one of the sets of its copy, and the half asks for new ones once (R613). On a unit that is not there, and with
no set left, they change nothing. -/
def Obligations.KeySlotsAndCheckSlotsAct : Prop :=
  (∀ (s : State) (w : Agent) (half : Half) (val : BitVec 64) (b : Block) (i n : Nat),
    (Lands s.blk w .ceKeyCmd 0 i b → Names half F.ceKeyCmdOp → n = fget b F.ceKeySelSlot 256 →
      let tx := fget b F.ceKeySwitchTxPsn 0
      let k := keySlotOf b n
      let done := fun (c : Instr) (res : Nat) (slots : Tbl KeySlot) => ∃ d, exec c s = .next { s with blk := d } ∧
        fget d F.ceKeyStatusResult 0 = res ∧ d.ce.slots = slots ∧ (∀ j, j < 4 → rget d .ceKeyData j = 0#64) ∧ d.ft = b.ft
      (keyPresent b n = false → done (.load w half val) 2 b.ce.slots ∧ done (.stage w half val) 2 b.ce.slots ∧
        done (.zero w half val) 2 b.ce.slots) ∧
      (keyPresent b n = true →
        (k.state = 0 → done (.load w half val) 0 (tset slotEmpty b.ce.slots n { k with state := 1, key := keyHeld b })) ∧
        (k.state ≠ 0 → done (.load w half val) 1 b.ce.slots) ∧
        (k.state = 1 → done (.zero w half val) 0 (tset slotEmpty b.ce.slots n { k with state := 0, key := 0 })) ∧
        (k.state ≠ 1 → done (.zero w half val) 1 b.ce.slots) ∧
        (stageOk b n tx = true → done (.stage w half val) 0
          (tset slotEmpty b.ce.slots n { k with next := some (keyHeld b, tx, fget b F.ceKeySwitchRxPsn 0) })) ∧
        (stageOk b n tx = false → done (.stage w half val) 1 b.ce.slots))) ∧
    (∀ q key tx rx, (keySlotOf s.blk n).next = some (key, tx, rx) → (keySlotOf s.blk n).state = 2 →
      tfind s.blk.ft.qps (keySlotOf s.blk n).qp = some q → psnBefore (unaOf q) tx = false → psnBefore q.cumNext rx = false →
      q.reads = [] → s.blk.ft.rx = [] → ∃ d, exec (.keySwitchCommit n) s = .next { s with blk := d } ∧
        (keySlotOf d n).key = key ∧ (keySlotOf d n).next = none ∧ (keySlotOf d n).gen = ((keySlotOf s.blk n).gen + 1) % 65536 ∧
        fget d F.ceEventsRekeys 0 = satAdd F.ceEventsRekeys.max (fget s.blk F.ceEventsRekeys 0) 1) ∧
    ((keySlotOf s.blk n).next = none → exec (.keySwitchCommit n) s = .next s)) ∧
  (∀ (s : State) (t : Nat) (tx ok : Bool) (bad : List CipherVictim) (u : CipherHalf),
    let k := 2 * t + b2n tx
    (unitHere s.blk (.engine t tx) = true →
      exec (.checkSlot (.engine t tx) true true []) s = .next { s with blk := settle (each (halfOf s.blk k).outs outRelease
        (fbump F.ceEngineStatusChecks t 1 (modHalf k (fun h => { h with outs := [] }) s.blk))) } ∧
      exec (.checkSlot (.engine t tx) false ok bad) s = .next { s with blk := settle (engineFence t s.blk) }) ∧
    (unitHere s.blk (.ide t tx) = true →
      exec (.checkSlot (.ide t tx) true ok bad) s = .next { s with blk := settle s.blk } ∧
      exec (.checkSlot (.ide t tx) false ok bad) s = .next { s with blk := settle (eachN 5 (fun n b => ideInsecure t n b) s.blk) }) ∧
    (unitHere s.blk u = false → ∀ flagged copyB, exec (.checkSlot u flagged ok bad) s = .next { s with blk := settle s.blk } ∧
      exec (.maskSetExpiry u copyB) s = .next { s with blk := settle s.blk }) ∧
    (unitHere s.blk u = true → let h := halfOf s.blk (unitKey u)
      (1 < h.setsA → ∃ d, exec (.maskSetExpiry u false) s = .next { s with blk := settle d } ∧
        (halfOf d (unitKey u)).setsA = h.setsA - 1 ∧ (halfOf d (unitKey u)).setsB = h.setsB ∧
        (enState s.blk ≠ 3 → (halfOf d (unitKey u)).asked = true) ∧
        (enState s.blk ≠ 3 → h.asked = false → d.en.queue = s.blk.en.queue ++ [.mask (unitKey u)]) ∧
        (h.asked = true → d.en = s.blk.en)) ∧
      (1 < h.setsB → ∃ d, exec (.maskSetExpiry u true) s = .next { s with blk := settle d } ∧
        (halfOf d (unitKey u)).setsB = h.setsB - 1 ∧ (halfOf d (unitKey u)).setsA = h.setsA) ∧
      (h.setsA = 0 → exec (.maskSetExpiry u false) s = .next { s with blk := settle s.blk })))

/-- HEALTH_TEST_FAILURE of a READY source whose last retest did not pass within one second counts the failure, records
its cause and leads to RETEST (R625 steps 1 and 2); in RETEST it latches FAILED. RETEST_DONE with a pass leads from
RETEST to READY and reseeds; with a failure, and at RETEST_TIMEOUT, it latches FAILED. RESTART leads from FAILED to
RETEST, and is ignored in another state (R628). DRBG_RESEED of a READY source reseeds (R623). DRBG_REQUEST_SERVED
serves the oldest request of a READY source: 16 seed words for a tile or a mask set for each copy of a half (R613,
R624); the words themselves are free values (log entry 3). -/
def Obligations.EntropySourceFollowsItsTests : Prop :=
  ∀ (s : State) (w : Agent) (half : Half) (val : BitVec 64) (b0 : Block) (i : Nat) (t : HealthTest) (r : RetestResult),
    (enState s.blk = 1 → (∀ x, s.blk.en.passedAt = some x → x + 10 ^ 9 < s.blk.now) → ∃ d,
      exec (.healthTestFailure t) s = .next { s with blk := settle (enRetest d) } ∧ fget d F.enStatusCause 0 = HealthTest.cause t ∧
      d.en = s.blk.en ∧ d.he = s.blk.he) ∧
    (∀ d, ∃ c, enRetest d = each ((allHalves c).filter (fun k => decide (100 ≤ k))) stallEffect c ∧ enState c = 2 ∧
      fget c F.enStatusRetests 0 = satAdd F.enStatusRetests.max (fget d F.enStatusRetests 0) 1 ∧ c.en = d.en) ∧
    (enState s.blk = 2 → exec (.healthTestFailure t) s =
      .next { s with blk := settle (enFail (HealthTest.cause t) (countFail (HealthTest.cause t) s.blk)) }) ∧
    (enState s.blk = 2 → ∃ d, exec (.retestDone .pass) s = .next { s with blk := settle d } ∧ enState d = 1 ∧
      d.en.passedAt = some s.blk.now ∧ d.en.reseeds = s.blk.en.reseeds + 1 ∧ d.en.sinceReseed = 0 ∧ d.he = s.blk.he) ∧
    (enState s.blk = 2 → r ≠ .pass → exec (.retestDone r) s =
      .next { s with blk := settle (enFail (RetestResult.cause r) (countFail (RetestResult.cause r) s.blk)) }) ∧
    (enState s.blk = 2 → exec .retestTimeout s = .next { s with blk := settle (enFail 4 s.blk) }) ∧
    (enState s.blk ≠ 2 → exec (.retestDone r) s = .next { s with blk := settle s.blk } ∧
      exec .retestTimeout s = .next { s with blk := settle s.blk }) ∧
    (Lands s.blk w .enCtl 0 i b0 → Names half F.enCtlRestart → ∃ d, (∀ q j, regKey q j ≠ regKey .enCtl i → rget d q j = rget b0 q j) ∧
      { d with regs := b0.regs } = b0 ∧ (enState b0 = 3 → exec (.restart w half val) s = .next { s with blk := enRetest d }) ∧
      (enState b0 ≠ 3 → exec (.restart w half val) s = .next { s with blk := ignored .en w none d })) ∧
    (enState s.blk = 1 → exec .drbgReseed s =
      .next { s with blk := modEn (fun e => { e with sinceReseed := 0, reseeds := e.reseeds + 1 }) s.blk }) ∧
    (enState s.blk ≠ 1 → exec .drbgReseed s = .next s ∧ exec .drbgRequestServed s = .next { s with blk := settle s.blk }) ∧
    (∀ n rest, enState s.blk = 1 → s.blk.en.queue = .seeds n :: rest → s.blk.en.sinceReseed + 1 < 2 ^ 16 → ∃ d,
      exec .drbgRequestServed s = .next { s with blk := settle d } ∧ d.en.queue = rest ∧ d.fresh = s.blk.fresh + 16 ∧
      tget [] d.en.seeds n = tget [] s.blk.en.seeds n ++ (List.range 16).map (fun j => Config.random (s.blk.fresh + j))) ∧
    (∀ n rest, enState s.blk = 1 → s.blk.en.queue = .mask n :: rest → s.blk.en.sinceReseed + 1 < 2 ^ 16 →
      (halfOf s.blk n).setsA = 1 → (halfOf s.blk n).setsB = 1 → ∃ d, exec .drbgRequestServed s = .next { s with blk := settle d } ∧
      d.en.queue = rest ∧ (halfOf d n).setsA = 2 ∧ (halfOf d n).setsB = 2 ∧ (halfOf d n).asked = false)

/-- TIME_STATE_REPORT moves domain time no further back (R385), records the offset, counts good Syncs in a row (a far
one clears the count), and: with no PTP domain declared the state is FREE_RUN, 3; after RELOCK good Syncs it is
LOCKED, 0; a far Sync leads from LOCKED to HOLDOVER, 1; else it stays (R386, R390). SYNC_MISS leads from LOCKED to
HOLDOVER once the limit of misses is reached. HOLDOVER_EXPIRY leads from HOLDOVER to UNLOCKED, 2, and raises fault
source 233; in another state it changes nothing. -/
def Obligations.TimeStateFollowsTheSyncs : Prop :=
  ∀ (s : State) (time : Nat) (off : Int),
    let good := off.natAbs ≤ fget s.blk F.psTimeCtlLimit 0
    let n := if good then satAdd 65535 (fget s.blk F.psOffsetSyncs 0) 1 else 0
    (∃ b, exec (.timeStateReport time off) s = .next { s with blk := b } ∧ b.now = max s.blk.now time ∧ b.ps.misses = 0 ∧
      fget b F.psOffsetOffset 0 = (off % 2 ^ 32).toNat ∧ fget b F.psOffsetSyncs 0 = n % 2 ^ 16 ∧ b.he = s.blk.he ∧
      timeState b = (if ptpDeclared s.blk = false then 3
        else if ¬ good then (if timeState s.blk = 0 then 1 else timeState s.blk)
        else if timeLimit s.blk F.psTimeCtlRelock ≤ n then 0 else timeState s.blk)) ∧
    (∃ b, exec .syncMiss s = .next { s with blk := b } ∧ b.ps.misses = s.blk.ps.misses + 1 ∧
      timeState b = (if timeLimit s.blk F.psTimeCtlMiss ≤ s.blk.ps.misses + 1 ∧ timeState s.blk = 0 then 1 else timeState s.blk)) ∧
    (timeState s.blk = 1 → exec .holdoverExpiry s = .next { s with blk := fhRaise 233 .none none false (timeEnter 2 s.blk) } ∧
      timeState (timeEnter 2 s.blk) = 2) ∧
    (timeState s.blk ≠ 1 → exec .holdoverExpiry s = .next s)

/-- With an active schedule. ROPED_PHASE_START leads from the guard to the roped phase, not before the guard has
passed (R392), and releases that UNLOCKED stopped go on (R386). ROPED_EXTENSION with roped work unfinished extends the
phase and counts it (R419, R421). ROPED_PHASE_END with the work done leads to the free phase and notes its instant,
not before the nominal end (R419). SLACK_PHASE_START leads to the slack phase, whose length the lag and the resends
give (R420; the time of the resends is the model's reading, log entry 24). PITCH_START from the slack phase begins the
next pitch in its guard phase, with the lag that it is behind its nominal start (R420). In another phase each changes
nothing. -/
def Obligations.PhasesOfAPitchFollowEachOther : Prop :=
  ∀ (s : State) (c : Sched), s.blk.ps.sched = some c →
    let p := s.blk.ps
    (p.phase = 0 → ∃ b, exec .ropedPhaseStart s = .next { s with blk := settle b } ∧ b.ps = { p with phase := 1, relock := false } ∧
      b.now = max s.blk.now (p.start + c.guard)) ∧
    (p.phase ≠ 0 → exec .ropedPhaseStart s = .next { s with blk := settle s.blk }) ∧
    (p.phase = 1 → p.ext = false → ropedDone s.blk c = false → ∃ b, exec .ropedExtension s = .next { s with blk := settle b } ∧
      b.ps = { p with ext := true } ∧ b.now = max s.blk.now (ropedNominal s.blk c) ∧
      fget b F.psEventsExtended 0 = satAdd F.psEventsExtended.max (fget s.blk F.psEventsExtended 0) 1) ∧
    (p.phase = 1 → ropedDone s.blk c = true → ∃ b, exec .ropedPhaseEnd s = .next { s with blk := settle b } ∧
      b.now = max s.blk.now (ropedNominal s.blk c) ∧ b.ps = { p with phase := 2, ext := false, ropedEnd := some b.now }) ∧
    (p.phase ≠ 1 → exec .ropedPhaseEnd s = .next { s with blk := settle s.blk } ∧
      exec .ropedExtension s = .next { s with blk := settle s.blk }) ∧
    (∀ e, p.phase = 2 → p.ropedEnd = some e → ∃ b, exec .slackPhaseStart s = .next { s with blk := settle b } ∧
      b.now = max s.blk.now (e + c.free) ∧ b.ps.phase = 3 ∧ b.ps.n = p.n ∧
      b.ps.slackLen = slackGive c.slack (p.lag + (e - ropedNominal s.blk c)) (resendTime s.blk)) ∧
    (∀ e, p.phase = 3 → p.ropedEnd = some e → swapNext s.blk c = false → ∃ b, exec .pitchStart s = .next { s with blk := settle b } ∧
      b.now = max s.blk.now (e + c.free + p.slackLen) ∧ b.ps.n = p.n + 1 ∧ b.ps.phase = 0 ∧ b.ps.start = b.now ∧
      b.ps.lag = b.now - (c.origin + (p.n + 1) * c.len) ∧ b.ps.sched = some c) ∧
    (p.phase ≠ 3 → exec .pitchStart s = .next { s with blk := settle s.blk }) ∧
    (p.phase ≠ 2 → exec .slackPhaseStart s = .next { s with blk := settle s.blk })

/-- ROUND_RELEASE of a card whose waiting round is ready releases it and opens the gate of each of its items (R405);
one that is not ready stays. ROUND_ABANDON of a round that has settled changes nothing; one past its bound is
abandoned (R422). SCHEDULE_SWAP_ARM sets PENDING and starts the check, or is ignored while PENDING or RETIRING (R415)
and on a variant with no pitch sequencer. SCHEDULE_CHECK_DONE takes what lies in the depot from there (R416) and
stages a schedule that passes, with its boundary; one that fails clears PENDING and records ERR (R412, R413), after
what the reads of the load met is recorded (R260, R261). SCHEDULE_ACTIVATE of a staged schedule with none active makes
it active from pitch 0, not before its origin, with GEN one more and PENDING 0; with none staged it changes nothing.
-/
def Obligations.RoundsReleaseAndSchedulesSwap : Prop :=
  ∀ (s : State) (w : Agent) (half : Half) (val : BitVec 64) (b0 : Block) (i card k : Nat) (data : SchedData),
    (∀ c x r, cardAt s.blk (schedGen s.blk) card = some (c, x) → roundWaiting s.blk card = some r →
      (roundReady s.blk c x r = true → x.recv = false → ∃ b, exec (.roundRelease card) s = .next { s with blk := settle b } ∧
        b.now = max s.blk.now (s.blk.ps.start + c.guard + x.offset) ∧
        (∀ y, y ∈ b.ps.rounds → roundIs r.gen card r.k y = true → y.released = some b.now) ∧
        (∀ n it, n ∈ r.items → tfind s.blk.he.items n = some it → tfind b.he.items n = some { it with released := true })) ∧
      (roundReady s.blk c x r = false → exec (.roundRelease card) s = .next { s with blk := settle s.blk })) ∧
    ((∀ r, r ∈ s.blk.ps.rounds → r.card = card → r.k = k → r.settled = true) →
      exec (.roundAbandon card k) s = .next { s with blk := settle s.blk }) ∧
    (∀ r c x, s.blk.ps.rounds = [r] → r.card = card → r.k = k → r.settled = false → r.abandoned = false →
      cardAt s.blk r.gen card = some (c, x) → abandonAt c x k ≤ s.blk.now →
      exec (.roundAbandon card k) s = .next { s with blk := settle (roundAbandonStep 4097 r.gen card k s.blk) }) ∧
    (Lands s.blk w .psSwapCtl 0 i b0 → Names half F.psSwapCtlSwap →
      (swapPending b0 = true ∨ swapRetiring b0 = true ∨ (variant b0).pitch = false → exec (.scheduleSwapArm w half val) s =
        .next { s with blk := regIgnored w .psSwapCtl b0 }) ∧
      ((variant b0).pitch = true → swapPending b0 = false → swapRetiring b0 = false → exec (.scheduleSwapArm w half val) s =
        .next { s with blk := modPs (fun p => { p with checking := true }) (fput F.psSwapCtlPending 0 1 b0) })) ∧
    (s.blk.ps.checking = true → ∃ b, exec (.scheduleCheckDone data) s = .next { s with blk := settle b } ∧ b.ps.checking = false ∧
      let d := schedRead s.blk s.depot data
      let a := readEvents d.events s.blk
      let e := schedError a d (shadowSched a d)
      (e.1 = 0 → b.ps.staged = some { (shadowSched a d) with origin := swapOrigin a } ∧ b.regs = a.regs) ∧
      (e.1 ≠ 0 → b.ps.staged = a.ps.staged ∧ swapPending b = false ∧ fget b F.psSwapCtlErr 0 = e.1)) ∧
    (s.blk.ps.staged = none → exec .scheduleActivate s = .next { s with blk := settle s.blk }) ∧
    (∀ t, s.blk.ps.staged = some t → s.blk.ps.sched = none → ∃ b, exec .scheduleActivate s = .next { s with blk := settle b } ∧
      b.ps.sched = some t ∧ b.ps.staged = none ∧ b.ps.n = 0 ∧ b.ps.phase = 0 ∧ t.origin ≤ b.now ∧ swapPending b = false ∧
      schedGen b = (schedGen s.blk + 1) % 65536)

/-- On a port whose link is up (R430, R434, R457): CONFIG_READ of an enabled function answers the doubleword at its
aligned offset; a function that is not there answers Unsupported Request; while the port answers Request Retry Status,
that is the answer to all. CONFIG_WRITE answers in the same way, and of an enabled function it first has the effect of
the doubleword: at a BAR of the PF only its writable bits under the byte mask change (R435; which bits those are is
the family's layout, log entry 13). On a port whose link is down both change nothing. DOE Discovery of index 0, 1 or 2
answers vendor 1, that protocol and the next index (R433). -/
def Obligations.ConfigurationSpaceAnswers : Prop :=
  ∀ (s : State) (h fn off : Nat) (mask val : BitVec 32),
    let f := 128 * h + fn
    let b := hostTlp h s.blk
    (∀ i, let l := [1#32, 3#32, BitVec.ofNat 32 i]
      ∀ c, (tget ([], []) c.hp.doe h).1 = l → i < 3 →
        (tget ([], []) (doeWrite h 0x3E8 0x80000000#32 c).hp.doe h).2 = [1#32, 3#32, BitVec.ofNat 32 (1 + i * 2 ^ 16 + (i + 1) % 3 * 2 ^ 24)]) ∧
    (hostUp s.blk h = false → exec (.configRead h fn off) s = .next s ∧
      exec (.configWrite h fn off mask val) s = .next { s with blk := settle s.blk }) ∧
    (hostUp s.blk h = true → cfgRetry b h = true →
      exec (.configRead h fn off) s = .next { s with blk := emitTlp h (.completion f .retry) b } ∧
      exec (.configWrite h fn off mask val) s = .next { s with blk := settle (emitTlp h (.completion f .retry) b) }) ∧
    (hostUp s.blk h = true → cfgRetry b h = false → fnEnabled b f = false →
      exec (.configRead h fn off) s = .next { s with blk := emitTlp h (.completion f .ur) b } ∧
      exec (.configWrite h fn off mask val) s = .next { s with blk := settle (emitTlp h (.completion f .ur) b) }) ∧
    (hostUp s.blk h = true → cfgRetry b h = false → fnEnabled b f = true →
      (let word := cfgGet b f (off / 4 * 4) ||| BitVec.ofNat 32 (cfgFixed b f (off / 4 * 4)) |||
          (if f % 128 = 0 then doeRead b (f / 128) (off / 4 * 4) else 0#32);
        exec (.configRead h fn off) s = .next { s with blk := emitTlp h (.completion f (.data (leBytes 4 word.toNat) false)) b }) ∧
      (off < 4096 → exec (.configWrite h fn off mask val) s = .next { s with blk := settle (emitTlp h
        (.completion f (.data [] false)) (cfgEffect f (off / 4 * 4) mask val b)) }) ∧
      (fn = 0 → 0x10 ≤ off → off < 0x28 → cfgEffect f (off / 4 * 4) mask val b =
        cfgPut f (off / 4 * 4) (cfgNew b f (off / 4 * 4) mask val) b))

/-- Of an enabled function, BUS_MASTER_CLEAR clears the bit and, where it was in effect, cuts the function's requests
with status 0x020 (R460); BUS_MASTER_SET sets it and sends what the PBA holds (R461). SET_D3HOT of a PF in D0 cuts
each of its functions, SET_D0 brings it back (R462). BAR_SIZE_WRITE on a port that is up stores an offered size and
clears the BAR's address bits below it, does nothing with another, and is ignored and counted while memory space is
enabled (R436). L1_ENTRY and L0P_NARROW act where the host and the block allow them (R463, R464). LINK_UP stores rate,
width (also as the width trained) and protocol, then sends pending MSI-X messages (R469). TLP_ERROR raises source
32h+33 and CORRECTABLE_ERROR records 32h+32 (R559). A function or port that is not there changes nothing. -/
def Obligations.BusMasteringAndPowerChange : Prop :=
  ∀ (s : State) (h fn n rate width : Nat) (cxl : Bool),
    let f := 128 * h + fn
    (fnEnabled s.blk f = true →
      (bmeOn s.blk f = true → exec (.busMasterClear h fn) s = .next { s with blk := settle (hostCut f 0x020
        (cfgPut f 0x04 (cfgGet s.blk f 0x04 &&& ~~~4#32) s.blk)) }) ∧
      (bmeOn s.blk f = false → exec (.busMasterClear h fn) s = .next { s with blk := settle (cfgPut f 0x04
        (cfgGet s.blk f 0x04 &&& ~~~4#32) s.blk) }) ∧
      exec (.busMasterSet h fn) s = .next { s with blk := settle (msixFlush f
        (cfgPut f 0x04 (cfgGet s.blk f 0x04 ||| 4#32) s.blk)) }) ∧
    (fnEnabled s.blk f = false → exec (.busMasterClear h fn) s = .next { s with blk := settle s.blk } ∧
      exec (.busMasterSet h fn) s = .next { s with blk := settle s.blk }) ∧
    (hostUp s.blk h = true → inD3 s.blk h = false → exec (.setD3hot h) s = .next { s with blk := settle (each
      (portFns s.blk h) (fun fn b => hostCut fn 0x020 b) (cfgPut (128 * h) 0x44 3#32 s.blk)) }) ∧
    (hostUp s.blk h = true → inD3 s.blk h = true → exec (.setD0 h) s = .next { s with blk := settle (each
      (portFns s.blk h) (fun fn b => msixFlush fn b) (cfgPut (128 * h) 0x44 0#32 s.blk)) }) ∧
    (∀ vf, let blocked := if vf then cfgBit s.blk (128 * h) 0x368 3 else cfgBit s.blk (128 * h) 0x04 1
      (hostUp s.blk h = false → exec (.barSizeWrite h vf n) s = .next { s with blk := settle s.blk }) ∧
      (hostUp s.blk h = true → blocked = true → exec (.barSizeWrite h vf n) s =
        .next { s with blk := settle (fbump F.hpEventsWinUr h 1 (ignored .hp (.pf h) none s.blk)) }) ∧
      (hostUp s.blk h = true → blocked = false → ¬ (if vf then 8 ≤ n ∧ n ≤ 12 else 10 ≤ n ∧ n ≤ 18) →
        exec (.barSizeWrite h vf n) s = .next { s with blk := settle s.blk }) ∧
      (hostUp s.blk h = true → blocked = false → (if vf then 8 ≤ n ∧ n ≤ 12 else 10 ≤ n ∧ n ≤ 18) → s.blk.hp.tdi = [] →
        let bar := if vf then 0x394 else 0x20
        let b := cfgPut (128 * h) (if vf then 0x3D8 else 0x3C8) (BitVec.ofNat 32 (n * 2 ^ 8)) s.blk
        exec (.barSizeWrite h vf n) s = .next { s with blk := settle (cfgPut (128 * h) bar
          (cfgGet b (128 * h) bar &&& BitVec.ofNat 32 (barLow (20 + n))) (cfgPut (128 * h) (bar + 4)
            (cfgGet b (128 * h) (bar + 4) &&& BitVec.ofNat 32 (barHigh (20 + n))) b)) })) ∧
    (hostUp s.blk h = true → fon s.blk F.hpPmCtlL1Allow h = true → cfgBit s.blk (128 * h) 0x70 1 = true → s.blk.he.items = [] →
      s.blk.hp.wins = [] → postQueue s.blk h = [] → fget s.blk F.hpPortStatusLstate h ≤ 1 → ∃ b, exec (.l1Entry h) s = .next { s with blk := b } ∧
        2 ≤ fget b F.hpPortStatusLstate h ∧ fget b F.hpPortStatusLstate h ≤ 4 ∧ b.hp = s.blk.hp) ∧
    (hostUp s.blk h = true → fon s.blk F.hpPmCtlL0pAllow h = true → 6 ≤ fget s.blk F.hpPortStatusRate h →
      cfgBit s.blk (128 * h) 0x318 3 = true → 4 < fget s.blk F.hpPortStatusWidth h → fget s.blk F.hpPortStatusLstate h ≤ 1 → ∃ b, exec (.l0pNarrow h) s = .next { s with blk := b } ∧
        fget b F.hpPortStatusWidth h = fget s.blk F.hpPortStatusWidth h / 2 ∧ fget b F.hpPortStatusLstate h = 1 ∧ b.hp = s.blk.hp) ∧
    (portPresent s.blk h = true → h ∉ s.blk.hp.perst → rate ≤ 6 → width ≤ 16 → ∃ b, exec (.linkUp h rate width cxl) s =
      .next { s with blk := settle (retryFall h (each (portFns b h) (fun fn b => msixFlush fn b) b)) } ∧ fget b F.hpPortStatusLinkUp h = 1 ∧
      fget b F.hpPortStatusRate h = rate ∧ fget b F.hpPortStatusWidth h = width ∧
      b.hp = { s.blk.hp with trained := tput s.blk.hp.trained h width } ∧
      fget b F.hpPortStatusProto h = if cxl && fon s.blk F.hpPortCtlCxl h && rate == 6 then 2 else 1) ∧
    (portPresent s.blk h = true → exec (.tlpError h fn) s =
        .next { s with blk := fhRaise (32 * h + 33) (.fn f) (vfPart s.blk f) false s.blk } ∧
      exec (.correctableError h) s = .next { s with blk := fhNote (32 * h + 32) (.port h) none s.blk }) ∧
    (portPresent s.blk h = false → exec (.tlpError h fn) s = .next s ∧ exec (.correctableError h) s = .next s)

/-- FUNCTION_LEVEL_RESET of an enabled VF resets it, of the PF every function of the port (R453, R454): what it clears
leaves no window, no TDI and FLR_ACTIVE at 1. FLR_SOURCE_DEADLINE and FLR_DEADLINE end early, and then by force, each
item of the function with status 0x021 while FLR_ACTIVE is 1 (R455, R456). VF_DISABLE stores VF Enable and NumVFs.
HOT_RESET resets a port; DL_DOWN of a port that is up also counts, sets REMOVED with PROTO 4, and raises source 32h+35
(R467); PERST_ASSERT takes the link down with PROTO 3 and resets the port, or the block by PERST_BLOCK; PERST_RELEASE
lets it train (R457). A port whose functions are reset answers Request Retry Status. -/
def Obligations.FunctionAndPortResetsTakePlace : Prop :=
  ∀ (s : State) (h fn : Nat),
    let f := 128 * h + fn
    (fnEnabled s.blk f = true → exec (.functionLevelReset h fn) s =
      .next { s with blk := settle (if f % 128 = 0 then fnsReset (portFns s.blk (f / 128)) s.blk else fnReset f s.blk) }) ∧
    (fnEnabled s.blk f = false → exec (.functionLevelReset h fn) s = .next { s with blk := settle s.blk }) ∧
    (flrActive (fnClear f s.blk) f = true ∧ (∀ w, w < 64 → tfind (fnClear f s.blk).hp.windows (64 * f + w) = none) ∧
      (fnClear f s.blk).he = s.blk.he ∧ (fnClear f s.blk).txns = s.blk.txns) ∧
    (flrActive s.blk f = true →
      exec (.flrSourceDeadline h fn) s = .next { s with blk := settle (each (itemsOf s.blk (fun it => it.fn == f))
        (fun i b => itemEarly i 0x021 b) s.blk) } ∧
      exec (.flrDeadline h fn) s = .next { s with blk := settle (flrBound f (settle (itemsEnd (itemsOf s.blk (fun it => it.fn == f))
        0x021 s.blk))) }) ∧
    (∀ c, flrActive (flrDrop f c) f = false ∧ (flrDrop f c).he = c.he) ∧
    (flrActive s.blk f = false → exec (.flrSourceDeadline h fn) s = .next { s with blk := settle s.blk }) ∧
    (portPresent s.blk h = true →
      (∀ en n, exec (.vfDisable h en n) s = .next { s with blk := settle (vfControl h
        (if en then cfgGet s.blk (128 * h) 0x368 ||| 1#32 else cfgGet s.blk (128 * h) 0x368 &&& ~~~1#32)
        ((cfgGet s.blk (128 * h) 0x370 &&& 0xFFFF0000#32) ||| BitVec.ofNat 32 (n % 65536)) s.blk) }) ∧
      exec (.hotReset h) s = .next { s with blk := settle (portReset h s.blk) } ∧
      (∃ c, portReset h s.blk = fnsReset (portFns s.blk h) c ∧ cfgRetry c h = true ∧ c.regs = s.blk.regs) ∧
      (∃ c, (fon s.blk F.hpPortCtlPerstBlock h = false → exec (.perstAssert h) s = .next { s with blk := settle (portReset h c) }) ∧
        h ∈ c.hp.perst ∧ fget c F.hpPortStatusLinkUp h = 0 ∧ fget c F.hpPortStatusProto h = 3) ∧
      (∃ c, (fon s.blk F.hpPortCtlPerstBlock h = true → exec (.perstAssert h) s = .next { s with blk := settle c }) ∧
        h ∈ c.hp.perst ∧ fget c F.hpPortStatusLinkUp h = 0 ∧ fget c F.hpPortStatusProto h = 3 ∧ c.he = (blockReset s.blk).he) ∧
      (hostUp s.blk h = true → ∃ c, exec (.dlDown h) s = .next { s with blk := settle (portReset h
          (fhRaise (32 * h + 35) (.port h) none false c)) } ∧ fget c F.hpPortStatusRemoved h = 1 ∧ fget c F.hpPortStatusLinkUp h = 0 ∧
        fget c F.hpPortStatusProto h = 4 ∧
        fget c F.hpPortStatusDlDowns h = satAdd F.hpPortStatusDlDowns.max (fget s.blk F.hpPortStatusDlDowns h) 1)) ∧
    (hostUp s.blk h = false → exec (.dlDown h) s = .next { s with blk := settle s.blk }) ∧
    (∃ b, exec (.perstRelease h) s = .next { s with blk := b } ∧ h ∉ b.hp.perst ∧ b.regs = s.blk.regs ∧ b.he = s.blk.he)

/-- A BAR4 access of function `fn` arrives on a port that is up and takes memory accesses, over no Insecure stream and with none before it in
the receive queue; `b` is the block as it finds it. -/
def Sys2Proof.Safety.BarHears (b0 : Block) (fn : Nat) (b : Block) : Prop :=
  hostUp b0 (fn / 128) = true ∧ ideOff b0 fn = false ∧ postQueue b0 (fn / 128) = [] ∧ b = hostTlp (fn / 128) b0 ∧ stopped b = false ∧ mseOn b fn = true ∧ inD3 b (fn / 128) = false ∧
    (fn % 128 ≠ 0 → (vfPart b fn).isSome = true)

/-- A QP that is created belongs to a partition of the agent (R32). -/
def Sys2Proof.Safety.QpMine (b : Block) (w : Agent) (q : Nat) : Prop := ∀ x, tfind b.ft.qps q = some x → owns b w x.part = true

/-- BAR4_READ and BAR4_WRITE of a function that hears them (R440): the window is the one whose index the offset gives
(R61). A valid window with the right that holds the access opens one with the window's base plus offset, partition,
address space, data and length; where the window lacks the right, that access fails at once with cause 0x10 (R442,
R443). With no window, an invalid one or an access past its end, a read is answered Unsupported Request, a write is
dropped, and either is counted in HP_EVENTS. WINDOW_READ_TIMEOUT of an open read answers it with Completer Abort,
counts it and raises source 32h+37 (R443). A write that the 4 MiB landing buffer does not take waits in the receive
queue (R446). WINDOW_CONTROL_WRITE that lands puts the staged base and length into effect with what is written (R439);
with a partition or QP of another it is ignored and counted (R32). -/
def Obligations.WindowAccessesBeginOrAreRefused : Prop :=
  ∀ (s : State) (h fn off : Nat) (data : List (BitVec 8)) (b : Block),
    let f := 128 * h + fn
    let k := winBits b f
    let n := b.hp.nextWin
    (BarHears s.blk f b → (tfind b.hp.windows (64 * f + off / 2 ^ k) = none ∨ ∃ w, tfind b.hp.windows (64 * f + off / 2 ^ k) = some w ∧
        (w.ctl.getLsbD 63 = false ∨ (if w.len < 2 ^ k then w.len else 2 ^ k) < off % 2 ^ k + (if data.length = 0 then 1 else data.length))) →
      exec (.bar4Read h fn off data.length) s = .next { s with blk := settle (emitTlp (f / 128) (.completion f .ur)
        (fbump F.hpEventsWinUr (f / 128) 1 b)) } ∧
      (landingBytes s.blk (f / 128) + data.length ≤ landingSize →
        exec (.bar4Write h fn off data) s = .next { s with blk := settle (fbump F.hpEventsWinUr (f / 128) 1 b) })) ∧
    (hostUp s.blk (f / 128) = true → landingSize < landingBytes s.blk (f / 128) + data.length → exec (.bar4Write h fn off data) s =
      .next { s with blk := settle (modHp (fun p =>
        { p with queue := tput p.queue (f / 128) (postQueue s.blk (f / 128) ++ [.bar4 f off data.length (some data)]) }) s.blk) }) ∧
    (∀ w, BarHears s.blk f b → tfind b.hp.windows (64 * f + off / 2 ^ k) = some w → w.ctl.getLsbD 63 = true →
      off % 2 ^ k + (if data.length = 0 then 1 else data.length) ≤ (if w.len < 2 ^ k then w.len else 2 ^ k) →
      ∃ x y a c, exec (.bar4Read h fn off data.length) s =
          .next { s with blk := settle (if w.ctl.getLsbD 1 then x else winFail n 0x10 (w.base + off % 2 ^ k) x) } ∧
        (landingBytes s.blk (f / 128) + data.length ≤ landingSize → exec (.bar4Write h fn off data) s =
          .next { s with blk := settle (if w.ctl.getLsbD 2 then y else winFail n 0x10 (w.base + off % 2 ^ k) y) }) ∧
        tfind x.hp.wins n = some a ∧ tfind y.hp.wins n = some c ∧ a.read = true ∧ c.read = false ∧ a.fn = f ∧ c.fn = f ∧
        a.va = w.base + off % 2 ^ k ∧ c.va = a.va ∧ a.len = data.length ∧ c.len = data.length ∧ c.data = data ∧ a.answered = false ∧
        a.asn = qbits w.ctl 27 16 ∧ c.asn = a.asn ∧ c.part = a.part ∧
        a.part = (if f % 128 = 0 then qbits w.ctl 31 28 else (vfPart b f).getD 0) ∧ x.regs = b.regs ∧ y.regs = b.regs) ∧
    (∀ a m, tfind s.blk.hp.wins m = some a → a.read = true → a.answered = false → ∃ c, exec (.windowReadTimeout m) s =
      .next { s with blk := settle (winDrop m (fhRaise (32 * (a.fn / 128) + 37) (.fn a.fn) (vfPart c a.fn) false c)) } ∧
      fget c F.hpEventsWinTimeout (a.fn / 128) = satAdd F.hpEventsWinTimeout.max (fget s.blk F.hpEventsWinTimeout (a.fn / 128)) 1 ∧
      .completion a.fn .ca ∈ c.out ∧ c.he = s.blk.he) ∧
    (∀ m, tfind s.blk.hp.wins m = none → exec (.windowReadTimeout m) s = .next { s with blk := settle s.blk }) ∧
    (∀ w half val win i, Lands s.blk w .hpWinCtl win i b → (∀ p v, w ≠ .vf p v) →
      let new := written b .hpWinCtl i val (halfMask half)
      (owns b w (F.hpWinCtlPartition.of new) = false ∨ ¬ QpMine b w (F.hpWinCtlQp.of new) → exec (.windowControlWrite w win half val) s =
        .next { s with blk := regIgnored w .hpWinCtl b }) ∧
      (owns b w (F.hpWinCtlPartition.of new) = true → QpMine b w (F.hpWinCtlQp.of new) → s.blk.hp.tdi = [] → ∃ d, exec (.windowControlWrite w win half val) s =
        .next { s with blk := d } ∧ rget d .hpWinCtl i = new ∧ tfind d.hp.windows (64 * (i / 64) + i % 64) =
          some ⟨(rget b .hpWinBase i).toNat, (rget b .hpWinLen i).toNat, new⟩)) ∧
    (∀ p v half val win i, Lands s.blk (.vf p v) .hpWinCtl win i b →
      let new := fset F.hpWinCtlPartition ((vfPart b (128 * p + v)).getD 0) (written b .hpWinCtl i val (halfMask half))
      (¬ QpMine b (.vf p v) (F.hpWinCtlQp.of new) → exec (.windowControlWrite (.vf p v) win half val) s =
        .next { s with blk := regIgnored (.vf p v) .hpWinCtl b }) ∧
      (QpMine b (.vf p v) (F.hpWinCtlQp.of new) → ∃ d, exec (.windowControlWrite (.vf p v) win half val) s = .next { s with blk := d } ∧
        rget d .hpWinCtl i = new ∧
        tfind d.hp.windows (64 * (i / 64) + i % 64) = some ⟨(rget b .hpWinBase i).toNat, (rget b .hpWinLen i).toNat, new⟩))

/-- On a part with the cipher: KEY_PROG under a session stores the key of a slot, K_SET_GO puts a key set that has a
key into use and ends the insecure state of the stream, K_SET_STOP takes it out (R619; the order of key slots is the
model's choice, log entry 12). Without a session they change nothing. IDE_INTEGRITY_FAILURE makes a stream insecure,
raises source 32h+36 and cuts the functions bound to it (R473); a stream already insecure stays as it is.
TDISP_REQUEST locks an unlocked TDI of an enabled VF and starts a locked one, and TDISP_STOP_INTERFACE unlocks it
(R474). -/
def Obligations.IdeStreamsAndTdiStatesChange : Prop :=
  ∀ (s : State) (h n stream sub dir set vf : Nat) (key : BitVec 256),
    ((variant s.blk).cipher = true → portPresent s.blk h = true → stream < 5 → sub < 3 → dir < 2 → set < 2 →
      let slot := ideSlot stream sub dir set
      (∃ b, exec (.keyProg h slot key true) s = .next { s with blk := b } ∧ tfind b.ce.ideKeys (64 * h + slot) = some key ∧
        (∀ k, k ≠ 64 * h + slot → tfind b.ce.ideKeys k = tfind s.blk.ce.ideKeys k) ∧ b.regs = s.blk.regs) ∧
      ((tfind s.blk.ce.ideKeys (64 * h + slot)).isSome = true → ∃ b, exec (.kSetGo h stream sub dir set true) s = .next { s with blk := b } ∧
        tfind b.ce.ideSet (32 * h + 6 * stream + 2 * sub + dir) = some set ∧ 8 * h + stream ∉ b.hp.insecure ∧
        b.ce.ideKeys = s.blk.ce.ideKeys) ∧
      (tfind s.blk.ce.ideKeys (64 * h + slot) = none → exec (.kSetGo h stream sub dir set true) s = .next s) ∧
      (tfind s.blk.ce.ideSet (32 * h + 6 * stream + 2 * sub + dir) = some set → ∃ b,
        exec (.kSetStop h stream sub dir set true) s = .next { s with blk := b } ∧
        b.ce.ideSet = tdel s.blk.ce.ideSet (32 * h + 6 * stream + 2 * sub + dir) ∧ b.hp = s.blk.hp) ∧
      (8 * h + stream ∉ s.blk.hp.insecure → ∃ c, exec (.ideIntegrityFailure h stream) s = .next { s with blk := settle (each
          ((portFns c h).filter (fun fn => ideBound c fn stream)) (fun fn b => hostCut fn 0x020 b) c) } ∧
        ∃ d, c = fhRaise (32 * h + 36) (.port h) none false d ∧ 8 * h + stream ∈ d.hp.insecure ∧ d.he = s.blk.he) ∧
      (8 * h + stream ∈ s.blk.hp.insecure → exec (.ideIntegrityFailure h stream) s = .next { s with blk := settle s.blk })) ∧
    (exec (.keyProg h n key false) s = .next s ∧ exec (.kSetGo h stream sub dir set false) s = .next s ∧
      exec (.kSetStop h stream sub dir set false) s = .next s) ∧
    (let f := 128 * h + vf;
      (fnEnabled s.blk f = true → (variant s.blk).cipher = true → f % 128 ≠ 0 →
        (tdiOf s.blk f = 0 → ∃ b, exec (.tdispRequest h vf false) s = .next { s with blk := b } ∧ tdiOf b f = 1 ∧ b.regs = s.blk.regs) ∧
        (tdiOf s.blk f = 1 → ∃ b, exec (.tdispRequest h vf true) s = .next { s with blk := b } ∧ tdiOf b f = 2 ∧ b.regs = s.blk.regs) ∧
        (tdiOf s.blk f ≠ 0 → exec (.tdispRequest h vf false) s = .next s)) ∧
      ∃ b, exec (.tdispStopInterface h vf) s = .next { s with blk := b } ∧ b.hp.tdi = tdel s.blk.hp.tdi f ∧ b.regs = s.blk.regs)

/-- A command of PT_CMD lands in the bank of its agent, which is not BUSY: `word` is what is written, for partition `p`
(R494-R498). -/
def Sys2Proof.Safety.PtIssues (b0 : Block) (w : Agent) (op : Nat) (half : Half) (val : BitVec 64) (b : Block) (word : BitVec 64)
    (p : Nat) : Prop :=
  Lands b0 w .ptCmd 0 (bankOf w) b ∧ Names half F.ptCmdOp ∧ word = carry F.ptCmdOp op val &&& halfMask half ∧
    p = qbits word 51 48 ∧ fon b F.ptCmdStatusBusy (bankOf w) = false

/-- The commands of PT_CMD on one partition, by their operation. -/
def Sys2Proof.Safety.ptCommandOf (op : PtOp) (w : Agent) (half : Half) (val : BitVec 64) : Instr :=
  match op with
  | .bind => .bind w half val
  | .rebind => .rebind w half val
  | .park => .park w half val
  | .adopt => .adopt w half val
  | .reset => .reset w half val
  | .release => .release w half val
  | .recompose => .recompose w half val

/-- A command of PT_CMD that lands, while its bank is not BUSY and no command of a bank runs on its partition: one
with a cause of refusal stores that RESULT and nothing else changes (R497, R498). BIND binds the staged VFs and
requesters and leaves the partition BOUND (R496, R505). ADOPT takes a partition out of BIVOUAC with the new binding,
BOUND or STOPPED (R518). REBIND and PARK leave it QUIESCING, or RESETTING for a REBIND that scrubs, with BUSY 1
(R503); RESET and RELEASE leave it RESETTING with BUSY 1 (R510, R511). RECOMPOSE of idle partitions leaves each
QUIESCING with BUSY 1 (R514). A write while the bank is BUSY, while a command of a bank runs on the partition, or that
names an absent partition (R5) is ignored and counted. -/
def Obligations.PartitionCommandsRunOrAreRefused : Prop :=
  ∀ (s : State) (w : Agent) (half : Half) (val word : BitVec 64) (b : Block) (p : Nat) (op : PtOp) (code : Nat),
    let n := bankOf w
    let force := fon b F.idProtFrameForceScrub 0
    let arg := fget b F.ptCmdArgArg n
    (Lands s.blk w .ptCmd 0 n b → fon b F.ptCmdStatusBusy n = true →
      exec (ptCommandOf op w half val) s = .next { s with blk := settle (regIgnored w .ptCmd b) }) ∧
    (PtIssues s.blk w code half val b word p → ptOpOf code = some op → op ≠ .recompose →
      (ptTaken b p = true → exec (ptCommandOf op w half val) s = .next { s with blk := settle (regIgnored w .ptCmd b) }) ∧
      (partPresent b p = false → exec (ptCommandOf op w half val) s = .next { s with blk := settle (regIgnored w .ptCmd b) }) ∧
      (partPresent b p = true → ptTaken b p = false → ptRefusal b w op p (word.getLsbD 0) arg ≠ 0 → exec (ptCommandOf op w half val) s =
        .next { s with blk := settle (ptResult n (ptRefusal b w op p (word.getLsbD 0) arg) b) }) ∧
      (ptTaken b p = false → ptRefusal b w op p (word.getLsbD 0) arg = 0 →
        ∃ d, exec (ptCommandOf op w half val) s = .next { s with blk := settle d } ∧
          (op = .bind → partState d p = 1 ∧ d = ptEnter p 1 (rebindTo p (stagedVfs b n) (stagedReq b n) (ptResult n 0 b))) ∧
          (op = .adopt → partState d p = (if fon d F.sqMalformedValid p then 3 else 1)) ∧
          (op = .rebind → (word.getLsbD 0 = true ∨ force = true) → partState d p = 5) ∧
          (op = .rebind → word.getLsbD 0 = false → force = false → partState d p = 2) ∧
          (op = .park → partState d p = 2) ∧ (op = .reset ∨ op = .release → partState d p = 5 ∧ ∃ c, tfind d.pt.cmds p = some c ∧
            c.op = op ∧ c.scrub = (word.getLsbD 0 || force)) ∧
          (op ≠ .bind → op ≠ .adopt → fget d F.ptCmdStatusBusy n = 1))) ∧
    (∀ mask, PtIssues s.blk w 7 half val b word p → mask = (List.range 16).filter (fun p => bit arg p) →
      mask.any (ptTaken b) = false →
      (recomposeRefusal b w (word.getLsbD 0) mask ≠ 0 ∨ mask = [] → exec (.recompose w half val) s =
        .next { s with blk := settle (ptResult n (recomposeRefusal b w (word.getLsbD 0) mask) b) }) ∧
      (recomposeRefusal b w (word.getLsbD 0) mask = 0 → mask ≠ [] → ∃ d, exec (.recompose w half val) s =
        .next { s with blk := settle d } ∧ (∀ p, p ∈ mask → partState d p = 2) ∧ fget d F.ptCmdStatusBusy n = 1 ∧
        ∃ c, tfind d.pt.cmds (mask.headD 0) = some c ∧ c.op = .recompose ∧ c.carve = stagedCarve b n mask))

/-- PARTITION_RESET_DEADLINE of a RESETTING partition ends its uncommitted items, then its committed ones and QPs, and
at last clears the node side: after RESET or REBIND the partition is BOUND, or UNBOUND where it lost its host
meanwhile, after RELEASE UNBOUND (R510, R511, R480). BELAY_DEADLINE and HANDOVER act on a QUIESCING partition, a
handover at its belay point only (R503). RECOMPOSE_MOVE_DONE stores the staged carve-outs (R514). On another partition
they change nothing. GRANT_CONTROL_WRITE that lands stores the fields and puts BASE and LIMIT into effect (R72, R74).
MAILBOX_SEND copies the eight quadwords and sets FULL and PENDING, MAILBOX_ACK clears both; a SEND while PENDING is
ignored and counted (R520). -/
def Obligations.PartitionDeadlinesAndMailboxes : Prop :=
  ∀ (s : State) (p : Nat), p < 16 →
    (partState s.blk p ≠ 5 → ∀ st, exec (.partitionResetDeadline p st) s = .next { s with blk := settle s.blk }) ∧
    (partState s.blk p = 5 →
      exec (.partitionResetDeadline p .uncommitted) s = .next { s with blk := settle (resetUncommitted p s.blk) } ∧
      exec (.partitionResetDeadline p .committed) s = .next { s with blk := settle (resetCommitted p s.blk) } ∧
      ∀ c, tfind s.blk.pt.cmds p = some c → ∃ b d, exec (.partitionResetDeadline p .final) s =
        .next { s with depot := d, blk := settle b } ∧ (c.op = .reset ∨ c.op = .rebind → partState b p = (if p ∈ c.gone then 0 else 1)) ∧
        (c.op = .release → partState b p = 0)) ∧
    (∀ c, tfind s.blk.pt.cmds p = some c → partState s.blk p = 2 →
      (c.op ≠ .recompose → exec (.belayDeadline p) s = .next { s with blk := settle (belayEnd p s.blk) }) ∧
      (belay s.blk p = true → c.op = .rebind → p ∉ c.gone → exec (.handover p) s = .next { s with blk := settle (ptDone
        p (ptEnter p (boundOr s.blk p) (dropHost p 5 c.vfs c.req s.blk))) }) ∧
      (belay s.blk p = true → c.op = .park → exec (.handover p) s = .next { s with blk := settle (ptDone p (bivouacEnter p s.blk)) }) ∧
      (belay s.blk p = false → exec (.handover p) s = .next { s with blk := settle s.blk })) ∧
    (partState s.blk p ≠ 2 → exec (.belayDeadline p) s = .next { s with blk := settle s.blk } ∧
      exec (.handover p) s = .next { s with blk := settle s.blk }) ∧
    (∀ k c, moving s.blk = some (k, c) → ∃ b, exec .recomposeMoveDone s = .next { s with depot := depotMoved s.blk s.depot, blk := settle b } ∧
      (c.gone = [] → c.bank = none → ∀ e, c.carve = [e] → e.1 < 16 → fget b F.ptCarveData64k e.1 = e.2.1 % 2 ^ 12 ∧
        fget b F.ptCarveQpShare e.1 = e.2.2 % 2 ^ 20)) ∧
    (∀ w half val b i g, Lands s.blk w .ptGrantCtl g i b → i < 2 ^ 32 → ∃ d, exec (.grantControlWrite w g half val) s = .next { s with blk := d } ∧
      rget d .ptGrantCtl i = written b .ptGrantCtl i val (halfMask half) ∧
      tfind d.pt.grants i = some (fget b F.ptGrantBaseBase i, fget b F.ptGrantLimitLimit i)) ∧
    (∀ w half val b i, Lands s.blk w .ptMbxCtl 0 i b → Names half F.ptMbxCtlSend → Names half F.ptMbxCtlAck → i < 512 →
      F.ptMbxCtlAck.of val = 0 → F.ptMbxCtlSend.of val = 0 →
      (fon b F.ptMbxCtlPending i = false → ∃ d, exec (.mailboxSend w half val) s = .next { s with blk := d } ∧
        (∀ k, k < 8 → rget d .ptMbxRecv (8 * (mbxPeer i) + k) = rget b .ptMbxSend (8 * i + k)) ∧
        fget d F.ptMbxCtlFull (mbxPeer i) = 1 ∧ fget d F.ptMbxCtlPending i = 1) ∧
      (fon b F.ptMbxCtlPending i = true → ∃ d, exec (.mailboxSend w half val) s = .next { s with blk := d } ∧
        fget d F.ptMbxCtlIgnored i = satAdd F.ptMbxCtlIgnored.max (fget b F.ptMbxCtlIgnored i) 1 ∧
        ∀ k, k < 8 → rget d .ptMbxRecv (8 * (mbxPeer i) + k) = rget b .ptMbxRecv (8 * (mbxPeer i) + k)) ∧
      (fon b F.ptMbxCtlFull i = true → ∃ d, exec (.mailboxAck w half val) s = .next { s with blk := d } ∧
        fget d F.ptMbxCtlFull i = 0 ∧ fget d F.ptMbxCtlPending (mbxPeer i) = 0))

/-- BIVOUAC_HOLD_EXPIRY of a partition in BIVOUAC whose HOLD is not 0, so that it has a hold, and on which no command
runs: the partition is then RESETTING, and the command that runs on it is RELEASE. On a partition in another state, or
with HOLD 0, nothing changes before work goes on. (R517) -/
def Obligations.HoldExpiryReleasesThePartition : Prop :=
  ∀ (s : State) (p : Nat), p < 16 →
    (partState s.blk p = 4 → fget s.blk F.ptPartCfgHold p ≠ 0 → ptRunning s.blk p = none →
      ∃ b c, exec (.bivouacHoldExpiry p) s = .next { s with blk := settle b } ∧ partState b p = 5 ∧
        tfind b.pt.cmds p = some c ∧ c.op = .release) ∧
    (partState s.blk p ≠ 4 ∨ fget s.blk F.ptPartCfgHold p = 0 → exec (.bivouacHoldExpiry p) s = .next { s with blk := settle s.blk })

/-- A request that the copy does not allow changes nothing. One for a new line of a cache without room waits, while a
line in a stable state gives way (R540, R541). Otherwise its copy enters the transient state (R532) and the request
reaches the home as it is issued (log entry 27). Of an idle line, GETS returns exclusive data and GETM data and Grant,
and the requester owns the line; NCREAD returns data; NCWRITE ends at once, and offers the line to a hint tile that
has room (R543). With another owner, GETS opens a transaction with FwdGetS, GETM with FwdGetM, and NCWRITE recalls
(R537). UPGRADE of the only sharer returns Grant (R538). PUTM and PUTO of the owner receive WbGrant, PUTE receives
PutAck, and of an agent that does not own the line a stale PutAck (R540). While the line is busy or reserved for
another, the answer is Nack, and it is counted (R533, R542). -/
def Obligations.CoherenceRequestsAreServedOrNacked : Prop :=
  ∀ (s : State) (line tile other agent : Nat) (hint : Option Nat), tile < 12 → other < 12 → other ≠ tile → 12 ≤ agent → agent < 16 →
    let l := lineAt s.blk line
    let at_ : Option CcState := (copyAt s.blk line tile).map (·.st)
    let room := cacheRoom s.blk line tile
    let waits := fun (r : CcReq) => modCc (fun c => { c with waiting := c.waiting ++ [(line, tile, r)] }) s.blk
    linePoisoned s.blk (line % 4) (line / 4) = false → l.poisoned = false → tfind s.blk.cc.ncs (ccKey line agent) = none →
    (at_ ≠ none → exec (.gets line tile) s = .next s ∧ exec (.getm line tile) s = .next s) ∧
    (at_ = none → room = false →
      (s.blk.cc.waiting.any (fun w => w.1 == line && w.2.1 == tile) = true → exec (.gets line tile) s = .next s ∧
        exec (.getm line tile) s = .next s) ∧
      (s.blk.cc.waiting.any (fun w => w.1 == line && w.2.1 == tile) = false →
        exec (.gets line tile) s = .next { s with blk := ccRoom (waits .getS) } ∧
        exec (.getm line tile) s = .next { s with blk := ccRoom (waits .getM) } ∧
        (s.blk.cc.waiting = [] → (ccEvicting s.blk tile = true ∨ ccVictim s.blk line tile = none →
            ∀ r, ccRoom (waits r) = waits r) ∧
          (ccEvicting s.blk tile = false → ∀ v r, ccVictim s.blk line tile = some v → ∃ n,
            ccRoom (waits r) = loop n ccRoomStep (ccEvict v.1 tile v.2 (waits r)))))) ∧
    (at_ ≠ some .s → at_ ≠ some .o → exec (.upgrade line tile) s = .next s) ∧
    (at_ ≠ some .m → exec (.putm line tile) s = .next s) ∧ (at_ ≠ some .o → exec (.puto line tile) s = .next s) ∧
    (at_ ≠ some .e → exec (.pute line tile) s = .next s) ∧
    (l = lineIdle → ownerTableFull s.blk line = false →
      (at_ = none → room = true → (∃ b, exec (.gets line tile) s = .next { s with blk := b } ∧ lineAt b line = ⟨some tile, [], none, none, false⟩ ∧
        (copyAt b line tile).map (·.st) = some .isD ∧ b.cc.msgs = s.blk.cc.msgs ++ [(line, tile, .data true)]) ∧
        (∃ b, exec (.getm line tile) s = .next { s with blk := b } ∧ lineAt b line = ⟨some tile, [], none, none, false⟩ ∧
        (copyAt b line tile).map (·.st) = some .imD ∧
        b.cc.msgs = s.blk.cc.msgs ++ [(line, tile, .data false)] ++ [(line, tile, .grant)])) ∧
      (∃ b, exec (.ncread line agent) s = .next { s with blk := b } ∧ b.cc.lines = s.blk.cc.lines ∧
        b.cc.msgs = s.blk.cc.msgs ++ [(line, agent, .data false)]) ∧
      (∃ b, exec (.ncwrite line agent none) s = .next { s with blk := b } ∧ b.cc.msgs = s.blk.cc.msgs) ∧
      (fon s.blk F.ccCtlPushEn 0 = true → lineOfQp line = false → copyAt s.blk line tile = none → room = true →
        ∃ b, exec (.ncwrite line agent (some tile)) s = .next { s with blk := b } ∧
          (lineAt b line).owner = some tile ∧ copyAt b line tile = some (copyIn .e))) ∧
    (l.owner = some other → l.busy = none → l.reserved = none →
      (at_ = none → room = true → (∃ b, exec (.gets line tile) s = .next { s with blk := b } ∧
        (lineAt b line).busy = some ⟨.getS, tile, [], some other⟩ ∧ (line, other, .fwdGetS tile) ∈ b.cc.msgs) ∧
        (∃ b, exec (.getm line tile) s = .next { s with blk := b } ∧ (line, other, .fwdGetM tile) ∈ b.cc.msgs ∧
        (lineAt b line).busy = some ⟨.getM, tile, (l.sharers.filter (· != tile)).filter (· != other), some other⟩)) ∧
      (∃ b, exec (.ncwrite line agent hint) s = .next { s with blk := b } ∧ (line, other, .fwdRecall) ∈ b.cc.msgs ∧
        (lineAt b line).busy = some ⟨.ncWrite hint, agent, l.sharers.filter (· != other), some other⟩) ∧
      (at_ = some .m → ∃ b, exec (.putm line tile) s = .next { s with blk := b } ∧ (line, tile, .putAck true) ∈ b.cc.msgs)) ∧
    (at_ = some .s → l.owner = none → l.sharers = [tile] → l.busy = none → l.reserved = none →
      ∃ b, exec (.upgrade line tile) s = .next { s with blk := b } ∧ lineAt b line = ⟨some tile, [], none, none, false⟩ ∧
        (copyAt b line tile).map (·.st) = some .smD ∧ b.cc.msgs = s.blk.cc.msgs ++ [(line, tile, .grant)]) ∧
    (l.owner = some tile → l.busy = none → l.reserved = none →
      (at_ = some .m → ∃ b, exec (.putm line tile) s = .next { s with blk := b } ∧ (copyAt b line tile).map (·.st) = some .miA ∧
        (lineAt b line).busy = some ⟨.putM, tile, [], some tile⟩ ∧ (line, tile, .wbGrant) ∈ b.cc.msgs) ∧
      (at_ = some .o → ∃ b, exec (.puto line tile) s = .next { s with blk := b } ∧ (copyAt b line tile).map (·.st) = some .oiA ∧
        (lineAt b line).busy = some ⟨.putO, tile, [], some tile⟩ ∧ (line, tile, .wbGrant) ∈ b.cc.msgs) ∧
      (at_ = some .e → ∃ b, exec (.pute line tile) s = .next { s with blk := b } ∧ (copyAt b line tile).map (·.st) = some .eiA ∧
        b.cc.msgs = s.blk.cc.msgs ++ [(line, tile, .putAck false)])) ∧
    (l.busy.isSome = true ∨ l.reserved = some other → at_ = none → room = true →
      ∃ b, exec (.gets line tile) s = .next { s with blk := b } ∧ (line, tile, .nack) ∈ b.cc.msgs ∧
        tget 0 b.cc.nacks (ccKey line tile) = tget 0 s.blk.cc.nacks (ccKey line tile) + 1 ∧
        fget b F.ccEventsNacks 0 = satAdd F.ccEventsNacks.max (fget s.blk F.ccEventsNacks 0) 1)

/-- A delivery of a message that is not in flight changes nothing (log entry 27); after one that is, requests that
wait for room go on (R541). FWDGETS makes an M owner O, an E owner S for a caching requester, and FWDGETM and
FWDRECALL drop the copy (R537, R539); a copy that awaits its data holds the forward. INV drops an S copy and is
acknowledged. INVACK and FWDDONE end what the home awaits, and the transaction with the last (R537). NACK sets the
instant of the retry, and NACK_RETRY issues the request again (R542). WBGRANT sends the data and ends the copy, WBDATA
ends the eviction, PUTACK ends the copy (R540). GRANT and DATA bring the requester to M, E or S (R532, R536).
HOME_TIMEOUT changes nothing but what work then does where the line has no open transaction, awaits nothing, or is in
an announced eviction. Otherwise the line is poisoned (R544, R545): the timeout is counted, every copy of it is
invalidated, and of a translation-mirror line, which no item names, the first poisoning of the partition is captured
with KIND 3 and CAUSE 0 (R556), and the partition slot LINE_POISONED is raised (R560). -/
def Obligations.CoherenceMessagesAreDelivered : Prop :=
  (∀ (s : State) (line tile a : Nat), tile < 12 → a < 12 →
    let l := lineAt s.blk line
    let taken := fun m => ccTake line tile m s.blk
    (∀ b, b.cc.waiting = [] → ccRoom b = b) ∧
    (ccFind s.blk line tile CcMsg.isFwdGetS = none → exec (.fwdgets line tile) s = .next s) ∧
    (ccFind s.blk line tile CcMsg.isFwdGetM = none → exec (.fwdgetm line tile) s = .next s) ∧
    (ccFind s.blk line tile CcMsg.isFwdDone = none → exec (.fwddone line tile) s = .next s) ∧
    (ccFind s.blk line tile CcMsg.isPutAck = none → exec (.putack line tile) s = .next s) ∧
    (∀ m : CcMsg, ccFind s.blk line tile (· == m) = none →
      (m = .fwdRecall → exec (.fwdrecall line tile) s = .next s) ∧ (m = .inv → exec (.inv line tile) s = .next s) ∧
      (m = .invAck → exec (.invack line tile) s = .next s) ∧ (m = .nack → exec (.nack line tile) s = .next s) ∧
      (m = .wbGrant → exec (.wbgrant line tile) s = .next s) ∧ (m = .grant → exec (.grant line tile) s = .next s) ∧
      (m = .wbData → exec (.wbdata line tile) s = .next s) ∧ (∀ x, m = .data x → exec (.data line tile x) s = .next s)) ∧
    (∀ c, copyAt s.blk line tile = some c → linePoisoned s.blk (line % 4) (line / 4) = false →
      (ccFind s.blk line tile CcMsg.isFwdGetS = some (.fwdGetS a) →
        (c.st = .m → exec (.fwdgets line tile) s = .next { s with blk := ccRoom (ccSend line a (.data false) (ccSend line tile (.fwdDone true true)
          (copySet line tile { c with st := .o } (taken (.fwdGetS a))))) }) ∧
        (c.st = .e → exec (.fwdgets line tile) s = .next { s with blk := ccRoom (ccSend line a (.data false) (ccSend line tile (.fwdDone false true)
          (copySet line tile { c with st := .s } (taken (.fwdGetS a))))) }) ∧
        (c.st = .isD → c.accepted = true → exec (.fwdgets line tile) s =
          .next { s with blk := ccRoom (copySet line tile { c with held := c.held ++ [.fwdGetS a] } (taken (.fwdGetS a))) })) ∧
      (ccFind s.blk line tile CcMsg.isFwdGetM = some (.fwdGetM a) → c.st = .m ∨ c.st = .e ∨ c.st = .o → exec (.fwdgetm line tile) s =
        .next { s with blk := ccRoom (ccSend line a (.data false) (ccSend line tile (.fwdDone false false)
          (copyDrop line tile (taken (.fwdGetM a))))) }) ∧
      (ccFind s.blk line tile (· == .fwdRecall) = some .fwdRecall → c.st = .m ∨ c.st = .e ∨ c.st = .o → exec (.fwdrecall line tile) s =
        .next { s with blk := ccRoom (ccSend line tile (.fwdDone false false) (copyDrop line tile (taken .fwdRecall))) }) ∧
      (ccFind s.blk line tile (· == .inv) = some .inv → c.st = .s → exec (.inv line tile) s =
        .next { s with blk := ccRoom (ccSend line tile .invAck (copyDrop line tile (taken .inv))) }) ∧
      (ccFind s.blk line tile (· == .nack) = some .nack → ∃ b, exec (.nack line tile) s = .next { s with blk := ccRoom b } ∧
        copyAt b line tile = some { c with retryAt := some (s.blk.now + ccBackoff s.blk (tget 1 s.blk.cc.nacks (ccKey line tile))) }) ∧
      (∀ t r, c.retryAt = some t → c.st.request = some r → exec (.nackRetry line tile) s =
        .next { s with blk := ccArrive line tile r (copySet line tile { c with retryAt := none } (timeTo t s.blk)) }) ∧
      (c.retryAt = none → exec (.nackRetry line tile) s = .next s) ∧
      (ccFind s.blk line tile (· == .grant) = some .grant →
        (c.st = .imD → c.data = false → exec (.grant line tile) s =
          .next { s with blk := ccRoom (copySet line tile { c with grant := true } (taken .grant)) }) ∧
        (c.data = true → c.held = [] → exec (.grant line tile) s = .next { s with blk := ccRoom (copySet line tile (copyIn .m) (taken .grant)) })) ∧
      (∀ x, ccFind s.blk line tile (· == .data x) = some (.data x) →
        (c.st = .isD → c.held = [] → exec (.data line tile x) s =
          .next { s with blk := ccRoom (copySet line tile (copyIn (if x then .e else .s)) (taken (.data x))) }) ∧
        (c.st = .imD → c.grant = false → exec (.data line tile x) s =
          .next { s with blk := ccRoom (copySet line tile { c with data := true } (taken (.data x))) }) ∧
        (c.st = .imD → c.grant = true → c.held = [] → exec (.data line tile x) s =
          .next { s with blk := ccRoom (copySet line tile (copyIn .m) (taken (.data x))) }))) ∧
    (copyAt s.blk line tile = none → ccFind s.blk line tile (· == .inv) = some .inv →
      exec (.inv line tile) s = .next { s with blk := ccRoom (ccSend line tile .invAck (taken .inv)) }) ∧
    (ccFind s.blk line tile (· == .wbGrant) = some .wbGrant →
      exec (.wbgrant line tile) s = .next { s with blk := ccRoom (ccSend line tile .wbData (copyDrop line tile (taken .wbGrant))) }) ∧
    (∀ x, ccFind s.blk line tile CcMsg.isPutAck = some (.putAck x) →
      exec (.putack line tile) s = .next { s with blk := ccRoom (copyDrop line tile (taken (.putAck x))) }) ∧
    (∀ t, l.busy = some t →
      (ccFind s.blk line tile (· == .invAck) = some .invAck →
        (srem tile t.acks ≠ [] → ∃ b, exec (.invack line tile) s = .next { s with blk := ccRoom b } ∧
          lineAt b line = { l with sharers := srem tile l.sharers, busy := some { t with acks := srem tile t.acks } }) ∧
        (srem tile t.acks = [] → t.fwd = none → t.req = .getM → l.owner = none → ∃ b, exec (.invack line tile) s = .next { s with blk := ccRoom b } ∧
          lineAt b line = { l with owner := some t.agent, sharers := [], busy := none } ∧
          (line, t.agent, .data false) ∈ b.cc.msgs ∧ (line, t.agent, .grant) ∈ b.cc.msgs)) ∧
      (∀ own keeps, ccFind s.blk line tile CcMsg.isFwdDone = some (.fwdDone own keeps) → t.fwd = some tile → t.acks = [] → t.req = .getS →
        ∃ b, exec (.fwddone line tile) s = .next { s with blk := ccRoom b } ∧ (lineAt b line).busy = none ∧
          (lineAt b line).owner = (if own then l.owner else none) ∧
          (lineAt b line).sharers = sins t.agent (if keeps && !own then sins tile l.sharers else l.sharers)) ∧
      (ccFind s.blk line tile (· == .wbData) = some .wbData → t.fwd = some tile → t.acks = [] → t.req = .putM ∨ t.req = .putO → l.sharers ≠ [] →
        ∃ b, exec (.wbdata line tile) s = .next { s with blk := ccRoom b } ∧ lineAt b line = { l with owner := none, busy := none }))) ∧
  (∀ (s : State) (line : Nat),
    ((lineAt s.blk line).busy = none → exec (.homeTimeout line) s = .next { s with blk := settle s.blk }) ∧
    (∀ t, (lineAt s.blk line).busy = some t →
      (t.acks = [] ∧ t.fwd = none ∨ t.req = .putM ∨ t.req = .putO → exec (.homeTimeout line) s = .next { s with blk := settle s.blk }) ∧
      (¬(t.acks = [] ∧ t.fwd = none) → t.req ≠ .putM → t.req ≠ .putO →
        exec (.homeTimeout line) s = .next { s with blk := settle (ccRoom (linePoison line false s.blk)) } ∧
        (∀ p, line % 4 = 3 → p = line / 4 / 2 ^ 51 / 4096 → p < 16 → ∃ c, exec (.homeTimeout line) s =
            .next { s with blk := settle (ccRoom (partFault p 2 .none c)) } ∧ lineAt c line = { lineIdle with poisoned := true } ∧
          fget c F.ccEventsTimeouts 0 = satAdd F.ccEventsTimeouts.max (fget s.blk F.ccEventsTimeouts 0) 1 ∧
          (∀ k, copyAt c line k ≠ none → k < 12 → copyAt c line k = some (copyIn .s) ∧ (line, k, .inv) ∈ c.cc.msgs) ∧
          (fon s.blk F.ccPoisonValid p = false → fon c F.ccPoisonValid p = true ∧ fget c F.ccPoisonKind p = 3 ∧
            fget c F.ccPoisonCause p = 0 ∧ fget c F.ccPoisonCount p = 1) ∧
          (fon s.blk F.ccPoisonValid p = true → fget c F.ccPoisonCount p = satAdd F.ccPoisonCount.max (fget s.blk F.ccPoisonCount p) 1)))))

/-- A read or write of a claim or complete register acts for a target: a function's own, or the one that the management core names
(R592, R593), where 512 stands for every function. -/
def Sys2Proof.Safety.ActsFor (w : Agent) (reg : Option Nat) (t fn : Nat) : Prop :=
  match reg with
  | none => w ≠ .mgmt ∧ (t, fn) = sgOwnTarget w
  | some k => w = .mgmt ∧ k < 20 ∧ t = k ∧ fn = 512

/-- The value of a read reaches the agent that read it: on the management core path, or as a completion on its host port. -/
def Sys2Proof.Safety.valueSent (w : Agent) (off : Nat) (v : BitVec 64) (b : Block) : Block :=
  if w = .mgmt then emit (.regData (bankOf w) off v) b else emitTlp (bankOf w / 128) (.regData (bankOf w) off v) b

/-- INTERRUPT_CLAIM is a read of a claim register, on its own target of a function that reaches it (a VF that a
partition holds), or of any target that is not self-claiming for the management core. Where sources of the target are
eligible, it returns the one with the highest PRIORITY and the lowest number among equals, with VALID 1 and the count
it had; the same read clears the pending bit and the count of that source and sets its in-service bit, and leaves
those of every other source. Where none is eligible it returns zero and changes nothing but that the value is sent. A
source in service is not eligible, so no other claim returns it meanwhile. (R583) -/
def Obligations.ClaimsReturnTheHighestPriority : Prop :=
  ∀ (s : State) (w : Agent) (reg : Option Nat) (half : Half) (t fn : Nat), ActsFor w reg t fn → Unheld s.blk w → accessReach s.blk w = true →
    t ≠ 14 → t ≠ 15 → t ≠ 17 → t ≠ 18 → (∀ h v, w = .vf h v → vfPart s.blk (128 * h + v) ≠ none) →
    let b := accessArrive w true s.blk
    let off := match reg with
      | none => Reg.sgClaim.offset w 0
      | some k => Reg.sgClaimT.offset w k
    (∀ n, n < 2048 → sgEligible b n = true → sgAims b n t fn = true →
      (∀ m, m < 2048 → m ≠ n → sgEligible b m = true → sgAims b m t fn = true →
        sgPriority b m < sgPriority b n ∨ sgPriority b m = sgPriority b n ∧ n < m) →
      ∃ c, exec (.interruptClaim w reg half) s = .next { s with blk := (valueSent w off
          (BitVec.ofNat 64 (2 ^ 63 + sgCount b n * 2 ^ 48 + n) &&& halfMask half) c) } ∧
        sgPendingBit c n = false ∧ sgCount c n = 0 ∧ sgInService c n = true ∧
        ∀ m, m < 2048 → m ≠ n → sgPendingBit c m = sgPendingBit b m ∧ sgCount c m = sgCount b m ∧
          sgInService c m = sgInService b m) ∧
    ((∀ n, n < 2048 → ¬(sgEligible b n = true ∧ sgAims b n t fn = true)) →
      exec (.interruptClaim w reg half) s = .next { s with blk := valueSent w off 0#64 b }) ∧
    (∀ n, sgInService b n = true → sgEligible b n = false)

/-- INTERRUPT_COMPLETE of a source in service that belongs to the target ends its service, and signals it again if it
is pending and not masked; of one not in service it is ignored and counted; of a POLL source that the agent may
configure it clears pending bit and count (R584). SOURCE_CONFIG_WRITE is taken of a configurable, masked source not in
service, with a target that the agent may name and that is present, else ignored and counted (R5, R580, R591).
MASK_WRITE and PENDING_WRITE of the management core (in words 0-15, of a partition that is present) store the bits of
the half that they name, except of a function under reset, then signal what became eligible (R581, R586, R588); a word
in which a function may change no bit is ignored and counted. SW_TRIGGER asserts a software source, any other value is
ignored and counted (R594). SIGNAL_REPEND sets the pending bit of each source with a count that is not in service
(R582). -/
def Obligations.SourcesAreConfiguredCompletedAndSwept : Prop :=
  (∀ (s : State) (w : Agent) (reg : Option Nat) (half : Half) (val : BitVec 64) (t fn i k : Nat) (b : Block), ActsFor w reg t fn →
    let r := if reg.isSome then Reg.sgCompleteT else .sgComplete
    let n := F.sgCompleteSource.of val
    Lands s.blk w r k i b → k = reg.getD 0 → half ≠ .hi →
    ((sgTarget b n).1 = 19 → sgMay b w n = true → sgFixed n = false → ∃ c, exec (.interruptComplete w reg half val) s =
      .next { s with blk := c } ∧ sgPendingBit c n = false ∧ sgCount c n = 0 ∧ sgInService c n = false) ∧
    (¬((sgTarget b n).1 = 19 ∧ sgMay b w n = true ∧ sgFixed n = false) →
      (sgInService b n = true → sgAims b n t fn = true →
        let c := { b with sgServing := srem n b.sgServing }
        (sgPendingBit b n = true → sgMaskBit b n = false →
          exec (.interruptComplete w reg half val) s = .next { s with blk := sgSignal n c }) ∧
        (sgPendingBit b n = false ∨ sgMaskBit b n = true → exec (.interruptComplete w reg half val) s = .next { s with blk := c })) ∧
      (sgInService b n = false → exec (.interruptComplete w reg half val) s = .next { s with blk := ignored .sg w none b }))) ∧
  (∀ (s : State) (w : Agent) (src i : Nat) (half : Half) (val : BitVec 64) (b : Block), Lands s.blk w .sgSrcCfg src i b →
    let new := (rget b .sgSrcCfg src &&& ~~~halfMask half) ||| (val &&& halfMask half)
    (sgFixed src = true ∨ sgMaskBit b src = false ∨ sgInService b src = true ∨ sgAbsent b new = true ∨
        (∃ h v p, w = .vf h v ∧ sgPart src = some p ∧ sgVfTarget b p new = false) →
      exec (.sourceConfigWrite w src half val) s = .next { s with blk := ignored .sg w none b }) ∧
    (sgFixed src = false → sgMaskBit b src = true → sgInService b src = false → sgMay b w src = true → sgAbsent b new = false →
        (∀ h v p, w = .vf h v → sgPart src = some p → sgVfTarget b p new = true) →
      exec (.sourceConfigWrite w src half val) s = .next { s with blk := rput .sgSrcCfg src (new &&& 0xFF00007F000007FF#64) b })) ∧
  (∀ (s : State) (k : Nat) (half : Half) (val : BitVec 64), k < 32 → (k < 16 → partPresent s.blk k = true) →
    (∀ r, r = Reg.sgMask ∨ r = Reg.sgPending → let b := letGo .mgmt s.blk; ∃ c, { c with regs := b.regs } = b ∧
      exec (if r = .sgMask then .maskWrite .mgmt k half val else .pendingWrite .mgmt k half val) s =
        .next { s with blk := sgNewly b ((List.range 64).map (64 * k + ·)) c } ∧
      (∀ n, n < 64 → (rget c r k).getLsbD n = if (halfMask half).getLsbD n && !sgHeld b (64 * k + n) then val.getLsbD n
        else (rget b r k).getLsbD n) ∧
      ∀ q j, regKey q j ≠ regKey r k → rget c q j = rget b q j) ∧
    (∀ w i b, Lands s.blk w .sgMask k i b → (∀ n, n < 64 → sgMayBit b w (64 * k + n) = false) →
      exec (.maskWrite w k half val) s = .next { s with blk := ignored .sg w none b }) ∧
    (∀ w i b, Lands s.blk w .sgPending k i b → (∀ n, n < 64 → sgMayBit b w (64 * k + n) = false) →
      exec (.pendingWrite w k half val) s = .next { s with blk := ignored .sg w none b })) ∧
  (∀ (s : State) (w : Agent) (half : Half) (val : BitVec 64) (i : Nat) (b : Block), Lands s.blk w .sgSwTrigger 0 i b → half ≠ .hi →
    let n := F.sgSwTriggerSource.of val
    (1984 ≤ n → exec (.swTrigger w half val) s = .next { s with blk := sgAssert n b }) ∧
    (n < 1984 → exec (.swTrigger w half val) s = .next { s with blk := ignored .sg w none b })) ∧
  (∀ (n : Nat) (b : Block), n < 1863 ∨ 1984 ≤ n → n < 2048 → (sgTarget b n).1 = 19 → sgPendingBit (sgAssert n b) n = true ∧
    sgCount (sgAssert n b) n = satAdd 255 (sgCount b n) 1) ∧
  (∀ s : State, ∃ l c, exec .signalRepend s = .next { s with blk := sgNewly s.blk l c } ∧ { c with regs := s.blk.regs } = s.blk ∧
    (∀ n, n ∈ l ↔ n < 2048 ∧ sgCount s.blk n ≠ 0 ∧ sgInService s.blk n = false) ∧
    (∀ n, n < 2048 → sgPendingBit c n = (sgPendingBit s.blk n || (sgCount s.blk n != 0 && !sgInService s.blk n))))

/-- Each answers a next state. FAULT_INJECT that lands with INJECT 1 raises the source named, of the partition named,
or of a partition source that partition; of an absent one it is ignored and counted, with INJECT 0 it does nothing
(R5, R576); of an agent without the register it is no write (R31). PARITY_ERROR raises source 1, or 176 + 2t of one of
the twelve tiles, MESH_LINK_ERROR source 2 (R20, R559). Raising, of an enabled source with nothing captured in a block
not stopped, captures class, starting rung, count 1 and object, counts it in TOTAL, then applies that rung's effects
from rung 2 on (R561, R563, R574). REACT_TIMER_EXPIRY of a source whose timer does not run only lets work go on;
otherwise the rung rises to the next that has an effect, not above the ceiling, its effects are applied and the
interrupt source is asserted; with none the timer stops (R564). FAULT_EXIT of a PF or the management core clears the
whole capture, with a half access only in the half that holds CAPTURED (R733); of a VF it is ignored and counted
(R571, R574). -/
def Obligations.FaultsAreCapturedEscalateAndExit : Prop :=
  (∀ (s : State) (w : Agent) (half : Half) (val : BitVec 64) (i : Nat) (b : Block),
    let v := val &&& halfMask half
    let src := qbits v 8 0
    let p := if src < 256 then qbits v 12 9 else (src - 256) / 16
    (Reg.seen .fhInject w = false → Unheld s.blk w → accessReach s.blk w = false ∨ unmappedVf s.blk w = false →
      exec (.faultInject w half val) s = .next { s with blk := accessArrive w false s.blk }) ∧
    (Lands s.blk w .fhInject 0 i b →
      (v.getLsbD 63 = true → partPresent b p = true →
        exec (.faultInject w half val) s = .next { s with blk := fhRaise src .none (some p) false b }) ∧
      (v.getLsbD 63 = true → partPresent b p = false →
        exec (.faultInject w half val) s = .next { s with blk := regIgnored w .fhInject b }) ∧
      (v.getLsbD 63 = false → exec (.faultInject w half val) s = .next { s with blk := b }))) ∧
  (∀ (s : State) (tile : Nat),
    exec (.parityError none) s = .next { s with blk := settle (fhRaise 1 .none none false s.blk) } ∧
    (tile < 12 →
      exec (.parityError (some tile)) s = .next { s with blk := settle (fhRaise (176 + 2 * tile) (.tile tile) none false s.blk) } ∧
      exec (.meshLinkError tile) s = .next { s with blk := settle (fhRaise 2 (.tile tile) none false s.blk) }) ∧
    (12 ≤ tile → exec (.parityError (some tile)) s = .next { s with blk := settle s.blk } ∧
      exec (.meshLinkError tile) s = .next { s with blk := settle s.blk })) ∧
  (∀ (b : Block) (src cls : Nat) (o : Obj) (part : Option Nat), fhClass src = some cls → stopped b = false → fhEnabled b src = true →
    fon b F.fhSrcStatusCaptured src = false →
      let c := fhRecord src o part false b
      (fhRaise src o part false b = if 2 ≤ fhStart src then rungEffects src (fhStart src) c else c) ∧
      fget c F.fhSrcStatusCaptured src = 1 ∧ fget c F.fhSrcStatusClass src = cls ∧ fget c F.fhSrcStatusRung src = fhStart src ∧
      fget c F.fhSrcStatusCount src = 1 ∧ fget c F.fhSrcStatusKind src = o.code.1 ∧
      fget c F.fhSrcStatusObject src = o.code.2 % 2 ^ 32 ∧
      fget c F.fhSrcCtlTotal src = satAdd F.fhSrcCtlTotal.max (fget b F.fhSrcCtlTotal src) 1) ∧
  (∀ (s : State) (src : Nat), src < 512 →
    (fon s.blk F.fhSrcStatusEscalating src = false → exec (.reactTimerExpiry src) s = .next { s with blk := settle s.blk }) ∧
    (fon s.blk F.fhSrcStatusEscalating src = true →
      (nextRung s.blk src = none →
        exec (.reactTimerExpiry src) s = .next { s with blk := settle (fput F.fhSrcStatusEscalating src 0 s.blk) }) ∧
      (∀ r, nextRung s.blk src = some r → fget s.blk F.fhSrcStatusRung src < r ∧ r ≤ fhCeiling s.blk src ∧ rungActs s.blk src r = true ∧
        ∃ c, exec (.reactTimerExpiry src) s = .next { s with blk := settle (sgAssert (1024 + src) (rungEffects src r c)) } ∧
          fget c F.fhSrcStatusRung src = r ∧ { c with regs := s.blk.regs } = s.blk ∧
          fget c F.fhSrcStatusEscalating src =
            b2n (2 ≤ fget s.blk F.fhSrcStatusClass src && decide (r < fhCeiling s.blk src)) ∧
          ∀ q j, regKey q j ≠ regKey .fhSrcStatus src → rget c q j = rget s.blk q j))) ∧
  (∀ (s : State) (w : Agent) (src i : Nat) (half : Half) (val : BitVec 64) (b : Block), Lands s.blk w .fhSrcStatus src i b →
    ((∀ h v, w ≠ .vf h v) → half ≠ .lo → ∃ c, exec (.faultExit w src half val) s = .next { s with blk := c } ∧
      rget c .fhSrcStatus src = 0#64 ∧ src ∉ c.fhPart ∧ ∀ q j, regKey q j ≠ regKey .fhSrcStatus src → rget c q j = rget b q j) ∧
    ((∀ h v, w ≠ .vf h v) → half = .lo → exec (.faultExit w src half val) s = .next { s with blk := b }) ∧
    (∀ h v, w = .vf h v → exec (.faultExit w src half val) s =
      .next { s with blk := ignored .fh w (if 256 ≤ src then some ((src - 256) / 16) else none) b }))

/-- A dictionary request in a session that its binding does not have, or over a binding that is down, changes nothing;
before start-up it is answered with BUSY, and of an entry that does not exist with NO_ENTRY (R639, R640). GET returns
the live value. SET of a read-only entry, of one that needs a secure binding, of a wrong length or a value out of
range is refused in that order; of class B it changes the stored value only, of classes S and V the live value unless
its field may not change (NOT_IDLE). STORE writes the live value, unless the store fails; DEFAULT restores. NEXT names
the next entry (R634, R639). MD_SEND serves what stands in MD_REQ and sets DONE (R645). VENDOR_DEFINED_REQUEST carries
a request in its session (R644). Over a binding that does not reach the responder, no SPDM request changes anything
(R647). GET_VERSION, GET_CAPABILITIES, NEGOTIATE_ALGORITHMS, GET_DIGESTS, GET_CERTIFICATE and unsigned
GET_MEASUREMENTS are answered at once; CHALLENGE, KEY_EXCHANGE and signed GET_MEASUREMENTS wait for the DRBG, in its
queue while fewer than eight of them are there (R624), and while it has failed are answered with an error and counted
(R650); a fifth session of a binding is Busy (R649). FINISH opens its session, END_SESSION ends it, HEARTBEAT and
KEY_UPDATE are acknowledged; of a session that is not the binding's the answer is an error (its code: log entry 32).
-/
def Obligations.ManagementRequestsAreAnswered : Prop :=
  (∀ (s : State) (bnd : Binding) (q : DictReq) (ok : Bool),
    let ses := sessionOf s.blk bnd q.session
    let say := fun (op code : Nat) (v : List (BitVec 8)) (b : Block) =>
      (Host.Outcome.next { s with blk := emit (.dict bnd q.session op q.seq q.index q.sub code v) b } : Host.Outcome State Fault Refusal)
    (q.session.isSome && ses.isNone || !bindingUp s.blk bnd ses → exec (.get bnd q) s = .next s ∧ exec (.set bnd q) s = .next s ∧
      exec (.store bnd q ok) s = .next s ∧ exec (.default bnd q) s = .next s ∧ exec (.next bnd q) s = .next s) ∧
    (q.session.isSome = false ∨ ses.isSome = true → bindingUp s.blk bnd ses = true →
      (started s.blk = false → exec (.get bnd q) s = say 1 mdBusy [] s.blk ∧ exec (.set bnd q) s = say 2 mdBusy [] s.blk ∧
        exec (.store bnd q ok) s = say 3 mdBusy [] s.blk ∧ exec (.default bnd q) s = say 4 mdBusy [] s.blk ∧
        exec (.next bnd q) s = say 5 mdBusy [] s.blk) ∧
      (started s.blk = true → stopped s.blk = false →
        (dictEntry (variant s.blk) q.index q.sub = none → exec (.get bnd q) s = say 1 mdNoEntry [] s.blk ∧
          exec (.set bnd q) s = say 2 mdNoEntry [] s.blk ∧ exec (.store bnd q ok) s = say 3 mdNoEntry [] s.blk ∧
          exec (.default bnd q) s = say 4 mdNoEntry [] s.blk) ∧
        (dictNext (variant s.blk) q.index q.sub = none → exec (.next bnd q) s = say 5 mdNoEntry [] s.blk) ∧
        (∀ i k e, dictNext (variant s.blk) q.index q.sub = some (i, k) → dictEntry (variant s.blk) i k = some e → exec (.next bnd q) s =
          .next { s with blk := emit (.dict bnd q.session 5 q.seq i k mdOk
            (leBytes 2 i ++ [BitVec.ofNat 8 k, BitVec.ofNat 8 (e.ty.code + 16 * e.right.code)])) s.blk }) ∧
        (∀ e, dictEntry (variant s.blk) q.index q.sub = some e → entryReach s.blk bnd q.index q.sub = true →
          (e.right ≠ .ws → exec (.get bnd q) s = say 1 mdOk (leBytes e.ty.size (liveValue s.blk ses q.index q.sub e)) s.blk) ∧
          (e.right = .ws → exec (.get bnd q) s = say 1 mdNoAccess [] s.blk) ∧
          (e.right = .ro ∨ e.cls = .f → exec (.set bnd q) s = say 2 mdReadOnly [] s.blk ∧
            exec (.default bnd q) s = say 4 mdReadOnly [] s.blk) ∧
          (e.right ≠ .ro → e.cls ≠ .f →
            (e.right.permits bnd ses.isSome = false → exec (.set bnd q) s = say 2 mdNotSecure [] s.blk) ∧
            (e.right.permits bnd ses.isSome = true →
              (q.count ≠ e.ty.size → exec (.set bnd q) s = say 2 mdBadLength [] s.blk) ∧
              (q.count = e.ty.size → valueOk q.index q.sub e q.value = false → exec (.set bnd q) s = say 2 mdBadValue [] s.blk) ∧
              (e.cls = .b → q.count = e.ty.size → valueOk q.index q.sub e q.value = true → exec (.set bnd q) s =
                say 2 mdOk (leBytes e.ty.size q.value) (storePut q.index q.sub q.value s.blk)) ∧
              (e.cls = .b → valueOk q.index q.sub e e.dflt = true → exec (.default bnd q) s =
                say 4 mdOk (leBytes e.ty.size (liveValue (storePut q.index q.sub e.dflt s.blk) ses q.index q.sub e))
                  (storePut q.index q.sub e.dflt s.blk)))) ∧
          (e.right.permits bnd ses.isSome = true → e.right ≠ .ro → e.cls = .s ∨ e.cls = .v → q.count = e.ty.size →
            valueOk q.index q.sub e q.value = true →
            (liveSet ses q.index q.sub q.value e s.blk = none → exec (.set bnd q) s = say 2 mdNotIdle [] s.blk) ∧
            (∀ c, liveSet ses q.index q.sub q.value e s.blk = some c → exec (.set bnd q) s = say 2 mdOk
              (leBytes e.ty.size (if e.right = .ws then q.value else liveValue c ses q.index q.sub e)) c)) ∧
          (e.cls = .f ∨ e.cls = .v → exec (.store bnd q ok) s = say 3 mdReadOnly [] s.blk) ∧
          (e.cls = .s → exec (.store bnd q false) s = say 3 mdStoreFailed [] s.blk ∧ exec (.store bnd q true) s =
            say 3 mdOk [] (storePut q.index q.sub (liveValue s.blk ses q.index q.sub e) s.blk))))) ∧
    (∀ h half val i b, h < 2 → Lands s.blk (.pf h) .mdCtl 0 i b → half ≠ .lo → F.mdCtlDone.of val = 0 →
      exec (.mdSend (.pf h) half val ok) s = .next { s with blk := mdServe h ok b } ∧ fget (mdServe h ok b) F.mdCtlDone (128 * h) = 1) ∧
    (∀ session op, spdmUp s.blk bnd = true → exec (.vendorDefinedRequest bnd session op q ok) s =
      .next { s with blk := dictRequest bnd op { q with session := some session } ok s.blk })) ∧
  (∀ (s : State) (bnd : Binding) (q : DictReq) (slot index session op : Nat) (signed ok : Bool),
    let say := fun (r : SpdmRsp) (b : Block) => (Host.Outcome.next { s with blk := emit (.spdm bnd r) b } : Host.Outcome State Fault Refusal)
    let room := 8 - (s.blk.en.queue.filter (fun r => match r with | .mgmt _ _ => true | _ => false)).length
    let ask := fun (a : SpdmAsk) =>
      let all := s.blk.en.asks ++ [(bnd, a)]
      modEn (fun e => { e with queue := e.queue ++ (all.take room).map (fun r => .mgmt r.1 r.2), asks := all.drop room }) s.blk
    let failed := fbump F.enCountsUnavailable 0 1 s.blk
    (spdmUp s.blk bnd = false → ∀ c, c ∈ [Instr.getVersion bnd, .getCapabilities bnd, .negotiateAlgorithms bnd, .getDigests bnd,
      .getCertificate bnd slot, .challenge bnd slot, .getMeasurements bnd index signed, .keyExchange bnd, .finish bnd session,
      .heartbeat bnd session, .keyUpdate bnd session, .endSession bnd session, .vendorDefinedRequest bnd session op q ok] →
      exec c s = .next s) ∧
    (spdmUp s.blk bnd = true →
      exec (.getVersion bnd) s = say .version s.blk ∧ exec (.getCapabilities bnd) s = say .capabilities s.blk ∧
      exec (.negotiateAlgorithms bnd) s = say .algorithms s.blk ∧
      exec (.getDigests bnd) s = say (.digests (Config.sha384 Config.certificateChain)) s.blk ∧
      exec (.getCertificate bnd 0) s = say (.certificate Config.certificateChain) s.blk ∧
      (slot ≠ 0 → exec (.getCertificate bnd slot) s = say (.error 1) s.blk ∧ exec (.challenge bnd slot) s = say (.error 1) s.blk) ∧
      (enState s.blk ≠ 3 → exec (.challenge bnd 0) s = .next { s with blk := ask (.challenge 0) }) ∧
      (enState s.blk = 3 → exec (.challenge bnd 0) s = say (.error 5) failed) ∧
      (measureList s.blk bnd index = none → exec (.getMeasurements bnd index signed) s = say (.error 1) s.blk) ∧
      (∀ l, measureList s.blk bnd index = some l → exec (.getMeasurements bnd index false) s = say (.measurements l none) s.blk ∧
        (enState s.blk ≠ 3 → exec (.getMeasurements bnd index true) s = .next { s with blk := ask (.measurements index) })) ∧
      (4 ≤ sessionsHeld s.blk bnd → exec (.keyExchange bnd) s = say (.error 3) s.blk) ∧
      (sessionsHeld s.blk bnd < 4 → enState s.blk ≠ 3 → exec (.keyExchange bnd) s = .next { s with blk := ask .keyExchange }) ∧
      (sessionHere s.blk bnd session false = true → ∃ b, exec (.finish bnd session) s = say (.finish session) b ∧
        sessionHere b bnd session true = true) ∧
      (sessionHere s.blk bnd session false = false → exec (.finish bnd session) s = say (.error 2) s.blk) ∧
      (sessionHere s.blk bnd session true = true → exec (.heartbeat bnd session) s = say (.heartbeatAck session) s.blk ∧
        exec (.keyUpdate bnd session) s = say (.keyUpdateAck session) s.blk ∧
        ∃ b, exec (.endSession bnd session) s = say (.endSessionAck session) b ∧ sessionHere b bnd session false = false) ∧
      (sessionHere s.blk bnd session true = false → exec (.heartbeat bnd session) s = say (.error 2) s.blk ∧
        exec (.keyUpdate bnd session) s = say (.error 2) s.blk ∧ exec (.endSession bnd session) s = say (.error 2) s.blk)))

/-- A tile drains a partition's records to its sink as one write of what fits, or not at all (R660, R661).
TRACE_SINK_ENABLE sets ENABLE and TAIL to HEAD, and a write of the other half sets TAIL to HEAD where ENABLE is 1
(R666, R733). EVENT_RECORD_CAPTURE returns the first quadword of the selected record and keeps the second (R657).
DIGEST_CLEAR clears accumulator, count and FAILED (R670). NOW freezes, THAW ends a freeze, ARM arms and at or after AT
the timed freeze happens, with its cause and instant; while the block is frozen a further freeze only counts in EXTRA
(R680-R683). DUMP triggers a hang dump with reason 3: it takes a slot and freezes the block, and during another dump
is only counted, by the dumps and by its unit (R33, R688, R690, R694). DUMP_SLOT_RELEASE clears VALID (R695). -/
def Obligations.TraceFreezeAndDumpCommandsAct : Prop :=
  (∀ (s : State) (tile : Nat), exec (.traceDrain tile) s = .next { s with blk := settle (traceDrain tile s.blk) }) ∧
  (∀ (f tile p : Nat) (b : Block), (sinkNext b tile p = none → sinkDrain f tile p b = b) ∧
    (∀ n pl fn, sinkNext b tile p = some (n, pl, fn) → pl.isPort = false → sinkDrain (f + 1) tile p b = issueWrite pl p fn
      (quadBytes ((((tget [] b.tc.bufs tile).filter (fun r => r.part == p)).take n).flatMap (fun r => r.words)))
      0 0 false false (.sink tile p n) b) ∧
    (∀ n pl fn, sinkNext b tile p = some (n, pl, fn) → pl.isPort = true → sinkDrain (f + 1) tile p b = sinkDrain f tile p (sinkDone tile p n
      (issueWrite pl p fn (quadBytes ((((tget [] b.tc.bufs tile).filter (fun r => r.part == p)).take n).flatMap (fun r => r.words)))
        0 0 false false (.sink tile p n) b)))) ∧
  (∀ (s : State) (w : Agent) (half : Half) (val : BitVec 64) (i : Nat) (b : Block),
    (Lands s.blk w .tcSinkCtl 0 i b → Names half F.tcSinkCtlEnable → i < 16 → ∃ c, exec (.traceSinkEnable w half val) s =
      .next { s with blk := c } ∧ fget c F.tcSinkPtrTail i = fget b F.tcSinkPtrHead i ∧ fget c F.tcSinkCtlEnable i = 1) ∧
    (Lands s.blk w .tcSinkCtl 0 i b → half = .lo → i < 16 → ∃ c, exec (.traceSinkEnable w half val) s = .next { s with blk := c } ∧
      fget c F.tcSinkPtrTail i = (if fon b F.tcSinkCtlEnable i then fget b F.tcSinkPtrHead i else fget b F.tcSinkPtrTail i)) ∧
    (Lands s.blk w .tcDigCfg 0 i b → Names half F.tcDigCfgClear → i < 256 → ∃ c, exec (.digestClear w half val) s =
      .next { s with blk := c } ∧ rget c .tcDigAcc i = 0#64 ∧ fget c F.tcDigCfgCount i = 0 ∧ fget c F.tcDigCfgFailed i = 0) ∧
    (Lands s.blk w .tcFreeze 0 i b → half ≠ .lo → (∀ h v, w ≠ .vf h v) → val = 0#64 →
      exec (.now w half val) s = .next { s with blk := freezeAt 1 b.now b } ∧
      exec (.thaw w half val) s = .next { s with blk := fput F.tcFreezeFrozen 0 0 b } ∧
      exec (.arm w half val) s = .next { s with blk := timedFreeze (fput F.tcFreezeArmed 0 1 b) }) ∧
    (∀ h v, w = .vf h v → Lands s.blk w .tcFreeze 0 i b → exec (.now w half val) s = .next { s with blk := regIgnored w .tcFreeze b }) ∧
    (Lands s.blk w .tcDumpCtl 0 i b → Names half F.tcDumpCtlDump →
      exec (.dump w half val) s = .next { s with blk := dumpTrigger 3 b }) ∧
    (∀ slot, slot < 2 → Lands s.blk w .tcDumpStatus slot i b → Names half F.tcDumpStatusValid → ∃ c,
      exec (.dumpSlotRelease w slot half val) s = .next { s with blk := c } ∧ fget c F.tcDumpStatusValid i = 0 ∧
      ∀ q j, regKey q j ≠ regKey .tcDumpStatus i → rget c q j = rget b q j)) ∧
  (∀ (s : State) (half : Half), ∃ c, exec (.eventRecordCapture .mgmt half) s = .next { s with blk := c } ∧
    (∀ e, eventSel s.blk 256 = some e →
      c.out = .regData 256 (Reg.tcEvtData.offset .mgmt 0) (e.1 &&& halfMask half) :: s.blk.out ∧ c.regs = s.blk.regs ∧
      c.tc.captured = tset 0#64 s.blk.tc.captured 256 e.2)) ∧
  (∀ s : State,
    (fon s.blk F.tcFreezeArmed 0 = true → (rget s.blk .tcFreezeAt 0).toNat ≤ s.blk.now → exec .timedFreeze s =
      .next { s with blk := freezeAt 2 (rget s.blk .tcFreezeAt 0).toNat (fput F.tcFreezeArmed 0 0 s.blk) }) ∧
    (fon s.blk F.tcFreezeArmed 0 = false ∨ s.blk.now < (rget s.blk .tcFreezeAt 0).toNat → exec .timedFreeze s = .next s)) ∧
  (∀ (b : Block) (cause t : Nat), cause < 8 →
    (fon b F.tcFreezeFrozen 0 = true → freezeAt cause t b = fbump F.tcFreezeExtra 0 1 b) ∧
    (fon b F.tcFreezeFrozen 0 = false → fget (freezeAt cause t b) F.tcFreezeFrozen 0 = 1 ∧
      fget (freezeAt cause t b) F.tcFreezeCause 0 = cause ∧ rget (freezeAt cause t b) .tcFreezeTime 0 = BitVec.ofNat 64 t)) ∧
  (∀ b : Block, (b.tc.dumping.isSome = true ∨ dumpSlot b 3 = none →
      dumpTrigger 3 b = fbump F.tcDumpCtlIgnored 0 1 (fbump F.idIgnoredCount 15 1 b)) ∧
    (∀ slot, b.tc.dumping = none → dumpSlot b 3 = some slot → fget (dumpTrigger 3 b) F.tcDumpStatusValid slot = 1 ∧
      fget (dumpTrigger 3 b) F.tcDumpStatusReason slot = 3 ∧ fget (dumpTrigger 3 b) F.tcDumpCtlBusy 0 = 1 ∧
      (dumpTrigger 3 b).tc.dumping = some slot))
end

