-- ==== Sys2Proof/Laws/Table.lean ====
section
/-!
SUPPORT. What each operation on sparse tables and on the depot does: reading after writing, and the canonical form that every
operation on the depot keeps.
-/
namespace Sys2Proof.Laws

open Sys2Proof Sys2Proof.Machine

/-! ### Sparse tables -/

/-- A key that was put reads back. -/
theorem tfind_tput_same {α : Type} (t : Tbl α) (k : Nat) (v : α) : tfind (tput t k v) k = some v := by
  induction t with
  | nil => simp [tput, tfind]
  | cons e r ih =>
    obtain ⟨k', v'⟩ := e
    unfold tput
    split
    · simp [tfind]
    · split
      · simp [tfind]
      · next h => simp [tfind, h, ih]

/-- Putting a key leaves every other key. -/
theorem tfind_tput_other {α : Type} (t : Tbl α) (k j : Nat) (v : α) (h : j ≠ k) : tfind (tput t k v) j = tfind t j := by
  have h' : ¬k = j := fun e => h e.symm
  induction t with
  | nil => simp [tput, tfind, h']
  | cons e r ih =>
    obtain ⟨k', v'⟩ := e
    unfold tput
    split
    · simp [tfind, h']
    · split
      · next h2 => subst h2; simp [tfind, h']
      · simp only [tfind]; split <;> simp_all

/-- A key below every key of a table is not in it. -/
theorem tfind_below {α : Type} (t : Tbl α) (lo k : Nat) (h : keysFrom lo t = true) (hk : k < lo) : tfind t k = none := by
  induction t generalizing lo with
  | nil => rfl
  | cons e r ih =>
    obtain ⟨k', v'⟩ := e
    simp only [keysFrom, Bool.and_eq_true, decide_eq_true_eq] at h
    simp only [tfind]
    split
    · omega
    · exact ih (k' + 1) h.2 (by omega)

/-- Lower bounds of the keys may be lowered. -/
theorem keysFrom_mono {α : Type} (t : Tbl α) (lo lo' : Nat) (hl : lo' ≤ lo) (h : keysFrom lo t = true) :
    keysFrom lo' t = true := by
  cases t with
  | nil => rfl
  | cons e r =>
    obtain ⟨k, v⟩ := e
    simp only [keysFrom, Bool.and_eq_true, decide_eq_true_eq] at h ⊢
    exact ⟨by omega, h.2⟩

/-- Putting keeps the keys rising. -/
theorem keysFrom_tput {α : Type} (t : Tbl α) (lo k : Nat) (v : α) (h : keysFrom lo t = true) (hk : lo ≤ k) :
    keysFrom lo (tput t k v) = true := by
  induction t generalizing lo with
  | nil => simp [tput, keysFrom, hk]
  | cons e r ih =>
    obtain ⟨k', v'⟩ := e
    simp only [keysFrom, Bool.and_eq_true, decide_eq_true_eq] at h
    unfold tput
    split
    · simp only [keysFrom, Bool.and_eq_true, decide_eq_true_eq]
      exact ⟨hk, by omega, h.2⟩
    · split
      · next h2 => subst h2; simp [keysFrom, hk, h.2]
      · simp only [keysFrom, Bool.and_eq_true, decide_eq_true_eq]
        exact ⟨h.1, ih (k' + 1) h.2 (by omega)⟩

/-- Deleting keeps the keys rising. -/
theorem keysFrom_tdel {α : Type} (t : Tbl α) (lo k : Nat) (h : keysFrom lo t = true) : keysFrom lo (tdel t k) = true := by
  induction t generalizing lo with
  | nil => rfl
  | cons e r ih =>
    obtain ⟨k', v'⟩ := e
    simp only [keysFrom, Bool.and_eq_true, decide_eq_true_eq] at h
    unfold tdel
    split
    · exact keysFrom_mono r (k' + 1) lo (by omega) h.2
    · simp only [keysFrom, Bool.and_eq_true, decide_eq_true_eq]
      exact ⟨h.1, ih (k' + 1) h.2⟩

/-- Filtering keeps the keys rising. -/
theorem keysFrom_filter {α : Type} (t : Tbl α) (lo : Nat) (p : Nat × α → Bool) (h : keysFrom lo t = true) :
    keysFrom lo (t.filter p) = true := by
  induction t generalizing lo with
  | nil => rfl
  | cons e r ih =>
    obtain ⟨k', v'⟩ := e
    simp only [keysFrom, Bool.and_eq_true, decide_eq_true_eq] at h
    rw [List.filter_cons]
    split
    · simp only [keysFrom, Bool.and_eq_true, decide_eq_true_eq]
      exact ⟨h.1, ih (k' + 1) h.2⟩
    · exact keysFrom_mono _ (k' + 1) lo (by omega) (ih (k' + 1) h.2)

/-- A key that was deleted from a table with rising keys is not in it. -/
theorem tfind_tdel_same {α : Type} (t : Tbl α) (lo k : Nat) (h : keysFrom lo t = true) : tfind (tdel t k) k = none := by
  induction t generalizing lo with
  | nil => rfl
  | cons e r ih =>
    obtain ⟨k', v'⟩ := e
    simp only [keysFrom, Bool.and_eq_true, decide_eq_true_eq] at h
    unfold tdel
    split
    · next h2 => subst h2; exact tfind_below r (k' + 1) k' h.2 (by omega)
    · next h2 => simp only [tfind, h2, if_false]; exact ih (k' + 1) h.2

/-- Deleting a key leaves every other key. -/
theorem tfind_tdel_other {α : Type} (t : Tbl α) (k j : Nat) (h : j ≠ k) : tfind (tdel t k) j = tfind t j := by
  induction t with
  | nil => rfl
  | cons e r ih =>
    obtain ⟨k', v'⟩ := e
    unfold tdel
    split
    · next h2 =>
      subst h2
      have h' : ¬k' = j := fun e => h e.symm
      simp [tfind, h']
    · simp only [tfind]; split <;> simp_all

/-- Every entry of a table after a put is the new one or an old one. -/
theorem mem_tput {α : Type} (t : Tbl α) (k : Nat) (v : α) (e : Nat × α) (h : e ∈ tput t k v) : e = (k, v) ∨ e ∈ t := by
  induction t with
  | nil => simp_all [tput]
  | cons x r ih =>
    obtain ⟨k', v'⟩ := x
    unfold tput at h
    split at h
    · simpa using h
    · split at h
      · simp only [List.mem_cons] at h ⊢
        rcases h with h | h
        · exact .inl h
        · exact .inr (.inr h)
      · simp only [List.mem_cons] at h ⊢
        rcases h with h | h
        · exact .inr (.inl h)
        · rcases ih h with h | h
          · exact .inl h
          · exact .inr (.inr h)

/-- Every entry of a table after a deletion is an old one. -/
theorem mem_tdel {α : Type} (t : Tbl α) (k : Nat) (e : Nat × α) (h : e ∈ tdel t k) : e ∈ t := by
  induction t with
  | nil => simp_all [tdel]
  | cons x r ih =>
    obtain ⟨k', v'⟩ := x
    unfold tdel at h
    split at h
    · exact List.mem_cons_of_mem _ h
    · simp only [List.mem_cons] at h ⊢
      exact h.imp id ih

/-! ### The depot as memory -/

/-- The depot with nothing in it is in canonical form. -/
theorem wf_nil : Memory.wf [] = true := rfl

/-- Writing a byte keeps the canonical form. -/
theorem wf_memPut (d : List Host.Cell) (a : Nat) (v : BitVec 8) (h : Memory.wf d = true) : Memory.wf (memPut d a v) = true := by
  simp only [Memory.wf, Bool.and_eq_true, List.all_eq_true] at h ⊢
  unfold memPut tset
  split
  · exact ⟨keysFrom_tdel d 0 a h.1, fun c hc => h.2 c (mem_tdel d a c hc)⟩
  · next hv =>
    refine ⟨keysFrom_tput d 0 a v h.1 (Nat.zero_le a), fun c hc => ?_⟩
    rcases mem_tput d a v c hc with hc | hc
    · subst hc; simpa using hv
    · exact h.2 c hc

/-- Writing bytes keeps the canonical form. -/
theorem wf_memWrite (l : List (BitVec 8)) (d : List Host.Cell) (a : Nat) (h : Memory.wf d = true) :
    Memory.wf (memWrite d a l) = true := by
  induction l generalizing d a with
  | nil => exact h
  | cons v r ih => exact ih _ _ (wf_memPut d a v h)

/-- Cutting bytes out of the depot keeps the canonical form. -/
theorem wf_filter (d : List Host.Cell) (p : Host.Cell → Bool) (h : Memory.wf d = true) : Memory.wf (d.filter p) = true := by
  simp only [Memory.wf, Bool.and_eq_true, List.all_eq_true] at h ⊢
  exact ⟨keysFrom_filter d 0 p h.1, fun c hc => h.2 c ((List.mem_filter.mp hc).1)⟩

/-- A byte that was written reads back. -/
theorem memByte_memPut_same (d : List Host.Cell) (a : Nat) (v : BitVec 8) (h : Memory.wf d = true) :
    memByte (memPut d a v) a = v := by
  simp only [Memory.wf, Bool.and_eq_true] at h
  by_cases hv : v = 0#8
  · simp [memByte, memPut, tset, tget, hv, tfind_tdel_same d 0 a h.1]
  · simp [memByte, memPut, tset, tget, hv, tfind_tput_same]

/-- Writing a byte leaves every other byte. -/
theorem memByte_memPut_other (d : List Host.Cell) (a c : Nat) (v : BitVec 8) (h : c ≠ a) :
    memByte (memPut d a v) c = memByte d c := by
  by_cases hv : v = 0#8
  · simp [memByte, memPut, tset, tget, hv, tfind_tdel_other d a c h]
  · simp [memByte, memPut, tset, tget, hv, tfind_tput_other d a c v h]

/-- Writing bytes leaves every byte outside the range written. -/
theorem memByte_memWrite_other (l : List (BitVec 8)) (d : List Host.Cell) (a c : Nat) (h : c < a ∨ a + l.length ≤ c) :
    memByte (memWrite d a l) c = memByte d c := by
  induction l generalizing d a with
  | nil => rfl
  | cons v r ih =>
    simp only [List.length_cons] at h
    unfold memWrite
    rw [ih (memPut d a v) (a + 1) (by omega), memByte_memPut_other d a c v (by omega)]

/-- The bytes written read back. -/
theorem memByte_memWrite_at (l : List (BitVec 8)) (d : List Host.Cell) (a i : Nat) (h : Memory.wf d = true) (hi : i < l.length) :
    memByte (memWrite d a l) (a + i) = l.getD i 0#8 := by
  induction l generalizing d a i with
  | nil => simp at hi
  | cons v r ih =>
    unfold memWrite
    cases i with
    | zero =>
      rw [memByte_memWrite_other r _ (a + 1) (a + 0) (by omega), Nat.add_zero, memByte_memPut_same d a v h]; rfl
    | succ j =>
      have hj : j < r.length := by simpa using hi
      have e : a + (j + 1) = a + 1 + j := by omega
      rw [e, ih (memPut d a v) (a + 1) j (wf_memPut d a v h) hj]; rfl

end Sys2Proof.Laws
end

