-- ==== Sys2Proof/Laws/Depot.lean ====
section
/-!
SUPPORT. What the operations on the depot data areas do: they keep the canonical form, and they change the bytes that they
name and no other.
-/
namespace Sys2Proof.Laws

open Sys2Proof Sys2Proof.Machine

/-- A filter that looks at keys alone, seen through a look-up. -/
theorem tfind_filter_key {α : Type} (t : Tbl α) (p : Nat → Bool) (k : Nat) :
    tfind (t.filter (fun e => p e.1)) k = if p k then tfind t k else none := by
  induction t with
  | nil => simp [tfind]
  | cons e r ih =>
    obtain ⟨k', v⟩ := e
    by_cases hp : p k' = true
    · by_cases hk : k' = k
      · subst hk; simp [List.filter, hp, tfind]
      · simp [List.filter, hp, tfind, hk, ih]
    · by_cases hk : k' = k
      · subst hk
        simp only [Bool.not_eq_true] at hp
        simp [List.filter, hp, ih]
      · simp only [Bool.not_eq_true] at hp
        simp [List.filter, hp, tfind, hk, ih]

/-- Cutting a data area keeps the canonical form. -/
theorem wf_depotCut (p x : Nat) (d : List Host.Cell) (h : Memory.wf d = true) : Memory.wf (depotCut p x d) = true :=
  wf_filter d _ h

/-- A byte of a data area from the cut on reads 0. -/
theorem memByte_depotCut_in (p x a : Nat) (d : List Host.Cell) (h : a / 2 ^ 27 = p ∧ x ≤ a % 2 ^ 27) :
    memByte (depotCut p x d) a = 0#8 := by
  have hf := tfind_filter_key d (fun k => !(k / 2 ^ 27 == p && decide (x ≤ k % 2 ^ 27))) a
  have hd : depotCut p x d = d.filter (fun c => !(c.1 / 2 ^ 27 == p && decide (x ≤ c.1 % 2 ^ 27))) := rfl
  unfold memByte tget
  have hb : (!(a / 2 ^ 27 == p && decide (x ≤ a % 2 ^ 27))) = false := by
    rw [decide_eq_true h.2, beq_iff_eq.mpr h.1]; rfl
  rw [hd, hf, hb]; rfl

/-- Every other byte reads as before. -/
theorem memByte_depotCut_out (p x a : Nat) (d : List Host.Cell) (h : ¬ (a / 2 ^ 27 = p ∧ x ≤ a % 2 ^ 27)) :
    memByte (depotCut p x d) a = memByte d a := by
  have hf := tfind_filter_key d (fun k => !(k / 2 ^ 27 == p && decide (x ≤ k % 2 ^ 27))) a
  have hd : depotCut p x d = d.filter (fun c => !(c.1 / 2 ^ 27 == p && decide (x ≤ c.1 % 2 ^ 27))) := rfl
  unfold memByte tget
  rw [hd, hf]
  have hb : (!(a / 2 ^ 27 == p && decide (x ≤ a % 2 ^ 27))) = true := by
    rw [Bool.not_eq_true', Bool.and_eq_false_iff]
    by_cases h1 : a / 2 ^ 27 = p
    · exact Or.inr (decide_eq_false (fun h2 => h ⟨h1, h2⟩))
    · exact Or.inl (beq_eq_false_iff_ne.mpr h1)
  rw [hb]; rfl

/-- The cuts of a recomposition keep the canonical form. -/
theorem wf_cuts (l : List (Nat × Nat × Nat)) (d : List Host.Cell) (h : Memory.wf d = true) :
    Memory.wf (each l (fun e d => depotCut e.1 (e.2.1 * 65536) d) d) = true := by
  induction l generalizing d with
  | nil => exact h
  | cons e r ih => exact ih _ (wf_depotCut _ _ _ h)

/-- The move of a recomposition keeps the canonical form. -/
theorem wf_depotMoved (b : Block) (d : List Host.Cell) (h : Memory.wf d = true) : Memory.wf (depotMoved b d) = true := by
  unfold depotMoved
  split
  · exact h
  · exact wf_cuts _ _ h

end Sys2Proof.Laws
end

