-- ==== Sys2Proof/Laws/State.lean ====
section
/-!
SUPPORT. What each update of the block leaves: one lemma per field and update, true by computation.
-/
namespace Sys2Proof.Laws

open Sys2Proof Sys2Proof.Machine

variable (b : Block)

/-! ### modSq -/

@[simp] theorem modSq_now (f : Sq → Sq) : (modSq f b).now = b.now := rfl
@[simp] theorem modSq_fresh (f : Sq → Sq) : (modSq f b).fresh = b.fresh := rfl
@[simp] theorem modSq_out (f : Sq → Sq) : (modSq f b).out = b.out := rfl
@[simp] theorem modSq_regs (f : Sq → Sq) : (modSq f b).regs = b.regs := rfl
@[simp] theorem modSq_nextTxn (f : Sq → Sq) : (modSq f b).nextTxn = b.nextTxn := rfl
@[simp] theorem modSq_txns (f : Sq → Sq) : (modSq f b).txns = b.txns := rfl
@[simp] theorem modSq_fuses (f : Sq → Sq) : (modSq f b).fuses = b.fuses := rfl
@[simp] theorem modSq_sgServing (f : Sq → Sq) : (modSq f b).sgServing = b.sgServing := rfl
@[simp] theorem modSq_fhPart (f : Sq → Sq) : (modSq f b).fhPart = b.fhPart := rfl
@[simp] theorem modSq_halves (f : Sq → Sq) : (modSq f b).halves = b.halves := rfl
@[simp] theorem modSq_sq (f : Sq → Sq) : (modSq f b).sq = f b.sq := rfl
@[simp] theorem modSq_he (f : Sq → Sq) : (modSq f b).he = b.he := rfl
@[simp] theorem modSq_tu (f : Sq → Sq) : (modSq f b).tu = b.tu := rfl
@[simp] theorem modSq_hp (f : Sq → Sq) : (modSq f b).hp = b.hp := rfl
@[simp] theorem modSq_pt (f : Sq → Sq) : (modSq f b).pt = b.pt := rfl
@[simp] theorem modSq_tc (f : Sq → Sq) : (modSq f b).tc = b.tc := rfl
@[simp] theorem modSq_ft (f : Sq → Sq) : (modSq f b).ft = b.ft := rfl
@[simp] theorem modSq_ps (f : Sq → Sq) : (modSq f b).ps = b.ps := rfl
@[simp] theorem modSq_gov (f : Sq → Sq) : (modSq f b).gov = b.gov := rfl
@[simp] theorem modSq_ck (f : Sq → Sq) : (modSq f b).ck = b.ck := rfl
@[simp] theorem modSq_ce (f : Sq → Sq) : (modSq f b).ce = b.ce := rfl
@[simp] theorem modSq_en (f : Sq → Sq) : (modSq f b).en = b.en := rfl
@[simp] theorem modSq_md (f : Sq → Sq) : (modSq f b).md = b.md := rfl
@[simp] theorem modSq_cc (f : Sq → Sq) : (modSq f b).cc = b.cc := rfl

/-! ### modHe -/

@[simp] theorem modHe_now (f : He → He) : (modHe f b).now = b.now := rfl
@[simp] theorem modHe_fresh (f : He → He) : (modHe f b).fresh = b.fresh := rfl
@[simp] theorem modHe_out (f : He → He) : (modHe f b).out = b.out := rfl
@[simp] theorem modHe_regs (f : He → He) : (modHe f b).regs = b.regs := rfl
@[simp] theorem modHe_nextTxn (f : He → He) : (modHe f b).nextTxn = b.nextTxn := rfl
@[simp] theorem modHe_txns (f : He → He) : (modHe f b).txns = b.txns := rfl
@[simp] theorem modHe_fuses (f : He → He) : (modHe f b).fuses = b.fuses := rfl
@[simp] theorem modHe_sgServing (f : He → He) : (modHe f b).sgServing = b.sgServing := rfl
@[simp] theorem modHe_fhPart (f : He → He) : (modHe f b).fhPart = b.fhPart := rfl
@[simp] theorem modHe_halves (f : He → He) : (modHe f b).halves = b.halves := rfl
@[simp] theorem modHe_sq (f : He → He) : (modHe f b).sq = b.sq := rfl
@[simp] theorem modHe_he (f : He → He) : (modHe f b).he = f b.he := rfl
@[simp] theorem modHe_tu (f : He → He) : (modHe f b).tu = b.tu := rfl
@[simp] theorem modHe_hp (f : He → He) : (modHe f b).hp = b.hp := rfl
@[simp] theorem modHe_pt (f : He → He) : (modHe f b).pt = b.pt := rfl
@[simp] theorem modHe_tc (f : He → He) : (modHe f b).tc = b.tc := rfl
@[simp] theorem modHe_ft (f : He → He) : (modHe f b).ft = b.ft := rfl
@[simp] theorem modHe_ps (f : He → He) : (modHe f b).ps = b.ps := rfl
@[simp] theorem modHe_gov (f : He → He) : (modHe f b).gov = b.gov := rfl
@[simp] theorem modHe_ck (f : He → He) : (modHe f b).ck = b.ck := rfl
@[simp] theorem modHe_ce (f : He → He) : (modHe f b).ce = b.ce := rfl
@[simp] theorem modHe_en (f : He → He) : (modHe f b).en = b.en := rfl
@[simp] theorem modHe_md (f : He → He) : (modHe f b).md = b.md := rfl
@[simp] theorem modHe_cc (f : He → He) : (modHe f b).cc = b.cc := rfl

/-! ### modTu -/

@[simp] theorem modTu_now (f : Tu → Tu) : (modTu f b).now = b.now := rfl
@[simp] theorem modTu_fresh (f : Tu → Tu) : (modTu f b).fresh = b.fresh := rfl
@[simp] theorem modTu_out (f : Tu → Tu) : (modTu f b).out = b.out := rfl
@[simp] theorem modTu_regs (f : Tu → Tu) : (modTu f b).regs = b.regs := rfl
@[simp] theorem modTu_nextTxn (f : Tu → Tu) : (modTu f b).nextTxn = b.nextTxn := rfl
@[simp] theorem modTu_txns (f : Tu → Tu) : (modTu f b).txns = b.txns := rfl
@[simp] theorem modTu_fuses (f : Tu → Tu) : (modTu f b).fuses = b.fuses := rfl
@[simp] theorem modTu_sgServing (f : Tu → Tu) : (modTu f b).sgServing = b.sgServing := rfl
@[simp] theorem modTu_fhPart (f : Tu → Tu) : (modTu f b).fhPart = b.fhPart := rfl
@[simp] theorem modTu_halves (f : Tu → Tu) : (modTu f b).halves = b.halves := rfl
@[simp] theorem modTu_sq (f : Tu → Tu) : (modTu f b).sq = b.sq := rfl
@[simp] theorem modTu_he (f : Tu → Tu) : (modTu f b).he = b.he := rfl
@[simp] theorem modTu_tu (f : Tu → Tu) : (modTu f b).tu = f b.tu := rfl
@[simp] theorem modTu_hp (f : Tu → Tu) : (modTu f b).hp = b.hp := rfl
@[simp] theorem modTu_pt (f : Tu → Tu) : (modTu f b).pt = b.pt := rfl
@[simp] theorem modTu_tc (f : Tu → Tu) : (modTu f b).tc = b.tc := rfl
@[simp] theorem modTu_ft (f : Tu → Tu) : (modTu f b).ft = b.ft := rfl
@[simp] theorem modTu_ps (f : Tu → Tu) : (modTu f b).ps = b.ps := rfl
@[simp] theorem modTu_gov (f : Tu → Tu) : (modTu f b).gov = b.gov := rfl
@[simp] theorem modTu_ck (f : Tu → Tu) : (modTu f b).ck = b.ck := rfl
@[simp] theorem modTu_ce (f : Tu → Tu) : (modTu f b).ce = b.ce := rfl
@[simp] theorem modTu_en (f : Tu → Tu) : (modTu f b).en = b.en := rfl
@[simp] theorem modTu_md (f : Tu → Tu) : (modTu f b).md = b.md := rfl
@[simp] theorem modTu_cc (f : Tu → Tu) : (modTu f b).cc = b.cc := rfl

/-! ### modHp -/

@[simp] theorem modHp_now (f : Hp → Hp) : (modHp f b).now = b.now := rfl
@[simp] theorem modHp_fresh (f : Hp → Hp) : (modHp f b).fresh = b.fresh := rfl
@[simp] theorem modHp_out (f : Hp → Hp) : (modHp f b).out = b.out := rfl
@[simp] theorem modHp_regs (f : Hp → Hp) : (modHp f b).regs = b.regs := rfl
@[simp] theorem modHp_nextTxn (f : Hp → Hp) : (modHp f b).nextTxn = b.nextTxn := rfl
@[simp] theorem modHp_txns (f : Hp → Hp) : (modHp f b).txns = b.txns := rfl
@[simp] theorem modHp_fuses (f : Hp → Hp) : (modHp f b).fuses = b.fuses := rfl
@[simp] theorem modHp_sgServing (f : Hp → Hp) : (modHp f b).sgServing = b.sgServing := rfl
@[simp] theorem modHp_fhPart (f : Hp → Hp) : (modHp f b).fhPart = b.fhPart := rfl
@[simp] theorem modHp_halves (f : Hp → Hp) : (modHp f b).halves = b.halves := rfl
@[simp] theorem modHp_sq (f : Hp → Hp) : (modHp f b).sq = b.sq := rfl
@[simp] theorem modHp_he (f : Hp → Hp) : (modHp f b).he = b.he := rfl
@[simp] theorem modHp_tu (f : Hp → Hp) : (modHp f b).tu = b.tu := rfl
@[simp] theorem modHp_hp (f : Hp → Hp) : (modHp f b).hp = f b.hp := rfl
@[simp] theorem modHp_pt (f : Hp → Hp) : (modHp f b).pt = b.pt := rfl
@[simp] theorem modHp_tc (f : Hp → Hp) : (modHp f b).tc = b.tc := rfl
@[simp] theorem modHp_ft (f : Hp → Hp) : (modHp f b).ft = b.ft := rfl
@[simp] theorem modHp_ps (f : Hp → Hp) : (modHp f b).ps = b.ps := rfl
@[simp] theorem modHp_gov (f : Hp → Hp) : (modHp f b).gov = b.gov := rfl
@[simp] theorem modHp_ck (f : Hp → Hp) : (modHp f b).ck = b.ck := rfl
@[simp] theorem modHp_ce (f : Hp → Hp) : (modHp f b).ce = b.ce := rfl
@[simp] theorem modHp_en (f : Hp → Hp) : (modHp f b).en = b.en := rfl
@[simp] theorem modHp_md (f : Hp → Hp) : (modHp f b).md = b.md := rfl
@[simp] theorem modHp_cc (f : Hp → Hp) : (modHp f b).cc = b.cc := rfl

/-! ### modPt -/

@[simp] theorem modPt_now (f : Pt → Pt) : (modPt f b).now = b.now := rfl
@[simp] theorem modPt_fresh (f : Pt → Pt) : (modPt f b).fresh = b.fresh := rfl
@[simp] theorem modPt_out (f : Pt → Pt) : (modPt f b).out = b.out := rfl
@[simp] theorem modPt_regs (f : Pt → Pt) : (modPt f b).regs = b.regs := rfl
@[simp] theorem modPt_nextTxn (f : Pt → Pt) : (modPt f b).nextTxn = b.nextTxn := rfl
@[simp] theorem modPt_txns (f : Pt → Pt) : (modPt f b).txns = b.txns := rfl
@[simp] theorem modPt_fuses (f : Pt → Pt) : (modPt f b).fuses = b.fuses := rfl
@[simp] theorem modPt_sgServing (f : Pt → Pt) : (modPt f b).sgServing = b.sgServing := rfl
@[simp] theorem modPt_fhPart (f : Pt → Pt) : (modPt f b).fhPart = b.fhPart := rfl
@[simp] theorem modPt_halves (f : Pt → Pt) : (modPt f b).halves = b.halves := rfl
@[simp] theorem modPt_sq (f : Pt → Pt) : (modPt f b).sq = b.sq := rfl
@[simp] theorem modPt_he (f : Pt → Pt) : (modPt f b).he = b.he := rfl
@[simp] theorem modPt_tu (f : Pt → Pt) : (modPt f b).tu = b.tu := rfl
@[simp] theorem modPt_hp (f : Pt → Pt) : (modPt f b).hp = b.hp := rfl
@[simp] theorem modPt_pt (f : Pt → Pt) : (modPt f b).pt = f b.pt := rfl
@[simp] theorem modPt_tc (f : Pt → Pt) : (modPt f b).tc = b.tc := rfl
@[simp] theorem modPt_ft (f : Pt → Pt) : (modPt f b).ft = b.ft := rfl
@[simp] theorem modPt_ps (f : Pt → Pt) : (modPt f b).ps = b.ps := rfl
@[simp] theorem modPt_gov (f : Pt → Pt) : (modPt f b).gov = b.gov := rfl
@[simp] theorem modPt_ck (f : Pt → Pt) : (modPt f b).ck = b.ck := rfl
@[simp] theorem modPt_ce (f : Pt → Pt) : (modPt f b).ce = b.ce := rfl
@[simp] theorem modPt_en (f : Pt → Pt) : (modPt f b).en = b.en := rfl
@[simp] theorem modPt_md (f : Pt → Pt) : (modPt f b).md = b.md := rfl
@[simp] theorem modPt_cc (f : Pt → Pt) : (modPt f b).cc = b.cc := rfl

/-! ### modTc -/

@[simp] theorem modTc_now (f : Tc → Tc) : (modTc f b).now = b.now := rfl
@[simp] theorem modTc_fresh (f : Tc → Tc) : (modTc f b).fresh = b.fresh := rfl
@[simp] theorem modTc_out (f : Tc → Tc) : (modTc f b).out = b.out := rfl
@[simp] theorem modTc_regs (f : Tc → Tc) : (modTc f b).regs = b.regs := rfl
@[simp] theorem modTc_nextTxn (f : Tc → Tc) : (modTc f b).nextTxn = b.nextTxn := rfl
@[simp] theorem modTc_txns (f : Tc → Tc) : (modTc f b).txns = b.txns := rfl
@[simp] theorem modTc_fuses (f : Tc → Tc) : (modTc f b).fuses = b.fuses := rfl
@[simp] theorem modTc_sgServing (f : Tc → Tc) : (modTc f b).sgServing = b.sgServing := rfl
@[simp] theorem modTc_fhPart (f : Tc → Tc) : (modTc f b).fhPart = b.fhPart := rfl
@[simp] theorem modTc_halves (f : Tc → Tc) : (modTc f b).halves = b.halves := rfl
@[simp] theorem modTc_sq (f : Tc → Tc) : (modTc f b).sq = b.sq := rfl
@[simp] theorem modTc_he (f : Tc → Tc) : (modTc f b).he = b.he := rfl
@[simp] theorem modTc_tu (f : Tc → Tc) : (modTc f b).tu = b.tu := rfl
@[simp] theorem modTc_hp (f : Tc → Tc) : (modTc f b).hp = b.hp := rfl
@[simp] theorem modTc_pt (f : Tc → Tc) : (modTc f b).pt = b.pt := rfl
@[simp] theorem modTc_tc (f : Tc → Tc) : (modTc f b).tc = f b.tc := rfl
@[simp] theorem modTc_ft (f : Tc → Tc) : (modTc f b).ft = b.ft := rfl
@[simp] theorem modTc_ps (f : Tc → Tc) : (modTc f b).ps = b.ps := rfl
@[simp] theorem modTc_gov (f : Tc → Tc) : (modTc f b).gov = b.gov := rfl
@[simp] theorem modTc_ck (f : Tc → Tc) : (modTc f b).ck = b.ck := rfl
@[simp] theorem modTc_ce (f : Tc → Tc) : (modTc f b).ce = b.ce := rfl
@[simp] theorem modTc_en (f : Tc → Tc) : (modTc f b).en = b.en := rfl
@[simp] theorem modTc_md (f : Tc → Tc) : (modTc f b).md = b.md := rfl
@[simp] theorem modTc_cc (f : Tc → Tc) : (modTc f b).cc = b.cc := rfl

/-! ### modFt -/

@[simp] theorem modFt_now (f : Ft → Ft) : (modFt f b).now = b.now := rfl
@[simp] theorem modFt_fresh (f : Ft → Ft) : (modFt f b).fresh = b.fresh := rfl
@[simp] theorem modFt_out (f : Ft → Ft) : (modFt f b).out = b.out := rfl
@[simp] theorem modFt_regs (f : Ft → Ft) : (modFt f b).regs = b.regs := rfl
@[simp] theorem modFt_nextTxn (f : Ft → Ft) : (modFt f b).nextTxn = b.nextTxn := rfl
@[simp] theorem modFt_txns (f : Ft → Ft) : (modFt f b).txns = b.txns := rfl
@[simp] theorem modFt_fuses (f : Ft → Ft) : (modFt f b).fuses = b.fuses := rfl
@[simp] theorem modFt_sgServing (f : Ft → Ft) : (modFt f b).sgServing = b.sgServing := rfl
@[simp] theorem modFt_fhPart (f : Ft → Ft) : (modFt f b).fhPart = b.fhPart := rfl
@[simp] theorem modFt_halves (f : Ft → Ft) : (modFt f b).halves = b.halves := rfl
@[simp] theorem modFt_sq (f : Ft → Ft) : (modFt f b).sq = b.sq := rfl
@[simp] theorem modFt_he (f : Ft → Ft) : (modFt f b).he = b.he := rfl
@[simp] theorem modFt_tu (f : Ft → Ft) : (modFt f b).tu = b.tu := rfl
@[simp] theorem modFt_hp (f : Ft → Ft) : (modFt f b).hp = b.hp := rfl
@[simp] theorem modFt_pt (f : Ft → Ft) : (modFt f b).pt = b.pt := rfl
@[simp] theorem modFt_tc (f : Ft → Ft) : (modFt f b).tc = b.tc := rfl
@[simp] theorem modFt_ft (f : Ft → Ft) : (modFt f b).ft = f b.ft := rfl
@[simp] theorem modFt_ps (f : Ft → Ft) : (modFt f b).ps = b.ps := rfl
@[simp] theorem modFt_gov (f : Ft → Ft) : (modFt f b).gov = b.gov := rfl
@[simp] theorem modFt_ck (f : Ft → Ft) : (modFt f b).ck = b.ck := rfl
@[simp] theorem modFt_ce (f : Ft → Ft) : (modFt f b).ce = b.ce := rfl
@[simp] theorem modFt_en (f : Ft → Ft) : (modFt f b).en = b.en := rfl
@[simp] theorem modFt_md (f : Ft → Ft) : (modFt f b).md = b.md := rfl
@[simp] theorem modFt_cc (f : Ft → Ft) : (modFt f b).cc = b.cc := rfl

/-! ### modPs -/

@[simp] theorem modPs_now (f : Ps → Ps) : (modPs f b).now = b.now := rfl
@[simp] theorem modPs_fresh (f : Ps → Ps) : (modPs f b).fresh = b.fresh := rfl
@[simp] theorem modPs_out (f : Ps → Ps) : (modPs f b).out = b.out := rfl
@[simp] theorem modPs_regs (f : Ps → Ps) : (modPs f b).regs = b.regs := rfl
@[simp] theorem modPs_nextTxn (f : Ps → Ps) : (modPs f b).nextTxn = b.nextTxn := rfl
@[simp] theorem modPs_txns (f : Ps → Ps) : (modPs f b).txns = b.txns := rfl
@[simp] theorem modPs_fuses (f : Ps → Ps) : (modPs f b).fuses = b.fuses := rfl
@[simp] theorem modPs_sgServing (f : Ps → Ps) : (modPs f b).sgServing = b.sgServing := rfl
@[simp] theorem modPs_fhPart (f : Ps → Ps) : (modPs f b).fhPart = b.fhPart := rfl
@[simp] theorem modPs_halves (f : Ps → Ps) : (modPs f b).halves = b.halves := rfl
@[simp] theorem modPs_sq (f : Ps → Ps) : (modPs f b).sq = b.sq := rfl
@[simp] theorem modPs_he (f : Ps → Ps) : (modPs f b).he = b.he := rfl
@[simp] theorem modPs_tu (f : Ps → Ps) : (modPs f b).tu = b.tu := rfl
@[simp] theorem modPs_hp (f : Ps → Ps) : (modPs f b).hp = b.hp := rfl
@[simp] theorem modPs_pt (f : Ps → Ps) : (modPs f b).pt = b.pt := rfl
@[simp] theorem modPs_tc (f : Ps → Ps) : (modPs f b).tc = b.tc := rfl
@[simp] theorem modPs_ft (f : Ps → Ps) : (modPs f b).ft = b.ft := rfl
@[simp] theorem modPs_ps (f : Ps → Ps) : (modPs f b).ps = f b.ps := rfl
@[simp] theorem modPs_gov (f : Ps → Ps) : (modPs f b).gov = b.gov := rfl
@[simp] theorem modPs_ck (f : Ps → Ps) : (modPs f b).ck = b.ck := rfl
@[simp] theorem modPs_ce (f : Ps → Ps) : (modPs f b).ce = b.ce := rfl
@[simp] theorem modPs_en (f : Ps → Ps) : (modPs f b).en = b.en := rfl
@[simp] theorem modPs_md (f : Ps → Ps) : (modPs f b).md = b.md := rfl
@[simp] theorem modPs_cc (f : Ps → Ps) : (modPs f b).cc = b.cc := rfl

/-! ### modGov -/

@[simp] theorem modGov_now (f : Gov → Gov) : (modGov f b).now = b.now := rfl
@[simp] theorem modGov_fresh (f : Gov → Gov) : (modGov f b).fresh = b.fresh := rfl
@[simp] theorem modGov_out (f : Gov → Gov) : (modGov f b).out = b.out := rfl
@[simp] theorem modGov_regs (f : Gov → Gov) : (modGov f b).regs = b.regs := rfl
@[simp] theorem modGov_nextTxn (f : Gov → Gov) : (modGov f b).nextTxn = b.nextTxn := rfl
@[simp] theorem modGov_txns (f : Gov → Gov) : (modGov f b).txns = b.txns := rfl
@[simp] theorem modGov_fuses (f : Gov → Gov) : (modGov f b).fuses = b.fuses := rfl
@[simp] theorem modGov_sgServing (f : Gov → Gov) : (modGov f b).sgServing = b.sgServing := rfl
@[simp] theorem modGov_fhPart (f : Gov → Gov) : (modGov f b).fhPart = b.fhPart := rfl
@[simp] theorem modGov_halves (f : Gov → Gov) : (modGov f b).halves = b.halves := rfl
@[simp] theorem modGov_sq (f : Gov → Gov) : (modGov f b).sq = b.sq := rfl
@[simp] theorem modGov_he (f : Gov → Gov) : (modGov f b).he = b.he := rfl
@[simp] theorem modGov_tu (f : Gov → Gov) : (modGov f b).tu = b.tu := rfl
@[simp] theorem modGov_hp (f : Gov → Gov) : (modGov f b).hp = b.hp := rfl
@[simp] theorem modGov_pt (f : Gov → Gov) : (modGov f b).pt = b.pt := rfl
@[simp] theorem modGov_tc (f : Gov → Gov) : (modGov f b).tc = b.tc := rfl
@[simp] theorem modGov_ft (f : Gov → Gov) : (modGov f b).ft = b.ft := rfl
@[simp] theorem modGov_ps (f : Gov → Gov) : (modGov f b).ps = b.ps := rfl
@[simp] theorem modGov_gov (f : Gov → Gov) : (modGov f b).gov = f b.gov := rfl
@[simp] theorem modGov_ck (f : Gov → Gov) : (modGov f b).ck = b.ck := rfl
@[simp] theorem modGov_ce (f : Gov → Gov) : (modGov f b).ce = b.ce := rfl
@[simp] theorem modGov_en (f : Gov → Gov) : (modGov f b).en = b.en := rfl
@[simp] theorem modGov_md (f : Gov → Gov) : (modGov f b).md = b.md := rfl
@[simp] theorem modGov_cc (f : Gov → Gov) : (modGov f b).cc = b.cc := rfl

/-! ### modCk -/

@[simp] theorem modCk_now (f : Ck → Ck) : (modCk f b).now = b.now := rfl
@[simp] theorem modCk_fresh (f : Ck → Ck) : (modCk f b).fresh = b.fresh := rfl
@[simp] theorem modCk_out (f : Ck → Ck) : (modCk f b).out = b.out := rfl
@[simp] theorem modCk_regs (f : Ck → Ck) : (modCk f b).regs = b.regs := rfl
@[simp] theorem modCk_nextTxn (f : Ck → Ck) : (modCk f b).nextTxn = b.nextTxn := rfl
@[simp] theorem modCk_txns (f : Ck → Ck) : (modCk f b).txns = b.txns := rfl
@[simp] theorem modCk_fuses (f : Ck → Ck) : (modCk f b).fuses = b.fuses := rfl
@[simp] theorem modCk_sgServing (f : Ck → Ck) : (modCk f b).sgServing = b.sgServing := rfl
@[simp] theorem modCk_fhPart (f : Ck → Ck) : (modCk f b).fhPart = b.fhPart := rfl
@[simp] theorem modCk_halves (f : Ck → Ck) : (modCk f b).halves = b.halves := rfl
@[simp] theorem modCk_sq (f : Ck → Ck) : (modCk f b).sq = b.sq := rfl
@[simp] theorem modCk_he (f : Ck → Ck) : (modCk f b).he = b.he := rfl
@[simp] theorem modCk_tu (f : Ck → Ck) : (modCk f b).tu = b.tu := rfl
@[simp] theorem modCk_hp (f : Ck → Ck) : (modCk f b).hp = b.hp := rfl
@[simp] theorem modCk_pt (f : Ck → Ck) : (modCk f b).pt = b.pt := rfl
@[simp] theorem modCk_tc (f : Ck → Ck) : (modCk f b).tc = b.tc := rfl
@[simp] theorem modCk_ft (f : Ck → Ck) : (modCk f b).ft = b.ft := rfl
@[simp] theorem modCk_ps (f : Ck → Ck) : (modCk f b).ps = b.ps := rfl
@[simp] theorem modCk_gov (f : Ck → Ck) : (modCk f b).gov = b.gov := rfl
@[simp] theorem modCk_ck (f : Ck → Ck) : (modCk f b).ck = f b.ck := rfl
@[simp] theorem modCk_ce (f : Ck → Ck) : (modCk f b).ce = b.ce := rfl
@[simp] theorem modCk_en (f : Ck → Ck) : (modCk f b).en = b.en := rfl
@[simp] theorem modCk_md (f : Ck → Ck) : (modCk f b).md = b.md := rfl
@[simp] theorem modCk_cc (f : Ck → Ck) : (modCk f b).cc = b.cc := rfl

/-! ### modCe -/

@[simp] theorem modCe_now (f : Ce → Ce) : (modCe f b).now = b.now := rfl
@[simp] theorem modCe_fresh (f : Ce → Ce) : (modCe f b).fresh = b.fresh := rfl
@[simp] theorem modCe_out (f : Ce → Ce) : (modCe f b).out = b.out := rfl
@[simp] theorem modCe_regs (f : Ce → Ce) : (modCe f b).regs = b.regs := rfl
@[simp] theorem modCe_nextTxn (f : Ce → Ce) : (modCe f b).nextTxn = b.nextTxn := rfl
@[simp] theorem modCe_txns (f : Ce → Ce) : (modCe f b).txns = b.txns := rfl
@[simp] theorem modCe_fuses (f : Ce → Ce) : (modCe f b).fuses = b.fuses := rfl
@[simp] theorem modCe_sgServing (f : Ce → Ce) : (modCe f b).sgServing = b.sgServing := rfl
@[simp] theorem modCe_fhPart (f : Ce → Ce) : (modCe f b).fhPart = b.fhPart := rfl
@[simp] theorem modCe_halves (f : Ce → Ce) : (modCe f b).halves = b.halves := rfl
@[simp] theorem modCe_sq (f : Ce → Ce) : (modCe f b).sq = b.sq := rfl
@[simp] theorem modCe_he (f : Ce → Ce) : (modCe f b).he = b.he := rfl
@[simp] theorem modCe_tu (f : Ce → Ce) : (modCe f b).tu = b.tu := rfl
@[simp] theorem modCe_hp (f : Ce → Ce) : (modCe f b).hp = b.hp := rfl
@[simp] theorem modCe_pt (f : Ce → Ce) : (modCe f b).pt = b.pt := rfl
@[simp] theorem modCe_tc (f : Ce → Ce) : (modCe f b).tc = b.tc := rfl
@[simp] theorem modCe_ft (f : Ce → Ce) : (modCe f b).ft = b.ft := rfl
@[simp] theorem modCe_ps (f : Ce → Ce) : (modCe f b).ps = b.ps := rfl
@[simp] theorem modCe_gov (f : Ce → Ce) : (modCe f b).gov = b.gov := rfl
@[simp] theorem modCe_ck (f : Ce → Ce) : (modCe f b).ck = b.ck := rfl
@[simp] theorem modCe_ce (f : Ce → Ce) : (modCe f b).ce = f b.ce := rfl
@[simp] theorem modCe_en (f : Ce → Ce) : (modCe f b).en = b.en := rfl
@[simp] theorem modCe_md (f : Ce → Ce) : (modCe f b).md = b.md := rfl
@[simp] theorem modCe_cc (f : Ce → Ce) : (modCe f b).cc = b.cc := rfl

/-! ### modEn -/

@[simp] theorem modEn_now (f : En → En) : (modEn f b).now = b.now := rfl
@[simp] theorem modEn_fresh (f : En → En) : (modEn f b).fresh = b.fresh := rfl
@[simp] theorem modEn_out (f : En → En) : (modEn f b).out = b.out := rfl
@[simp] theorem modEn_regs (f : En → En) : (modEn f b).regs = b.regs := rfl
@[simp] theorem modEn_nextTxn (f : En → En) : (modEn f b).nextTxn = b.nextTxn := rfl
@[simp] theorem modEn_txns (f : En → En) : (modEn f b).txns = b.txns := rfl
@[simp] theorem modEn_fuses (f : En → En) : (modEn f b).fuses = b.fuses := rfl
@[simp] theorem modEn_sgServing (f : En → En) : (modEn f b).sgServing = b.sgServing := rfl
@[simp] theorem modEn_fhPart (f : En → En) : (modEn f b).fhPart = b.fhPart := rfl
@[simp] theorem modEn_halves (f : En → En) : (modEn f b).halves = b.halves := rfl
@[simp] theorem modEn_sq (f : En → En) : (modEn f b).sq = b.sq := rfl
@[simp] theorem modEn_he (f : En → En) : (modEn f b).he = b.he := rfl
@[simp] theorem modEn_tu (f : En → En) : (modEn f b).tu = b.tu := rfl
@[simp] theorem modEn_hp (f : En → En) : (modEn f b).hp = b.hp := rfl
@[simp] theorem modEn_pt (f : En → En) : (modEn f b).pt = b.pt := rfl
@[simp] theorem modEn_tc (f : En → En) : (modEn f b).tc = b.tc := rfl
@[simp] theorem modEn_ft (f : En → En) : (modEn f b).ft = b.ft := rfl
@[simp] theorem modEn_ps (f : En → En) : (modEn f b).ps = b.ps := rfl
@[simp] theorem modEn_gov (f : En → En) : (modEn f b).gov = b.gov := rfl
@[simp] theorem modEn_ck (f : En → En) : (modEn f b).ck = b.ck := rfl
@[simp] theorem modEn_ce (f : En → En) : (modEn f b).ce = b.ce := rfl
@[simp] theorem modEn_en (f : En → En) : (modEn f b).en = f b.en := rfl
@[simp] theorem modEn_md (f : En → En) : (modEn f b).md = b.md := rfl
@[simp] theorem modEn_cc (f : En → En) : (modEn f b).cc = b.cc := rfl

/-! ### modMd -/

@[simp] theorem modMd_now (f : Md → Md) : (modMd f b).now = b.now := rfl
@[simp] theorem modMd_fresh (f : Md → Md) : (modMd f b).fresh = b.fresh := rfl
@[simp] theorem modMd_out (f : Md → Md) : (modMd f b).out = b.out := rfl
@[simp] theorem modMd_regs (f : Md → Md) : (modMd f b).regs = b.regs := rfl
@[simp] theorem modMd_nextTxn (f : Md → Md) : (modMd f b).nextTxn = b.nextTxn := rfl
@[simp] theorem modMd_txns (f : Md → Md) : (modMd f b).txns = b.txns := rfl
@[simp] theorem modMd_fuses (f : Md → Md) : (modMd f b).fuses = b.fuses := rfl
@[simp] theorem modMd_sgServing (f : Md → Md) : (modMd f b).sgServing = b.sgServing := rfl
@[simp] theorem modMd_fhPart (f : Md → Md) : (modMd f b).fhPart = b.fhPart := rfl
@[simp] theorem modMd_halves (f : Md → Md) : (modMd f b).halves = b.halves := rfl
@[simp] theorem modMd_sq (f : Md → Md) : (modMd f b).sq = b.sq := rfl
@[simp] theorem modMd_he (f : Md → Md) : (modMd f b).he = b.he := rfl
@[simp] theorem modMd_tu (f : Md → Md) : (modMd f b).tu = b.tu := rfl
@[simp] theorem modMd_hp (f : Md → Md) : (modMd f b).hp = b.hp := rfl
@[simp] theorem modMd_pt (f : Md → Md) : (modMd f b).pt = b.pt := rfl
@[simp] theorem modMd_tc (f : Md → Md) : (modMd f b).tc = b.tc := rfl
@[simp] theorem modMd_ft (f : Md → Md) : (modMd f b).ft = b.ft := rfl
@[simp] theorem modMd_ps (f : Md → Md) : (modMd f b).ps = b.ps := rfl
@[simp] theorem modMd_gov (f : Md → Md) : (modMd f b).gov = b.gov := rfl
@[simp] theorem modMd_ck (f : Md → Md) : (modMd f b).ck = b.ck := rfl
@[simp] theorem modMd_ce (f : Md → Md) : (modMd f b).ce = b.ce := rfl
@[simp] theorem modMd_en (f : Md → Md) : (modMd f b).en = b.en := rfl
@[simp] theorem modMd_md (f : Md → Md) : (modMd f b).md = f b.md := rfl
@[simp] theorem modMd_cc (f : Md → Md) : (modMd f b).cc = b.cc := rfl

/-! ### modCc -/

@[simp] theorem modCc_now (f : Cc → Cc) : (modCc f b).now = b.now := rfl
@[simp] theorem modCc_fresh (f : Cc → Cc) : (modCc f b).fresh = b.fresh := rfl
@[simp] theorem modCc_out (f : Cc → Cc) : (modCc f b).out = b.out := rfl
@[simp] theorem modCc_regs (f : Cc → Cc) : (modCc f b).regs = b.regs := rfl
@[simp] theorem modCc_nextTxn (f : Cc → Cc) : (modCc f b).nextTxn = b.nextTxn := rfl
@[simp] theorem modCc_txns (f : Cc → Cc) : (modCc f b).txns = b.txns := rfl
@[simp] theorem modCc_fuses (f : Cc → Cc) : (modCc f b).fuses = b.fuses := rfl
@[simp] theorem modCc_sgServing (f : Cc → Cc) : (modCc f b).sgServing = b.sgServing := rfl
@[simp] theorem modCc_fhPart (f : Cc → Cc) : (modCc f b).fhPart = b.fhPart := rfl
@[simp] theorem modCc_halves (f : Cc → Cc) : (modCc f b).halves = b.halves := rfl
@[simp] theorem modCc_sq (f : Cc → Cc) : (modCc f b).sq = b.sq := rfl
@[simp] theorem modCc_he (f : Cc → Cc) : (modCc f b).he = b.he := rfl
@[simp] theorem modCc_tu (f : Cc → Cc) : (modCc f b).tu = b.tu := rfl
@[simp] theorem modCc_hp (f : Cc → Cc) : (modCc f b).hp = b.hp := rfl
@[simp] theorem modCc_pt (f : Cc → Cc) : (modCc f b).pt = b.pt := rfl
@[simp] theorem modCc_tc (f : Cc → Cc) : (modCc f b).tc = b.tc := rfl
@[simp] theorem modCc_ft (f : Cc → Cc) : (modCc f b).ft = b.ft := rfl
@[simp] theorem modCc_ps (f : Cc → Cc) : (modCc f b).ps = b.ps := rfl
@[simp] theorem modCc_gov (f : Cc → Cc) : (modCc f b).gov = b.gov := rfl
@[simp] theorem modCc_ck (f : Cc → Cc) : (modCc f b).ck = b.ck := rfl
@[simp] theorem modCc_ce (f : Cc → Cc) : (modCc f b).ce = b.ce := rfl
@[simp] theorem modCc_en (f : Cc → Cc) : (modCc f b).en = b.en := rfl
@[simp] theorem modCc_md (f : Cc → Cc) : (modCc f b).md = b.md := rfl
@[simp] theorem modCc_cc (f : Cc → Cc) : (modCc f b).cc = f b.cc := rfl

/-! ### rput -/

@[simp] theorem rput_now (r : Reg) (i : Nat) (v : BitVec 64) : (rput r i v b).now = b.now := rfl
@[simp] theorem rput_fresh (r : Reg) (i : Nat) (v : BitVec 64) : (rput r i v b).fresh = b.fresh := rfl
@[simp] theorem rput_out (r : Reg) (i : Nat) (v : BitVec 64) : (rput r i v b).out = b.out := rfl
@[simp] theorem rput_regs (r : Reg) (i : Nat) (v : BitVec 64) : (rput r i v b).regs = tput b.regs (regKey r i) v := rfl
@[simp] theorem rput_nextTxn (r : Reg) (i : Nat) (v : BitVec 64) : (rput r i v b).nextTxn = b.nextTxn := rfl
@[simp] theorem rput_txns (r : Reg) (i : Nat) (v : BitVec 64) : (rput r i v b).txns = b.txns := rfl
@[simp] theorem rput_fuses (r : Reg) (i : Nat) (v : BitVec 64) : (rput r i v b).fuses = b.fuses := rfl
@[simp] theorem rput_sgServing (r : Reg) (i : Nat) (v : BitVec 64) : (rput r i v b).sgServing = b.sgServing := rfl
@[simp] theorem rput_fhPart (r : Reg) (i : Nat) (v : BitVec 64) : (rput r i v b).fhPart = b.fhPart := rfl
@[simp] theorem rput_halves (r : Reg) (i : Nat) (v : BitVec 64) : (rput r i v b).halves = b.halves := rfl
@[simp] theorem rput_sq (r : Reg) (i : Nat) (v : BitVec 64) : (rput r i v b).sq = b.sq := rfl
@[simp] theorem rput_he (r : Reg) (i : Nat) (v : BitVec 64) : (rput r i v b).he = b.he := rfl
@[simp] theorem rput_tu (r : Reg) (i : Nat) (v : BitVec 64) : (rput r i v b).tu = b.tu := rfl
@[simp] theorem rput_hp (r : Reg) (i : Nat) (v : BitVec 64) : (rput r i v b).hp = b.hp := rfl
@[simp] theorem rput_pt (r : Reg) (i : Nat) (v : BitVec 64) : (rput r i v b).pt = b.pt := rfl
@[simp] theorem rput_tc (r : Reg) (i : Nat) (v : BitVec 64) : (rput r i v b).tc = b.tc := rfl
@[simp] theorem rput_ft (r : Reg) (i : Nat) (v : BitVec 64) : (rput r i v b).ft = b.ft := rfl
@[simp] theorem rput_ps (r : Reg) (i : Nat) (v : BitVec 64) : (rput r i v b).ps = b.ps := rfl
@[simp] theorem rput_gov (r : Reg) (i : Nat) (v : BitVec 64) : (rput r i v b).gov = b.gov := rfl
@[simp] theorem rput_ck (r : Reg) (i : Nat) (v : BitVec 64) : (rput r i v b).ck = b.ck := rfl
@[simp] theorem rput_ce (r : Reg) (i : Nat) (v : BitVec 64) : (rput r i v b).ce = b.ce := rfl
@[simp] theorem rput_en (r : Reg) (i : Nat) (v : BitVec 64) : (rput r i v b).en = b.en := rfl
@[simp] theorem rput_md (r : Reg) (i : Nat) (v : BitVec 64) : (rput r i v b).md = b.md := rfl
@[simp] theorem rput_cc (r : Reg) (i : Nat) (v : BitVec 64) : (rput r i v b).cc = b.cc := rfl

/-! ### rclear -/

@[simp] theorem rclear_now (r : Reg) (i : Nat) : (rclear r i b).now = b.now := rfl
@[simp] theorem rclear_fresh (r : Reg) (i : Nat) : (rclear r i b).fresh = b.fresh := rfl
@[simp] theorem rclear_out (r : Reg) (i : Nat) : (rclear r i b).out = b.out := rfl
@[simp] theorem rclear_regs (r : Reg) (i : Nat) : (rclear r i b).regs = tdel b.regs (regKey r i) := rfl
@[simp] theorem rclear_nextTxn (r : Reg) (i : Nat) : (rclear r i b).nextTxn = b.nextTxn := rfl
@[simp] theorem rclear_txns (r : Reg) (i : Nat) : (rclear r i b).txns = b.txns := rfl
@[simp] theorem rclear_fuses (r : Reg) (i : Nat) : (rclear r i b).fuses = b.fuses := rfl
@[simp] theorem rclear_sgServing (r : Reg) (i : Nat) : (rclear r i b).sgServing = b.sgServing := rfl
@[simp] theorem rclear_fhPart (r : Reg) (i : Nat) : (rclear r i b).fhPart = b.fhPart := rfl
@[simp] theorem rclear_halves (r : Reg) (i : Nat) : (rclear r i b).halves = b.halves := rfl
@[simp] theorem rclear_sq (r : Reg) (i : Nat) : (rclear r i b).sq = b.sq := rfl
@[simp] theorem rclear_he (r : Reg) (i : Nat) : (rclear r i b).he = b.he := rfl
@[simp] theorem rclear_tu (r : Reg) (i : Nat) : (rclear r i b).tu = b.tu := rfl
@[simp] theorem rclear_hp (r : Reg) (i : Nat) : (rclear r i b).hp = b.hp := rfl
@[simp] theorem rclear_pt (r : Reg) (i : Nat) : (rclear r i b).pt = b.pt := rfl
@[simp] theorem rclear_tc (r : Reg) (i : Nat) : (rclear r i b).tc = b.tc := rfl
@[simp] theorem rclear_ft (r : Reg) (i : Nat) : (rclear r i b).ft = b.ft := rfl
@[simp] theorem rclear_ps (r : Reg) (i : Nat) : (rclear r i b).ps = b.ps := rfl
@[simp] theorem rclear_gov (r : Reg) (i : Nat) : (rclear r i b).gov = b.gov := rfl
@[simp] theorem rclear_ck (r : Reg) (i : Nat) : (rclear r i b).ck = b.ck := rfl
@[simp] theorem rclear_ce (r : Reg) (i : Nat) : (rclear r i b).ce = b.ce := rfl
@[simp] theorem rclear_en (r : Reg) (i : Nat) : (rclear r i b).en = b.en := rfl
@[simp] theorem rclear_md (r : Reg) (i : Nat) : (rclear r i b).md = b.md := rfl
@[simp] theorem rclear_cc (r : Reg) (i : Nat) : (rclear r i b).cc = b.cc := rfl

/-! ### emit -/

@[simp] theorem emit_now (m : Msg) : (emit m b).now = b.now := rfl
@[simp] theorem emit_fresh (m : Msg) : (emit m b).fresh = b.fresh := rfl
@[simp] theorem emit_out (m : Msg) : (emit m b).out = m :: b.out := rfl
@[simp] theorem emit_regs (m : Msg) : (emit m b).regs = b.regs := rfl
@[simp] theorem emit_nextTxn (m : Msg) : (emit m b).nextTxn = b.nextTxn := rfl
@[simp] theorem emit_txns (m : Msg) : (emit m b).txns = b.txns := rfl
@[simp] theorem emit_fuses (m : Msg) : (emit m b).fuses = b.fuses := rfl
@[simp] theorem emit_sgServing (m : Msg) : (emit m b).sgServing = b.sgServing := rfl
@[simp] theorem emit_fhPart (m : Msg) : (emit m b).fhPart = b.fhPart := rfl
@[simp] theorem emit_halves (m : Msg) : (emit m b).halves = b.halves := rfl
@[simp] theorem emit_sq (m : Msg) : (emit m b).sq = b.sq := rfl
@[simp] theorem emit_he (m : Msg) : (emit m b).he = b.he := rfl
@[simp] theorem emit_tu (m : Msg) : (emit m b).tu = b.tu := rfl
@[simp] theorem emit_hp (m : Msg) : (emit m b).hp = b.hp := rfl
@[simp] theorem emit_pt (m : Msg) : (emit m b).pt = b.pt := rfl
@[simp] theorem emit_tc (m : Msg) : (emit m b).tc = b.tc := rfl
@[simp] theorem emit_ft (m : Msg) : (emit m b).ft = b.ft := rfl
@[simp] theorem emit_ps (m : Msg) : (emit m b).ps = b.ps := rfl
@[simp] theorem emit_gov (m : Msg) : (emit m b).gov = b.gov := rfl
@[simp] theorem emit_ck (m : Msg) : (emit m b).ck = b.ck := rfl
@[simp] theorem emit_ce (m : Msg) : (emit m b).ce = b.ce := rfl
@[simp] theorem emit_en (m : Msg) : (emit m b).en = b.en := rfl
@[simp] theorem emit_md (m : Msg) : (emit m b).md = b.md := rfl
@[simp] theorem emit_cc (m : Msg) : (emit m b).cc = b.cc := rfl

/-! ### openTxn -/

@[simp] theorem openTxn_now (t : Txn) : (openTxn t b).now = b.now := rfl
@[simp] theorem openTxn_fresh (t : Txn) : (openTxn t b).fresh = b.fresh := rfl
@[simp] theorem openTxn_out (t : Txn) : (openTxn t b).out = b.out := rfl
@[simp] theorem openTxn_regs (t : Txn) : (openTxn t b).regs = b.regs := rfl
@[simp] theorem openTxn_nextTxn (t : Txn) : (openTxn t b).nextTxn = b.nextTxn + 1 := rfl
@[simp] theorem openTxn_txns (t : Txn) : (openTxn t b).txns = tput b.txns b.nextTxn t := rfl
@[simp] theorem openTxn_fuses (t : Txn) : (openTxn t b).fuses = b.fuses := rfl
@[simp] theorem openTxn_sgServing (t : Txn) : (openTxn t b).sgServing = b.sgServing := rfl
@[simp] theorem openTxn_fhPart (t : Txn) : (openTxn t b).fhPart = b.fhPart := rfl
@[simp] theorem openTxn_halves (t : Txn) : (openTxn t b).halves = b.halves := rfl
@[simp] theorem openTxn_sq (t : Txn) : (openTxn t b).sq = b.sq := rfl
@[simp] theorem openTxn_he (t : Txn) : (openTxn t b).he = b.he := rfl
@[simp] theorem openTxn_tu (t : Txn) : (openTxn t b).tu = b.tu := rfl
@[simp] theorem openTxn_hp (t : Txn) : (openTxn t b).hp = b.hp := rfl
@[simp] theorem openTxn_pt (t : Txn) : (openTxn t b).pt = b.pt := rfl
@[simp] theorem openTxn_tc (t : Txn) : (openTxn t b).tc = b.tc := rfl
@[simp] theorem openTxn_ft (t : Txn) : (openTxn t b).ft = b.ft := rfl
@[simp] theorem openTxn_ps (t : Txn) : (openTxn t b).ps = b.ps := rfl
@[simp] theorem openTxn_gov (t : Txn) : (openTxn t b).gov = b.gov := rfl
@[simp] theorem openTxn_ck (t : Txn) : (openTxn t b).ck = b.ck := rfl
@[simp] theorem openTxn_ce (t : Txn) : (openTxn t b).ce = b.ce := rfl
@[simp] theorem openTxn_en (t : Txn) : (openTxn t b).en = b.en := rfl
@[simp] theorem openTxn_md (t : Txn) : (openTxn t b).md = b.md := rfl
@[simp] theorem openTxn_cc (t : Txn) : (openTxn t b).cc = b.cc := rfl

/-! ### closeTxn -/

@[simp] theorem closeTxn_now (n : Nat) : (closeTxn n b).now = b.now := rfl
@[simp] theorem closeTxn_fresh (n : Nat) : (closeTxn n b).fresh = b.fresh := rfl
@[simp] theorem closeTxn_out (n : Nat) : (closeTxn n b).out = b.out := rfl
@[simp] theorem closeTxn_regs (n : Nat) : (closeTxn n b).regs = b.regs := rfl
@[simp] theorem closeTxn_nextTxn (n : Nat) : (closeTxn n b).nextTxn = b.nextTxn := rfl
@[simp] theorem closeTxn_txns (n : Nat) : (closeTxn n b).txns = tdel b.txns n := rfl
@[simp] theorem closeTxn_fuses (n : Nat) : (closeTxn n b).fuses = b.fuses := rfl
@[simp] theorem closeTxn_sgServing (n : Nat) : (closeTxn n b).sgServing = b.sgServing := rfl
@[simp] theorem closeTxn_fhPart (n : Nat) : (closeTxn n b).fhPart = b.fhPart := rfl
@[simp] theorem closeTxn_halves (n : Nat) : (closeTxn n b).halves = b.halves := rfl
@[simp] theorem closeTxn_sq (n : Nat) : (closeTxn n b).sq = b.sq := rfl
@[simp] theorem closeTxn_he (n : Nat) : (closeTxn n b).he = b.he := rfl
@[simp] theorem closeTxn_tu (n : Nat) : (closeTxn n b).tu = b.tu := rfl
@[simp] theorem closeTxn_hp (n : Nat) : (closeTxn n b).hp = b.hp := rfl
@[simp] theorem closeTxn_pt (n : Nat) : (closeTxn n b).pt = b.pt := rfl
@[simp] theorem closeTxn_tc (n : Nat) : (closeTxn n b).tc = b.tc := rfl
@[simp] theorem closeTxn_ft (n : Nat) : (closeTxn n b).ft = b.ft := rfl
@[simp] theorem closeTxn_ps (n : Nat) : (closeTxn n b).ps = b.ps := rfl
@[simp] theorem closeTxn_gov (n : Nat) : (closeTxn n b).gov = b.gov := rfl
@[simp] theorem closeTxn_ck (n : Nat) : (closeTxn n b).ck = b.ck := rfl
@[simp] theorem closeTxn_ce (n : Nat) : (closeTxn n b).ce = b.ce := rfl
@[simp] theorem closeTxn_en (n : Nat) : (closeTxn n b).en = b.en := rfl
@[simp] theorem closeTxn_md (n : Nat) : (closeTxn n b).md = b.md := rfl
@[simp] theorem closeTxn_cc (n : Nat) : (closeTxn n b).cc = b.cc := rfl

/-! ### fput -/

@[simp] theorem fput_now (f : Fld) (i v : Nat) : (fput f i v b).now = b.now := rfl
@[simp] theorem fput_fresh (f : Fld) (i v : Nat) : (fput f i v b).fresh = b.fresh := rfl
@[simp] theorem fput_out (f : Fld) (i v : Nat) : (fput f i v b).out = b.out := rfl
@[simp] theorem fput_regs (f : Fld) (i v : Nat) : (fput f i v b).regs = tput b.regs (regKey f.reg i) (qset (rget b f.reg i) f.hi f.lo v) := rfl
@[simp] theorem fput_nextTxn (f : Fld) (i v : Nat) : (fput f i v b).nextTxn = b.nextTxn := rfl
@[simp] theorem fput_txns (f : Fld) (i v : Nat) : (fput f i v b).txns = b.txns := rfl
@[simp] theorem fput_fuses (f : Fld) (i v : Nat) : (fput f i v b).fuses = b.fuses := rfl
@[simp] theorem fput_sgServing (f : Fld) (i v : Nat) : (fput f i v b).sgServing = b.sgServing := rfl
@[simp] theorem fput_fhPart (f : Fld) (i v : Nat) : (fput f i v b).fhPart = b.fhPart := rfl
@[simp] theorem fput_halves (f : Fld) (i v : Nat) : (fput f i v b).halves = b.halves := rfl
@[simp] theorem fput_sq (f : Fld) (i v : Nat) : (fput f i v b).sq = b.sq := rfl
@[simp] theorem fput_he (f : Fld) (i v : Nat) : (fput f i v b).he = b.he := rfl
@[simp] theorem fput_tu (f : Fld) (i v : Nat) : (fput f i v b).tu = b.tu := rfl
@[simp] theorem fput_hp (f : Fld) (i v : Nat) : (fput f i v b).hp = b.hp := rfl
@[simp] theorem fput_pt (f : Fld) (i v : Nat) : (fput f i v b).pt = b.pt := rfl
@[simp] theorem fput_tc (f : Fld) (i v : Nat) : (fput f i v b).tc = b.tc := rfl
@[simp] theorem fput_ft (f : Fld) (i v : Nat) : (fput f i v b).ft = b.ft := rfl
@[simp] theorem fput_ps (f : Fld) (i v : Nat) : (fput f i v b).ps = b.ps := rfl
@[simp] theorem fput_gov (f : Fld) (i v : Nat) : (fput f i v b).gov = b.gov := rfl
@[simp] theorem fput_ck (f : Fld) (i v : Nat) : (fput f i v b).ck = b.ck := rfl
@[simp] theorem fput_ce (f : Fld) (i v : Nat) : (fput f i v b).ce = b.ce := rfl
@[simp] theorem fput_en (f : Fld) (i v : Nat) : (fput f i v b).en = b.en := rfl
@[simp] theorem fput_md (f : Fld) (i v : Nat) : (fput f i v b).md = b.md := rfl
@[simp] theorem fput_cc (f : Fld) (i v : Nat) : (fput f i v b).cc = b.cc := rfl

/-! ### The state -/

@[simp] theorem run_next (f : Block → Block) (s : State) : run f s = .next { s with blk := f s.blk } := rfl
@[simp] theorem idle_pending (s : State) : (idle s).pending = s.pending := rfl
@[simp] theorem idle_depot (s : State) : (idle s).depot = s.depot := rfl

end Sys2Proof.Laws
end

