-- ==== Sys2Proof/Laws/Registers.lean ====
section
/-!
SUPPORT. Registers and their fields: a field that was set reads back, and setting one leaves every other field and register.
-/
namespace Sys2Proof.Laws

open Sys2Proof Sys2Proof.Machine

/-! ### Fields of a word -/

/-- A bit of a field. -/
theorem testBit_bits (x hi lo i : Nat) : (bits x hi lo).testBit i = (decide (i < hi + 1 - lo) && x.testBit (lo + i)) := by
  simp [bits, Nat.testBit_mod_two_pow, Nat.testBit_shiftRight]

/-- A bit of a field's mask. -/
theorem getLsbD_fmask (hi lo i : Nat) :
    (fmask hi lo).getLsbD i = (decide (i < 64) && (decide (lo ≤ i) && decide (i - lo < hi + 1 - lo))) := by
  rw [fmask, BitVec.getLsbD, BitVec.toNat_ofNat, Nat.testBit_mod_two_pow, Nat.testBit_shiftLeft, Nat.testBit_two_pow_sub_one]

/-- A bit of a word whose field was set. -/
theorem getLsbD_qset (w : BitVec 64) (hi lo v i : Nat) (hi64 : i < 64) :
    (qset w hi lo v).getLsbD i = if lo ≤ i ∧ i < hi + 1 then v.testBit (i - lo) else w.getLsbD i := by
  have hm : (fmask hi lo).getLsbD i = (decide (lo ≤ i) && decide (i - lo < hi + 1 - lo)) := by
    rw [getLsbD_fmask]; simp [hi64]
  have hv : (BitVec.ofNat 64 ((v % 2 ^ (hi + 1 - lo)) <<< lo)).getLsbD i =
      (decide (lo ≤ i) && (decide (i - lo < hi + 1 - lo) && v.testBit (i - lo))) := by
    rw [BitVec.getLsbD, BitVec.toNat_ofNat, Nat.testBit_mod_two_pow, Nat.testBit_shiftLeft, Nat.testBit_mod_two_pow]
    simp [hi64]
  simp only [qset, BitVec.getLsbD_or, BitVec.getLsbD_and, BitVec.getLsbD_not, hm, hv, hi64, decide_true, Bool.true_and]
  by_cases h1 : lo ≤ i
  · by_cases h2 : i < hi + 1
    · have h3 : i - lo < hi + 1 - lo := by omega
      simp [h1, h2, h3]
    · have h3 : ¬ i - lo < hi + 1 - lo := by omega
      simp [h1, h2, h3]
  · simp [h1]

/-- A bit of a field of a word. -/
theorem testBit_qbits (w : BitVec 64) (hi lo i : Nat) :
    (qbits w hi lo).testBit i = (decide (i < hi + 1 - lo) && w.getLsbD (lo + i)) := testBit_bits w.toNat hi lo i

/-- A field that was set reads back. -/
theorem qbits_qset_same (w : BitVec 64) (hi lo v : Nat) (h : hi < 64) : qbits (qset w hi lo v) hi lo = v % 2 ^ (hi + 1 - lo) := by
  apply Nat.eq_of_testBit_eq
  intro i
  rw [testBit_qbits, Nat.testBit_mod_two_pow]
  by_cases hi' : i < hi + 1 - lo
  · rw [getLsbD_qset _ _ _ _ _ (by omega)]
    have h1 : lo ≤ lo + i ∧ lo + i < hi + 1 := by omega
    simp [hi', h1]
  · simp [hi']

/-- Setting a field leaves a field that shares no bit with it. -/
theorem qbits_qset_other (w : BitVec 64) (hi lo v hi' lo' : Nat) (h : hi' < 64) (hd : hi < lo' ∨ hi' < lo) :
    qbits (qset w hi lo v) hi' lo' = qbits w hi' lo' := by
  apply Nat.eq_of_testBit_eq
  intro i
  rw [testBit_qbits, testBit_qbits]
  by_cases hi2 : i < hi' + 1 - lo'
  · rw [getLsbD_qset _ _ _ _ _ (by omega)]
    have h1 : ¬ (lo ≤ lo' + i ∧ lo' + i < hi + 1) := by omega
    rw [if_neg h1]
  · simp [hi2]

/-! ### Registers -/

/-- A register that was stored reads back. -/
theorem rget_rput_same (r : Reg) (i : Nat) (v : BitVec 64) (b : Block) : rget (rput r i v b) r i = v := by
  simp [rget, rput, tfind_tput_same]

/-- Storing a register leaves every other. -/
theorem rget_rput_other (r q : Reg) (i j : Nat) (v : BitVec 64) (b : Block) (h : regKey q j ≠ regKey r i) :
    rget (rput r i v b) q j = rget b q j := by
  simp [rget, rput, tfind_tput_other _ _ _ _ h]

/-- A field that was set reads back. -/
theorem fget_fput_same (f : Fld) (i v : Nat) (b : Block) (h : f.hi < 64) :
    fget (fput f i v b) f i = v % 2 ^ (f.hi + 1 - f.lo) := by
  simp only [fget, fput, rget_rput_same]
  exact qbits_qset_same _ _ _ _ h

/-- Setting a field leaves every field of another register, or of another copy. -/
theorem fget_fput_reg (f g : Fld) (i j v : Nat) (b : Block) (h : regKey g.reg j ≠ regKey f.reg i) :
    fget (fput f i v b) g j = fget b g j := by
  simp [fget, fput, rget_rput_other _ _ _ _ _ _ h]

/-- Setting a field leaves every field of its register that shares no bit with it. -/
theorem fget_fput_field (f g : Fld) (i v : Nat) (b : Block) (hr : g.reg = f.reg) (h : g.hi < 64)
    (hd : f.hi < g.lo ∨ g.hi < f.lo) : fget (fput f i v b) g i = fget b g i := by
  simp only [fget, fput, hr, rget_rput_same]
  exact qbits_qset_other _ _ _ _ _ _ h hd

/-- Setting the fields of one register leaves another copy's register word. -/
theorem rget_fput_other (f : Fld) (q : Reg) (i j v : Nat) (b : Block) (h : regKey q j ≠ regKey f.reg i) :
    rget (fput f i v b) q j = rget b q j := rget_rput_other _ _ _ _ _ _ h

end Sys2Proof.Laws
end

