-- ==== Sys2Proof/Laws/Run.lean ====
section
/-!
SUPPORT. What the shared operations of a command answer: the two forms of a command's outcome, and what an access of a register
does before and after it reaches one.
-/
namespace Sys2Proof.Laws

open Sys2Proof Sys2Proof.Machine

/-! ### Outcomes -/

/-- A command on the block alone answers a next state, with the queue and the depot as they were. -/
theorem run_cases {f : Block → Block} {s t : State} (h : run f s = .next t) :
    t.pending = s.pending ∧ t.depot = s.depot ∧ t.blk = f s.blk := by
  simp only [run_next, Host.Outcome.next.injEq] at h
  subst h
  exact ⟨rfl, rfl, rfl⟩

/-- An answer that its exchange takes runs. -/
theorem answer_open {n : Nat} {fits : Txn → Bool} {f : Block → Block} {s : State} {t : Txn} (hk : n < s.blk.nextTxn)
    (ht : tfind s.blk.txns n = some t) (hf : fits t = true) : answer n fits f s = .next { s with blk := f s.blk } := by
  simp [answer, txnKnown, hk, ht, hf]

/-- An answer to an exchange that is closed runs too. -/
theorem answer_closed {n : Nat} {fits : Txn → Bool} {f : Block → Block} {s : State} (hk : n < s.blk.nextTxn)
    (ht : tfind s.blk.txns n = none) : answer n fits f s = .next { s with blk := f s.blk } := by
  simp [answer, txnKnown, hk, ht]

/-- An answer to an exchange that was never opened faults. -/
theorem answer_unknown {n : Nat} {fits : Txn → Bool} {f : Block → Block} {s : State} (hk : s.blk.nextTxn ≤ n) :
    answer n fits f s = .fault .noPromise := by
  have : ¬ n < s.blk.nextTxn := by omega
  simp [answer, txnKnown, this]

/-- An answer of another length than was asked for faults. -/
theorem answer_unfit {n : Nat} {fits : Txn → Bool} {f : Block → Block} {s : State} {t : Txn} (hk : n < s.blk.nextTxn)
    (ht : tfind s.blk.txns n = some t) (hf : fits t = false) : answer n fits f s = .fault .noPromise := by
  simp [answer, txnKnown, hk, ht, hf]

/-- Everything that an answer can do. -/
theorem answer_cases {n : Nat} {fits : Txn → Bool} {f : Block → Block} {s : State} :
    answer n fits f s = .next { s with blk := f s.blk } ∨ answer n fits f s = .fault .noPromise := by
  by_cases hk : n < s.blk.nextTxn
  · cases ht : tfind s.blk.txns n with
    | none => exact Or.inl (answer_closed hk ht)
    | some t =>
      cases hf : fits t with
      | true => exact Or.inl (answer_open hk ht hf)
      | false => exact Or.inr (answer_unfit hk ht hf)
  · exact Or.inr (answer_unknown (by omega))

/-- A step with a command waiting is that command on the rest of the queue. -/
theorem step_cons (c : Instr) (s : State) : step { s with pending := c :: s.pending } = exec c s := rfl

/-- A step with none waiting is the passing of time. -/
theorem step_nil (s : State) (h : s.pending = []) : step s = .next (idle s) := by
  simp [step, h]

/-! ### Register accesses -/

/-- The management core path always reaches the block, and leaves it as it is on the way. -/
@[simp] theorem accessReach_mgmt (b : Block) : accessReach b .mgmt = true := rfl
@[simp] theorem accessArrive_mgmt (read : Bool) (b : Block) : accessArrive .mgmt read b = b := rfl
@[simp] theorem stopTakes_mgmt (b : Block) (r : Reg) : stopTakes b .mgmt r = true := by simp [stopTakes]

/-- On the management core path no request waits. -/
@[simp] theorem postHeld_mgmt (x : Posted) (b : Block) : postHeld .mgmt x b = none := rfl

/-- A request that its port's landing buffer takes, with none before it, does not wait. -/
theorem postHold_none {h : Nat} {x : Posted} {b : Block} (hq : postQueue b h = []) (hf : postFits b h x = true) : postHold h x b = none := by
  simp [postHold, hq, hf]

/-- The register copy that a command names, where its agent sees it. -/
theorem regNamed_seen {w : Agent} {r : Reg} {c : Nat} (hs : r.seen w = true) (hc : c < r.spec.count) : regNamed w r c = some (r, c) := by
  simp [regNamed, hs, hc]

/-- A write that does not reach the block stores nothing. -/
theorem writeTake_away {after : Block → Block} {w : Agent} {o : Option (Reg × Nat)} {half : Half} {val : BitVec 64} {ok : Bool} {b : Block}
    (h : accessReach b w = false) : writeTake after w o half val ok b = accessArrive w false b := by
  simp [writeTake, h]

/-- A write that reaches the block at a register that its agent sees is taken there, unless it waits. -/
theorem regWriteTo_taken {w : Agent} {r : Reg} {c : Nat} {half : Half} {val : BitVec 64} {ok : Bool} {b : Block}
    (hw : postHeld w (.write w (some (r, c)) half val ok) b = none) (h : accessReach b w = true) (hs : r.seen w = true)
    (hc : c < r.spec.count) : regWriteTo w r c half val ok b = regTake settle w r c (halfMask half) val ok (accessArrive w false b) := by
  simp [regWriteTo, regNamed, regWriteFrom, writeTake, hw, h, hs, hc]

/-- A write of a register that its agent does not see stores nothing, and is counted where no partition maps the VF. -/
theorem writeTake_nowhere {after : Block → Block} {w : Agent} {half : Half} {val : BitVec 64} {ok : Bool} {b : Block}
    (hv : unmappedVf (accessArrive w false b) w = false) : writeTake after w none half val ok b = accessArrive w false b := by
  simp [writeTake, hv]

/-- A write that is taken at a copy of a register, where it takes effect. -/
theorem regStore_at {w : Agent} {r : Reg} {c i : Nat} {val m : BitVec 64} {b b' : Block} (hi : regIdx b w r c = .at_ i)
    (ha : regApply w r i val m b = some b') : regStore w r c val m b = b' := by
  simp [regStore, hi, ha]

/-- A write that its register does not take is ignored and counted. -/
theorem regStore_refused {w : Agent} {r : Reg} {c i : Nat} {val m : BitVec 64} {b : Block} (hi : regIdx b w r c = .at_ i)
    (ha : regApply w r i val m b = none) : regStore w r c val m b = regIgnored w r b := by
  simp [regStore, hi, ha]

/-- A write that names what is not its agent's is ignored and counted (R32). -/
theorem regStore_foreign {w : Agent} {r : Reg} {c : Nat} {val m : BitVec 64} {b : Block} (hi : regIdx b w r c = .foreign) :
    regStore w r c val m b = regIgnored w r b := by
  simp [regStore, hi]

/-- A write where no register is does nothing (R17), unless a VF that no partition maps makes it. -/
theorem regStore_absent {w : Agent} {r : Reg} {c : Nat} {val m : BitVec 64} {b : Block} (hi : regIdx b w r c = .absent)
    (hv : unmappedVf b w = false) : regStore w r c val m b = b := by
  simp [regStore, hi, hv]

end Sys2Proof.Laws
end

