-- ==== Sys2Proof/Laws/Signals.lean ====
section
/-!
SUPPORT. What a signal can do: the assertion of an interrupt source, a freeze, the begin of a dump, and the counting of events
change the registers of `sigReg`, the messages sent, the records of the trace unit and the configuration space (the Status register of the
function that sends an error message), and nothing else.
-/
namespace Sys2Proof.Laws

open Sys2Proof Sys2Proof.Machine

/-- The registers that a signal can change. -/
def sigReg (r : Reg) : Bool :=
  r == .sgPending || r == .sgCount || r == .hpPba || r == .hpPortStatus || r == .tcCntVal || r == .tcFreeze
    || r == .tcFreezeTime || r == .tcDumpStatus || r == .tcDumpCtl || r == .idIgnored

/-- `c` is `b` but for what a signal can change. -/
structure SigOnly (b c : Block) : Prop where
  regs : ∀ r i, sigReg r = false → i < 2 ^ 32 → rget c r i = rget b r i
  rest : { c with regs := b.regs, out := b.out, tc := b.tc, hp := { c.hp with cfg := b.hp.cfg } } = b

theorem SigOnly.refl (b : Block) : SigOnly b b := ⟨fun _ _ _ _ => rfl, rfl⟩

theorem SigOnly.trans {b c d : Block} (h : SigOnly b c) (g : SigOnly c d) : SigOnly b d := by
  refine ⟨fun r i hr hi => (g.regs r i hr hi).trans (h.regs r i hr hi), ?_⟩
  have h2 := h.rest
  rw [← g.rest] at h2
  exact h2

/-- Different registers have different numbers. -/
theorem regAll_code (r : Reg) : Reg.all[r.code]? = some r := by cases r <;> rfl

theorem code_inj {q r : Reg} (h : q.code = r.code) : q = r := by
  have hq := regAll_code q
  rw [h, regAll_code r] at hq
  exact (Option.some.inj hq).symm

/-- Keys of different registers differ while indices are below 2^32. -/
theorem regKey_ne {q r : Reg} {i j : Nat} (hq : q ≠ r) (hi : i < 2 ^ 32) (hj : j < 2 ^ 32) : regKey q i ≠ regKey r j := by
  intro h
  have hc : q.code = r.code := by simp only [regKey] at h; omega
  exact hq (code_inj hc)

theorem sigOnly_rput {r : Reg} {i : Nat} (v : BitVec 64) (b : Block) (hr : sigReg r = true) (hi : i < 2 ^ 32) :
    SigOnly b (rput r i v b) := by
  refine ⟨fun q j hq hj => rget_rput_other _ _ _ _ _ _ (regKey_ne ?_ hj hi), rfl⟩
  intro h; subst h; rw [hr] at hq; exact absurd hq (by decide)

theorem sigOnly_fput (f : Fld) {i : Nat} (v : Nat) (b : Block) (hr : sigReg f.reg = true) (hi : i < 2 ^ 32) :
    SigOnly b (fput f i v b) := sigOnly_rput _ _ hr hi

theorem sigOnly_emit (m : Msg) (b : Block) : SigOnly b (emit m b) := ⟨fun _ _ _ _ => rfl, rfl⟩

theorem sigOnly_each {α : Type} (l : List α) (f : α → Block → Block) (h : ∀ a b, SigOnly b (f a b)) (b : Block) :
    SigOnly b (each l f b) := by
  induction l generalizing b with
  | nil => exact SigOnly.refl b
  | cons a r ih => exact (h a b).trans (ih _)

theorem sigOnly_ite {p : Prop} [Decidable p] {b c d : Block} (hc : SigOnly b c) (hd : SigOnly b d) :
    SigOnly b (if p then c else d) := by
  split
  · exact hc
  · exact hd

theorem sigOnly_hostWake (h : Nat) (b : Block) (hh : h < 2 ^ 32) : SigOnly b (hostWake h b) := by
  unfold hostWake
  exact sigOnly_ite (sigOnly_fput _ _ _ rfl hh) (SigOnly.refl _)

theorem sigOnly_pbaSet (fn vec : Nat) (on : Bool) (b : Block) (h : 32 * fn + vec / 64 < 2 ^ 32) :
    SigOnly b (pbaSet fn vec on b) := sigOnly_rput _ _ rfl h

theorem sigOnly_setPending (s : Nat) (on : Bool) (b : Block) (h : s < 2 ^ 32) : SigOnly b (sgSetPending s on b) :=
  sigOnly_rput _ _ rfl (by omega)

theorem sigOnly_setCount (s n : Nat) (b : Block) (h : s < 2 ^ 32) : SigOnly b (sgSetCount s n b) :=
  sigOnly_rput _ _ rfl (by omega)

theorem sigOnly_emitSignal (h : Nat) (m : Msg) (b : Block) : SigOnly b (emitSignal h m b) := by
  unfold emitSignal
  refine (sigOnly_emit m b).trans (sigOnly_ite (SigOnly.refl _) (sigOnly_each _ _ (fun k c => ?_) _))
  have hk : k % 2 ^ 32 < 2 ^ 32 := Nat.mod_lt _ (by decide)
  refine sigOnly_ite (SigOnly.trans (c := if fget c F.tcCntValCount (k % 2 ^ 32) + 1 < 2 ^ 48 then c
    else fput F.tcCntValOvf (k % 2 ^ 32) 1 c) ?_ (sigOnly_fput _ _ _ rfl hk)) (SigOnly.refl _)
  exact sigOnly_ite (SigOnly.refl _) (sigOnly_fput _ _ _ rfl hk)

theorem sigOnly_msixSignal (fn vec : Nat) (b : Block) (h : 32 * fn + vec / 64 < 2 ^ 32) : SigOnly b (msixSignal fn vec b) := by
  unfold msixSignal
  refine sigOnly_ite ?_ (sigOnly_pbaSet _ _ _ _ h)
  exact ((sigOnly_hostWake _ _ (by omega)).trans (sigOnly_pbaSet _ _ _ _ h)).trans (sigOnly_emitSignal _ _ _)

theorem sigOnly_cfgPut (fn off : Nat) (v : BitVec 32) (b : Block) : SigOnly b (cfgPut fn off v b) := ⟨fun _ _ _ _ => rfl, rfl⟩

theorem sigOnly_errorSend (h sev : Nat) (b : Block) : SigOnly b (errorSend h sev b) :=
  (sigOnly_ite (sigOnly_cfgPut _ _ _ b) (SigOnly.refl b)).trans (sigOnly_emitSignal _ _ _)

/-- A field of a word lies below the next power of two. -/
theorem qbits_lt (w : BitVec 64) (hi lo : Nat) : qbits w hi lo < 2 ^ (hi + 1 - lo) := by
  unfold qbits bits
  exact Nat.mod_lt _ (Nat.two_pow_pos _)

/-- The function and vector of a source's target are small. -/
theorem sgTarget_small (b : Block) (s : Nat) (h : s < 2048) :
    32 * (sgTarget b s).2.1 + (sgTarget b s).2.2 / 64 < 2 ^ 32 := by
  have hv : fget b F.sgSrcCfgVector s < 2 ^ 11 := qbits_lt _ _ _
  have hf : fget b F.sgSrcCfgFunction s < 2 ^ 7 := qbits_lt _ _ _
  have key : (sgTarget b s).2.1 < 2 ^ 13 ∧ (sgTarget b s).2.2 < 2 ^ 12 := by
    unfold sgTarget
    dsimp only
    generalize fget b F.sgSrcCfgVector s = v at hv
    generalize fget b F.sgSrcCfgFunction s = f at hf
    split_ifs <;> constructor <;> dsimp only <;> omega
  omega

theorem sigOnly_tc (t : Tc) (b : Block) : SigOnly b { b with tc := t } := ⟨fun _ _ _ _ => rfl, rfl⟩

theorem sigOnly_dumpBegin (reason slot : Nat) (b : Block) (h : slot < 2 ^ 32) : SigOnly b (dumpBegin reason slot b) :=
  (sigOnly_tc _ b).trans <| (sigOnly_fput F.tcDumpStatusValid 1 _ rfl h).trans <|
    (sigOnly_fput F.tcDumpStatusComplete 0 _ rfl h).trans <| (sigOnly_fput F.tcDumpStatusReason reason _ rfl h).trans <|
    (sigOnly_fput F.tcDumpStatusGen _ _ rfl h).trans (sigOnly_fput F.tcDumpCtlBusy 1 _ rfl (by decide))

/-- A dump takes slot 0 or slot 1 (R690). -/
theorem dumpSlot_lt {b : Block} {reason slot : Nat} (h : dumpSlot b reason = some slot) : slot < 2 := by
  unfold dumpSlot at h
  dsimp only at h
  by_cases h0 : (!fon b F.tcDumpStatusValid 0 && !(b.tc.dumping == some 0)) = true
  · rw [if_pos h0] at h; cases h; decide
  · rw [if_neg h0] at h
    by_cases h1 : (!fon b F.tcDumpStatusValid 1 && !(b.tc.dumping == some 1)) = true
    · rw [if_pos h1] at h; cases h; decide
    · rw [if_neg h1] at h
      have hm := List.mem_of_find?_eq_some h
      split_ifs at hm <;> (simp at hm; omega)

theorem sigOnly_fbump (f : Fld) {i : Nat} (n : Nat) (b : Block) (hr : sigReg f.reg = true) (hi : i < 2 ^ 32) :
    SigOnly b (fbump f i n b) := sigOnly_fput _ _ _ hr hi

theorem sigOnly_dumpRefused (b : Block) : SigOnly b (dumpRefused b) :=
  (sigOnly_fbump F.idIgnoredCount (i := 15) 1 b rfl (by decide)).trans (sigOnly_fbump _ _ _ rfl (by decide))

/-- A trigger changes what a signal can change, and nothing else. -/
theorem sigOnly_sgAct (n : Nat) : ∀ (t : Trig) (b : Block), SigOnly b (sgAct n t b) := by
  induction n with
  | zero => intro t b; exact SigOnly.refl b
  | succ n ih =>
    intro t b
    cases t with
    | freeze cause at_ =>
      simp only [sgAct]
      refine sigOnly_ite (sigOnly_fbump _ _ _ rfl (by decide)) ?_
      exact (((sigOnly_fput _ _ _ rfl (by decide)).trans (sigOnly_fput _ _ _ rfl (by decide))).trans
        (sigOnly_rput _ _ rfl (by decide))).trans (ih _ _)
    | dump reason =>
      simp only [sgAct]
      refine sigOnly_ite (sigOnly_dumpRefused _) ?_
      split
      · exact sigOnly_dumpRefused _
      · next slot hs => exact (sigOnly_dumpBegin _ _ _ (by have := dumpSlot_lt hs; omega)).trans (ih _ _)
    | assert s =>
      simp only [sgAct]
      by_cases h1 : ((1863 ≤ s && s < 1984) || 2048 ≤ s) = true
      · rw [if_pos h1]; exact SigOnly.refl b
      · rw [if_neg h1]
        have hs : s < 2048 := by
          simp only [Bool.or_eq_true, Bool.and_eq_true, decide_eq_true_eq, not_or] at h1
          omega
        have ht := sgTarget_small b s hs
        refine sigOnly_ite (SigOnly.refl b) ?_
        have hb : SigOnly b (sgSetCount s (satAdd 255 (sgCount b s) 1) (sgSetPending s true b)) :=
          (sigOnly_setPending _ _ _ (by omega)).trans (sigOnly_setCount _ _ _ (by omega))
        have off : ∀ c : Block, SigOnly c (sgSetCount s 0 (sgSetPending s false c)) := fun c =>
          (sigOnly_setPending _ _ _ (by omega)).trans (sigOnly_setCount _ _ _ (by omega))
        refine hb.trans ?_
        refine sigOnly_ite (SigOnly.refl _) (sigOnly_ite (sigOnly_msixSignal _ _ _ ht) (sigOnly_ite (sigOnly_emit _ _) ?_))
        refine sigOnly_ite ((sigOnly_errorSend _ _ _).trans (off _)) ?_
        exact sigOnly_ite ((off _).trans (ih _ _)) (sigOnly_ite ((off _).trans (ih _ _)) (SigOnly.refl _))

theorem sigOnly_sgAssert (s : Nat) (b : Block) : SigOnly b (sgAssert s b) := sigOnly_sgAct _ _ _
theorem sigOnly_freezeAt (cause t : Nat) (b : Block) : SigOnly b (freezeAt cause t b) := sigOnly_sgAct _ _ _
theorem sigOnly_dumpTrigger (reason : Nat) (b : Block) : SigOnly b (dumpTrigger reason b) := sigOnly_sgAct _ _ _

/-- Counting changes what a signal can change, and nothing else. -/
theorem sigOnly_counterAdd (c n : Nat) (b : Block) (h : c < 2 ^ 32) : SigOnly b (counterAdd c n b) := by
  unfold counterAdd
  refine (sigOnly_fput F.tcCntValCount (fget b F.tcCntValCount c + n) b rfl h).trans (sigOnly_ite (SigOnly.refl _) ?_)
  refine (sigOnly_fput F.tcCntValOvf 1 _ rfl h).trans ?_
  generalize fput F.tcCntValOvf c 1 (fput F.tcCntValCount c (fget b F.tcCntValCount c + n) b) = d
  have hd : SigOnly d (if fon d F.tcCntCfgInt c then sgAssert (1810 + c / 512) d else d) :=
    sigOnly_ite (sigOnly_sgAssert _ _) (SigOnly.refl _)
  exact hd.trans (sigOnly_ite (sigOnly_freezeAt _ _ _) (SigOnly.refl _))

theorem sigOnly_tcCount (tile event : Nat) (part : Option Nat) (n : Nat) (b : Block) :
    SigOnly b (tcCount tile event part n b) := by
  unfold tcCount
  refine sigOnly_ite (SigOnly.refl _) (sigOnly_each _ _ (fun k c => ?_) _)
  exact sigOnly_ite (sigOnly_counterAdd _ _ _ (Nat.mod_lt _ (by decide))) (SigOnly.refl _)

theorem sigOnly_emitTlpFor (part : Option Nat) (h : Nat) (m : Msg) (b : Block) : SigOnly b (emitTlpFor part h m b) :=
  (sigOnly_tcCount _ _ _ _ _).trans (sigOnly_emit _ _)

theorem sigOnly_emitTlp (h : Nat) (m : Msg) (b : Block) : SigOnly b (emitTlp h m b) := sigOnly_emitTlpFor _ _ _ _

theorem sigOnly_hostTlpFor (part : Option Nat) (h : Nat) (b : Block) (hh : h < 2 ^ 32) : SigOnly b (hostTlpFor part h b) :=
  (sigOnly_hostWake h b hh).trans (sigOnly_tcCount _ _ _ _ _)

theorem sigOnly_hostTlp (h : Nat) (b : Block) (hh : h < 2 ^ 32) : SigOnly b (hostTlp h b) := sigOnly_hostTlpFor _ _ _ hh

end Sys2Proof.Laws
end

