-- ==== Sys2Proof/WellFormed.lean ====
section
/-!
DEFINITION. Which operands a command may name: the numbers that the spec gives the ports, functions, tiles, dies,
partitions and registers, the widths of the header fields, and the lengths of data. A command with another operand names
nothing that the block has; its meaning is total all the same.
-/
namespace Sys2Proof

/-- Two host ports, and virtual functions 1 to 120 of each (R429). -/
def Agent.wf : Agent → Bool
  | .pf h => h < 2
  | .vf h v => h < 2 && 1 ≤ v && v ≤ 120
  | .mgmt => true

/-- Function 0 is the PF of a port, and 1 to 120 are its VFs (R429). -/
def fnWf (fn : Nat) : Bool := fn ≤ 120

/-- The header fields fit their widths (R326). -/
def Hdr.wf (h : Hdr) : Bool :=
  h.cls < 4 && h.epoch < 2 && h.type < 2 ^ 8 && h.flags < 2 ^ 16 && h.path < 64 && h.dstQp < 2 ^ 24 && h.arith < 2 ^ 8 &&
    h.srcQp < 2 ^ 24 && h.srcNode < 2 ^ 15 && h.dstNode < 2 ^ 15 && h.psn < 2 ^ 32 && h.msn < 2 ^ 32 && h.address < 2 ^ 64 &&
    h.payloadLen ≤ 4096 && h.card < 2 ^ 16 && h.rank < 2 ^ 16 && h.split < 2 ^ 16 && h.scale < 2 ^ 32 && h.seed < 2 ^ 32 &&
    h.element < 2 ^ 32 && h.msgLen < 2 ^ 32 && h.address2 < 2 ^ 64

/-- A frame on one of 24 ports, with a payload of as many bytes as its header says (R323, R326). -/
def Frame.wf (f : Frame) : Bool := f.port < 24 && f.hdr.wf && f.payload.length == f.hdr.payloadLen && f.ifaceId < 2 ^ 64

/-- Fuses with a variant code of the table (R1) and depot channels 0 to 15 (R24). -/
def Fuses.wf (f : Fuses) : Bool := 1 ≤ f.variant && f.variant ≤ 12 && f.channels.all (fun c => c < 16)

/-- One of four dies or of sixteen depot channels (R24). -/
def ReadEvent.wf : ReadEvent → Bool
  | .dieTimeout d => d < 4
  | .diePoison d => d < 4
  | .depotCorrected c => c < 16
  | .depotUncorrectable c => c < 16

/-- A fetch brings at most 64 descriptors of eight quadwords (R160, R184). -/
def FetchResult.wf : FetchResult → Bool
  | .descs ds => ds.length ≤ 64 && ds.all (fun d => d.length == 8)
  | .failed _ => true

/-- A line of a table has eight entries (R107). -/
def LineResult.wf : LineResult → Bool
  | .line qs => qs.length == 8
  | .error _ => true

/-- A binding on one of the two ports (R643). -/
def Binding.wf : Binding → Bool
  | .vdm h => h < 2
  | .md h => h < 2
  | .doe h => h < 2
  | .i3c => true
  | .fabric => true
  | .mgmtPath => true

/-- The fields of a dictionary message fit their sizes (R638). -/
def DictReq.wf (r : DictReq) : Bool := r.seq < 256 && r.index < 2 ^ 16 && r.sub < 256 && r.count ≤ 56

/-- Are the operands of a command ones that the block can have? -/
def Instr.wf : Instr → Bool
  | .powerOn fuses => fuses.wf
  | .fuseLoadDone => true
  | .depotTrainingDone => true
  | .depotZeroDone => true
  | .dictionaryLoadDone _ => true
  | .defaulted _ => true
  | .blockReset => true
  | .registerWrite who _ _ _ => who.wf
  | .badRegisterAccess who _ _ => who.wf
  | .tailDoorbell who _ _ _ => who.wf
  | .headDoorbell who _ _ _ => who.wf
  | .portalTailDoorbell die portal _ => die < 4 && portal < 64
  | .portalHeadDoorbell die portal _ => die < 4 && portal < 64
  | .descriptorFetchDone _ res => res.wf
  | .ringContextLoad _ ring => ring < 65536
  | .nop _ => true
  | .copy _ => true
  | .writeRemote _ => true
  | .readRemote _ => true
  | .combineLocal _ => true
  | .combineRemote _ => true
  | .quantizeSend _ => true
  | .digest _ => true
  | .fenceOnly _ => true
  | .fenceOnlyWait _ => true
  | .fenceOnlyRearm _ => true
  | .tileWalkDeclare _ => true
  | .waitFencePoll _ => true
  | .ringWatchdog _ => true
  | .dieReadData _ _ _ => true
  | .dieWriteAck _ => true
  | .depotReadData _ _ => true
  | .depotWriteAck _ _ => true
  | .dieTimeout _ => true
  | .strandedPop who _ _ => who.wf
  | .partitionWeightWrite who part _ _ => who.wf && part < 16
  | .dieLinkUp die _ _ => die < 4
  | .dieLinkDown die => die < 4
  | .dieResetAnnounce die => die < 4
  | .translationSlotLoaded part asn => part < 16 && asn < 4096
  | .walkReadDone _ res => res.wf
  | .holdTimeout _ => true
  | .accessCounterDecay part asn => part < 16 && asn < 4096
  | .asControlWrite who _ _ => who.wf
  | .segmentCommit who seg _ _ => who.wf && seg < 16
  | .segmentRemove who seg _ _ => who.wf && seg < 16
  | .segmentCommitDone part asn seg _ events => part < 16 && asn < 4096 && seg < 16 && events.all ReadEvent.wf
  | .invalidateRange who _ _ => who.wf
  | .invalidateAddressSpace who _ _ => who.wf
  | .invalidatePartition who _ _ => who.wf
  | .invalidationComplete _ => true
  | .atsCompletion _ _ => true
  | .prgResponse _ _ => true
  | .priTimeout _ => true
  | .atsInvalidateRequest port fn _ _ _ _ => port < 2 && fnWf fn
  | .sqCreate who _ _ => who.wf
  | .sqBind who _ _ => who.wf
  | .sqPause who _ _ => who.wf
  | .sqResume who _ _ => who.wf
  | .sqTeardown who _ _ => who.wf
  | .teardownSourceDeadline ring => ring < 65536
  | .teardownDeadline ring => ring < 65536
  | .cqCreate who _ _ => who.wf
  | .cqTeardown who _ _ => who.wf
  | .qpCreate who _ _ => who.wf
  | .qpDestroy who _ _ => who.wf
  | .qpDestroyDeadline qp => qp < 16777216
  | .qpContextLoad qp => qp < 16777216
  | .packetSend qp _ => qp < 16777216
  | .write frame => frame.wf
  | .combine frame => frame.wf
  | .fence frame => frame.wf
  | .readReq frame => frame.wf
  | .readResp frame => frame.wf
  | .ack frame => frame.wf
  | .nak frame => frame.wf
  | .applied frame => frame.wf
  | .credit frame => frame.wf
  | .probe frame => frame.wf
  | .probeReply frame => frame.wf
  | .skip frame => frame.wf
  | .mgmt frame => frame.wf
  | .rtoExpiry qp psn => qp < 16777216 && psn < 4294967296
  | .deliveryTimeout qp psn => qp < 16777216 && psn < 4294967296
  | .readRetry qp psn => qp < 16777216 && psn < 4294967296
  | .readDeliveryTimeout qp psn => qp < 16777216 && psn < 4294967296
  | .noPathTimeout _ => true
  | .appliedProbeTimer qp msn => qp < 16777216 && msn < 4294967296
  | .labelProbeTimer _ label qp => label < 64 && qp < 16777216
  | .cooldownExpiry _ label => label < 64
  | .ackDelayExpiry qp => qp < 16777216
  | .baseRttReset qp => qp < 16777216
  | .llrAck port seq => port < 24 && seq < 16777216
  | .llrNak port seq => port < 24 && seq < 16777216
  | .llrAckTimer port => port < 24
  | .portLinkDown port => port < 24
  | .portTrained port => port < 24
  | .trainingRetry port => port < 24
  | .linkHoldExpiry port => port < 24
  | .epochSwitchArm who _ _ => who.wf
  | .epochSwitch => true
  | .load who _ _ => who.wf
  | .stage who _ _ => who.wf
  | .zero who _ _ => who.wf
  | .keySwitchCommit slot => slot < 65536
  | .checkSlot _ _ _ _ => true
  | .maskSetExpiry _ _ => true
  | .healthTestFailure _ => true
  | .retestDone _ => true
  | .retestTimeout => true
  | .restart who _ _ => who.wf
  | .drbgReseed => true
  | .drbgRequestServed => true
  | .ptpFrame frame => frame.port < 24 && (match frame.shim with | some n => n < 2 ^ 24 | none => true) && decide (frame.payload.length ≤ 4096)
  | .timeStateReport _ _ => true
  | .syncMiss => true
  | .holdoverExpiry => true
  | .pitchStart => true
  | .ropedPhaseStart => true
  | .ropedPhaseEnd => true
  | .slackPhaseStart => true
  | .roundRelease card => card < 4096
  | .roundAbandon card _ => card < 4096
  | .scheduleSwapArm who _ _ => who.wf
  | .scheduleCheckDone res => res.events.all ReadEvent.wf
  | .scheduleActivate => true
  | .configRead port fn _ => port < 2 && fnWf fn
  | .configWrite port fn _ _ _ => port < 2 && fnWf fn
  | .busMasterClear port fn => port < 2 && fnWf fn
  | .busMasterSet port fn => port < 2 && fnWf fn
  | .functionLevelReset port fn => port < 2 && fnWf fn
  | .flrSourceDeadline port fn => port < 2 && fnWf fn
  | .flrDeadline port fn => port < 2 && fnWf fn
  | .vfDisable port _ _ => port < 2
  | .setD3hot port => port < 2
  | .setD0 port => port < 2
  | .barSizeWrite port _ _ => port < 2
  | .perstAssert port => port < 2
  | .perstRelease port => port < 2
  | .hotReset port => port < 2
  | .dlDown port => port < 2
  | .linkUp port _ _ _ => port < 2
  | .tlpError port fn => port < 2 && fnWf fn
  | .bar4Read port fn _ _ => port < 2 && fnWf fn
  | .bar4Write port fn _ _ => port < 2 && fnWf fn
  | .windowReadTimeout _ => true
  | .windowControlWrite who win _ _ => who.wf && win < 64
  | .hostReadCompletion _ _ => true
  | .hostCompletionTimeout _ => true
  | .l1Entry port => port < 2
  | .l0pNarrow port => port < 2
  | .ideIntegrityFailure port stream => port < 2 && stream < 5
  | .tdispStopInterface port vf => port < 2 && 1 ≤ vf && vf ≤ 120
  | .keyProg port slot _ _ => port < 2 && slot < 60
  | .kSetGo port stream sub dir ks _ => port < 2 && stream < 5 && sub < 3 && dir < 2 && ks < 2
  | .kSetStop port stream sub dir ks _ => port < 2 && stream < 5 && sub < 3 && dir < 2 && ks < 2
  | .grantControlWrite who gr _ _ => who.wf && gr < 16
  | .bind who _ _ => who.wf
  | .rebind who _ _ => who.wf
  | .park who _ _ => who.wf
  | .adopt who _ _ => who.wf
  | .reset who _ _ => who.wf
  | .partitionResetDeadline part _ => part < 16
  | .release who _ _ => who.wf
  | .recompose who _ _ => who.wf
  | .recomposeMoveDone => true
  | .belayDeadline part => part < 16
  | .handover part => part < 16
  | .bivouacHoldExpiry part => part < 16
  | .mailboxSend who _ _ => who.wf
  | .mailboxAck who _ _ => who.wf
  | .gets _ tile => tile < 12
  | .getm _ tile => tile < 12
  | .upgrade _ tile => tile < 12
  | .putm _ tile => tile < 12
  | .puto _ tile => tile < 12
  | .pute _ tile => tile < 12
  | .ncread _ agent => agent < 16
  | .ncwrite _ agent hint => agent < 16 && hint.all (fun t => t < 12)
  | .fwdgets _ tile => tile < 12
  | .fwdgetm _ tile => tile < 12
  | .fwdrecall _ tile => tile < 12
  | .inv _ tile => tile < 12
  | .invack _ tile => tile < 12
  | .fwddone _ tile => tile < 12
  | .nack _ agent => agent < 16
  | .nackRetry _ agent => agent < 16
  | .wbgrant _ tile => tile < 12
  | .putack _ tile => tile < 12
  | .grant _ tile => tile < 12
  | .data _ agent _ => agent < 16
  | .wbdata _ tile => tile < 12
  | .homeTimeout _ => true
  | .reactTimerExpiry src => src < 512
  | .faultExit who src _ _ => who.wf && src < 512
  | .faultInject who _ _ => who.wf
  | .signalRepend => true
  | .interruptClaim who target _ => who.wf && target.all (fun t => t < 20)
  | .interruptComplete who target _ _ => who.wf && target.all (fun t => t < 20)
  | .swTrigger who _ _ => who.wf
  | .sourceConfigWrite who src _ _ => who.wf && src < 2048
  | .maskWrite who word _ _ => who.wf && word < 32
  | .pendingWrite who word _ _ => who.wf && word < 32
  | .get bnd req => bnd.wf && req.wf
  | .set bnd req => bnd.wf && req.wf
  | .store bnd req _ => bnd.wf && req.wf
  | .default bnd req => bnd.wf && req.wf
  | .next bnd req => bnd.wf && req.wf
  | .mdSend who _ _ _ => who.wf
  | .getVersion bnd => bnd.wf
  | .getCapabilities bnd => bnd.wf
  | .negotiateAlgorithms bnd => bnd.wf
  | .getDigests bnd => bnd.wf
  | .getCertificate bnd _ => bnd.wf
  | .challenge bnd _ => bnd.wf
  | .getMeasurements bnd _ _ => bnd.wf
  | .keyExchange bnd => bnd.wf
  | .finish bnd _ => bnd.wf
  | .heartbeat bnd _ => bnd.wf
  | .keyUpdate bnd _ => bnd.wf
  | .endSession bnd _ => bnd.wf
  | .vendorDefinedRequest bnd _ _ req _ => bnd.wf && req.wf
  | .traceDrain tile => tile < 12
  | .traceSinkEnable who _ _ => who.wf
  | .eventRecordCapture who _ => who.wf
  | .digestClear who _ _ => who.wf
  | .now who _ _ => who.wf
  | .thaw who _ _ => who.wf
  | .arm who _ _ => who.wf
  | .timedFreeze => true
  | .dump who _ _ => who.wf
  | .hangDumpComplete => true
  | .dumpSlotRelease who slot _ _ => who.wf && slot < 2
  | .tileFrequencyChange tile => tile < 12
  | .temperatureReport tile _ => tile < 12
  | .throttleStep tile => tile < 12
  | .supply island => island < 14
  | .tileGate tile => tile < 12
  | .tileWake tile => tile < 12
  | .depotPowerDown channel => channel < 16
  | .governorTick _ => true
  | .powerReport die _ _ => die < 4
  | .powerReportMissing die => die < 4
  | .ballast die => die < 4
  | .readClear who off _ => who.wf && !(off == .bar2 && who == .mgmt)
  | .macControlFrame port kind => port < 24 &&
      (match kind with | .unknownType (some n) | .unknownVer (some n) => n < 2 ^ 24 | _ => true)
  | .fecResult port _ _ => port < 24
  | .correctableError port => port < 2
  | .parityError tile => tile.all (fun t => t < 12)
  | .meshLinkError tile => tile < 12
  | .ropedExtension => true
  | .tdispRequest port vf _ => port < 2 && 1 ≤ vf && vf ≤ 120
  | .mgFrameSend port msg => port < 24 && (match msg with
    | .ptp _ node payload => decide (node < 2 ^ 16) && decide (payload.length ≤ 4096)
    | .qp0 node payload => decide (node < 2 ^ 16) && decide (payload.length ≤ 4096))

end Sys2Proof
end

