-- ==== Sys2Proof/Tests/Slice0.lean ====
section
/-!
SUPPORT. The model's own tests: ill-formed commands that WellFormed refuses; for each statement with hypotheses a state and
operands that meet them (the theorems wit_…); and worked examples and table values of the spec (the theorems test_…).
-/
namespace Sys2Proof.Tests

open Sys2Proof Sys2Proof.Machine Sys2Proof.Safety
set_option Elab.async false

/-! ### Ill-formed commands -/

def okHdr : Hdr := { hdrZero with type := 1 }
def okFrame : Frame := ⟨0, true, true, false, none, 0, 0, okHdr, [], [], 0#64, 5⟩
def badFrame : Frame := { okFrame with port := 24 }
def badPtp : PtpFrame := ⟨24, true, true, none, 319, true, .sync, []⟩
def okReq : DictReq := ⟨none, 0, 0x2000, 0, 0, 0⟩
def badReq : DictReq := { okReq with seq := 256 }
def badFuses : Fuses := { Fuses.blank with variant := 13 }
def badFetch : FetchResult := .descs [[0#64]]
def badLine : LineResult := .line [0#64]

/-- Every command of a list is refused by WellFormed. -/
def refusesAll (l : List Instr) : Bool := l.all (fun c => !c.wf)

theorem test_ill_formed_agents : Agent.wf (.pf 2) = false ∧ Agent.wf (.vf 2 1) = false ∧ Agent.wf (.vf 0 0) = false ∧
    Agent.wf (.vf 0 121) = false ∧ Agent.wf (.vf 1 120) = true ∧ fnWf 121 = false ∧ fnWf 120 = true := by decide

theorem test_ill_formed_headers : Hdr.wf okHdr = true ∧
    (∀ h, h ∈ [{ okHdr with cls := 4 }, { okHdr with epoch := 2 }, { okHdr with type := 256 }, { okHdr with flags := 65536 },
      { okHdr with path := 64 }, { okHdr with dstQp := 2 ^ 24 }, { okHdr with arith := 256 }, { okHdr with srcQp := 2 ^ 24 },
      { okHdr with srcNode := 2 ^ 15 }, { okHdr with dstNode := 2 ^ 15 }, { okHdr with psn := 2 ^ 32 }, { okHdr with msn := 2 ^ 32 }] →
      Hdr.wf h = false) := by decide +kernel

theorem test_ill_formed_headers_more :
    (∀ h, h ∈ [{ okHdr with address := 2 ^ 64 }, { okHdr with payloadLen := 4097 }, { okHdr with card := 65536 },
      { okHdr with rank := 65536 }, { okHdr with split := 65536 }, { okHdr with scale := 2 ^ 32 }, { okHdr with seed := 2 ^ 32 },
      { okHdr with element := 2 ^ 32 }, { okHdr with msgLen := 2 ^ 32 }, { okHdr with address2 := 2 ^ 64 }] →
      Hdr.wf h = false) := by decide +kernel

theorem test_ill_formed_frames : Frame.wf okFrame = true ∧ Frame.wf badFrame = false ∧
    Frame.wf { okFrame with hdr := { okHdr with cls := 4 } } = false ∧ Frame.wf { okFrame with payload := [0#8] } = false ∧
    Frame.wf { okFrame with ifaceId := 2 ^ 64 } = false := by decide

theorem test_ill_formed_fuses : Fuses.wf Fuses.blank = true ∧ Fuses.wf badFuses = false ∧
    Fuses.wf { Fuses.blank with variant := 0 } = false ∧ Fuses.wf { Fuses.blank with channels := [16] } = false := by decide +kernel

theorem test_ill_formed_answers : FetchResult.wf badFetch = false ∧
    FetchResult.wf (.descs (List.replicate 65 (List.replicate 8 0#64))) = false ∧
    FetchResult.wf (.descs (List.replicate 64 (List.replicate 8 0#64))) = true ∧ LineResult.wf badLine = false ∧
    LineResult.wf (.line (List.replicate 8 0#64)) = true := by decide +kernel

theorem test_ill_formed_requests : DictReq.wf okReq = true ∧ DictReq.wf badReq = false ∧
    DictReq.wf { okReq with index := 65536 } = false ∧ DictReq.wf { okReq with sub := 256 } = false ∧
    DictReq.wf { okReq with count := 57 } = false ∧ Binding.wf (.vdm 2) = false ∧ Binding.wf (.md 2) = false ∧
    Binding.wf (.doe 2) = false ∧ Binding.wf (.doe 1) = true := by decide

theorem test_ill_formed_1 : refusesAll
  [.powerOn badFuses, .registerWrite (.pf 2) 0 .full 0#64, .badRegisterAccess (.pf 2) 0 true,
   .tailDoorbell (.pf 2) 0 .quad 0#64, .headDoorbell (.pf 2) 0 .quad 0#64, .portalTailDoorbell 4 0 0#64,
   .portalTailDoorbell 0 64 0#64, .portalHeadDoorbell 4 0 0#64, .portalHeadDoorbell 0 64 0#64,
   .descriptorFetchDone 0 badFetch, .ringContextLoad true 65536, .strandedPop (.pf 2) .full 0#64,
   .partitionWeightWrite (.pf 2) 0 .full 0#64, .partitionWeightWrite .mgmt 16 .full 0#64, .dieLinkUp 4 0 0, .dieLinkDown 4,
   .dieResetAnnounce 4, .translationSlotLoaded 16 0, .translationSlotLoaded 0 4096, .walkReadDone 0 badLine] = true := by decide +kernel

theorem test_ill_formed_2 : refusesAll
  [.accessCounterDecay 16 0, .accessCounterDecay 0 4096, .asControlWrite (.pf 2) .full 0#64,
   .segmentCommit (.pf 2) 0 .full 0#64, .segmentCommit .mgmt 16 .full 0#64, .segmentRemove (.pf 2) 0 .full 0#64,
   .segmentRemove .mgmt 16 .full 0#64, .segmentCommitDone 16 0 0 none [], .segmentCommitDone 0 4096 0 none [],
   .segmentCommitDone 0 0 16 none [], .segmentCommitDone 0 0 0 none [.diePoison 4], .invalidateRange (.pf 2) .full 0#64,
   .invalidateAddressSpace (.pf 2) .full 0#64, .invalidatePartition (.pf 2) .full 0#64, .atsInvalidateRequest 2 0 none 0 0 0,
   .atsInvalidateRequest 0 121 none 0 0 0, .sqCreate (.pf 2) .full 0#64, .sqBind (.pf 2) .full 0#64,
   .sqPause (.pf 2) .full 0#64, .sqResume (.pf 2) .full 0#64] = true := by decide +kernel

theorem test_ill_formed_3 : refusesAll
  [.sqTeardown (.pf 2) .full 0#64, .teardownSourceDeadline 65536, .teardownDeadline 65536, .cqCreate (.pf 2) .full 0#64,
   .cqTeardown (.pf 2) .full 0#64, .qpCreate (.pf 2) .full 0#64, .qpDestroy (.pf 2) .full 0#64, .qpDestroyDeadline 16777216,
   .qpContextLoad 16777216, .packetSend 16777216 0, .write badFrame, .combine badFrame, .fence badFrame, .readReq badFrame,
   .readResp badFrame, .ack badFrame, .nak badFrame, .applied badFrame, .credit badFrame, .probe badFrame] = true := by decide +kernel

theorem test_ill_formed_4 : refusesAll
  [.probeReply badFrame, .skip badFrame, .mgmt badFrame, .rtoExpiry 16777216 0, .rtoExpiry 0 4294967296,
   .deliveryTimeout 16777216 0, .deliveryTimeout 0 4294967296, .readRetry 16777216 0, .readRetry 0 4294967296,
   .readDeliveryTimeout 16777216 0, .readDeliveryTimeout 0 4294967296, .appliedProbeTimer 16777216 0,
   .appliedProbeTimer 0 4294967296, .labelProbeTimer 0 64 0, .labelProbeTimer 0 0 16777216, .cooldownExpiry 0 64,
   .ackDelayExpiry 16777216, .baseRttReset 16777216, .llrAck 24 0, .llrAck 0 16777216] = true := by decide +kernel

theorem test_ill_formed_5 : refusesAll
  [.llrNak 24 0, .llrNak 0 16777216, .llrAckTimer 24, .portLinkDown 24, .portTrained 24, .trainingRetry 24,
   .linkHoldExpiry 24, .epochSwitchArm (.pf 2) .full 0#64, .load (.pf 2) .full 0#64, .stage (.pf 2) .full 0#64,
   .zero (.pf 2) .full 0#64, .keySwitchCommit 65536, .restart (.pf 2) .full 0#64, .ptpFrame badPtp, .roundRelease 4096,
   .roundAbandon 4096 0, .scheduleSwapArm (.pf 2) .full 0#64, .scheduleCheckDone ⟨[], [], [.depotCorrected 16]⟩,
   .configRead 2 0 0, .configRead 0 121 0] = true := by decide +kernel

theorem test_ill_formed_6 : refusesAll
  [.configWrite 2 0 0 0#32 0#32, .configWrite 0 121 0 0#32 0#32, .busMasterClear 2 0, .busMasterClear 0 121,
   .busMasterSet 2 0, .busMasterSet 0 121, .functionLevelReset 2 0, .functionLevelReset 0 121, .flrSourceDeadline 2 0,
   .flrSourceDeadline 0 121, .flrDeadline 2 0, .flrDeadline 0 121, .vfDisable 2 true 0, .setD3hot 2, .setD0 2,
   .barSizeWrite 2 true 0, .perstAssert 2, .perstRelease 2, .hotReset 2, .dlDown 2] = true := by decide +kernel

theorem test_ill_formed_7 : refusesAll
  [.linkUp 2 0 0 true, .tlpError 2 0, .tlpError 0 121, .bar4Read 2 0 0 0, .bar4Read 0 121 0 0, .bar4Write 2 0 0 [],
   .bar4Write 0 121 0 [], .windowControlWrite (.pf 2) 0 .full 0#64, .windowControlWrite .mgmt 64 .full 0#64, .l1Entry 2,
   .l0pNarrow 2, .ideIntegrityFailure 2 0, .ideIntegrityFailure 0 5, .tdispStopInterface 2 1, .tdispStopInterface 0 0,
   .tdispStopInterface 0 121, .keyProg 2 0 0#256 true, .keyProg 0 60 0#256 true, .kSetGo 2 0 0 0 0 true,
   .kSetGo 0 5 0 0 0 true] = true := by decide +kernel

theorem test_ill_formed_8 : refusesAll
  [.kSetGo 0 0 3 0 0 true, .kSetGo 0 0 0 2 0 true, .kSetGo 0 0 0 0 2 true, .kSetStop 2 0 0 0 0 true,
   .kSetStop 0 5 0 0 0 true, .kSetStop 0 0 3 0 0 true, .kSetStop 0 0 0 2 0 true, .kSetStop 0 0 0 0 2 true,
   .grantControlWrite (.pf 2) 0 .full 0#64, .grantControlWrite .mgmt 16 .full 0#64, .bind (.pf 2) .full 0#64,
   .rebind (.pf 2) .full 0#64, .park (.pf 2) .full 0#64, .adopt (.pf 2) .full 0#64, .reset (.pf 2) .full 0#64,
   .partitionResetDeadline 16 .final, .release (.pf 2) .full 0#64, .recompose (.pf 2) .full 0#64, .belayDeadline 16,
   .handover 16] = true := by decide +kernel

theorem test_ill_formed_9 : refusesAll
  [.bivouacHoldExpiry 16, .mailboxSend (.pf 2) .full 0#64, .mailboxAck (.pf 2) .full 0#64, .gets 0 12, .getm 0 12,
   .upgrade 0 12, .putm 0 12, .puto 0 12, .pute 0 12, .ncread 0 16, .ncwrite 0 16 none, .ncwrite 0 0 (some 4000),
   .fwdgets 0 12, .fwdgetm 0 12, .fwdrecall 0 12, .inv 0 12, .invack 0 12, .fwddone 0 12, .nack 0 16, .nackRetry 0 16] = true := by decide +kernel

theorem test_ill_formed_10 : refusesAll
  [.wbgrant 0 12, .putack 0 12, .grant 0 12, .data 0 16 true, .wbdata 0 12, .reactTimerExpiry 512,
   .faultExit (.pf 2) 0 .full 0#64, .faultExit .mgmt 512 .full 0#64, .faultInject (.pf 2) .full 0#64,
   .interruptClaim (.pf 2) none .full, .interruptClaim .mgmt (some 4000) .full, .interruptComplete (.pf 2) none .full 0#64,
   .interruptComplete .mgmt (some 4000) .full 0#64, .swTrigger (.pf 2) .full 0#64, .sourceConfigWrite (.pf 2) 0 .full 0#64,
   .sourceConfigWrite .mgmt 2048 .full 0#64, .maskWrite (.pf 2) 0 .full 0#64, .maskWrite .mgmt 32 .full 0#64,
   .pendingWrite (.pf 2) 0 .full 0#64, .pendingWrite .mgmt 32 .full 0#64] = true := by decide +kernel

theorem test_ill_formed_11 : refusesAll
  [.get (.vdm 2) okReq, .get .i3c badReq, .set (.vdm 2) okReq, .set .i3c badReq, .store (.vdm 2) okReq true,
   .store .i3c badReq true, .default (.vdm 2) okReq, .default .i3c badReq, .next (.vdm 2) okReq, .next .i3c badReq,
   .mdSend (.pf 2) .full 0#64 true, .getVersion (.vdm 2), .getCapabilities (.vdm 2), .negotiateAlgorithms (.vdm 2),
   .getDigests (.vdm 2), .getCertificate (.vdm 2) 0, .challenge (.vdm 2) 0, .getMeasurements (.vdm 2) 0 true,
   .keyExchange (.vdm 2), .finish (.vdm 2) 0] = true := by decide +kernel

theorem test_ill_formed_12 : refusesAll
  [.heartbeat (.vdm 2) 0, .keyUpdate (.vdm 2) 0, .endSession (.vdm 2) 0, .vendorDefinedRequest (.vdm 2) 0 0 okReq true,
   .vendorDefinedRequest .i3c 0 0 badReq true, .traceDrain 12, .traceSinkEnable (.pf 2) .full 0#64,
   .eventRecordCapture (.pf 2) .full, .digestClear (.pf 2) .full 0#64, .now (.pf 2) .full 0#64, .thaw (.pf 2) .full 0#64,
   .arm (.pf 2) .full 0#64, .dump (.pf 2) .full 0#64, .dumpSlotRelease (.pf 2) 0 .full 0#64,
   .dumpSlotRelease .mgmt 2 .full 0#64, .tileFrequencyChange 12, .temperatureReport 12 0, .throttleStep 12, .supply 14,
   .tileGate 12] = true := by decide +kernel

theorem test_ill_formed_13 : refusesAll
  [.tileWake 12, .depotPowerDown 16, .powerReport 4 0 0, .powerReportMissing 4, .ballast 4, .readClear (.pf 2) (.bar0 0) .full,
   .macControlFrame 24 .vlan, .fecResult 24 0 0, .correctableError 2, .parityError (some 4000), .meshLinkError 12,
   .tdispRequest 2 1 true, .tdispRequest 0 0 true, .tdispRequest 0 121 true, .mgFrameSend 24 (.ptp .sync 0 [])] = true := by decide +kernel

/-! ### The states of the witnesses -/

/-- A block with fields of registers set: each is a field, an index and a value. -/
def withF (l : List (Fld × Nat × Nat)) (b : Block) : Block := each l (fun e b => fput e.1 e.2.1 e.2.2 b) b

/-- An FV-24A that runs: both links are up, the PF of HP0 has memory space and bus mastering, VFs 1 to 4 are enabled, partition 0 is
bound with VF 1, die 0 is present, the node is node 5, the entropy source is READY, and fabric port 0 is up. -/
def up : Block :=
  let b := withF [(F.ckStartPhase, 0, 5), (F.hpPortStatusLinkUp, 0, 1), (F.hpPortStatusLinkUp, 1, 1), (F.ptPartStatusState, 0, 1),
    (F.ptVfMapValid, 1, 1), (F.ptVfMapPartition, 1, 0), (F.idCmemDiePresent, 0, 1), (F.idCmemDieHbm64m, 0, 3072), (F.idNodeValid, 0, 1),
    (F.idNodeNodeId, 0, 5), (F.enStatusState, 0, 1)] (Block.empty Fuses.blank)
  let b := cfgPut 0 0x370 4#32 (cfgPut 0 0x368 9#32 (cfgPut 0 0x04 6#32 b))
  modFt (fun t => { t with ports := [(0, { portTraining with state := 1 })] }) (modHp (fun h => { h with retry := [] }) b)

/-- A state of a block: no command waits and the depot is empty. -/
def st (b : Block) : State := ⟨[], [], b⟩

/-- Nothing waits in the receive queue of an agent's port, as a truth value. -/
def unheldB (b : Block) (w : Agent) : Bool := w == .mgmt || !hostUp b (bankOf w / 128) || (postQueue b (bankOf w / 128)).isEmpty

theorem unheld_of {b : Block} {w : Agent} (h : unheldB b w = true) : Unheld b w := by
  unfold unheldB at h
  simpa [Unheld, or_assoc] using h

/-- A write lands, as a truth value. -/
def landsB (b0 : Block) (w : Agent) (r : Reg) (c i : Nat) : Bool :=
  unheldB b0 w && accessReach b0 w && r.seen w && decide (c < r.spec.count) && (accessArrive w false b0).halves.isEmpty
    && stopTakes (accessArrive w false b0) w r && decide (regIdx (accessArrive w false b0) w r c = .at_ i)

/-- Where nothing has been read in part, nothing is let go. -/
theorem letGo_none {w : Agent} {b : Block} (h : b.halves.isEmpty = true) : letGo w b = b := by
  cases b with
  | _ => simp_all [letGo, tdel]

theorem lands_of {b0 : Block} {w : Agent} {r : Reg} {c i : Nat} (h : landsB b0 w r c i = true) :
    Lands b0 w r c i (accessArrive w false b0) := by
  simp only [landsB, Bool.and_eq_true, decide_eq_true_eq] at h
  obtain ⟨⟨⟨⟨⟨⟨hu, hr⟩, hs⟩, hx⟩, none⟩, hd⟩, hi⟩ := h
  exact ⟨unheld_of hu, hr, hs, hx, letGo_none none, hd, hi⟩

theorem names_full (f : Fld) : Names .full f := by
  unfold Names halfMask
  exact BitVec.and_allOnes

/-- A ring of partition 0 and a completion ring of it, in compute memory of die 0. -/
def aRing : Ring := { ringNew 0x100000 64 with state := .active, resident := true }
def aCq : Cq :=
  { state := .active, base := 0x200000, size := 64, tailWord := 0x300000, irq := 0, owner := 0, head := 0, tail := 0, orphan := 0,
    resident := true, issued := [], owed := [], parked := [], used := 0 }
/-- A descriptor, by its eight quadwords. -/
def desc (q0 len src dst q4 fence val q7 : Nat) : List (BitVec 64) := [q0, len, src, dst, q4, fence, val, q7].map (BitVec.ofNat 64)
/-- An item of ring 0 with a descriptor. -/
def anItem (d : List (BitVec 64)) : Item := newItem up 0 0 aRing d
/-- QP 7 of partition 0, with node 9 and its QP 8 as peer. -/
def aQp : Qp := { qpNew up 0 0x0000000000080009#64 0x0000006400000064#64 0#64 with resident := true }

/-- `up` with ring 0, completion ring 0, items and QP 7. -/
def busy (items : Tbl Item) (q : Qp) : Block :=
  modHe (fun h => { h with items := items, nextItem := items.length })
    (modFt (fun t => { t with qps := [(7, q)] }) (modSq (fun x => { x with rings := [(0, aRing)], cqs := [(0, aCq)] }) up))

/-- `up` with exchange 0 open. -/
def open1 (t : Txn) (b : Block) : Block := { b with txns := [(0, t)], nextTxn := 1 }

/-! ### Witnesses: the block as a whole -/

theorem wit_idle : State.reset.pending = [] := rfl

def cellState : State := ⟨[.depotTrainingDone], [⟨5, 7#8⟩], withF [(F.ckStartPhase, 0, 2)] up⟩

theorem wit_depot_form : DepotCanonical cellState ∧
    step cellState = .next { pending := [], depot := [⟨5, 7#8⟩], blk := phaseSet 3 cellState.blk } := ⟨rfl, rfl⟩

theorem wit_queue : ∃ t, exec .depotTrainingDone cellState = .next t := ⟨_, rfl⟩

def dieRead (u : Use) : Txn := ⟨.die 0 0x1000, 0, 0, 64, none, 0, 0, u⟩
def depotWrite : Txn := ⟨.depot 0x40, 1, 0, 4, some [1#8, 2#8, 3#8, 4#8], 0, 0, .free⟩
def zeros (n : Nat) : List (BitVec 8) := List.replicate n 0#8

theorem wit_answers : answerOf (.dieReadData 0 (zeros 64) none) = some (0, some 64) ∧
    AnswerFits (open1 (dieRead .free) up) 0 (some 64) ∧ ¬ AnswerFits (open1 (dieRead .free) up) 0 (some 63) ∧
    ¬ AnswerFits (open1 (dieRead .free) up) 1 (some 64) ∧ answerOf .fuseLoadDone = none := by
  refine ⟨by decide, ⟨by decide, ?_⟩, ?_, ?_, by decide⟩
  · intro t l h _ hl
    injection hl with hl
    subst hl
    cases (show some (dieRead .free) = some t from h)
    rfl
  · exact fun h => absurd (h.2 _ 63 (show _ = some (dieRead .free) from rfl) rfl rfl) (by decide)
  · exact fun h => absurd h.1 (by decide)

theorem wit_depot_write : 0 < (open1 depotWrite up).nextTxn ∧ tfind (open1 depotWrite up).txns 0 = some depotWrite ∧
    depotWrite.place = .depot 0x40 ∧ depotWrite.data = some [1#8, 2#8, 3#8, 4#8] ∧ depotAt 1 0x40 = 2 ^ 27 + 0x40 ∧
    tfind up.txns 0 = none := by decide +kernel

/-- DEPOT_WRITE_ACK stores the bytes at the data area's key (R56, R251). -/
theorem test_depot_write_ack : (match exec (.depotWriteAck 0 .ok) (st (open1 depotWrite up)) with
    | .next t => t.depot | _ => []) = [⟨2 ^ 27 + 0x40, 1#8⟩, ⟨2 ^ 27 + 0x41, 2#8⟩, ⟨2 ^ 27 + 0x42, 3#8⟩, ⟨2 ^ 27 + 0x43, 4#8⟩] := by
  decide +kernel

def resetCmd (scrub : Bool) : PtCmd := ⟨.reset, none, scrub, [], [], [], 0, 0, [], [], []⟩
def resetting (scrub : Bool) : Block :=
  modPt (fun t => { t with cmds := [(2, resetCmd scrub)] }) (withF [(F.ptPartStatusState, 2, 5)] up)

theorem wit_depot_commands : scrubs (resetting true) 2 = true ∧ scrubs (resetting false) 2 = false ∧ moving up = none ∧
    phase (withF [(F.ckStartPhase, 0, 3)] up) = 3 ∧ phase up ≠ 3 ∧ writesDepot .epochSwitch = false ∧
    (∃ t, exec .depotTrainingDone (st up) = .next t) := by
  exact ⟨by decide +kernel, by decide +kernel, rfl, by decide +kernel, by decide +kernel, rfl, ⟨_, rfl⟩⟩

theorem wit_start_up : phase State.reset.blk = 0 ∧ phase (withF [(F.ckStartPhase, 0, 2)] up) = 2 ∧
    phase (withF [(F.ckStartPhase, 0, 4)] up) = 4 ∧ phase up ≠ 0 ∧ phase up ≠ 2 ∧ phase up ≠ 4 := by decide +kernel

def stoppedUp : Block := withF [(F.fhCtlStopped, 0, 1)] up
def dumpingUp : Block := dumpTrigger 3 up

theorem wit_block_reset : up.ck.resetting = false ∧ stopped up = false ∧ up.tc.dumping = none ∧ dumpSlot up 4 = some 0 ∧
    stoppedUp.ck.resetting = false ∧ stopped stoppedUp = true ∧ stoppedUp.tc.dumping = none ∧ dumpingUp.tc.dumping = some 0 ∧
    (tfind dumpingUp.tc.dumps 0).isSome = true := by decide +kernel

theorem wit_dump_complete : dumpingUp.ck.resetting = false ∧
    (modCk (fun k => { k with resetting := true }) dumpingUp).ck.resetting = true := by decide +kernel

/-! ### Witnesses: clocks and power -/

def clocked : Block := withF ((List.range 12).map (fun t => (F.ckTileEffective, t, 900))) up

theorem wit_frequency : started clocked = true ∧
    (∀ u, u ∈ neighbours 0 → fget clocked F.ckTileEffective u < 2 ^ 11) ∧
    (∀ u v, u ∈ neighbours 0 → v ∈ neighbours 0 → fget clocked F.ckTileEffective u ≤ 4 * fget clocked F.ckTileEffective v) ∧
    started State.reset.blk = false := by
  refine ⟨by decide +kernel, by decide +kernel, ?_, by decide +kernel⟩
  intro u v hu hv
  exact (show ∀ u, u ∈ neighbours 0 → ∀ v, v ∈ neighbours 0 →
    fget clocked F.ckTileEffective u ≤ 4 * fget clocked F.ckTileEffective v by decide +kernel) u hu v hv

theorem wit_throttle : throttleAt up = 105 ∧ fget (withF [(F.ckTileTemp, 0, 105)] up) F.ckTileTemp 0 = 105 ∧
    fget (withF [(F.ckTileTemp, 0, 100)] up) F.ckTileTemp 0 + 5 ≤ throttleAt up ∧
    throttleAt up < fget (withF [(F.ckTileTemp, 0, 101)] up) F.ckTileTemp 0 + 5 := by decide +kernel

theorem wit_power : tileIdle up 0 = true ∧ tileIdle (busy [(0, { anItem (desc 0 0 0 0 0 0 0 0) with tile := 3 })] aQp) 3 = false ∧
    15 ∈ up.fuses.channels ∧ channelBusy up 15 = false ∧ channelBusy (open1 depotWrite up) 0 = true ∧ diePresent up 0 = true ∧
    tget 0 (modGov (fun g => { g with share := [(0, 8)] }) up).gov.share 0 = 8 ∧ fon (withF [(F.ckGovCtlBallastEn, 0, 1)] up) F.ckGovCtlBallastEn 0 = true ∧
    tget 0 up.gov.share 0 = 0 ∧ fon (withF [(F.ckGovCtlBallastEn, 0, 0)] up) F.ckGovCtlBallastEn 0 = false := by decide +kernel

/-! ### Witnesses: registers, doorbells, rings and QPs -/

theorem wit_nowhere : writeOf (.load .mgmt .full 0#64) = some (.mgmt, .ceKeyCmd, 0, .full, carry F.ceKeyCmdOp 1 0#64, true) ∧ accessReach up (.pf 1) = false ∧ Reg.seen .ceKeyCmd (.vf 0 1) = false ∧ (Reg.spec .hePartWeight).count = 16 ∧
    stopTakes stoppedUp (.pf 0) .sqCmd = false := ⟨rfl, by decide +kernel⟩

/-- A register write waits in the receive queue of HP0. -/
def queued : Block := modHp (fun p => { p with queue := [(0, [.write (.pf 0) none .full 0#64 true])] }) up

/-- What waits in a receive queue, a VF that a partition maps and one that none maps. -/
theorem wit_queued : ¬ Unheld queued (.pf 0) ∧ Unheld up (.pf 0) ∧ unmappedVf up (.vf 0 1) = false ∧ unmappedVf up (.vf 0 2) = true ∧
    accessReach up (.vf 0 2) = true ∧ stopped (accessArrive (.vf 0 2) false up) = false := by
  refine ⟨?_, unheld_of (by decide +kernel), by decide +kernel, by decide +kernel, by decide +kernel, by decide +kernel⟩
  rintro (h | h | h)
  · exact absurd h (by decide)
  · exact absurd h (by decide +kernel)
  · exact absurd h (by decide)

/-- A read of BAR2 is answered with zero (R178). -/
theorem test_bar2_read : (match exec (.readClear (.pf 0) .bar2 .full) (st up) with
    | .next t => t.blk.out.head? | _ => none) = some (.completion 0 (.data (zeros 8) false)) := by decide +kernel

theorem wit_foreign : accessReach up (.pf 0) = true ∧ Reg.seen .hePartWeight .mgmt = true ∧ stopTakes up .mgmt .hePartWeight = true ∧
    Reg.seen .ptVfMap .mgmt = true ∧ regIdx up .mgmt .ptVfMap 0 = .absent ∧
    regIdx (accessArrive (.pf 1) false up) (.pf 1) .tuAsCtl 0 = .foreign := by decide +kernel

theorem wit_store : Lands up .mgmt .ckGovCtl 0 0 up ∧ regDecode .mgmt (Reg.offset .ckGovCtl .mgmt 0) = some (.ckGovCtl, 0) ∧
    storesOnly .ckGovCtl = true ∧ Lands up (.pf 0) .sqCmdArg 2 2 (accessArrive (.pf 0) false up) :=
  ⟨lands_of (by decide +kernel), by decide +kernel, rfl, lands_of (by decide +kernel)⟩

/-- A register that is read at one instant, of which the management core has read the lower half. -/
def halfway : Block := { up with halves := [(256, (regKey .ckGovStatus 0, .lo, 5#64))] }

theorem wit_halves : Reg.whole .ckGovStatus = true ∧ clearsOnly .ckGovStatus = true ∧
    regDecode .mgmt (Reg.offset .ckGovStatus .mgmt 0) = some (.ckGovStatus, 0) ∧ regIdx halfway .mgmt .ckGovStatus 0 = .at_ 0 ∧
    tfind halfway.halves (bankOf .mgmt) = some (regKey .ckGovStatus 0, .lo, 5#64) ∧ tfind up.halves (bankOf .mgmt) = none := by decide +kernel

/-- The second half of such a register is of the instant of the first (R16). -/
theorem test_second_half : (match exec (.readClear .mgmt (.bar0 (Reg.offset .ckGovStatus .mgmt 0)) .hi) (st { halfway with
      halves := [(256, (regKey .ckGovStatus 0, .lo, 0x0000000700000005#64))] }) with
    | .next t => t.blk.out.head? | _ => none) = some (.regData 256 (Reg.offset .ckGovStatus .mgmt 0) 0x0000000700000000#64) := by
  decide +kernel

/-- A write of the lower half leaves the upper half of CK_THERMAL as it is (R12, R733). -/
theorem test_half_write :
    (match exec (.registerWrite .mgmt (Reg.offset .ckThermal .mgmt 0) .lo 0xFFFFFFFFFFFFFFFF#64) (st up) with
      | .next t => fget t.blk F.ckThermalThrottle 0 | _ => 0) = 105 := by decide +kernel

theorem wit_read_clear : regDecode .mgmt 1 = none ∧ regDecode .mgmt (Reg.offset .idIgnored .mgmt 0) = some (.idIgnored, 0) ∧
    regIdx up .mgmt .idIgnored 0 = .at_ 0 ∧ regDecode .mgmt (Reg.offset .ptRefused .mgmt 0) = some (.ptRefused, 0) ∧
    regIdx (withF [(F.ptPartSelPartition, 256, 15)] up) .mgmt .ptRefused 0 = .at_ 15 := by decide +kernel

theorem wit_read_answers : accessReach up (.pf 1) = false ∧ accessReach up (.pf 0) = true ∧ accessReach up .mgmt = true ∧
    regDecode (.pf 0) (Reg.offset .idIgnored (.pf 0) 0) = some (.idIgnored, 0) ∧
    regIdx (accessArrive (.pf 0) true up) (.pf 0) .idIgnored 0 = .at_ 0 ∧ clearsOnly .idIgnored = true ∧
    (Reg.spec .idIgnored).fields.any (fun f => f.acc == .rc) = true := by decide +kernel

def logged : Block := modHe (fun h => { h with logs := [(0, [[1#64], [2#64]])] }) up

theorem wit_pop : Lands logged .mgmt .heStrandCtl 0 0 logged ∧ tget [] logged.he.logs 0 = [1#64] :: [[2#64]] ∧
    Lands up .mgmt .heStrandCtl 0 0 up ∧ tget [] up.he.logs 0 = [] ∧ Lands up .mgmt .hePartWeight 15 15 up :=
  ⟨lands_of (by decide +kernel), by decide +kernel, lands_of (by decide +kernel), rfl, lands_of (by decide +kernel)⟩

def hostRing : Ring := { aRing with host := true, owner := 0, base := portBase 0 }
def ringUp (r : Ring) (c : Cq) : Block := modSq (fun q => { q with rings := [(3, r)], cqs := [(3, c)] }) up

theorem wit_doorbell : RingsBell (ringUp hostRing aCq) (.pf 0) 3 .quad 63#64 false 3 63 (hostTlp 0 (ringUp hostRing aCq)) ∧
    RingsBell (ringUp hostRing aCq) (.pf 0) 4099 .lower 0x1234567800010000#64 true 3 (2 ^ 16) (hostTlp 0 (ringUp hostRing aCq)) := by
  refine ⟨⟨by decide, unheld_of (by decide +kernel), by decide +kernel, by decide +kernel, rfl, by decide +kernel, by decide +kernel,
    by decide +kernel, Or.inl ⟨rfl, rfl⟩,
    ⟨0, 3, by decide +kernel, rfl, by decide⟩⟩,
    ⟨by decide, unheld_of (by decide +kernel), by decide +kernel, by decide +kernel, rfl, by decide +kernel, by decide +kernel,
    by decide +kernel, Or.inr ⟨rfl, by decide +kernel⟩,
      ⟨0, 4099, by decide +kernel, by decide, by decide⟩⟩⟩

/-- A doorbell of a compute ring, or of a completion ring of the other port, is one that no host may make. -/
theorem wit_stray_bells : RingsBell (ringUp aRing aCq) (.pf 0) 3 .quad 63#64 false 3 63 (hostTlp 0 (ringUp aRing aCq)) ∧
    RingsBell (ringUp aRing { aCq with owner := 128 }) (.pf 0) 4099 .quad 63#64 true 3 63 (hostTlp 0 (ringUp aRing { aCq with owner := 128 })) ∧
    aRing.host = false ∧ fromOwner (.pf 0) 128 = false := by
  refine ⟨⟨by decide, unheld_of (by decide +kernel), by decide +kernel, by decide +kernel, rfl, by decide +kernel, by decide +kernel,
    by decide +kernel, Or.inl ⟨rfl, rfl⟩,
    ⟨0, 3, by decide +kernel, rfl, by decide⟩⟩,
    ⟨by decide, unheld_of (by decide +kernel), by decide +kernel, by decide +kernel, rfl, by decide +kernel, by decide +kernel,
    by decide +kernel, Or.inl ⟨rfl, rfl⟩,
      ⟨0, 4099, by decide +kernel, by decide, by decide⟩⟩, rfl, rfl⟩

theorem wit_ring_hears : fromOwner (.pf 0) hostRing.owner = true ∧ ringHears (ringUp hostRing aCq) 3 = true ∧ hostRing.resident = true ∧
    NoneWaits (hostTlp 0 (ringUp hostRing aCq)) false 3 ∧ TailValid hostRing 63 ∧ TailValid hostRing (2 ^ 16) ∧ ¬ TailValid hostRing 64 ∧
    ringHears (ringUp { hostRing with resident := false } aCq) 3 = true :=
  ⟨rfl, rfl, rfl, rfl, by unfold TailValid; decide +kernel, by unfold TailValid; decide +kernel, by unfold TailValid; decide +kernel, rfl⟩

def fullCq : Cq := { aCq with tail := 2 ^ 16 }

theorem wit_cq_hears : fromOwner (.pf 0) fullCq.owner = true ∧ cqHears (ringUp hostRing fullCq) 3 = true ∧ fullCq.resident = true ∧
    cqHears (ringUp hostRing { fullCq with resident := false }) 3 = true ∧
    NoneWaits (hostTlp 0 (ringUp hostRing fullCq)) true 3 ∧ HeadValid fullCq 63 ∧ HeadValid fullCq (2 ^ 16) ∧ ¬ HeadValid fullCq 64 :=
  ⟨rfl, rfl, rfl, rfl, rfl, by unfold HeadValid; decide +kernel, by unfold HeadValid; decide +kernel, by unfold HeadValid; decide +kernel⟩

/-- A tail doorbell of 2 in a ring of 64 with nothing in use sets TAIL to 2 (R174, R175). -/
theorem test_tail_doorbell : (match exec (.portalTailDoorbell 0 0 0x0000000300000002#64) (st (withF [(F.sqPortalMapValid, 0, 1)]
    (ringUp { aRing with state := .paused } aCq))) with
    | .next t => (tfind t.blk.sq.rings 3).map (·.tail) | _ => none) = some 2 := by decide +kernel

def portals : Block := withF [(F.sqPortalMapValid, 0, 1), (F.sqPortalMapValid, 255, 1)] (ringUp aRing fullCq)

theorem wit_portal_host : PortalTakes (withF [(F.sqPortalMapValid, 0, 1)] (ringUp hostRing aCq)) 0 0 0x0000000300000002#64 0 ∧
    ringHears (withF [(F.sqPortalMapValid, 0, 1)] (ringUp hostRing aCq)) 3 = true ∧ hostRing.host = true :=
  ⟨by unfold PortalTakes; decide +kernel, by decide +kernel, rfl⟩

theorem wit_portal : PortalTakes portals 3 63 0x0000000300000002#64 0 ∧ PortalTakes portals 0 0 0x0000800300000002#64 0 ∧
    ringHears portals (4096 * 0 + qbits 0x0000000300000002#64 43 32) = true ∧
    NoneWaits portals false (4096 * 0 + qbits 0x0000000300000002#64 43 32) ∧
    fon portals F.sqPortalMapValid 1 = false ∧ 0x0000000300020002#64 &&& 0xFFFF7000FFFE0000#64 ≠ 0#64 :=
  ⟨by unfold PortalTakes; decide +kernel, by unfold PortalTakes; decide +kernel, by decide +kernel, by unfold NoneWaits; decide +kernel, by decide +kernel, by decide⟩

/-- `up` with the argument registers of SQ_CMD in the bank of the PF of HP0, and ring 3 and completion ring 3. -/
def args (a0 a1 a2 : Nat) (b : Block) : Block :=
  each [(0, a0), (1, a1), (2, a2)] (fun e b => rput .sqCmdArg e.1 (BitVec.ofNat 64 e.2) b) b

theorem wit_issues {b0 : Block} {op : Nat} {val : BitVec 64} {p obj : Nat} (h : (let b := accessArrive (.pf 0) false b0
      landsB b0 (.pf 0) .sqCmd 0 0 && !fon b F.sqCmdStatusBusy 0
      && decide (sqPart b (.pf 0) (carry F.sqCmdOp op val &&& halfMask .full) = some p)
      && decide (obj = qbits (carry F.sqCmdOp op val &&& halfMask .full) 19 0)) = true) :
    Issues b0 (.pf 0) op .full val (accessArrive (.pf 0) false b0) p obj := by
  simp only [Bool.and_eq_true, decide_eq_true_eq, Bool.not_eq_true'] at h
  exact ⟨lands_of h.1.1.1, by decide, h.1.1.2, h.1.2, h.2⟩

/-- Each command of SQ_CMD issues for ring, completion ring or QP 3 of partition 0. -/
theorem wit_issue (op : Nat) (ho : op ∈ [1, 2, 3, 4, 5, 8, 9, 0x10, 0x11]) :
    Issues (args 0x100000 0 0 up) (.pf 0) op .full 3#64 (accessArrive (.pf 0) false (args 0x100000 0 0 up)) 0 3 := by
  refine wit_issues ?_
  simp only [List.mem_cons, List.not_mem_nil, or_false] at ho
  rcases ho with rfl | rfl | rfl | rfl | rfl | rfl | rfl | rfl | rfl <;> decide +kernel

/-- `up` with partition `p` QUIESCING for a RECOMPOSE. -/
def moverUp (p : Nat) : Block :=
  modPt (fun t => { t with cmds := [(p, ⟨.recompose, none, false, [], [], [], 0, 0, [(p, 1)], [], []⟩)] }) (withF [(F.ptPartStatusState, p, 2)] up)

theorem wit_ring_commands :
    let b := accessArrive (.pf 0) false <| args 0x100000 10 0 up
    sqStray (sqArg b 0 0) 0x0001FFFFFFFFF000#64 = false ∧ (sqArg b 0 1).toNat = 10 ∧ sqArg b 0 2 = 0#64 ∧
    (ringRegion b none (sqArg b 0 0).toNat (64 * (64 * 2 ^ 10))).isSome = true ∧ ringState b 3 = .free ∧
    ringState (ringUp aRing aCq) 3 = .active ∧ ringState (ringUp { aRing with state := .paused } aCq) 3 = .paused ∧
    ringState (ringUp { aRing with state := .halted } aCq) 3 = .halted ∧ recomposing up 0 = false ∧ recomposing (moverUp 0) 0 = true ∧
    tfind (ringUp aRing aCq).sq.rings 3 = some aRing ∧ aRing.state ≠ .created ∧
    (∀ i, i < 3 → sqArg (args 0 0 0 (ringUp aRing aCq)) (bankOf (.pf 0)) i = 0#64) := by decide +kernel

/-- Ring 3 and completion ring 3, with the context of the ring poisoned. -/
def poisonedRing : Block :=
  modCc (fun c => { c with lines := [(lineOf 1 3, { lineIdle with poisoned := true })] }) (args 0 0 0 (ringUp aRing aCq))

theorem wit_poisoned : linePoisoned (accessArrive (.pf 0) false poisonedRing) 1 3 = true ∧ ringState poisonedRing 3 = .active ∧
    linePoisoned (ringUp aRing aCq) 1 3 = false ∧ linePoisoned (ringUp aRing aCq) 2 3 = false := by decide +kernel

theorem wit_no_args : NoArgs (accessArrive (.pf 0) false (args 0 0 0 (ringUp aRing aCq))) (.pf 0) ∧
    Issues (args 0 0 0 (ringUp aRing aCq)) (.pf 0) 5 .full 3#64 (accessArrive (.pf 0) false (args 0 0 0 (ringUp aRing aCq))) 0 3 :=
  ⟨by unfold NoArgs; decide +kernel, wit_issues (by decide +kernel)⟩

theorem wit_binding :
    let b := accessArrive (.pf 0) false <| args 3 4095 0xFF (ringUp { aRing with state := .created } aCq)
    sqStray (sqArg b 0 0) 0xFFF#64 = false ∧ sqStray (sqArg b 0 1) 0xFFF#64 = false ∧ sqStray (sqArg b 0 2) 0xFF#64 = false ∧
    (tfind b.sq.rings 3).map (·.state) = some .created ∧ (∀ h, h < 2 → regionOf aRing.base ≠ .port h) ∧
    (tfind b.sq.cqs (4096 * 0 + (sqArg b 0 0).toNat)).map (fun c => (c.state, c.orphan)) = some (.active, 0) ∧
    cqState (args 5 0 0 up) (4096 * 0 + 5) ≠ .active := by decide +kernel

theorem wit_cq_commands :
    let b := accessArrive (.pf 0) false <| args 0x200000 0x0000003F0000000A 0x300008 up
    sqStray (sqArg b 0 0) 0x0001FFFFFFFFF000#64 = false ∧ sqStray (sqArg b 0 1) 0x007F07FF0000000F#64 = false ∧
    sqStray (sqArg b 0 2) 0x0001FFFFFFFFFFF8#64 = false ∧ qbits (sqArg b 0 1) 3 0 ≤ 10 ∧ qbits (sqArg b 0 1) 42 32 / 64 = 0 ∧
    ownerFits b 0 (ownerOf (.pf 0) (qbits (sqArg b 0 1) 54 48)) = true ∧
    ringRegion b (some 0) (sqArg b 0 0).toNat (32 * (64 * 2 ^ 10)) = some (.hbm 0) ∧
    ringRegion b (some 0) (sqArg b 0 2).toNat 8 = some (.hbm 0) ∧ cqState b 3 = .free ∧ cqState (ringUp aRing aCq) 3 = .active ∧
    ((ringUp aRing aCq).sq.rings.any (fun e => e.1 / 4096 == 0 && e.2.cq == 3 && e.2.bound && e.2.state != .free)) = false ∧
    ((ringUp { aRing with cq := 3, bound := true } aCq).sq.rings.any
      (fun e => e.1 / 4096 == 0 && e.2.cq == 3 && e.2.bound && e.2.state != .free)) = true := by decide +kernel

theorem wit_host_binding :
    let b := accessArrive (.pf 0) false <| args 3 4095 1 (ringUp { aRing with state := .created, base := portBase 0 } aCq)
    regionOf (portBase 0) = .port 0 ∧ ownerOf (.pf 0) (sqArg b 0 2).toNat = 1 ∧ ownerFits b 0 1 = true ∧ (sqArg b 0 2).toNat ≤ 120 ∧
    (tfind b.sq.rings 3).map (fun r => (r.state, r.base)) = some (.created, portBase 0) ∧
    cqState b (4096 * 0 + (sqArg b 0 0).toNat) = .active ∧
    (let b := accessArrive (.pf 0) false <| args (portBase 0) 0x000100000000000A (portBase 0 + 8) up
     ownerOf (.pf 0) (qbits (sqArg b 0 1) 54 48) = 1 ∧ ownerFits b 0 1 = true ∧
     ringRegion b (some 0) (sqArg b 0 0).toNat (32 * (64 * 2 ^ 10)) = some (.port 0) ∧
     ringRegion b (some 0) (sqArg b 0 2).toNat 8 = some (.port 0)) := by decide +kernel

theorem wit_queue_pairs :
    let b := accessArrive (.pf 0) false <| args 0x00000000000F0009 0x0000006400000064 0 (withF [(F.ptCarveQpShare, 0, 1)] up)
    noFabric b = false ∧ (sqArg b 0 0).getLsbD 40 = false ∧ 3 < qpPool b ∧ sqStray (sqArg b 0 0) 0x03FF03FFFFFF7FFF#64 = false ∧
    sqStray (sqArg b 0 2) 0xFFFF#64 = false ∧ ¬ (fon b F.idNodeValid 0 = true ∧ qbits (sqArg b 0 0) 14 0 = selfNode b) ∧
    qbits (sqArg b 0 0) 14 0 ≠ 0x7FFF ∧ qbits (sqArg b 0 0) 39 16 = 15 ∧ 15 < qpPool b ∧ tfind b.ft.qps 3 = none ∧
    qpsUsed b 0 < fget b F.ptCarveQpShare 0 ∧ tfind (busy [] aQp).ft.qps 7 = some aQp ∧ aQp.part = 0 ∧ owns (busy [] aQp) (.pf 0) 0 = true ∧
    aQp.state ≠ 3 := by decide +kernel

/-- A part of variant code 3, with key 5 of partition 0 LOADED. -/
def keyed : Block := modKey 5 (fun k => { k with state := 1 }) (withF [(F.ptCarveQpShare, 0, 1)] { up with fuses := { up.fuses with variant := 3 } })

theorem wit_encrypted_pair :
    let b := accessArrive (.pf 0) false <| args 0x00000100000F0009 0x0000006400000064 5 keyed
    noFabric b = false ∧ (sqArg b 0 0).getLsbD 40 = true ∧ (variant b).cipher = true ∧ (keySlotOf b (qbits (sqArg b 0 2) 15 0)).state = 1 ∧
    qbits (sqArg b 0 2) 15 0 / 4096 = 0 ∧ sqStray (sqArg b 0 0) 0x03FF03FFFFFF7FFF#64 = false ∧ 15 < qpPool b ∧
    qpsUsed b 0 < fget b F.ptCarveQpShare 0 := by decide +kernel

def loadingRing : Block := modSq (fun q => { q with loads := [(false, 3)] }) (ringUp { aRing with resident := false } aCq)
def tearingRing : Block := ringUp { aRing with state := .draining, teardown := [256] } aCq

theorem wit_loads : (false, 3) ∈ (loadingRing.sq.loads.filter (fun l => homeTile l.2 == homeTile 3)).take 16 ∧
    ringRoom loadingRing false 3 = true ∧
    (tfind (busy [] aQp).ft.qps 7).isSome = true ∧ tcount (fun k _ => k == 7) (busy [] aQp).ft.qps = 1 ∧ tearing tearingRing 3 = true ∧ tearing loadingRing 3 = false ∧
    tfind (busy [] { aQp with resident := false, loading := true }).ft.qps 7 = some { aQp with resident := false, loading := true } ∧
    tcount (fun n q => homeTile n == homeTile 7 && q.resident) (busy [] { aQp with resident := false, loading := true }).ft.qps < 2048 ∧
    tcount (fun _ q => q.resident) (busy [] { aQp with resident := false, loading := true }).ft.qps < 16384 ∧
    (tfind (busy [] { aQp with state := 3 }).ft.qps 7).map (·.state) = some 3 := by decide +kernel

/-! ### Witnesses: items and the answers to exchanges -/

def oneItem (q0 : Nat) : Item := anItem (desc q0 64 0x1000 0x2000 7 0x3000 5 1)
def itemUp (it : Item) : Block := busy [(0, it)] aQp

theorem wit_begins_of {c : Instr} {p : List (BitVec 64) → Bool} {it : Item} (hc : beginOf c = some (0, p))
    (h : (p it.desc && mayBegin (itemUp it) 0 it) = true) : Begins c (itemUp it) 0 it := by
  simp only [Bool.and_eq_true] at h
  exact ⟨⟨p, hc, h.1⟩, rfl, h.2⟩

/-- Each command that begins an item has one to begin. -/
theorem wit_begins : Begins (.nop 0) (itemUp (oneItem 0)) 0 (oneItem 0) ∧ Begins (.copy 0) (itemUp (oneItem 1)) 0 (oneItem 1) ∧
    Begins (.writeRemote 0) (itemUp (oneItem 2)) 0 (oneItem 2) ∧ Begins (.readRemote 0) (itemUp (oneItem 3)) 0 (oneItem 3) ∧
    Begins (.combineLocal 0) (itemUp (oneItem 4)) 0 (oneItem 4) ∧ Begins (.combineRemote 0) (itemUp (oneItem 5)) 0 (oneItem 5) :=
  ⟨wit_begins_of rfl (by decide +kernel), wit_begins_of rfl (by decide +kernel), wit_begins_of rfl (by decide +kernel),
    wit_begins_of rfl (by decide +kernel), wit_begins_of rfl (by decide +kernel), wit_begins_of rfl (by decide +kernel)⟩

theorem wit_begins_more : Begins (.quantizeSend 0) (itemUp (oneItem 6)) 0 (oneItem 6) ∧
    Begins (.digest 0) (itemUp (oneItem 7)) 0 (oneItem 7) ∧ Begins (.fenceOnly 0) (itemUp (oneItem 0x108)) 0 (oneItem 0x108) ∧
    Begins (.fenceOnlyWait 0) (itemUp (oneItem 0x2008)) 0 (oneItem 0x2008) ∧
    Begins (.fenceOnlyRearm 0) (itemUp (oneItem 0x1108)) 0 (oneItem 0x1108) ∧
    Begins (.tileWalkDeclare 0) (itemUp (oneItem 9)) 0 (oneItem 9) :=
  ⟨wit_begins_of rfl (by decide +kernel), wit_begins_of rfl (by decide +kernel), wit_begins_of rfl (by decide +kernel),
    wit_begins_of rfl (by decide +kernel), wit_begins_of rfl (by decide +kernel), wit_begins_of rfl (by decide +kernel)⟩

theorem wit_begin_cases : (oneItem 1).status = 0 ∧ beginBad (itemUp (oneItem 1)) (oneItem 1) = none ∧
    beginBad (busy [(0, oneItem 2)] { aQp with state := 2, cause := 7 }) (oneItem 2) ≠ none ∧ beginBad (itemUp (oneItem 2)) (oneItem 2) = none ∧
    beginBad (itemUp (oneItem 9)) (oneItem 9) = none ∧ ({ oneItem 1 with status := 0x60 } : Item).status ≠ 0 ∧
    tfind up.he.items 0 = none := by decide +kernel

/-- A failed item stops at once, with nothing more to do. -/
theorem test_begin_failed : (match exec (.copy 0) (st (itemUp { oneItem 1 with status := 0x60 })) with
    | .next t => t.blk.he.items.any (fun e => e.2.stage == .active) | _ => true) = false := by decide +kernel

def fenceSpan : Span := ⟨0, 8, .die 0 0x3000, none⟩
def waitItem : Item := { oneItem 0x2008 with stage := .active, begun := true, fen := { (oneItem 0x2008).fen with spans := [fenceSpan], upTo := 8 } }
def farWait : Item := { oneItem 0x2008 with stage := .active, begun := true }

theorem wit_waits : waits (itemUp waitItem) 0 = true ∧ tfind (itemUp waitItem).he.items 0 = some waitItem ∧
    fencePlace waitItem = some (.die 0 0x3000) ∧ ((itemUp waitItem).txns.any (fun t => t.2.use == .waitRead 0)) = false ∧
    placeStatus (itemUp waitItem) (itemFn (itemUp waitItem) waitItem (.die 0 0x3000)) (.die 0 0x3000) = none ∧ waits up 0 = false ∧
    tfind (itemUp farWait).he.items 0 = some farWait ∧ farWait.stage = .active ∧ dOpcode farWait.desc = 0x08 ∧ dWait farWait.desc = true ∧
    stopped (itemUp farWait) = false ∧ farWait.fenceReady = false ∧ farWait.status = 0 ∧
    tfind (itemUp farWait).sq.rings farWait.ringKey = some aRing ∧ aRing.state = .active := by decide +kernel

theorem wit_open (t : Txn) (b : Block) : Open (open1 t b) 0 t := ⟨Nat.zero_lt_one, rfl⟩

theorem wit_die_answers : (dieRead (.src 0 0 true)).place = .die 0 0x1000 ∧ (dieRead (.src 0 0 true)).reads = true ∧
    (dieRead (.src 0 0 true)).len = (zeros 64).length ∧ depotWrite.reads = false ∧
    ({ depotWrite with place := .die 3 0 } : Txn).reads = false ∧ ({ depotWrite with data := none } : Txn).reads = true := by decide +kernel

def hostRead (u : Use) : Txn := ⟨.port 1 0x4000 false, 0, 128, 8, none, 0, 0, u⟩

/-- The answer for an entry of completion ring 0, and the read of a mirror line for walk 0. -/
def entryWrite : Txn := ⟨.die 0 0x200000, 0, 0, 32, some (zeros 32), 0, 0, .entry 0⟩
def mirrorRead : Txn := ⟨.depot 0x40, 0, 0, 64, none, 0, 0, .mirror 0 0⟩

theorem wit_host_answers : tfind (open1 depotWrite up).txns 1 = none ∧
    Answers (.dieWriteAck 0) 0 { open1 depotWrite up with txns := [] } ∧
    (hostRead (.src 0 0 false)).reads = true ∧ (hostRead (.src 0 0 false)).use ≠ .free ∧ (∀ x, Use.src 0 0 false ≠ .ats x) ∧
    (hostRead (.src 0 0 false)).len = (zeros 8).length ∧ (hostRead .free).reads = true ∧ up.nextTxn ≤ 0 ∧
    (hostRead (.src 0 0 false)).len ≠ (zeros 7).length := by
  exact ⟨rfl, ⟨none, rfl, Nat.zero_lt_one, fun t l h => by cases h⟩, rfl, by decide, (fun x h => by cases h), rfl, rfl, by decide, by decide⟩

/-- A completion of seven bytes for a read of eight is a malformed TLP (R28): source 65, and the read stays outstanding. -/
theorem test_malformed_completion :
    (match exec (.hostReadCompletion 0 (.data (zeros 7) none)) (st (open1 (hostRead (.src 0 0 false)) up)) with
    | .next t => (fget t.blk F.fhSrcStatusCaptured 65, (tfind t.blk.txns 0).isSome)
    | _ => (0, false)) = (1, true) := by decide +kernel

theorem wit_wait_words : dFenceValue waitItem.desc ≤ 5 % 2 ^ 63 ∧ 2 ^ 63 % 2 ^ 63 < dFenceValue waitItem.desc ∧
    4 % 2 ^ 63 < dFenceValue waitItem.desc ∧ waitItem.final ≠ 2 ∧ ({ waitItem with stage := .fenceWrite } : Item).stage = .fenceWrite ∧
    tfind (ringUp aRing aCq).sq.rings 3 = some aRing ∧ waitItem.status = 0 ∧ waitItem.stage = .active := by decide +kernel

def anAccess (w : Wait) : Access :=
  ⟨.item 0 0, 0, 0, 0x1000, 64, .read, 1, 0, 0, ⟨0, 64, .port 0 0x5000 false, none⟩, w⟩
def accUp (w : Wait) : Block := modTu (fun t => { t with accs := [(0, anAccess w)], prgs := [(0, (0, 0))] }) up

theorem wit_access : tfind (accUp (.ats 0x5000 64)).tu.accs 0 = some (anAccess (.ats 0x5000 64)) ∧ atsRight .combine true true = true ∧
    tfind (accUp (.prg 0x5000 64 0)).tu.prgs 0 = some (0, 0) ∧ tfind ({ (accUp .held).tu with accs := [] }).accs 0 = none ∧ (anAccess (.prg 0x5000 64 0)).wait = .prg 0x5000 64 0 ∧
    (∀ e, e ∈ (accUp (.prg 0x5000 64 0)).tu.accs → ∀ x y, e.2.wait ≠ .prgQueue x y) ∧ tfind up.tu.prgs 0 = none := by
  refine ⟨rfl, rfl, rfl, rfl, rfl, ?_, rfl⟩
  intro e he x y
  cases List.mem_singleton.1 he
  exact fun h => by cases h

def dieItem : Item := { oneItem 1 with stage := .active, src := { (oneItem 1).src with spans := [⟨0, 64, .die 0 0x1000, none⟩] } }

theorem wit_entries_acked : tfind (itemUp dieItem).sq.cqs (itemCq (itemUp dieItem) dieItem) = some aCq ∧ entryWrite.use = .entry 0 ∧
    quiet up mirrorRead.use = true ∧ quiet up (.src 0 0 true) = true ∧ quiet up depotWrite.use = false ∧
    prefetching up (.src 0 0 true) = false ∧ (∀ w l, depotWrite.use ≠ .mirror w l) ∧
    mirrorRead.reads = true := ⟨by decide +kernel, rfl, by decide +kernel, rfl, rfl, rfl, (fun w l h => by cases h), rfl⟩

/-- A prefetch walk that reads a mirror line. -/
def preUp : Block := modTu (fun t => { t with walks := [(0, ⟨1, 0, 0, 0, 0x1000, some (0, 0, 0), 0, 0, false, false⟩)] }) up
theorem wit_prefetching : prefetching preUp mirrorRead.use = true ∧ unrecorded preUp mirrorRead.use = true := by decide +kernel

theorem wit_fence_broken : (tfind (ringUp { aRing with shadow := [⟨0x3000, 0, false⟩] } aCq).sq.rings 3).map (·.shadow.length) = some 1 ∧
    dFenceAddr waitItem.desc = 0x3000 := by decide +kernel

theorem wit_dies : fon up F.idCmemDiePresent 0 = true ∧ fon up F.idCmemDiePresent 3 = false ∧
    (∀ e, e ∈ (itemUp dieItem).txns → e.2.onDie 0 = false) ∧ dieItem.touches (itemUp dieItem) 0 = true ∧ dieItem.status = 0 := by decide +kernel

/-! ### Witnesses: translation -/

def segUp : Block :=
  modTu (fun t => { t with segs := [(0, ⟨0x200000, 0x200000, false, 0, 0, 0, 0, [], 3⟩)] }) up
def pendingSeg : Block := withF [(F.tuSegCtlPending, 16 * asKey 0 4095 + 15, 1), (F.tuSegCtlValid, 16 * asKey 0 4095 + 15, 1),
  (F.ptCmemValid, 0, 1), (F.ptCmemBase, 0, 0), (F.ptCmemLimit, 0, 3072)] up

theorem wit_segments : Lands up (.pf 0) .tuAsCtl 0 0 (accessArrive (.pf 0) false up) ∧ Lands segUp (.pf 0) .tuSegCtl 0 0 (accessArrive (.pf 0) false segUp) ∧ fon segUp F.tuSegCtlPending 0 = false ∧
    tfind up.tu.segs 0 = none ∧ (tfind segUp.tu.segs 0).isSome = true ∧
    Lands (withF [(F.tuAsSelAs, 0, 4095)] pendingSeg) (.pf 0) .tuSegCtl 15 (16 * asKey 0 4095 + 15)
      (accessArrive (.pf 0) false (withF [(F.tuAsSelAs, 0, 4095)] pendingSeg)) ∧
    fon pendingSeg F.tuSegCtlPending (segIdx 0 4095 15) = true ∧ fon pendingSeg F.tuSegCtlValid (segIdx 0 4095 15) = true ∧
    (pendingSeg.tu.invals.any (fun e => e.2.seg == some (segIdx 0 4095 15) && !e.2.complete)) = false ∧
    (localPlace pendingSeg 0 (rget pendingSeg .tuSegList (segIdx 0 4095 15)).toNat
      (2 * (qbits (rget pendingSeg .tuSegMap (segIdx 0 4095 15)) 63 52 + 1))).isSome = true :=
  ⟨lands_of (by decide +kernel), lands_of (by decide +kernel), by decide +kernel, rfl, rfl, lands_of (by decide +kernel),
    by decide +kernel, by decide +kernel, rfl, by decide +kernel⟩

theorem wit_ignored_invalidations : Lands up (.pf 0) .tuInvCtl 0 0 (accessArrive (.pf 0) false up) ∧
    F.tuInvCtlScope.of (carry F.tuInvCtlScope 2 0#64 &&& halfMask .full) = 2 ∧
    (fget (withF [(F.tuInvStatusIssued, 0, 65550 % 65536), (F.tuInvStatusDone, 0, 65534)] up) F.tuInvStatusIssued 0 + 65536 -
      fget (withF [(F.tuInvStatusIssued, 0, 65550 % 65536), (F.tuInvStatusDone, 0, 65534)] up) F.tuInvStatusDone 0) % 65536 = 16 ∧
    F.tuInvCtlScope.of (qset 0#64 F.tuInvCtlScope.hi F.tuInvCtlScope.lo 3 &&& halfMask .full) = 3 ∧
    regDecode (.pf 0) (Reg.offset .tuInvCtl (.pf 0) 0) = some (.tuInvCtl, 0) ∧
    F.tuInvCtlPages.of (carry F.tuInvCtlScope 0 0#64 &&& halfMask .full) = 0 :=
  ⟨lands_of (by decide +kernel), by decide +kernel, by decide +kernel, by decide +kernel, by decide +kernel, by decide +kernel⟩

/-- TU_INV_CTL lies at its offset in BAR0 of a PF and of a VF (R30, R124). -/
theorem test_inv_ctl_offset : regDecode (.pf 1) (0x200000 + 0x808) = some (.tuInvCtl, 0) ∧
    regDecode (.vf 0 1) (Reg.offset .tuInvCtl (.vf 0 1) 0) = some (.tuInvCtl, 0) := by decide +kernel

def anInval : Inval := ⟨some 0, 0, .partition, none, false, [], [], []⟩
def invalUp : Block := modTu (fun t => { t with invals := [(0, anInval)] }) up

theorem wit_invalidations : selPart (accessArrive (.pf 0) false up) (.pf 0) F.tuAsSelPartition = some 0 ∧
    (fget up F.tuInvStatusIssued 0 + 65536 - fget up F.tuInvStatusDone 0) % 65536 < 16 ∧
    F.tuInvCtlPages.of (carry F.tuInvCtlScope 0 1#64 &&& halfMask .full) = 1 ∧ tfind invalUp.tu.invals 0 = some anInval ∧
    invalIdle invalUp anInval = true ∧ tfirst (fun _ u => u.fn == some 0) invalUp.tu.invals = some 0 ∧
    tfind (tdel invalUp.tu.invals 0) 0 = none ∧ tfind up.tu.invals 0 = none ∧ hostUp up 0 = true ∧ fnEnabled up (128 * 0 + 4) = true ∧
    fnEnabled up (128 * 0 + 5) = false ∧ up.tu.tlb = [] := by
  decide +kernel

theorem wit_inval_alone : ∀ k u, tfind invalUp.tu.invals k = some u → k ≠ 0 → u.complete = false := by
  intro k u h hk
  cases k with
  | zero => exact absurd rfl hk
  | succ n => cases h

def aCounter : Counter := ⟨0, 0, 0x1000, 4096, 0, List.replicate 12 1, 3, false⟩
def counting : Block := modTu (fun t => { t with counters := [aCounter] }) (withF [(F.tuAsCtlDecay, asKey 0 0, 1)] up)

theorem wit_waiting : (0, 0) ∈ (modTu (fun t => { t with loading := [(0, 0)] }) up).tu.loading ∧ (0, 0) ∉ up.tu.loading ∧
    tfind (accUp .held).tu.accs 0 = some (anAccess .held) ∧ fget up F.tuAsCtlDecay (asKey 0 0) = 0 ∧
    fget counting F.tuAsCtlDecay (asKey 0 0) ≠ 0 ∧ counting.tu.counters.filter (fun c => c.part == 0 && c.asn == 0) = [aCounter] ∧
    fget counting F.tuAsCtlHotThresh (asKey 0 0) = 0 ∧
    fget (withF [(F.tuAsCtlHotThresh, asKey 0 0, 16)] counting) F.tuAsCtlHotThresh (asKey 0 0) = 16 ∧
    satAdd 65535 aCounter.merged (aCounter.tiles.foldl (· + ·) 0) = 15 := by decide +kernel

/-! ### Witnesses: packets -/

/-- A sound frame of a type for QP 7 of node 5, from QP 8 of node 9, of 64 bytes at 0x10000 with PSN 100. -/
def pktOf (h : Hdr) (body : List (BitVec 8)) : Frame := ⟨0, true, true, false, none, 0, 0, h, body, [], packetCrc h body [], 5⟩
def hdrOf (ty : Nat) : Hdr :=
  { hdrZero with cls := 2, type := ty, dstQp := 7, srcQp := 8, srcNode := 9, dstNode := 5, psn := 100, address := 0x10000,
                 payloadLen := 64, msgLen := 64 }
def pkt (ty : Nat) : Frame := pktOf (hdrOf ty) (zeros 64)

/-- Partition 0 with die 0 as compute memory. -/
def granting (q : Qp) (items : Tbl Item) : Block :=
  withF [(F.ptCmemValid, 0, 1), (F.ptCmemBase, 0, 0), (F.ptCmemLimit, 0, 3071)] (busy items q)

def soundB (b : Block) (f : Frame) : Bool :=
  portUp b f.port && f.shim.isNone && f.fcsOk && f.udpOk && f.crc == packetCrc f.hdr f.payload f.tag && !stopped b &&
    f.ifaceId == selfNode b && f.hdr.dstNode == selfNode b && f.hdr.srcNode != selfNode b && f.hdr.epoch == epochNow b % 2

theorem sound_of {b : Block} {f : Frame} (h : soundB b f = true) : FrameSound b f := by
  simp only [soundB, Bool.and_eq_true, and_assoc, beq_iff_eq, bne_iff_ne, Bool.not_eq_true', Option.isNone_iff_eq_none] at h
  obtain ⟨up, shim, fcs, udp, crc, run, iface, dst, src, epoch⟩ := h
  exact ⟨⟨up, shim, fcs, udp, crc, run⟩, iface, dst, src, .inl epoch⟩

theorem clear_of {b : Block} {f : Frame} {q : Qp} (h : soundB b f = true) (hk : f.hdr.dstQp = 7)
    (hp : ((rxPool b (homeTile 7) f.hdr.cls).isSome && decide (tfind b.ft.qps 7 = some q)
      && q.peerNode == f.hdr.srcNode && q.peerQp == f.hdr.srcQp && partPresent b q.part && !linePoisoned b 0 7 && q.resident
      && !f.hdr.enc && !q.enc) = true) : FrameClear b f 7 q := by
  simp only [Bool.and_eq_true, and_assoc, beq_iff_eq, Bool.not_eq_true', decide_eq_true_eq] at hp
  obtain ⟨pool, qp, node, peer, part, line, here, clear, own⟩ := hp
  exact ⟨⟨sound_of h, hk.symm, pool, qp, node, peer, part, line⟩, here, clear, own⟩

theorem wit_frames : FrameClear (granting aQp []) (pkt 1) 7 aQp ∧ FrameClear (granting aQp []) (pkt 2) 7 aQp ∧
    FrameClear (granting aQp []) (pkt 3) 7 aQp ∧ FrameClear (granting aQp []) (pktOf { hdrOf 4 with payloadLen := 0 } []) 7 aQp ∧
    frameOf (.write (pkt 1)) = some (pkt 1) ∧ frameOf (.combine (pkt 2)) = some (pkt 2) ∧ frameOf (.fence (pkt 3)) = some (pkt 3) ∧
    frameOf (.readReq (pktOf { hdrOf 4 with payloadLen := 0 } [])) = some (pktOf { hdrOf 4 with payloadLen := 0 } []) :=
  ⟨clear_of (by decide +kernel) rfl (by decide +kernel), clear_of (by decide +kernel) rfl (by decide +kernel),
    clear_of (by decide +kernel) rfl (by decide +kernel), clear_of (by decide +kernel) rfl (by decide +kernel), rfl, rfl, rfl, rfl⟩

theorem wit_sequenced :
    let b1 := counted (granting aQp []) (pkt 1)
    psnDist aQp.cumNext 100 = 0 ∧ 100 ∉ aQp.rx ∧ psnDist aQp.cumNext 1123 < 1024 ∧ aQp.state ≠ 2 ∧
    frameAdmit b1 0 (hdrOf 1) = some ([(0, 64, .die 0 0x10000)], none) ∧
    frameAdmit b1 0 { hdrOf 4 with payloadLen := 0 } = some ([(0, 64, .die 0 0x10000)], none) ∧
    depotMoves b1 0 [(0, 64, .die 0 0x10000)] = false ∧
    frameAdmit b1 0 { hdrOf 1 with address := 2 ^ 48 } = none ∧
    psnBefore 99 aQp.cumNext = true ∧ ¬ (psnDist aQp.cumNext 99 < 1024) ∧
    ¬ (psnDist aQp.cumNext 1124 < 1024) ∧ psnBefore 1124 aQp.cumNext = false := by decide +kernel

/-- A schedule of pitches of 32 us with a card of partition 0, index 0, that receives 64 KiB at 0x10000 from node 9. -/
def aCard : Card := ⟨true, true, true, false, 0, 0, 1000, 1, 1, 1, 16, 0, 0x10000, 0x10000, 0, 0, 1, 2, 0⟩
def aSched : Sched := ⟨0, 32000, 1000, 20000, 9000, false, 1, 1, [(0, aCard)], [(0, [9])]⟩
def pitched (b : Block) : Block := modPs (fun p => { p with sched := some aSched }) b

theorem wit_cards :
    let b1 := counted (pitched (granting aQp [])) (pkt 1)
    let h : Hdr := { hdrOf 1 with card := 1, rank := 1 }
    cardAt b1 (cardGen b1 4095) 4095 = none ∧ cardAt b1 (cardGen b1 0) 0 = some (aSched, aCard) ∧
    cardRefuses aSched aCard 0 { h with rank := 2 } = true ∧ cardRefuses aSched aCard 0 h = false ∧
    (roundOf (modPs (fun p => { p with nextK := [(0, 2)] }) b1) aSched (cardGen b1 0) 0 aCard).2 = true := by decide +kernel

def sentOf (psn : Nat) (o : Sender) : Sent :=
  ⟨psn, hdrOf 1, zeros 64, [], o, 0, 64, false, 0, 0, 1, none, none, false, false, 0, 0, 0⟩
def sender : Qp := { aQp with nextPsn := 101, sent := [sentOf 100 (.item 0)] }
def readQp : Qp := { aQp with reads := [⟨100, .item 0, 0, 64, 0, some 0, [], false⟩] }
def awaitQp : Qp := { aQp with awaits := [⟨0, .item 0, 128, 0, some 0, []⟩] }

theorem wit_acknowledged : FrameClear (granting aQp []) (pkt 16) 7 aQp ∧
    FrameClear (granting sender [(0, dieItem)]) (pktOf { hdrOf 17 with address := 1 } (zeros 64)) 7 sender ∧
    sender.sent.find? (fun x => x.psn == 100) = some (sentOf 100 (.item 0)) ∧
    tfind (granting sender [(0, dieItem)]).he.items 0 = some dieItem ∧ dieItem.stage = .active ∧ dieItem.status = 0 ∧
    FrameClear (granting sender [(0, dieItem)]) (pktOf { hdrOf 17 with address := 3 } (zeros 64)) 7 sender ∧
    FrameClear (granting sender [(0, dieItem)]) (pktOf { hdrOf 17 with address := 4 } (zeros 64)) 7 sender ∧
    aQp.state = 1 ∧ fhEnabled (withF [(F.fhSrcCtlEnable, 256 + 16 * 0 + 7, 0)] up) (256 + 16 * 0 + 7) = false ∧
    FrameClear (granting awaitQp []) (pkt 18) 7 awaitQp ∧
    awaitQp.awaits.find? (fun a => a.msn == 0) = some ⟨0, .item 0, 128, 0, some 0, []⟩ :=
  ⟨clear_of (by decide +kernel) rfl (by decide +kernel), clear_of (by decide +kernel) rfl (by decide +kernel), by decide +kernel, by decide +kernel,
    by decide, by decide, clear_of (by decide +kernel) rfl (by decide +kernel), clear_of (by decide +kernel) rfl (by decide +kernel), by decide,
    by decide +kernel, clear_of (by decide +kernel) rfl (by decide +kernel), by decide +kernel⟩

theorem wit_credits : FrameClear (granting aQp []) (pkt 19) 7 aQp ∧ FrameClear (granting aQp []) (pkt 32) 7 aQp ∧
    FrameClear (granting aQp []) (pkt 33) 7 aQp ∧ FrameClear (granting aQp []) (pktOf { hdrOf 34 with msgLen := 1 } (zeros 64)) 7 aQp ∧
    FrameClear (granting readQp [(0, dieItem)]) (pktOf { hdrOf 5 with address := 0 } (zeros 64)) 7 readQp ∧
    readQp.reads.find? (fun r => r.psn == 100) = some ⟨100, .item 0, 0, 64, 0, some 0, [], false⟩ ∧ ivCovers 64 (ivAdd 0 64 []) = true :=
  ⟨clear_of (by decide +kernel) rfl (by decide +kernel), clear_of (by decide +kernel) rfl (by decide +kernel),
    clear_of (by decide +kernel) rfl (by decide +kernel), clear_of (by decide +kernel) rfl (by decide +kernel),
    clear_of (by decide +kernel) rfl (by decide +kernel), by decide +kernel, by decide +kernel⟩

/-- `up` with label 0 of path set 0 on port 0. -/
def pathed (b : Block) : Block := rput .ftPathActive 0 (1#64 <<< 63) b
def sendItem : Item :=
  { oneItem 2 with stage := .active, begun := true, pieces := [(0, zeros 64)], rd := 64,
                   src := { (oneItem 2).src with spans := [⟨0, 64, .die 0 0x1000, none⟩], upTo := 64 },
                   dst := { (oneItem 2).dst with spans := [⟨0, 64, .remote 9 0x2000, none⟩], upTo := 64 } }
def sending : Block := pathed (busy [(0, sendItem)] aQp)
def resender : Qp := { sender with sent := [{ sentOf 100 (.item 0) with resend := true }] }
def resending : Block := pathed (busy [(0, sendItem)] resender)

/-- QP 3 has a packet ready too, on the same tile, and its item came first. -/
def rivals : Block := modFt (fun t => { t with qps := [(7, aQp), (19, aQp)] })
  (pathed (busy [(0, { sendItem with desc := desc 2 64 0x1000 0x2000 19 0x3000 5 1 }), (1, sendItem)] aQp))

theorem wit_packet_send : (∃ d, readyDraft sending 0 7 aQp = some d ∧ d.resend = none ∧ d.enc = false ∧ granted sending 0 7 d = true ∧
      draftLabel sending aQp d 0 = some 0) ∧
    (∃ d, readyDraft resending 0 7 resender = some d ∧ d.resend = some 100 ∧ d.enc = false ∧ granted resending 0 7 d = true ∧
      draftLabel resending resender d 0 = some 0) ∧ readyDraft (busy [] aQp) 0 7 aQp = none ∧ tfind up.ft.qps 7 = none ∧
    resender.sent.find? (fun x => x.psn == 100) = some { sentOf 100 (.item 0) with resend := true } := by
  refine ⟨⟨(readyDraft sending 0 7 aQp).getD ⟨.dead, hdrZero, [], 0, 0, 0, Ev.zero, false, false, 0, none, none⟩, ?_⟩,
    ⟨(readyDraft resending 0 7 resender).getD ⟨.dead, hdrZero, [], 0, 0, 0, Ev.zero, false, false, 0, none, none⟩, ?_⟩, by decide +kernel, rfl, rfl⟩
  · decide +kernel
  · decide +kernel

theorem wit_not_granted : ∃ d, readyDraft rivals 0 7 aQp = some d ∧ granted rivals 0 7 d = false := by
  refine ⟨(readyDraft rivals 0 7 aQp).getD ⟨.dead, hdrZero, [], 0, 0, 0, Ev.zero, false, false, 0, none, none⟩, ?_⟩
  decide +kernel

/-- The packet that PACKET_SEND sends of an item's 64 bytes has the QP's next PSN and is FIRST and LAST (R342). -/
theorem test_packet_send : (match exec (.packetSend 7 0) (st sending) with
    | .next t => (tfind t.blk.ft.qps 7).map (fun q => (q.nextPsn, q.sent.map (fun x => (x.psn, x.hdr.payloadLen)))) | _ => none) =
    some (101, [(100, 64)]) := by decide +kernel

def skipQp : Qp := { aQp with skips := [(100, 1)] }

theorem wit_rto : rtoDue (timeTo (10 ^ 9) up) sender (sentOf 100 (.item 0)) = true ∧ (sentOf 100 (.item 0)).resend = false ∧
    (sentOf 100 (.item 0)).lossPitch = none ∧ rtoDue up sender (sentOf 100 (.item 0)) = false := by decide +kernel

theorem wit_timers : skipQp.skips.find? (fun e => e.1 == 100) = some (100, 1) ∧ sender.skips.find? (fun e => e.1 == 100) = none ∧
    sender.sent.find? (fun x => x.psn == 100 && !x.rcvd) = some (sentOf 100 (.item 0)) ∧
    sender.sent.find? (fun x => x.psn == 100 && !x.rcvd && !x.roped) = some (sentOf 100 (.item 0)) ∧
    aQp.sent.find? (fun x => x.psn == 100 && !x.rcvd && !x.roped) = none ∧
    readQp.reads.find? (fun r => r.psn == 100 && r.ackedAt.isSome) = some ⟨100, .item 0, 0, 64, 0, some 0, [], false⟩ ∧
    dQp sendItem.desc = 7 ∧ opNeedsQp (dOpcode sendItem.desc) = true ∧ dCard sendItem.desc = 0 ∧ noPath (busy [] aQp) aQp = true ∧
    ({ sendItem with rd := 0, cons := 0 } : Item).begun = true ∧
    (awaitQp.awaits.any (fun a => a.msn == 0 && a.rcvdAt.isSome)) = true ∧ ({ aQp with sinceAck := 1 } : Qp).sinceAck ≠ 0 ∧
    tfind (busy [] aQp).ft.qps 7 = some aQp := by decide +kernel

/-- A request of `readQp` of which a range is to be asked for again. -/
def lateRead : Rreq := ⟨100, .item 0, 0, 64, 0, some 0, [(0, 16)], true⟩

theorem wit_read_again : ivGaps (2 * lateRead.got.length + 2) 0 lateRead.len lateRead.got = [(16, 48)] ∧
    (againDraft (busy [(0, sendItem)] aQp) aQp { lateRead with got := [(16, 48)] }).isSome = false ∧
    (againDraft (busy [(0, { sendItem with src := sendItem.dst })] aQp) aQp lateRead).isSome = true := by decide +kernel

def cooled : Block := modFt (fun t => { t with labels := [(0, { labelUnlisted with cooledTo := some 1000 })] }) up

/-- A label that cools and one that does not; a port whose hold runs (10 ms by the dictionary) and one whose hold has passed. -/
theorem wit_holds : labelCooled cooled 0 0 = true ∧ labelCooled up 0 0 = false ∧
    up.now < (portOf up 0).upAt + dict up 0x2120 6 * 1000000 ∧
    (portOf (timeTo (10 ^ 10) up) 0).upAt + dict (timeTo (10 ^ 10) up) 0x2120 6 * 1000000 ≤ (timeTo (10 ^ 10) up).now := by decide +kernel

/-- A port with seven NAKs of one number, one with replay, and a block with a schedule, at a pitch boundary and past it. -/
theorem wit_replay : (portOf (modPort 0 (fun x => { x with nak := (5, 7) }) up) 0).nak = (5, 7) ∧
    fon (withF [(F.ftPortStatusLlr, 0, 1)] up) F.ftPortStatusLlr 0 = true ∧ fon up F.ftPortStatusLlr 0 = false ∧
    llrCovers up 0 clsMg = false ∧ (pitched up).ps.sched.isSome = true ∧ (pitched up).ps.start = (pitched up).now ∧
    (pitched (timeTo 5 up)).ps.start ≠ (pitched (timeTo 5 up)).now ∧ up.ps.sched = none ∧
    up.now < (rget (rput .ftEpochAt 0 9#64 up) .ftEpochAt 0).toNat := by decide +kernel

theorem wit_ports : portUp up 0 = true ∧ (portOf up 0).wait = [] ∧ portHere up 23 = true ∧ portUp up 23 = false ∧
    fon up F.idNodeValid 0 = true ∧ (portOf up 0).nak.2 < 7 ∧
    (portOf (modPort 0 (fun x => { x with rxUnacked := 1 }) up) 0).rxUnacked ≠ 0 ∧
    portUp (modPort 0 (fun x => { x with rxUnacked := 1 }) up) 0 = true ∧ Lands up .mgmt .ftEpochCtl 0 0 up ∧
    fon up F.ftEpochCtlPending 0 = false ∧ fon up F.ftEpochCtlRetiring 0 = false ∧
    fon (withF [(F.ftEpochCtlPending, 0, 1)] up) F.ftEpochCtlPending 0 = true ∧
    Lands (withF [(F.ftEpochCtlRetiring, 0, 1)] up) .mgmt .ftEpochCtl 0 0 (withF [(F.ftEpochCtlRetiring, 0, 1)] up) ∧
    (rget up .ftEpochAt 0).toNat ≤ up.now :=
  ⟨by decide +kernel, by decide +kernel, by decide +kernel, by decide +kernel, by decide +kernel, by decide +kernel, by decide +kernel,
    by decide +kernel, lands_of (by decide +kernel), by decide +kernel, by decide +kernel, by decide +kernel, lands_of (by decide +kernel),
    by decide +kernel⟩

theorem wit_checked : portUp up 23 = false ∧ (pkt 1).crc ≠ packetCrc { hdrOf 1 with psn := 101 } (zeros 64) [] ∧
    FrameWhole up { pkt 1 with ifaceId := 6 } ∧ ({ pkt 1 with ifaceId := 6 } : Frame).ifaceId ≠ selfNode up ∧ portUp up 0 = true ∧
    FrameFor (busy [] { aQp with resident := false }) (pkt 1) 7 { aQp with resident := false } ∧
    FrameFor (busy [] aQp) (pkt 1) 7 aQp ∧ FrameSound up (pkt 1) ∧ (rxPool up (homeTile 7) 2).isSome = true ∧ tfind up.ft.qps 7 = none ∧
    FrameSound up (pktOf { hdrOf 48 with dstQp := 0 } (zeros 64)) ∧
    allFenced (withF ((List.range 12).map (fun t => (F.ceEngineStatusFenced, t, 1))) up) = true :=
  ⟨by decide +kernel, by decide +kernel, (sound_of (b := up) (f := pkt 1) (by decide +kernel)).1, by decide +kernel, by decide +kernel,
    ⟨sound_of (by decide +kernel), rfl, by decide +kernel, rfl, rfl, rfl, by decide +kernel, rfl⟩,
    (clear_of (q := aQp) (by decide +kernel) rfl (by decide +kernel)).1, sound_of (by decide +kernel), by decide +kernel, rfl,
    sound_of (by decide +kernel), by decide +kernel⟩

def downLabel : Block := pathed (modFt (fun t => { t with labels := [(0, { labelUnlisted with down := true })] }) (busy [] aQp))

theorem wit_label_probe : aQp.pathSet = 0 ∧ aQp.enc = false ∧ entValid downLabel (pathEntry downLabel (epochNow downLabel % 2) 0 0) = true ∧
    (labelState downLabel 0 0).down = true ∧ portUp downLabel (entPort (pathEntry downLabel (epochNow downLabel % 2) 0 0)) = true ∧
    (portOf downLabel 0).held = false ∧ (labelState up 0 63).down = false ∧ aQp.resident = true ∧
    linePoisoned downLabel 0 7 = false ∧ ({ aQp with resident := false } : Qp).resident = false := by decide +kernel

/-- A Sync that passes its checks goes to the management core with its ingress time; one with a bad FCS does not (R325, R383, R384). -/
theorem test_ptp_frame : (match exec (.ptpFrame ⟨0, true, true, none, 319, true, .sync, [1#8]⟩) (st (timeTo 5000 up)) with
      | .next t => t.blk.out.head? | _ => none) = some (.ptp 0 .sync [1#8] (some (5000 - dict up 0x2104 0))) ∧
    (match exec (.ptpFrame ⟨0, false, true, none, 319, true, .sync, [1#8]⟩) (st up) with
      | .next t => (t.blk.out.length, fget t.blk F.ftRxErrorsCrc 0) | _ => (1, 0)) = (0, 1) := by decide +kernel

/-! ### Witnesses: keys, entropy, time and pitches -/

def keyUp (k : KeySlot) : Block := modCe (fun c => { c with slots := [(0, k)] }) (busy [] aQp)

theorem wit_key_commands : Lands up .mgmt .ceKeyCmd 0 0 up ∧ Names .full F.ceKeyCmdOp ∧
    keyPresent (withF [(F.ceKeySelSlot, 256, 65535)] up) (fget (withF [(F.ceKeySelSlot, 256, 65535)] up) F.ceKeySelSlot 256) = true ∧
    keyPresent (withF [(F.ceKeySelSlot, 256, 65535)] { up with fuses := { Fuses.blank with variant := 6 } }) 65535 = false ∧
    (keySlotOf up 0).state = 0 ∧ (keySlotOf (keyUp ⟨1, 5, none, 0, 0⟩) 0).state = 1 ∧
    stageOk (keyUp ⟨2, 5, none, 0, 7⟩) 0 200 = true ∧ stageOk up 0 200 = false :=
  ⟨lands_of (by decide +kernel), names_full _, by decide +kernel, by decide +kernel, by decide +kernel, by decide +kernel, by decide +kernel,
    by decide +kernel⟩

theorem wit_key_switch : (keySlotOf (keyUp ⟨2, 5, some (9, 100, 100), 65535, 7⟩) 0).next = some (9, 100, 100) ∧
    (keySlotOf (keyUp ⟨2, 5, some (9, 100, 100), 65535, 7⟩) 0).state = 2 ∧
    tfind (keyUp ⟨2, 5, some (9, 100, 100), 65535, 7⟩).ft.qps (keySlotOf (keyUp ⟨2, 5, some (9, 100, 100), 65535, 7⟩) 0).qp = some aQp ∧
    psnBefore (unaOf aQp) 100 = false ∧ psnBefore aQp.cumNext 100 = false ∧ aQp.reads = [] ∧
    (keyUp ⟨2, 5, some (9, 100, 100), 65535, 7⟩).ft.rx = [] ∧ (keySlotOf up 0).next = none := by decide +kernel

theorem wit_check_slots : unitHere up (.engine 11 true) = true ∧ unitHere up (.ide 1 false) = true ∧ unitHere up (.engine 12 false) = false ∧
    (halfOf up (unitKey (.engine 0 false))).setsA = 2 ∧ (halfOf up (unitKey (.engine 0 false))).setsB = 2 ∧ enState up ≠ 3 ∧
    (halfOf up (unitKey (.engine 0 false))).asked = false ∧
    (halfOf (modHalf 0 (fun h => { h with setsA := 0, asked := true }) up) (unitKey (.engine 0 false))).setsA = 0 := by decide +kernel

def entropy (n : Nat) : Block := withF [(F.enStatusState, 0, n)] up

theorem wit_entropy : enState up = 1 ∧ (∀ x, up.en.passedAt = some x → x + 10 ^ 9 < up.now) ∧ enState (entropy 2) = 2 ∧
    RetestResult.kat ≠ .pass ∧ enState (entropy 3) = 3 ∧ Lands (entropy 3) .mgmt .enCtl 0 0 (entropy 3) ∧ Names .full F.enCtlRestart ∧
    (modEn (fun e => { e with queue := [.seeds 3] }) up).en.queue = [.seeds 3] ∧ up.en.sinceReseed + 1 < 2 ^ 16 ∧
    (halfOf (modHalf 0 (fun h => { h with setsA := 1, setsB := 1, asked := true }) up) 0).setsA = 1 ∧
    (halfOf (modHalf 0 (fun h => { h with setsA := 1, setsB := 1, asked := true }) up) 0).setsB = 1 := by
  refine ⟨by decide +kernel, ?_, by decide +kernel, by decide, by decide +kernel, lands_of (by decide +kernel), names_full _, rfl, by decide,
    by decide +kernel, by decide +kernel⟩
  intro x h
  cases (show none = some x from h)

theorem wit_time : timeState (withF [(F.psStatusTimeState, 0, 1)] up) = 1 ∧ timeState (withF [(F.psStatusTimeState, 0, 2)] up) ≠ 1 := by
  decide +kernel

/-- A pitch clock in a phase, with a pitch that began at 0. -/
def inPhase (n : Nat) : Block :=
  modPs (fun p => { p with sched := some { aSched with cards := [], lists := [] }, phase := n, ropedEnd := if n = 0 then none else some 21000 }) up

theorem wit_phases : (inPhase 0).ps.phase = 0 ∧ (inPhase 1).ps.phase = 1 ∧ (inPhase 1).ps.ext = false ∧
    ropedDone (inPhase 1) { aSched with cards := [], lists := [] } = true ∧ (inPhase 2).ps.phase = 2 ∧ (inPhase 2).ps.ropedEnd = some 21000 ∧
    (inPhase 3).ps.phase = 3 ∧ swapNext (inPhase 3) { aSched with cards := [], lists := [] } = false ∧
    (inPhase 0).ps.sched = some { aSched with cards := [], lists := [] } := by decide +kernel

/-- The roped phase of `aSched` is not done while a round of the pitch has not released. -/
def openRound : Round := { newRound 0 0 1 with items := [0], live := [0] }
def ropedUp : Block := modPs (fun p => { p with sched := some aSched, rounds := [openRound], phase := 1 }) up

theorem wit_extension : ropedUp.ps.phase = 1 ∧ ropedUp.ps.ext = false ∧ ropedDone ropedUp aSched = false := by decide +kernel

def waitingRound : Round := { newRound 0 0 1 with due := true, items := [0], live := [0] }
def sendOnly : Card := { aCard with recv := false, dep0 := 0, dep1 := 0 }
def releaseUp (r : Round) : Block :=
  modPs (fun p => { p with sched := some { aSched with cards := [(0, sendOnly)] }, rounds := [r], phase := 1 })
    (withF [(F.psStatusTimeState, 0, 0)] <| busy [(0, { oneItem 2 with stage := .active, begun := true })] aQp)

theorem wit_release : (cardAt (releaseUp waitingRound) (schedGen (releaseUp waitingRound)) 0) = some ({ aSched with cards := [(0, sendOnly)] }, sendOnly) ∧
    roundWaiting (releaseUp waitingRound) 0 = some waitingRound ∧
    roundReady (releaseUp waitingRound) { aSched with cards := [(0, sendOnly)] } sendOnly waitingRound = true ∧ sendOnly.recv = false ∧
    roundReady (releaseUp { waitingRound with due := false }) { aSched with cards := [(0, sendOnly)] } sendOnly
      { waitingRound with due := false } = false := by decide +kernel

theorem wit_abandon : (∀ r, r ∈ up.ps.rounds → r.card = 0 → r.k = 1 → r.settled = true) ∧ ropedUp.ps.rounds = [openRound] ∧
    openRound.settled = false ∧ openRound.abandoned = false ∧ cardAt { ropedUp with now := 10 ^ 9 } openRound.gen 0 = some (aSched, aCard) ∧
    abandonAt aSched aCard 1 ≤ 10 ^ 9 := by
  refine ⟨?_, by decide +kernel, rfl, rfl, by decide +kernel, by decide +kernel⟩
  intro r h
  cases (show r ∈ [] from h)

theorem wit_swap : Lands up .mgmt .psSwapCtl 0 0 up ∧ Names .full F.psSwapCtlSwap ∧ (variant up).pitch = true ∧ swapPending up = false ∧
    swapRetiring up = false ∧ swapPending (withF [(F.psSwapCtlPending, 0, 1)] up) = true ∧
    (modPs (fun p => { p with checking := true }) up).ps.checking = true ∧ up.ps.staged = none ∧
    (modPs (fun p => { p with staged := some aSched }) up).ps.staged = some aSched ∧ up.ps.sched = none :=
  ⟨lands_of (by decide +kernel), names_full _, rfl, by decide +kernel, by decide +kernel, by decide +kernel, rfl, rfl, rfl, rfl⟩

/-- With the lengths of reset a schedule of no cards passes; a card that cannot be read is refused with ERR 2 (R412). -/
theorem wit_check_done : schedError up ⟨[], [], []⟩ (shadowSched up ⟨[], [], []⟩) = (0, 0) ∧
    schedError (withF [(F.psSchedBaseCount, 0, 1)] up) ⟨[], [], []⟩ (shadowSched (withF [(F.psSchedBaseCount, 0, 1)] up) ⟨[], [], []⟩) = (2, 0) := by
  decide +kernel

/-! ### Witnesses: host ports -/

theorem wit_config : hostUp (Block.empty Fuses.blank) 0 = false ∧ hostUp up 1 = true ∧
    cfgRetry (modHp (fun h => { h with retry := [1] }) up) 1 = true ∧ cfgRetry (hostTlp 0 up) 0 = false ∧
    fnEnabled (hostTlp 0 up) (128 * 0 + 5) = false ∧ fnEnabled (hostTlp 0 up) (128 * 0 + 4) = true := by decide +kernel

theorem wit_bus_master : fnEnabled up 0 = true ∧ bmeOn up 0 = true ∧ bmeOn up 1 = false ∧ fnEnabled up 1 = true ∧
    fnEnabled up 120 = false ∧ inD3 up 0 = false ∧ inD3 (cfgPut 0 0x44 3#32 up) 0 = true ∧ hostUp (cfgPut 0 0x44 3#32 up) 0 = true ∧
    cfgBit up (128 * 0) 0x04 1 = true ∧ cfgBit up (128 * 0) 0x368 3 = true ∧ cfgBit up (128 * 1) 0x04 1 = false ∧
    cfgBit up (128 * 1) 0x368 3 = false ∧ up.hp.tdi = [] := by decide +kernel

def l1Up : Block := cfgPut 0 0x70 2#32 (withF [(F.hpPmCtlL1Allow, 0, 1), (F.hpPmCtlL0pAllow, 0, 1), (F.hpPortStatusRate, 0, 6),
  (F.hpPortStatusWidth, 0, 16)] up)

/-- A BAR of a port whose link is up can take another size while it is not enabled, and a size that is not offered. -/
theorem wit_bar_size : hostUp up 1 = true ∧ cfgBit up (128 * 1) 0x04 1 = false ∧ ¬ (10 ≤ 9 ∧ 9 ≤ 18) ∧ ¬ (8 ≤ 13 ∧ 13 ≤ 12) ∧ 10 ≤ 18 ∧ 8 ≤ 12 ∧
    hostUp (Block.empty Fuses.blank) 1 = false := by decide +kernel

theorem wit_low_power : hostUp l1Up 0 = true ∧ fon l1Up F.hpPmCtlL1Allow 0 = true ∧ cfgBit l1Up (128 * 0) 0x70 1 = true ∧
    l1Up.he.items = [] ∧ l1Up.hp.wins = [] ∧ fget l1Up F.hpPortStatusLstate 0 ≤ 1 ∧ fon l1Up F.hpPmCtlL0pAllow 0 = true ∧
    6 ≤ fget l1Up F.hpPortStatusRate 0 ∧ cfgBit (cfgPut 0 0x318 8#32 l1Up) (128 * 0) 0x318 3 = true ∧
    4 < fget l1Up F.hpPortStatusWidth 0 ∧ portPresent up 1 = true ∧ 1 ∉ up.hp.perst ∧
    portPresent { up with fuses := { Fuses.blank with variant := 6 } } 1 = false := by decide +kernel

def flring : Block := modHp (fun h => { h with flr := [1] }) up

theorem wit_resets : flrActive flring (128 * 0 + 1) = true ∧ flrActive up 1 = false ∧ fon up F.hpPortCtlPerstBlock 0 = false ∧
    fon (withF [(F.hpPortCtlPerstBlock, 0, 1)] up) F.hpPortCtlPerstBlock 0 = true ∧ hostUp up 0 = true ∧
    hostUp (Block.empty Fuses.blank) 1 = false := by decide +kernel

/-- BAR4 window 1 of the PF of HP0: 64 KiB at 0x7000, readable, of partition 0. -/
def winUp (ctl : BitVec 64) : Block := modHp (fun h => { h with windows := [(1, ⟨0x7000, 0x10000, ctl⟩)] }) up

theorem hears_of {b0 : Block} {fn : Nat} (h : (hostUp b0 (fn / 128) && !ideOff b0 fn && (postQueue b0 (fn / 128)).isEmpty && !stopped (hostTlp (fn / 128) b0) && mseOn (hostTlp (fn / 128) b0) fn
      && !inD3 (hostTlp (fn / 128) b0) (fn / 128) && (fn % 128 == 0 || (vfPart (hostTlp (fn / 128) b0) fn).isSome)) = true) :
    BarHears b0 fn (hostTlp (fn / 128) b0) := by
  simp only [Bool.and_eq_true, Bool.not_eq_true', Bool.or_eq_true, beq_iff_eq, List.isEmpty_iff] at h
  obtain ⟨⟨⟨⟨⟨⟨link, ide⟩, none⟩, run⟩, mse⟩, d0⟩, vf⟩ := h
  exact ⟨link, ide, none, rfl, run, mse, d0, vf.resolve_left⟩

theorem wit_windows :
    let b := hostTlp 0 (winUp (BitVec.ofNat 64 (2 ^ 63 + 2)))
    let k := winBits b 0
    BarHears (winUp (BitVec.ofNat 64 (2 ^ 63 + 2))) (128 * 0 + 0) b ∧ BarHears up (128 * 0 + 1) (hostTlp 0 up) ∧
    tfind b.hp.windows (64 * 0 + 2 ^ k / 2 ^ k) = some ⟨0x7000, 0x10000, BitVec.ofNat 64 (2 ^ 63 + 2)⟩ ∧
    (BitVec.ofNat 64 (2 ^ 63 + 2)).getLsbD 63 = true ∧ (2 ^ k + 0xFFFC) % 2 ^ k + 4 ≤ (if 0x10000 < 2 ^ k then 0x10000 else 2 ^ k) ∧
    (if 0x10000 < 2 ^ k then 0x10000 else 2 ^ k) < (2 ^ k + 0xFFFD) % 2 ^ k + 4 ∧ tfind (hostTlp 0 up).hp.windows 0 = none :=
  ⟨hears_of (by decide +kernel), hears_of (by decide +kernel), by decide +kernel, by decide +kernel, by decide +kernel, by decide +kernel, by decide +kernel⟩

def winRead : WinAcc := ⟨0, 0, true, 0, 8, 0x7000, 0, 0, 0, 2, [], rngOf 0x7000 8 .read, none, 0, [], [], none, [], false, false⟩

/-- A BAR4 write that the landing buffer does not take. -/
theorem wit_landing : landingSize < landingBytes up 0 + (List.replicate (landingSize + 1) 0#8).length ∧ hostUp up 0 = true ∧
    landingBytes up 0 + (zeros 4).length ≤ landingSize :=
  ⟨by rw [List.length_replicate]; exact Nat.lt_of_lt_of_le (Nat.lt_succ_self _) (Nat.le_add_left _ _), by decide +kernel, by decide +kernel⟩

/-- A QP that is not there belongs to no other; QP 7 of partition 1 is another's for VF 1 of HP0, which partition 0 holds, and QP 7 of
partition 0 for the PF of HP0 where HP1 manages that partition. -/
theorem wit_qp_mine : QpMine up (.pf 0) 7 ∧ ¬ QpMine (busy [] { aQp with part := 1 }) (.vf 0 1) 7 ∧
    ¬ QpMine (withF [(F.ptPartCfgMgrPort, 0, 1)] (busy [] aQp)) (.pf 0) 7 := by
  refine ⟨(fun x h => by cases (show none = some x from h)), fun h => ?_, fun h => ?_⟩
  · exact absurd (h _ (show _ = some { aQp with part := 1 } from rfl)) (by decide +kernel)
  · exact absurd (h _ (show _ = some aQp from rfl)) (by decide +kernel)

/-- DOE Discovery of index 0 names the next index; the data object stands in the mailbox of HP0 (R433). -/
theorem wit_doe : (tget ([], []) (modHp (fun p => { p with doe := [(0, ([1#32, 3#32, BitVec.ofNat 32 0], []))] }) up).hp.doe 0).1 =
    [1#32, 3#32, BitVec.ofNat 32 0] := rfl

theorem wit_window_control : tfind (modHp (fun h => { h with wins := [(0, winRead)] }) up).hp.wins 0 = some winRead ∧
    winRead.answered = false ∧ tfind up.hp.wins 0 = none ∧ Lands up (.pf 0) .hpWinCtl 63 63 (accessArrive (.pf 0) false up) ∧
    owns (accessArrive (.pf 0) false up) (.pf 0) (F.hpWinCtlPartition.of (written (accessArrive (.pf 0) false up) .hpWinCtl 63 0#64 (halfMask .full))) = true ∧
    owns (withF [(F.ptPartCfgMgrPort, 0, 1)] up) (.pf 0) 0 = false ∧ Lands up (.vf 0 1) .hpWinCtl 3 (64 * 1 + 3) (accessArrive (.vf 0 1) false up) :=
  ⟨rfl, rfl, rfl, lands_of (by decide +kernel), by decide +kernel, by decide +kernel, lands_of (by decide +kernel)⟩

def ideUp : Block := modHp (fun h => { h with insecure := [1] })
  (modCe (fun c => { c with ideKeys := [(64 * 0 + ideSlot 0 0 0 1, 5#256)], ideSet := [(0, 1)] }) up)

theorem wit_ide : (variant up).cipher = true ∧ portPresent up 0 = true ∧ (tfind ideUp.ce.ideKeys (64 * 0 + ideSlot 0 0 0 1)).isSome = true ∧
    tfind up.ce.ideKeys (64 * 0 + ideSlot 4 2 1 1) = none ∧ tfind ideUp.ce.ideSet (32 * 0 + 6 * 0 + 2 * 0 + 0) = some 1 ∧
    8 * 0 + 0 ∉ up.hp.insecure ∧ 8 * 0 + 1 ∈ ideUp.hp.insecure := by decide +kernel

theorem wit_tdi : fnEnabled up (128 * 0 + 1) = true ∧ (128 * 0 + 1) % 128 ≠ 0 ∧ tdiOf up 1 = 0 ∧
    tdiOf (modHp (fun h => { h with tdi := [(1, 1)] }) up) 1 = 1 := by decide +kernel

/-! ### Witnesses: partitions -/

theorem pt_of {b0 : Block} {op : Nat} {val : BitVec 64} {p : Nat} (h : (landsB b0 .mgmt .ptCmd 0 256
      && decide (p = qbits (carry F.ptCmdOp op val &&& halfMask .full) 51 48) && !fon b0 F.ptCmdStatusBusy 256) = true) :
    PtIssues b0 .mgmt op .full val b0 (carry F.ptCmdOp op val &&& halfMask .full) p := by
  simp only [Bool.and_eq_true, Bool.not_eq_true', decide_eq_true_eq] at h
  exact ⟨lands_of h.1.1, names_full _, rfl, h.1.2, h.2⟩

def partWord (p : Nat) : BitVec 64 := BitVec.ofNat 64 (p * 2 ^ 48)
/-- `up` with partition 1 in a state. -/
def part1 (n : Nat) : Block := withF [(F.ptPartStatusState, 1, n), (F.ptPartCfgMgrPort, 1, 0)] up

/-- Partition 2 under a RESET of the bank of HP0's PF. -/
def commanded : Block := modPt (fun t => { t with cmds := [(2, { resetCmd false with bank := some 0 })] }) (resetting false)

/-- Each command of PT_CMD issues for partition 1, and none is refused in a state that takes it. -/
theorem wit_partition_commands : ptOpOf 1 = some .bind ∧ PtIssues (part1 0) .mgmt 1 .full (partWord 1) (part1 0) (carry F.ptCmdOp 1 (partWord 1) &&& halfMask .full) 1 ∧
    ptTaken (part1 0) 1 = false ∧ ptTaken (resetting false) 2 = false ∧ ptTaken commanded 2 = true ∧
    PtIssues commanded .mgmt 5 .full (partWord 2) commanded (carry F.ptCmdOp 5 (partWord 2) &&& halfMask .full) 2 ∧
    ptRefusal (resetting false) .mgmt .reset 2 false 0 = 2 ∧
    ptRefusal (part1 1) .mgmt .park 1 false 0 = 0 ∧ ptRefusal (part1 1) .mgmt .reset 1 false 0 = 0 ∧
    partPresent (part1 0) 1 = true ∧ partPresent { up with fuses := { Fuses.blank with variant := 6 } } 15 = false ∧
    ptRefusal (part1 1) .mgmt .release 1 false 0 = 0 ∧ ptRefusal (part1 1) .mgmt .bind 1 false 0 ≠ 0 ∧
    Lands (withF [(F.ptCmdStatusBusy, 256, 1)] up) .mgmt .ptCmd 0 256 (withF [(F.ptCmdStatusBusy, 256, 1)] up) :=
  ⟨rfl, pt_of (by decide +kernel), by decide +kernel, by decide +kernel, by decide +kernel, pt_of (by decide +kernel), by decide +kernel,
    by decide +kernel, by decide +kernel, by decide +kernel, by decide +kernel, by decide +kernel, by decide +kernel, lands_of (by decide +kernel)⟩

/-- `part1` with VF 2 staged in the bank of the management core for a BIND, REBIND or ADOPT. -/
def staging (n : Nat) : Block := rput .ptStageVf (4 * 256) 2#64 (part1 n)

theorem wit_binding_commands : ptRefusal (staging 0) .mgmt .bind 1 false 0 = 0 ∧ ptRefusal (staging 1) .mgmt .rebind 1 false 0 = 0 ∧
    ptRefusal (staging 4) .mgmt .adopt 1 false 0 = 0 := by decide +kernel

def moverBank : Block := withF [(F.ptCmdArgArg, 256, 2)] (part1 0)

theorem wit_recompose : PtIssues moverBank .mgmt 7 .full 0#64 moverBank (carry F.ptCmdOp 7 0#64 &&& halfMask .full) 0 ∧
    (List.range 16).filter (fun p => bit (fget moverBank F.ptCmdArgArg (bankOf .mgmt)) p) = [1] ∧
    ([1].any (ptTaken moverBank)) = false ∧ recomposeRefusal moverBank .mgmt false [1] = 0 ∧
    recomposeRefusal moverBank .mgmt true [1] ≠ 0 :=
  ⟨pt_of (by decide +kernel), by decide +kernel, by decide +kernel, by decide +kernel, by decide +kernel⟩

def ptCmdUp (op : PtOp) (n : Nat) : Block :=
  modPt (fun t => { t with cmds := [(1, ⟨op, none, false, [], [], [(1, 16, 64)], 0, 0, [], [], []⟩)] }) (part1 n)

theorem wit_partition_deadlines : partState up 15 ≠ 5 ∧ partState (ptCmdUp .reset 5) 1 = 5 ∧
    (tfind (ptCmdUp .reset 5).pt.cmds 1).map (·.op) = some .reset ∧ (tfind (ptCmdUp .reset 5).pt.cmds 1).map (·.gone) = some [] ∧ 1 ∉ (resetCmd false).gone ∧ 1 ∈ ({ resetCmd false with gone := [1] } : PtCmd).gone ∧
    (tfind (ptCmdUp .release 5).pt.cmds 1).map (·.op) = some .release ∧ partState (ptCmdUp .rebind 2) 1 = 2 := by decide +kernel

def belayed : Block := modSq (fun q => { q with rings := [(4096, { hostRing with owner := 2 })] })
  (withF [(F.ptVfMapValid, 2, 1), (F.ptVfMapPartition, 2, 1)] (modPt (fun t => { t with cmds := t.cmds.map (fun e => (e.1, { e.2 with leaving := [2] })) }) (ptCmdUp .park 2)))

theorem wit_handovers : belay (ptCmdUp .rebind 2) 1 = true ∧ partState (ptCmdUp .park 2) 1 = 2 ∧ belay (ptCmdUp .park 2) 1 = true ∧
    belay belayed 1 = false ∧ moving (ptCmdUp .recompose 2) = some (1, ⟨.recompose, none, false, [], [], [(1, 16, 64)], 0, 0, [], [], []⟩) := by
  decide +kernel

theorem wit_mailboxes : Lands up .mgmt .ptGrantCtl 255 255 up ∧ Lands up (.vf 0 1) .ptMbxCtl 0 1 (accessArrive (.vf 0 1) false up) ∧
    Names .full F.ptMbxCtlSend ∧ Names .full F.ptMbxCtlAck ∧ fon (accessArrive (.vf 0 1) false up) F.ptMbxCtlPending 1 = false ∧
    fon (withF [(F.ptMbxCtlPending, 1, 1), (F.ptMbxCtlFull, 1, 1)] up) F.ptMbxCtlPending 1 = true ∧
    fon (withF [(F.ptMbxCtlPending, 1, 1), (F.ptMbxCtlFull, 1, 1)] up) F.ptMbxCtlFull 1 = true :=
  ⟨lands_of (by decide +kernel), lands_of (by decide +kernel), names_full _, names_full _, by decide +kernel, by decide +kernel, by decide +kernel⟩

theorem wit_hold : partState (part1 4) 1 = 4 ∧ fget (withF [(F.ptPartCfgHold, 1, 1)] (part1 4)) F.ptPartCfgHold 1 ≠ 0 ∧
    ptRunning (part1 4) 1 = none ∧ partState up 15 ≠ 4 ∧ fget (withF [(F.ptPartCfgHold, 1, 0)] (part1 4)) F.ptPartCfgHold 1 = 0 := by decide +kernel

/-! ### Witnesses: coherence, signals and faults -/

def lineUp (l : CcLine) (c : Option CcCopy) (msgs : List (Nat × Nat × CcMsg)) : Block :=
  modCc (fun x => { x with lines := [(3, l)], copies := match c with | some y => [(16 * 3 + 1, y)] | none => [], msgs := msgs }) up
def owned (k : Nat) : CcLine := ⟨some k, [], none, none, false⟩
def getting : CcOpen := ⟨.getM, 2, [1], none⟩

theorem wit_requests : linePoisoned up (3 % 4) (3 / 4) = false ∧ (lineAt up 3).poisoned = false ∧ tfind up.cc.ncs (ccKey 3 12) = none ∧
    (copyAt (lineUp (owned 1) (some (copyIn .m)) []) 3 1).map (·.st) = some .m ∧ (copyAt up 3 1).map (·.st) = none ∧
    lineAt up 3 = lineIdle ∧ ownerTableFull up 3 = false ∧ fon (withF [(F.ccCtlPushEn, 0, 1)] up) F.ccCtlPushEn 0 = true ∧
    lineOfQp 3 = false ∧ cacheRoom up 3 1 = true ∧ (lineAt (lineUp (owned 5) none []) 3).owner = some 5 ∧
    (lineAt (lineUp (owned 5) none []) 3).busy = none ∧ (lineAt (lineUp (owned 5) none []) 3).reserved = none := by decide +kernel

theorem wit_requests_more : (copyAt (lineUp ⟨none, [1], none, none, false⟩ (some (copyIn .s)) []) 3 1).map (·.st) = some .s ∧
    (lineAt (lineUp ⟨none, [1], none, none, false⟩ (some (copyIn .s)) []) 3).sharers = [1] ∧
    (copyAt (lineUp (owned 1) (some (copyIn .o)) []) 3 1).map (·.st) = some .o ∧
    (copyAt (lineUp (owned 1) (some (copyIn .e)) []) 3 1).map (·.st) = some .e ∧
    (lineAt (lineUp ⟨none, [], some getting, none, false⟩ none []) 3).busy.isSome = true ∧
    (lineAt (lineUp ⟨none, [], none, some 5, false⟩ none []) 3).reserved = some 5 := by decide +kernel

/-- A cache of tile 1 with 2,048 QP contexts, in a state. -/
def fullCache (x : CcState) : Block := modCc (fun c => { c with copies := (List.range 2048).map (fun n => (16 * (4 * n) + 1, copyIn x)) }) up

/-- A cache without room, and what may give way in it: a line in a stable state, or none while an eviction is under way. -/
theorem wit_no_room : (copyAt (fullCache .s) (4 * 5000) 1).map (·.st) = none ∧ cacheRoom (fullCache .s) (4 * 5000) 1 = false ∧
    ccEvicting (fullCache .s) 1 = false ∧ ccVictim (fullCache .s) (4 * 5000) 1 = some (0, .s) ∧ ccEvicting (fullCache .eiA) 1 = true ∧
    ccVictim (fullCache .isD) (4 * 5000) 1 = none ∧ (fullCache .s).cc.waiting = [] ∧
    linePoisoned (fullCache .s) (4 * 5000 % 4) (4 * 5000 / 4) = false ∧
    (modCc (fun c => { c with waiting := [(4 * 5000, 1, .getS)] }) (fullCache .s)).cc.waiting.any (fun w => w.1 == 4 * 5000 && w.2.1 == 1) = true := by
  decide +kernel

theorem wit_deliveries : ccFind up 3 1 CcMsg.isFwdGetS = none ∧ ccFind up 3 1 (· == .inv) = none ∧
    ccFind (lineUp (owned 1) (some (copyIn .m)) [(3, 1, .fwdGetS 2)]) 3 1 CcMsg.isFwdGetS = some (.fwdGetS 2) ∧
    ccFind (lineUp (owned 1) (some (copyIn .o)) [(3, 1, .fwdGetM 2)]) 3 1 CcMsg.isFwdGetM = some (.fwdGetM 2) ∧
    ccFind (lineUp (owned 1) (some (copyIn .e)) [(3, 1, .fwdRecall)]) 3 1 (· == .fwdRecall) = some .fwdRecall ∧
    ccFind (lineUp (owned 5) (some (copyIn .s)) [(3, 1, .inv)]) 3 1 (· == .inv) = some .inv ∧
    ccFind (lineUp (owned 5) (some ⟨.isD, true, false, false, [], none⟩) [(3, 1, .nack)]) 3 1 (· == .nack) = some .nack ∧
    ccFind (lineUp (owned 1) (some ⟨.imD, true, true, false, [], none⟩) [(3, 1, .grant)]) 3 1 (· == .grant) = some .grant ∧
    ccFind (lineUp (owned 1) (some ⟨.imD, true, false, true, [], none⟩) [(3, 1, .data false)]) 3 1 (· == .data false) = some (.data false) := by
  decide +kernel

theorem wit_retries : CcState.request .isD = some .getS ∧ CcState.request .imD = some .getM ∧
    (copyAt (lineUp (owned 5) (some ⟨.isD, false, false, false, [], some 100⟩) []) 3 1).map (·.retryAt) = some (some 100) ∧
    ccFind (lineUp (owned 1) (some (copyIn .miA)) [(3, 1, .wbGrant)]) 3 1 (· == .wbGrant) = some .wbGrant ∧
    ccFind (lineUp (owned 1) (some (copyIn .eiA)) [(3, 1, .putAck false)]) 3 1 CcMsg.isPutAck = some (.putAck false) := by decide +kernel

theorem wit_homes : (lineAt (lineUp ⟨none, [1], some getting, none, false⟩ none [(3, 1, .invAck)]) 3).busy = some getting ∧
    ccFind (lineUp ⟨none, [1], some getting, none, false⟩ none [(3, 1, .invAck)]) 3 1 (· == .invAck) = some .invAck ∧
    srem 1 getting.acks = [] ∧ getting.fwd = none ∧ getting.req = .getM ∧ srem 1 (CcOpen.acks ⟨.getM, 2, [1, 4], none⟩) = [4] ∧
    ccFind (lineUp ⟨some 1, [], some ⟨.getS, 2, [], some 1⟩, none, false⟩ none [(3, 1, .fwdDone true true)]) 3 1 CcMsg.isFwdDone =
      some (.fwdDone true true) ∧
    ccFind (lineUp ⟨some 1, [4], some ⟨.putM, 1, [], some 1⟩, none, false⟩ none [(3, 1, .wbData)]) 3 1 (· == .wbData) = some .wbData := by
  decide +kernel

theorem wit_home_timeout : (lineAt up 3).busy = none ∧ ¬(getting.acks = [] ∧ getting.fwd = none) ∧ getting.req ≠ .putM ∧ getting.req ≠ .putO ∧
    3 % 4 = 3 ∧ 3 / 4 / 2 ^ 51 / 4096 = 0 ∧ fon up F.ccPoisonValid 0 = false ∧
    fon (withF [(F.ccPoisonValid, 0, 1)] up) F.ccPoisonValid 0 = true := by decide +kernel

/-- The first software source pending, unmasked and routed to target 16, in a block with nothing else. -/
def signalled : Block := withF [(F.sgSrcCfgTarget, 1984, 16), (F.sgSrcCfgPriority, 1984, 3)]
  (rput .sgPending 31 1#64 (rput .sgMask 31 0#64 (Block.empty Fuses.blank)))

theorem only_pending (b : Block) (h : ∀ k, k < 32 → k ≠ 31 → rget b .sgPending k = 0#64)
    (m : Nat) (hm : m < 2048) (hb : m / 64 = 31 → (rget b .sgPending 31).getLsbD (m % 64) = false) : sgEligible b m = false := by
  have hp : sgPendingBit b m = false := by
    unfold sgPendingBit
    by_cases hk : m / 64 = 31
    · rw [hk]; exact hb hk
    · rw [h (m / 64) (by omega) hk]; exact BitVec.getLsbD_zero
  simp [sgEligible, hp]

theorem wit_claims : ActsFor .mgmt (some 16) 16 512 ∧ Unheld signalled .mgmt ∧ accessReach signalled .mgmt = true ∧ ActsFor (.pf 0) none (sgOwnTarget (.pf 0)).1 (sgOwnTarget (.pf 0)).2 ∧
    sgEligible signalled 1984 = true ∧ sgAims signalled 1984 16 512 = true ∧
    (∀ m, m < 2048 → m ≠ 1984 → sgEligible signalled m = false) ∧
    (∀ n, n < 2048 → sgEligible (Block.empty Fuses.blank) n = false) :=
  ⟨⟨rfl, by decide, rfl, rfl⟩, .inl rfl, rfl, ⟨by decide, rfl⟩, by decide +kernel, by decide +kernel,
    fun m hm hn => only_pending signalled (by decide +kernel) m hm (fun hk => by
      rw [show rget signalled .sgPending 31 = 1#64 by decide +kernel]
      exact (show ∀ k, k < 64 → k ≠ 0 → (1#64).getLsbD k = false by decide +kernel) (m % 64) (by omega) (by omega)),
    fun n hn => only_pending _ (by decide +kernel) n hn (fun _ => by
      rw [show rget (Block.empty Fuses.blank) .sgPending 31 = 0#64 by decide +kernel]; exact BitVec.getLsbD_zero)⟩

def polled : Block := withF [(F.sgSrcCfgTarget, 1984, 19)] signalled
def serving : Block := { signalled with sgServing := [1984] }

theorem wit_completes : Lands serving .mgmt .sgCompleteT 16 16 serving ∧ sgInService serving 1984 = true ∧ sgAims serving 1984 16 512 = true ∧
    sgPendingBit serving 1984 = true ∧ sgMaskBit serving 1984 = false ∧ sgInService signalled 1984 = false ∧
    (sgTarget polled 1984).1 = 19 ∧ sgMay polled .mgmt 1984 = true ∧ sgFixed 1984 = false :=
  ⟨lands_of (by decide +kernel), by decide +kernel, by decide +kernel, by decide +kernel, by decide +kernel, by decide +kernel,
    by decide +kernel, by decide +kernel, by decide +kernel⟩

theorem wit_sources : Lands up .mgmt .sgSrcCfg 2047 2047 up ∧ sgMaskBit (rput .sgMask 31 (BitVec.allOnes 64) up) 2047 = true ∧
    sgAbsent up 0#64 = false ∧ sgAbsent { up with fuses := { Fuses.blank with variant := 6 } } (BitVec.ofNat 64 (11 * 2 ^ 59)) = true ∧
    sgPart 300 ≠ none ∧ sgVfTarget up 0 0#64 = false ∧ sgVfTarget up 0 (BitVec.ofNat 64 (19 * 2 ^ 59)) = true ∧
    sgFixed 2047 = false ∧ sgInService up 2047 = false ∧ sgMay up .mgmt 2047 = true ∧ partPresent up 15 = true ∧
    Lands up .mgmt .sgSwTrigger 0 0 up ∧ F.sgSwTriggerSource.of 1984#64 = 1984 :=
  ⟨lands_of (by decide +kernel), by decide +kernel, by decide +kernel, by decide +kernel, by decide +kernel, by decide +kernel,
    by decide +kernel, by decide +kernel, by decide +kernel, by decide +kernel, by decide +kernel, lands_of (by decide +kernel), by decide +kernel⟩

/-- A VF may change no bit of a word of the block's fault sources. -/
theorem wit_foreign_word : Lands up (.vf 0 1) .sgMask 16 16 (accessArrive (.vf 0 1) false up) ∧
    (∀ n, n < 64 → sgMayBit (accessArrive (.vf 0 1) false up) (.vf 0 1) (64 * 16 + n) = false) :=
  ⟨lands_of (by decide +kernel), by decide +kernel⟩

/-- FAULT_INJECT names a partition that is there, or one that is not; only the management core sees the register. -/
theorem wit_inject : unmappedVf up (.pf 0) = false ∧ accessReach up (.pf 1) = false ∧ Lands up .mgmt .fhInject 0 0 up ∧ Reg.seen .fhInject (.pf 0) = false ∧ Reg.seen .fhInject (.vf 0 1) = false ∧
    (BitVec.ofNat 64 (2 ^ 63 + 511) &&& halfMask .full).getLsbD 63 = true ∧ partPresent up ((511 - 256) / 16) = true ∧
    partPresent { up with fuses := { Fuses.blank with variant := 6 } } 15 = false ∧
    Lands { up with fuses := { Fuses.blank with variant := 6 } } .mgmt .fhInject 0 0 { up with fuses := { Fuses.blank with variant := 6 } } ∧
    (BitVec.ofNat 64 (2 ^ 63) &&& halfMask .lo).getLsbD 63 = false ∧ 176 + 2 * 11 < 200 :=
  ⟨rfl, by decide +kernel, lands_of (by decide +kernel), rfl, rfl, by decide +kernel, by decide +kernel, by decide +kernel, lands_of (by decide +kernel),
    by decide +kernel, by decide⟩

/-- A capture of a source, on rung 1, with its timer running. -/
def escalating (src kind ceiling : Nat) : Block := withF [(F.fhSrcStatusEscalating, src, 1), (F.fhSrcStatusRung, src, 1),
  (F.fhSrcStatusKind, src, kind), (F.fhSrcCtlCeiling, src, ceiling)] up

/-- The next rung that has an effect: of a capture of a ring it is rung 2, of one without ring or partition rung 4, and below that there
is none. -/
theorem wit_expiry : fon (escalating 0 1 4) F.fhSrcStatusEscalating 0 = true ∧ nextRung (escalating 0 1 4) 0 = some 2 ∧
    nextRung (escalating 0 0 4) 0 = some 4 ∧ fon (escalating 32 0 1) F.fhSrcStatusEscalating 32 = true ∧
    nextRung (escalating 32 0 1) 32 = none ∧ fon up F.fhSrcStatusEscalating 0 = false := by decide +kernel

/-- An injected fatal fault of source 249 is captured with class 3 on rung 4, and stops the block (R559, R563, R576). -/
theorem test_inject : (match exec (.faultInject .mgmt .full (BitVec.ofNat 64 (2 ^ 63 + 249))) (st up) with
    | .next t => (fget t.blk F.fhSrcStatusCaptured 249, fget t.blk F.fhSrcStatusClass 249, fget t.blk F.fhSrcStatusRung 249, stopped t.blk)
    | _ => (0, 0, 0, false)) = (1, 3, 4, true) := by decide +kernel

theorem wit_faults : fhClass 0 = some 3 ∧ stopped up = false ∧ fhEnabled up 0 = true ∧ fon up F.fhSrcStatusCaptured 0 = false ∧
    fon (withF [(F.fhSrcStatusEscalating, 511, 1), (F.fhSrcStatusClass, 511, 2)] up) F.fhSrcStatusEscalating 511 = true ∧
    Lands up .mgmt .fhSrcStatus 511 511 up ∧ Lands up (.vf 0 1) .fhSrcStatus 256 256 (accessArrive (.vf 0 1) false up) :=
  ⟨by decide +kernel, by decide +kernel, by decide +kernel, by decide +kernel, by decide +kernel, lands_of (by decide +kernel), lands_of (by decide +kernel)⟩

/-! ### Witnesses: management and observation -/

theorem wit_dictionary : ((some 3).isSome && (sessionOf up .i3c (some 3)).isNone) = true ∧ bindingUp up .i3c none = true ∧
    started up = true ∧ stopped up = false ∧ started State.reset.blk = false ∧ dictEntry (variant up) 0xFFFF 0 = none ∧
    dictNext (variant up) 0xA100 255 = none ∧ dictNext (variant up) 0 0 = some (0x1000, 0) := by decide +kernel

theorem wit_entries : (dictEntry (variant up) 0x2000 0).map (fun e => (e.cls, e.right, e.ty)) = some (.b, .rwp, .u16) ∧
    (dictEntry (variant up) 0xA100 0).map (·.right) = some .ws ∧ (dictEntry (variant up) 0x1000 0).map (fun e => (e.cls, e.right)) = some (.f, .ro) ∧
    (dictEntry (variant up) 0x8000 0).map (·.cls) = some .s ∧ (dictEntry (variant up) 0x9000 0).map (·.cls) = some .v ∧
    entryReach up .i3c 0x2000 0 = true ∧ entryReach up .i3c 0x8000 0 = true := by decide +kernel

theorem wit_set : DRight.permits .rws .fabric false = false ∧ DRight.permits .rw .i3c false = true ∧
    (dictEntry (variant up) 0x2000 0).map (fun e => (e.ty.size, valueOk 0x2000 0 e 7, valueOk 0x2000 0 e e.dflt)) = some (2, true, true) ∧
    (dictEntry (variant up) 0x8000 0).map (fun e => valueOk 0x8000 0 e 9) = some false := by decide +kernel

/-- A value that the live entry takes, and a field that may not change: the target of a source that is not masked (R640). -/
theorem wit_live : (dictEntry (variant up) 0x8000 0).map (fun e => (e.cls == .s, e.right.permits .i3c false, e.ty.size,
      valueOk 0x8000 0 e e.dflt, (liveSet none 0x8000 0 e.dflt e up).isSome)) = some (true, true, 4, true, true) ∧
    (dictEntry (variant up) 0x8207 0xC0).map (fun e => (e.cls == .s, (liveSet none 0x8207 0xC0 (2048 * 16) e
      (rput .sgMask 31 0#64 up)).isNone)) = some (true, true) := by decide +kernel

theorem wit_md : Lands up (.pf 0) .mdCtl 0 0 (accessArrive (.pf 0) false up) ∧ F.mdCtlDone.of 0#64 = 0 :=
  ⟨lands_of (by decide +kernel), by decide +kernel⟩

def sessionUp (o : Bool) : Block := modMd (fun m => { m with sessions := [⟨3, .i3c, o, 0, 0, 0⟩], nextSession := 4 }) up
def fullSessions : Block :=
  modMd (fun m => { m with sessions := [⟨0, .i3c, true, 0, 0, 0⟩, ⟨1, .i3c, true, 0, 0, 0⟩, ⟨2, .i3c, true, 0, 0, 0⟩, ⟨3, .i3c, true, 0, 0, 0⟩] }) up

theorem wit_spdm : spdmUp up .i3c = true ∧ spdmUp (Block.empty Fuses.blank) (.doe 1) = false ∧ enState up ≠ 3 ∧ enState (entropy 3) = 3 ∧ up.en.queue = [] ∧ up.en.asks = [] ∧
    spdmUp (entropy 3) .i3c = true ∧ (measureList up .i3c 0xF0) = none ∧ sessionsHeld fullSessions .i3c = 4 ∧ sessionsHeld up .i3c < 4 ∧
    sessionHere (sessionUp false) .i3c 3 false = true ∧ sessionHere (sessionUp true) .i3c 3 true = true ∧
    sessionHere up .i3c 3 true = false ∧ sessionHere up .i3c 3 false = false := by decide +kernel

theorem wit_measurements : (measureList up .i3c 0xFF).isSome = true := rfl

def sinkUp : Block :=
  withF [(F.tcSinkCtlEnable, 0, 1)] (modTc (fun t => { t with bufs := [(0, [⟨0, List.replicate 4 0#64⟩])] }) (granting aQp []))

theorem wit_trace : Lands up (.pf 0) .tcSinkCtl 0 0 (accessArrive (.pf 0) false up) ∧ Names .full F.tcSinkCtlEnable ∧
    Lands up (.pf 0) .tcDigCfg 0 0 (accessArrive (.pf 0) false up) ∧ Names .full F.tcDigCfgClear ∧ sinkNext up 0 0 = none ∧
    (sinkNext sinkUp 0 0).map (fun e => (e.1, e.2.1.isPort)) = some (1, false) ∧
    Lands up .mgmt .tcFreeze 0 0 up ∧ Lands up (.vf 0 1) .tcFreeze 0 0 (accessArrive (.vf 0 1) false up) ∧
    Lands up .mgmt .tcDumpCtl 0 0 up ∧ Names .full F.tcDumpCtlDump ∧ Lands up .mgmt .tcDumpStatus 1 1 up ∧ Names .full F.tcDumpStatusValid :=
  ⟨lands_of (by decide +kernel), names_full _, lands_of (by decide +kernel), names_full _, by decide +kernel, by decide +kernel,
    lands_of (by decide +kernel), lands_of (by decide +kernel), lands_of (by decide +kernel), names_full _, lands_of (by decide +kernel), names_full _⟩

/-- A write of the lower half of TC_SINK_CTL, of an enabled sink and of one that is not. -/
theorem wit_sink_half : Lands sinkUp (.pf 0) .tcSinkCtl 0 0 (accessArrive (.pf 0) false sinkUp) ∧
    fon (accessArrive (.pf 0) false sinkUp) F.tcSinkCtlEnable 0 = true ∧ fon (accessArrive (.pf 0) false up) F.tcSinkCtlEnable 0 = false :=
  ⟨lands_of (by decide +kernel), by decide +kernel, by decide +kernel⟩

/-- A sink in host memory. -/
def hostSink : Block := rput .tcSinkBase 0 (BitVec.ofNat 64 (portBase 0)) (withF [(F.ptPartStatusReq0Valid, 0, 1), (F.ptPartStatusReq0Fn, 0, 0)] sinkUp)

theorem wit_host_sink : (sinkNext hostSink 0 0).map (fun e => (e.1, e.2.1.isPort)) = some (1, true) := by decide +kernel

theorem wit_freeze : fon (withF [(F.tcFreezeArmed, 0, 1)] up) F.tcFreezeArmed 0 = true ∧
    (rget (withF [(F.tcFreezeArmed, 0, 1)] up) .tcFreezeAt 0).toNat ≤ up.now ∧ fon up F.tcFreezeArmed 0 = false ∧
    fon (withF [(F.tcFreezeFrozen, 0, 1)] up) F.tcFreezeFrozen 0 = true ∧ fon up F.tcFreezeFrozen 0 = false ∧
    dumpingUp.tc.dumping.isSome = true ∧ up.tc.dumping = none ∧ dumpSlot up 3 = some 0 ∧
    (eventSel (modTc (fun t => { t with events := [(0, [(1#64, 2#64)])] }) up) 256).map (·.2) = some 2#64 := by decide +kernel

/-- A schedule check that met poison records the poison slot of the die; one that met a correction records the channel's
corrected slot (R259, R261, R559). -/
theorem test_check_done_events : (match exec (.scheduleCheckDone ⟨[], [], [.diePoison 0, .depotCorrected 15]⟩)
      (st (modPs (fun p => { p with checking := true }) up)) with
    | .next t => (fget t.blk F.fhSrcStatusCaptured 201, fget t.blk F.fhSrcStatusCaptured 126, fget t.blk F.fhSrcStatusCaptured 96)
    | _ => (0, 0, 0)) = (1, 1, 0) := by decide +kernel

theorem test_ill_formed_read_events : ReadEvent.wf (.dieTimeout 4) = false ∧ ReadEvent.wf (.depotUncorrectable 16) = false ∧
    ReadEvent.wf (.dieTimeout 3) = true ∧ ReadEvent.wf (.depotUncorrectable 15) = true := by decide

/-! ### Worked examples and table values of the spec -/

/-- A block of a variant. -/
def variantUp (code : Nat) : Block := Block.empty { Fuses.blank with variant := code }

/-- 00_scope.md, worked example: an FV-16D part. -/
theorem test_variant_word : readReg (variantUp 6) .mgmt .idVariant 0 = 0x0096431A821E0006#64 := by decide +kernel

/-- 01_block_overview.md: the worked examples of R22. -/
theorem test_home_tiles : homeTile 200000 = 10 ∧ ringTile 5 37 = 8 := by decide +kernel

/-- 02_global_address_space.md, worked example: a striped segment over 512 nodes. -/
theorem test_striped_segment :
    let s : Seg := ⟨0, 2 ^ 41, true, 0, 512, 0x001000000000, 28, (List.range 512).map (1024 + ·), 3⟩
    s.resolve 0x0123456789AB = 0x08680010956789AB ∧ s.run 0x0123456789AB = 0x0A987655 := by decide +kernel

/-- 06_in_transit_arithmetic.md: the digest of the nine ASCII bytes "123456789". -/
theorem test_digest : crcDone (crcRun crcInit ((List.range 9).map (fun i => BitVec.ofNat 8 (0x31 + i)))) = 0x995DC9BBDF1939FA := by
  decide +kernel

/-- 06_in_transit_arithmetic.md, worked example: B's first block, of BF16 3.3125, -0.0390625, 0.15625, 1.0 and zeros. -/
theorem test_mx_block : (toWire 0x28 0 0 ([0x54, 0x40, 0x20, 0xBD, 0x20, 0x3E, 0x80, 0x3F].map (BitVec.ofNat 8) ++ List.replicate 56 0#8)).1 =
    [0x78#8, 0x7D#8, 0xCA#8, 0x5A#8, 0x70#8] ++ List.replicate 28 0#8 := by decide +kernel

/-- 06_in_transit_arithmetic.md, worked example: 0.1 times 3.0 added to 1.0 in BF16, and rounded up at random. -/
theorem test_scaled_sum : (applyUnit 0x82 0x3DCCCCCD 0 0 [0x40#8, 0x40#8] [0x80#8, 0x3F#8]).1 = [0xA6#8, 0x3F#8] ∧
    ((List.range 16).all (fun i => (applyUnit 0x92 0x3DCCCCCD 0x5EED i [0x40#8, 0x40#8] [0x80#8, 0x3F#8]).1 ==
      [if 0x999A ≤ srBits 0x5EED i then 0xA7#8 else 0xA6#8, 0x3F#8])) = true := by decide +kernel

/-- 06_in_transit_arithmetic.md, worked example of the order keeper: 16,777,216, then 3.25, then -16,777,216. -/
theorem test_fixed_order :
    let add := fun (x y : Nat) => (elemOp 1 false 0 x y).1
    add 0xCB800000 (add 0x40500000 0x4B800000) = 0x40800000 ∧ add 0x4B800000 (add 0x40500000 0xCB800000) = 0x40400000 := by
  decide +kernel

/-- 08_pitch_schedule.md, the example of R411: a roped phase of 20,000 ns at 1.2 GHz holds 18,000 units of 4 KiB. -/
theorem test_roped_capacity :
    let b := livePut 0x2101 0 1 (withF [(F.ckLimitsFMin, 0, 1200)] (variantUp 1))
    20000 * ropedRate b = 18000 * 4096 * 1000 := by decide +kernel

/-- 09_host_port.md, worked example: the host sizes the BARs of a PF whose BAR4 is at 64 GiB. -/
theorem test_bar_sizes :
    let b := barSize 0 false 16 (cfgPut 0 0x04 0#32 up)
    let sized := fun off => cfgRead (configWrite 0 0 off (-1) 0xFFFFFFFF#32 b) 0 off
    [0x10, 0x14, 0x18, 0x1C, 0x20, 0x24].map sized =
      [0xFC000004#32, 0xFFFFFFFF#32, 0xFF00000C#32, 0xFFFFFFFF#32, 0x0000000C#32, 0xFFFFFFF0#32] := by decide +kernel

/-- 12_faults_and_signals.md, worked example: an AUTH capture of host ring 37 of partition 5. -/
theorem test_auth_capture :
    readReg (fhCapture 345 2 (some 5) (.ring 37) up) .mgmt .fhSrcStatus 345 = 0xC601510000000025#64 := by decide +kernel

/-- 14_parameter_dictionary.md, worked example: DELIVERY_TIMEOUT is raised to 20 ms through the MD registers of HP0. -/
theorem test_dictionary_set :
    let b := mdServe 0 true (rput .mdReq 1 0xC8#64 (rput .mdReq 0 0x0000020050000702#64 up))
    rget b .mdRsp 0 = 0x0000020050000702#64 ∧ fget b F.ftXportDeliveryTimeout 0 = 0xC8 ∧ fget b F.mdCtlDone 0 = 1 := by decide +kernel

/-- 15_observability.md, worked example: the records of item C. -/
theorem test_trace_records :
    let d := desc (0x02 + 0x03 * 2 ^ 8 + 0x0C03 * 2 ^ 32) (0x0D800000 + 17 * 2 ^ 32 + 0x0203 * 2 ^ 48) 0 0 0 0 0 0
    let it := { anItem d with part := 5, ring := 37, tile := 8, engine := 0 }
    traceBegin (timeTo 4000000000 up) it =
        [0x00000C0302008501#64, 0x00000000EE6B2800#64, 0x0000002502030011#64, 0x000003000D800000#64] ∧
      traceEnd (timeTo 4000983000 up) it 0 0x0D800000 =
        [0x00000C0302008502#64, 0x00000000EE7A27D8#64, 0x0000002502030011#64, 0x000000000D800000#64] := by decide +kernel

end Sys2Proof.Tests
end

/-!
What a note of the fault hub changes: the registers of the fault hub and what a signal changes. A signal refuses no write, so of the
counters of ignored writes it reaches only that of TC, which counts the dumps that are refused (R690).
-/
namespace Sys2Proof.Laws

open Sys2Proof Sys2Proof.Machine Sys2Proof.Safety

/-! ### The counters of ignored writes while a signal acts -/

/-- A register that each change leaves is left by all of them in turn. -/
theorem rget_each {α : Type} {r : Reg} {i : Nat} (l : List α) (f : α → Block → Block)
    (h : ∀ a b, rget (f a b) r i = rget b r i) (b : Block) : rget (each l f b) r i = rget b r i := by
  induction l generalizing b with
  | nil => rfl
  | cons a l ih => exact (ih _).trans (h a b)

section
variable {u : Nat} (hu : u < 2 ^ 32)
include hu

theorem ignoredCount_rput {r : Reg} {i : Nat} (v : BitVec 64) (b : Block) (hr : Reg.idIgnored ≠ r) (hi : i < 2 ^ 32) :
    rget (rput r i v b) .idIgnored u = rget b .idIgnored u :=
  rget_rput_other _ _ _ _ _ _ (regKey_ne hr hu hi)

theorem ignoredCount_fput {f : Fld} {i : Nat} (v : Nat) (b : Block) (hf : Reg.idIgnored ≠ f.reg) (hi : i < 2 ^ 32) :
    rget (fput f i v b) .idIgnored u = rget b .idIgnored u := ignoredCount_rput hu _ _ hf hi

theorem ignoredCount_emitSignal (h : Nat) (m : Msg) (b : Block) :
    rget (emitSignal h m b) .idIgnored u = rget b .idIgnored u := by
  unfold emitSignal
  dsimp only
  split
  · rfl
  · refine (rget_each _ _ (fun k c => ?_) _).trans rfl
    have hk : k % 2 ^ 32 < 2 ^ 32 := Nat.mod_lt _ (by decide)
    split
    · rw [ignoredCount_fput hu _ _ (by decide) hk]
      split
      · rfl
      · exact ignoredCount_fput hu _ _ (by decide) hk
    · rfl

theorem ignoredCount_hostWake {h : Nat} (b : Block) (hh : h < 2 ^ 32) : rget (hostWake h b) .idIgnored u = rget b .idIgnored u := by
  unfold hostWake
  split
  · exact ignoredCount_fput hu _ _ (by decide) hh
  · rfl

theorem ignoredCount_msixSignal {fn vec : Nat} (b : Block) (h : 32 * fn + vec / 64 < 2 ^ 32) :
    rget (msixSignal fn vec b) .idIgnored u = rget b .idIgnored u := by
  have pba : ∀ on c, rget (pbaSet fn vec on c) .idIgnored u = rget c .idIgnored u := fun _ _ =>
    ignoredCount_rput hu _ _ (by decide) h
  unfold msixSignal
  split
  · rw [ignoredCount_emitSignal hu, pba, ignoredCount_hostWake hu _ (by omega)]
  · exact pba _ _

theorem ignoredCount_errorSend (h sev : Nat) (b : Block) : rget (errorSend h sev b) .idIgnored u = rget b .idIgnored u := by
  unfold errorSend
  rw [ignoredCount_emitSignal hu]
  split <;> rfl

theorem ignoredCount_setPending {s : Nat} (on : Bool) (b : Block) (hs : s < 2048) :
    rget (sgSetPending s on b) .idIgnored u = rget b .idIgnored u := ignoredCount_rput hu _ _ (by decide) (by omega)

theorem ignoredCount_setCount {s : Nat} (n : Nat) (b : Block) (hs : s < 2048) :
    rget (sgSetCount s n b) .idIgnored u = rget b .idIgnored u := ignoredCount_rput hu _ _ (by decide) (by omega)

theorem ignoredCount_dumpBegin (reason : Nat) {slot : Nat} (b : Block) (hs : slot < 2) :
    rget (dumpBegin reason slot b) .idIgnored u = rget b .idIgnored u := by
  have h32 : slot < 2 ^ 32 := by omega
  unfold dumpBegin
  simp only [ignoredCount_fput hu (f := F.tcDumpCtlBusy) _ _ (by decide) (show 0 < 2 ^ 32 by decide),
    ignoredCount_fput hu (f := F.tcDumpStatusGen) _ _ (by decide) h32,
    ignoredCount_fput hu (f := F.tcDumpStatusReason) _ _ (by decide) h32,
    ignoredCount_fput hu (f := F.tcDumpStatusComplete) _ _ (by decide) h32,
    ignoredCount_fput hu (f := F.tcDumpStatusValid) _ _ (by decide) h32]
  rfl

/-- A dump that is refused is counted for TC alone. -/
theorem ignoredCount_dumpRefused (b : Block) (htc : u ≠ 15) : rget (dumpRefused b) .idIgnored u = rget b .idIgnored u :=
  (ignoredCount_fput hu _ _ (by decide) (by decide)).trans (rget_fput_other _ _ _ _ _ _ (by
    simp only [regKey, F.idIgnoredCount]; omega))

theorem ignoredCount_sgAct (htc : u ≠ 15) (n : Nat) : ∀ (t : Trig) (b : Block),
    rget (sgAct n t b) .idIgnored u = rget b .idIgnored u := by
  induction n with
  | zero => intro t b; rfl
  | succ n ih =>
    intro t b
    cases t with
    | freeze cause at_ =>
      simp only [sgAct]
      split
      · exact ignoredCount_fput hu _ _ (by decide) (by decide)
      · rw [ih, ignoredCount_rput hu _ _ (by decide) (by decide), ignoredCount_fput hu _ _ (by decide) (by decide),
          ignoredCount_fput hu _ _ (by decide) (by decide)]
    | dump reason =>
      simp only [sgAct]
      split
      · exact ignoredCount_dumpRefused hu _ htc
      · split
        · exact ignoredCount_dumpRefused hu _ htc
        · next slot hs => rw [ih, ignoredCount_dumpBegin hu _ _ (dumpSlot_lt hs)]
    | assert s =>
      simp only [sgAct]
      by_cases out : ((1863 ≤ s && s < 1984) || 2048 ≤ s) = true
      · rw [if_pos out]
      · rw [if_neg out]
        have hs : s < 2048 := by
          simp only [Bool.or_eq_true, Bool.and_eq_true, decide_eq_true_eq, not_or] at out
          omega
        have mark : ∀ n on c, rget (sgSetCount s n (sgSetPending s on c)) .idIgnored u = rget c .idIgnored u := fun n on c => by
          rw [ignoredCount_setCount hu _ _ hs, ignoredCount_setPending hu _ _ hs]
        have sent : ∀ m c, rget (emit m c) .idIgnored u = rget c .idIgnored u := fun _ _ => rfl
        split_ifs <;>
          simp only [mark, sent, ih, ignoredCount_msixSignal hu _ (sgTarget_small b s hs), ignoredCount_errorSend hu]

end

/-! ### Notes of the fault hub -/

/-- The register copies that a note of the fault hub can change: its own, and those that a signal can change. -/
def noteReg (r : Reg) (i : Nat) : Bool :=
  (sigReg r && (r != .idIgnored || i == 15)) || r == .fhSrcCtl || r == .fhSrcStatus || r == .fhFirst || r == .fhFirstTime

/-- `c` is `b` but for what a note of the fault hub can change. -/
structure NoteOnly (b c : Block) : Prop where
  regs : ∀ r i, noteReg r i = false → i < 2 ^ 32 → rget c r i = rget b r i
  rest : { c with regs := b.regs, out := b.out, tc := b.tc, fhPart := b.fhPart, hp := { c.hp with cfg := b.hp.cfg } } = b

theorem NoteOnly.refl (b : Block) : NoteOnly b b := ⟨fun _ _ _ _ => rfl, rfl⟩

theorem NoteOnly.trans {b c d : Block} (h : NoteOnly b c) (g : NoteOnly c d) : NoteOnly b d := by
  refine ⟨fun r i hr hi => (g.regs r i hr hi).trans (h.regs r i hr hi), ?_⟩
  have rest := h.rest
  rw [← g.rest] at rest
  exact rest

/-- A note leaves the translation unit's own state. -/
theorem NoteOnly.tu {b c : Block} (h : NoteOnly b c) : c.tu = b.tu := by
  have tu := congrArg (fun d : Block => d.tu) h.rest
  exact tu

theorem noteOnly_ite {p : Prop} [Decidable p] {b c d : Block} (hc : NoteOnly b c) (hd : NoteOnly b d) :
    NoteOnly b (if p then c else d) := by
  split
  · exact hc
  · exact hd

theorem noteOnly_rput {r : Reg} {i : Nat} (v : BitVec 64) (b : Block) (hr : ∀ j, noteReg r j = true) (hi : i < 2 ^ 32) :
    NoteOnly b (rput r i v b) := by
  refine ⟨fun q j hq hj => rget_rput_other _ _ _ _ _ _ (regKey_ne ?_ hj hi), rfl⟩
  intro same; subst same; rw [hr j] at hq; exact absurd hq (by decide)

theorem noteOnly_fput (f : Fld) {i : Nat} (v : Nat) (b : Block) (hr : ∀ j, noteReg f.reg j = true) (hi : i < 2 ^ 32) :
    NoteOnly b (fput f i v b) := noteOnly_rput _ _ hr hi

theorem noteOnly_fbump (f : Fld) {i : Nat} (n : Nat) (b : Block) (hr : ∀ j, noteReg f.reg j = true) (hi : i < 2 ^ 32) :
    NoteOnly b (fbump f i n b) := noteOnly_fput _ _ _ hr hi

/-- What a signal changes a note can change, where it counts no ignored write but those of TC. -/
theorem noteOnly_of_sigOnly {b c : Block} (sig : SigOnly b c)
    (counts : ∀ u, u < 2 ^ 32 → u ≠ 15 → rget c .idIgnored u = rget b .idIgnored u) : NoteOnly b c := by
  refine ⟨fun r i hr hi => ?_, ?_⟩
  · by_cases h : r = .idIgnored
    · subst h
      exact counts i hi (fun tc => by subst tc; exact absurd hr (by decide))
    · exact sig.regs r i (by simp_all [noteReg]) hi
  · have rest := sig.rest
    have part := congrArg (fun d : Block => d.fhPart) rest
    dsimp only at part
    rw [← part]
    exact rest

theorem noteOnly_sgAssert (s : Nat) (b : Block) : NoteOnly b (sgAssert s b) :=
  noteOnly_of_sigOnly (sigOnly_sgAssert s b) (fun _ hu htc => ignoredCount_sgAct hu htc _ _ _)

theorem noteOnly_fhFirst (s cls part : Nat) (b : Block) : NoteOnly b (fhFirst s cls part b) := by
  have field : ∀ f v c, (∀ j, noteReg f.reg j = true) → NoteOnly c (fput f 0 v c) := fun f v c hr =>
    noteOnly_fput f v c hr (by decide)
  refine noteOnly_ite (NoteOnly.refl b) ?_
  exact (field F.fhFirstValid _ _ fun _ => rfl).trans <| (field F.fhFirstClass _ _ fun _ => rfl).trans <|
    (field F.fhFirstPartition _ _ fun _ => rfl).trans <| (field F.fhFirstSource _ _ fun _ => rfl).trans <|
    noteOnly_rput _ _ (fun _ => rfl) (by decide)

section
variable {s : Nat} (hs : s < 2 ^ 32)
include hs

/-- A field of a source's FH_SRC_STATUS is set. -/
theorem noteOnly_srcStatus (f : Fld) (v : Nat) (b : Block) (hf : f.reg = .fhSrcStatus) : NoteOnly b (fput f s v b) :=
  noteOnly_fput f v b (fun _ => by rw [hf]; rfl) hs

theorem noteOnly_fhCapture (cls : Nat) (part : Option Nat) (o : Obj) (b : Block) : NoteOnly b (fhCapture s cls part o b) := by
  have field := fun f v c => noteOnly_srcStatus hs f v c
  have held : ∀ l, NoteOnly b { b with fhPart := l } := fun _ => ⟨fun _ _ _ _ => rfl, rfl⟩
  exact (held _).trans <| (field F.fhSrcStatusCaptured _ _ rfl).trans <| (field F.fhSrcStatusClass _ _ rfl).trans <|
    (field F.fhSrcStatusRung _ _ rfl).trans <| (field F.fhSrcStatusCount _ _ rfl).trans <|
    (field F.fhSrcStatusPartition _ _ rfl).trans <| (field F.fhSrcStatusKind _ _ rfl).trans <|
    (field F.fhSrcStatusObject _ _ rfl).trans <| (field F.fhSrcStatusEscalating _ _ rfl).trans <|
    (noteOnly_fhFirst _ _ _ _).trans (noteOnly_sgAssert _ _)

theorem noteOnly_fhMerge (cls part : Nat) (b : Block) : NoteOnly b (fhMerge s cls part b) := by
  have field := fun f v c => noteOnly_srcStatus hs f v c
  have maybe : ∀ (p : Prop) [Decidable p] f v c, f.reg = .fhSrcStatus → NoteOnly c (if p then fput f s v c else c) :=
    fun _ _ f v c hf => noteOnly_ite (field f v c hf) (NoteOnly.refl c)
  exact (field F.fhSrcStatusCount _ _ rfl).trans <| (maybe _ F.fhSrcStatusClass _ _ rfl).trans <|
    (maybe _ F.fhSrcStatusRung _ _ rfl).trans <| (maybe _ F.fhSrcStatusEscalating _ _ rfl).trans <|
    (noteOnly_fhFirst _ _ _ _).trans <| (noteOnly_sgAssert _ _).trans <|
    noteOnly_ite (noteOnly_sgAssert _ _) (NoteOnly.refl _)

theorem noteOnly_fhRecord (o : Obj) (part : Option Nat) (secondary : Bool) (b : Block) :
    NoteOnly b (fhRecord s o part secondary b) := by
  unfold fhRecord
  split
  · exact NoteOnly.refl b
  · exact (noteOnly_fbump F.fhSrcCtlTotal 1 b (fun _ => rfl) hs).trans <| noteOnly_ite (NoteOnly.refl _) <|
      noteOnly_ite (noteOnly_fhMerge hs _ _ _) (noteOnly_fhCapture hs _ _ _ _)

theorem noteOnly_fhNote (o : Obj) (part : Option Nat) (b : Block) : NoteOnly b (fhNote s o part b) :=
  noteOnly_fhRecord hs _ _ _ _

end

/-! ### Writes that are ignored -/

/-- No variant has more than sixteen partitions (R1, R3). -/
theorem partPresent_lt {b : Block} {p : Nat} (h : partPresent b p = true) : p < 16 := by
  have most : ∀ code, (variantOf code).partitions ≤ 16 := by
    intro code
    unfold variantOf
    split <;> decide
  have present : p < (variant b).partitions := of_decide_eq_true h
  exact Nat.lt_of_lt_of_le present (most _)

/-- A write that a unit ignores is counted there, and noted at its partition; SQ and SG count it for functions besides. -/
theorem noteOnly_ignored {u : UnitId} (sq : u ≠ .sq) (sg : u ≠ .sg) (w : Agent) (part : Option Nat) (b : Block) :
    NoteOnly (fbump F.idIgnoredCount u.row 1 b) (ignored u w part b) := by
  unfold ignored
  split
  · exact absurd rfl sq
  · exact absurd rfl sg
  · dsimp only
    split
    · split
      · next p _ present => exact noteOnly_fhNote (by have := partPresent_lt present; omega) _ _ _
      · exact NoteOnly.refl _
    · exact NoteOnly.refl _

/-- A counting field that is added to reads what it held and more, up to the most that it holds. -/
theorem fget_fbump_same (f : Fld) (i n : Nat) (b : Block) (h : f.hi < 64) :
    fget (fbump f i n b) f i = satAdd f.max (fget b f i) n := by
  have most : satAdd f.max (fget b f i) n < 2 ^ (f.hi + 1 - f.lo) := by
    have pos : 0 < 2 ^ (f.hi + 1 - f.lo) := Nat.two_pow_pos _
    unfold satAdd Fld.max
    split <;> omega
  rw [fbump, fget_fput_same _ _ _ _ h, Nat.mod_eq_of_lt most]

/-- The unit's ignored-write counter is one higher, saturating (R33); in TC a dump that is refused may be counted too. -/
theorem ignored_count {u : UnitId} (sq : u ≠ .sq) (sg : u ≠ .sg) (tc : u ≠ .tc) (w : Agent) (part : Option Nat) (b : Block) :
    fget (ignored u w part b) F.idIgnoredCount u.row = satAdd F.idIgnoredCount.max (fget b F.idIgnoredCount u.row) 1 := by
  have row : u.row < 2 ^ 32 ∧ noteReg .idIgnored u.row = false := by
    revert tc
    cases u <;> decide
  rw [← fget_fbump_same F.idIgnoredCount u.row 1 b (by decide)]
  exact congrArg (fun v => qbits v 31 0) ((noteOnly_ignored sq sg w part b).regs .idIgnored u.row row.2 row.1)

/-- A write that is ignored leaves every register but the counter of ignored writes and what its note changes. -/
theorem ignored_rget {u : UnitId} (sq : u ≠ .sq) (sg : u ≠ .sg) (w : Agent) (part : Option Nat) (b : Block) {r : Reg} {i : Nat}
    (hr : r ≠ .idIgnored) (note : noteReg r i = false) (hi : i < 2 ^ 32) : rget (ignored u w part b) r i = rget b r i := by
  have row : u.row < 2 ^ 32 := by cases u <;> decide
  rw [(noteOnly_ignored sq sg w part b).regs r i note hi]
  exact rget_fput_other _ _ _ _ _ _ (regKey_ne hr hi row)

/-- A write that is ignored leaves the translation unit's own state. -/
theorem ignored_tu {u : UnitId} (sq : u ≠ .sq) (sg : u ≠ .sg) (w : Agent) (part : Option Nat) (b : Block) :
    (ignored u w part b).tu = b.tu := (noteOnly_ignored sq sg w part b).tu

/-- No register of the TU is one that a note of the fault hub can change. -/
theorem noteReg_tu {r : Reg} (h : r.spec.unit = .tu) (i : Nat) : noteReg r i = false := by
  by_contra note
  simp only [Bool.not_eq_false, noteReg, sigReg, Bool.or_eq_true, Bool.and_eq_true, beq_iff_eq] at note
  rcases note with (((⟨((((((((rfl | rfl) | rfl) | rfl) | rfl) | rfl) | rfl) | rfl) | rfl) | rfl, _⟩ | rfl) | rfl) | rfl) | rfl <;>
    exact absurd h (by decide)

/-! ### Writes that land -/

/-- A write does not wait at a port in whose receive queue no request waits. -/
theorem postHeld_write_none {w : Agent} {b : Block} (h : Unheld b w) (reg : Option (Reg × Nat)) (half : Half) (val : BitVec 64) (ok : Bool) :
    postHeld w (.write w reg half val ok) b = none := by
  unfold postHeld postHold
  rcases h with rfl | down | empty
  · rfl
  · simp [down]
  · simp [empty, postFits]

/-- A write that lands stores at its register, and what it may open the way for goes on. -/
theorem regWriteFrom_lands {b0 b : Block} {w : Agent} {r : Reg} {c i : Nat} (h : Lands b0 w r c i b) (md : r ≠ .mdCtl) (half : Half)
    (val : BitVec 64) (ok : Bool) : regWriteFrom w (some (r, c)) half val ok b0 = after r (regStore w r c val (halfMask half) b) := by
  obtain ⟨unheld, reach, -, -, found, takes, -⟩ := h
  simp [regWriteFrom, postHeld_write_none unheld, writeTake, regTake, reach, found, takes, md, after]

/-! ### TU_INV_CTL -/

/-- R126: a write of TU_INV_CTL is not taken while 16 invalidations are open, with SCOPE 0b11, and for a range of no pages. -/
theorem invalWrite_refused {fn p scope asn pages : Nat} {b : Block}
    (h : (fget b F.tuInvStatusIssued fn + 65536 - fget b F.tuInvStatusDone fn) % 65536 = 16 ∨ scope = 3 ∨ (scope = 0 ∧ pages = 0)) :
    invalWrite fn p scope asn pages b = none := by
  unfold invalWrite
  rcases h with full | rfl | ⟨rfl, rfl⟩
  · simp [full]
  · simp
  · simp

/-- A write of TU_INV_CTL that lands and is not taken is ignored by the TU. -/
theorem regStore_tuInvCtl_refused {w : Agent} {i : Nat} {val m : BitVec 64} {b : Block} (hi : regIdx b w .tuInvCtl 0 = .at_ i)
    (h : (fget b F.tuInvStatusIssued i + 65536 - fget b F.tuInvStatusDone i) % 65536 = 16 ∨ F.tuInvCtlScope.of (val &&& m) = 3 ∨
      (F.tuInvCtlScope.of (val &&& m) = 0 ∧ F.tuInvCtlPages.of (val &&& m) = 0)) :
    regStore w .tuInvCtl 0 val m b = ignored .tu w none b := by
  refine regStore_refused hi ?_
  simp only [regApply]
  split
  · exact invalWrite_refused h
  · rfl

/-- The physical functions of both ports see the same registers at the same offsets (R29-R31). -/
theorem regDecode_pf (h off : Nat) : regDecode (.pf h) off = regDecode (.pf 0) off := by
  unfold regDecode
  rfl

/-- All virtual functions see the same registers at the same offsets (R29-R31). -/
theorem regDecode_vf (h v off : Nat) : regDecode (.vf h v) off = regDecode (.vf 0 1) off := by
  unfold regDecode
  rfl

/-- TU_INV_CTL lies at its offset for every agent that sees it (R30, R124). -/
theorem regDecode_tuInvCtl {w : Agent} (seen : Reg.seen .tuInvCtl w = true) :
    regDecode w (Reg.offset .tuInvCtl w 0) = some (.tuInvCtl, 0) := by
  cases w with
  | pf h =>
    rw [regDecode_pf]
    exact (by decide +kernel : regDecode (.pf 0) (Reg.offset .tuInvCtl (.pf 0) 0) = some (.tuInvCtl, 0))
  | vf h v =>
    rw [regDecode_vf]
    exact (by decide +kernel : regDecode (.vf 0 1) (Reg.offset .tuInvCtl (.vf 0 1) 0) = some (.tuInvCtl, 0))
  | mgmt => exact absurd seen (by decide)

/-- The commands that write TU_INV_CTL with a scope, and the write of the register at its offset. -/
theorem exec_invalidates {w : Agent} (seen : Reg.seen .tuInvCtl w = true) (half : Half) (val : BitVec 64) (s : State) {scope : Nat}
    (h : scope < 3) : exec (invalidates scope w half val) s =
      .next { s with blk := regWriteFrom w (some (.tuInvCtl, 0)) half (carry F.tuInvCtlScope scope val) true s.blk } := by
  have named : regNamed w .tuInvCtl 0 = some (.tuInvCtl, 0) := regNamed_seen seen (by decide)
  rw [← named]
  match scope, h with
  | 0, _ => rfl
  | 1, _ => rfl
  | 2, _ => rfl

theorem exec_registerWrite_tuInvCtl {w : Agent} (seen : Reg.seen .tuInvCtl w = true) (half : Half) (val : BitVec 64) (s : State) :
    exec (.registerWrite w (Reg.offset .tuInvCtl w 0) half val) s =
      .next { s with blk := regWriteFrom w (some (.tuInvCtl, 0)) half val true s.blk } := by
  rw [← regDecode_tuInvCtl seen]
  rfl

/-- Settles O31: each of the four commands is the same write of TU_INV_CTL (R124), which is not taken (R126); the TU then ignores it, and
what that changes lies outside the TU but for the counter. -/
theorem invalidationWritesThatAreIgnored : Obligations.InvalidationWritesThatAreIgnored := by
  unfold Obligations.InvalidationWritesThatAreIgnored
  intro s w half val b i lands hi put word scope hscope same refused
  have ⟨_, _, seen, _, _, _, place⟩ := lands
  have write : exec (put scope) s =
      .next { s with blk := regWriteFrom w (some (.tuInvCtl, 0)) half (word scope) true s.blk } := by
    by_cases named : scope < 3
    · simp only [put, word, if_pos named]
      exact exec_invalidates seen half val s named
    · simp only [put, word, if_neg named]
      exact exec_registerWrite_tuInvCtl seen half val s
  have dropped : regStore w .tuInvCtl 0 (word scope) (halfMask half) b = ignored .tu w none b :=
    regStore_tuInvCtl_refused place (by rw [same]; exact refused)
  have kept : ∀ q j, (Reg.spec q).unit = .tu → j < 2 ^ 32 → rget (ignored .tu w none b) q j = rget b q j := fun q j tu hj =>
    ignored_rget (by decide) (by decide) w none b (fun id => by subst id; exact absurd tu (by decide)) (noteReg_tu tu j) hj
  refine ⟨ignored .tu w none b, ?_, ?_, ignored_tu (by decide) (by decide) w none b,
    ignored_count (by decide) (by decide) (by decide) w none b, kept⟩
  · rw [write, regWriteFrom_lands lands (by decide), dropped]
    rfl
  · exact congrArg (fun v => qbits v 47 32) (kept .tuInvStatus i rfl hi)

end Sys2Proof.Laws

/-!
How a partition changes its state (R479): what the fault hub and the mailboxes of its VFs are told leaves every register but theirs, and
the commands that run on partitions.
-/
namespace Sys2Proof.Laws

open Sys2Proof Sys2Proof.Machine

/-! ### What is told of a partition -/

/-- `c` is `b` but for what notes of the fault hub and mailbox events can change, as far as registers and partitions are concerned. -/
structure TellOnly (b c : Block) : Prop where
  regs : ∀ r i, noteReg r i = false → r ≠ .ptMbxCtl → i < 2 ^ 32 → rget c r i = rget b r i
  pt : c.pt = b.pt

theorem TellOnly.refl (b : Block) : TellOnly b b := ⟨fun _ _ _ _ _ => rfl, rfl⟩

theorem TellOnly.trans {b c d : Block} (h : TellOnly b c) (g : TellOnly c d) : TellOnly b d :=
  ⟨fun r i note mbx hi => (g.regs r i note mbx hi).trans (h.regs r i note mbx hi), g.pt.trans h.pt⟩

theorem tellOnly_of_noteOnly {b c : Block} (h : NoteOnly b c) : TellOnly b c := by
  have pt := congrArg (fun d : Block => d.pt) h.rest
  exact ⟨fun r i note _ hi => h.regs r i note hi, pt⟩

/-- A mailbox is told of its partition (R521): PART_EVENT is set and its source asserted. -/
theorem tellOnly_mbxPartEvent {fn : Nat} (h : fn < 2 ^ 32) (b : Block) : TellOnly b (mbxPartEvent fn b) := by
  have event : TellOnly b (fput F.ptMbxCtlPartEvent fn 1 b) :=
    ⟨fun _ _ _ mbx hi => rget_fput_other _ _ _ _ _ _ (regKey_ne mbx hi h), rfl⟩
  exact event.trans (tellOnly_of_noteOnly (noteOnly_sgAssert _ _))

/-- Changes that each tell only, told in turn. -/
theorem tellOnly_each {α : Type} (l : List α) (f : α → Block → Block) (h : ∀ a ∈ l, ∀ b, TellOnly b (f a b)) (b : Block) :
    TellOnly b (each l f b) := by
  induction l generalizing b with
  | nil => exact TellOnly.refl b
  | cons a l ih =>
    have ⟨first, rest⟩ := List.forall_mem_cons.mp h
    exact (first b).trans (ih rest _)

theorem partVfs_lt {b : Block} {p fn : Nat} (h : fn ∈ partVfs b p) : fn < 256 :=
  List.mem_range.mp (List.mem_filter.mp h).1

/-! ### Entering a state -/

/-- A partition that enters another state: STATE is set, with STOPPED its rings stop, and the rest tells of it. -/
theorem tellOnly_ptEnter {p st : Nat} {b : Block} (hp : p < 16) (h : partState b p ≠ st) :
    TellOnly (if st = 3 then eachRing p Ring.stop (fput F.ptPartStatusState p st b) else fput F.ptPartStatusState p st b)
      (ptEnter p st b) := by
  rw [ptEnter, if_neg h]
  refine (tellOnly_of_noteOnly (noteOnly_fhNote (by omega) .none (some p) _)).trans (tellOnly_each _ _ (fun fn mapped => ?_) _)
  have := partVfs_lt mapped
  exact tellOnly_mbxPartEvent (by omega)

/-- A partition is in the state that it has entered. -/
theorem partState_ptEnter {p st : Nat} (hp : p < 16) (hst : st < 8) (b : Block) : partState (ptEnter p st b) p = st := by
  by_cases same : partState b p = st
  · rw [ptEnter, if_pos same, same]
  · have entered : partState (fput F.ptPartStatusState p st b) p = st :=
      (fget_fput_same F.ptPartStatusState p st b (by decide)).trans (Nat.mod_eq_of_lt hst)
    have kept := (tellOnly_ptEnter hp same).regs .ptPartStatus p rfl (by decide) (by omega)
    refine (congrArg (fun v => qbits v 63 61) kept).trans (Eq.trans ?_ entered)
    split <;> rfl

/-- Entering a state leaves the commands that run and what else is held of partitions beside their registers. -/
theorem pt_ptEnter {p : Nat} (hp : p < 16) (st : Nat) (b : Block) : (ptEnter p st b).pt = b.pt := by
  by_cases same : partState b p = st
  · rw [ptEnter, if_pos same]
  · refine (tellOnly_ptEnter hp same).pt.trans ?_
    split <;> rfl

/-! ### A reset begins -/

/-- A partition whose reset begins is RESETTING (R510, R511). -/
theorem partState_resetBegin {p : Nat} (hp : p < 16) (c : PtCmd) (b : Block) : partState (resetBegin p c b) p = 5 :=
  partState_ptEnter hp (by decide) _

/-- The command that resets a partition runs on it. -/
theorem cmd_resetBegin {p : Nat} (hp : p < 16) (c : PtCmd) (b : Block) : tfind (resetBegin p c b).pt.cmds p = some c := by
  rw [resetBegin, pt_ptEnter hp]
  exact tfind_tput_same _ _ _

/-! ### The end of a hold -/

/-- A hold that has expired releases the partition (R517). -/
theorem holdEnd_held {b : Block} {p : Nat} (bivouac : partState b p = 4) (hold : fget b F.ptPartCfgHold p ≠ 0)
    (free : ptRunning b p = none) : holdEnd p b = resetBegin p (releaseCmd (fon b F.idProtFrameForceScrub 0)) b := by
  simp [holdEnd, bivouac, hold, free]

/-- Outside BIVOUAC, and with HOLD 0, there is no hold (R492). -/
theorem holdEnd_none {b : Block} {p : Nat} (h : partState b p ≠ 4 ∨ fget b F.ptPartCfgHold p = 0) : holdEnd p b = b := by
  rcases h with elsewhere | unlimited
  · simp [holdEnd, elsewhere]
  · simp [holdEnd, unlimited]

theorem exec_bivouacHoldExpiry (p : Nat) (s : State) :
    exec (.bivouacHoldExpiry p) s = .next { s with blk := settle (holdEnd p s.blk) } := rfl

/-- Settles O53: the expiry begins a reset of the partition under a RELEASE that Flovel starts itself. -/
theorem holdExpiryReleasesThePartition : Obligations.HoldExpiryReleasesThePartition := by
  unfold Obligations.HoldExpiryReleasesThePartition
  intro s p hp
  refine ⟨fun bivouac hold free => ?_, fun noHold => ?_⟩
  · refine ⟨_, releaseCmd (fon s.blk F.idProtFrameForceScrub 0), ?_, partState_resetBegin hp _ s.blk, cmd_resetBegin hp _ _, rfl⟩
    rw [exec_bivouacHoldExpiry, holdEnd_held bivouac hold free]
  · rw [exec_bivouacHoldExpiry, holdEnd_none noHold]

end Sys2Proof.Laws

/-!
How a claim is answered (R583): what a register read that is taken sends, which source is the best of a target, and what the claim of it
clears and sets.
-/
namespace Sys2Proof.Laws

open Sys2Proof Sys2Proof.Machine Sys2Proof.Safety

/-! ### Reads that are taken -/

/-- No variant has more than two host ports (R2). -/
theorem portPresent_lt {b : Block} {h : Nat} (present : portPresent b h = true) : h < 2 := by
  have most : ∀ code, (variantOf code).hostPorts ≤ 2 := by
    intro code
    unfold variantOf
    split <;> decide
  exact Nat.lt_of_lt_of_le (of_decide_eq_true present) (most _)

/-- A host port whose link is up is one that the variant has. -/
theorem hostUp_lt {b : Block} {h : Nat} (up : hostUp b h = true) : h < 2 := portPresent_lt (Bool.and_eq_true_iff.mp up).1

/-- The arrival of a read changes what a signal can change, and nothing else: the link wakes, and TLPs are counted and answered. -/
theorem sigOnly_accessArrive_read (w : Agent) (b : Block) : SigOnly b (accessArrive w true b) := by
  unfold accessArrive
  split
  · exact SigOnly.refl b
  · dsimp only
    split
    · exact SigOnly.refl b
    · next taken =>
      have up : hostUp b (bankOf w / 128) = true := by simp_all
      have arrived : SigOnly b (hostTlp (bankOf w / 128) b) := sigOnly_hostTlp _ b (by have := hostUp_lt up; omega)
      exact sigOnly_ite arrived (arrived.trans (sigOnly_emitTlp _ _ _))

/-- A function whose access reaches the block has its port on the variant. -/
theorem bankOf_lt_of_reach {w : Agent} {b : Block} (host : w ≠ .mgmt) (reach : accessReach b w = true) : bankOf w < 256 := by
  have up : hostUp b (bankOf w / 128) = true := by
    cases w with
    | mgmt => exact absurd rfl host
    | pf h => simp_all [accessReach]
    | vf h v => simp_all [accessReach]
  have := hostUp_lt up
  omega

/-- A read does not wait at a port in whose receive queue no request waits. -/
theorem postHeld_read_none {w : Agent} {b : Block} (h : Unheld b w) (reg : Option (Reg × Nat)) (off : Nat) (half : Half) :
    postHeld w (.read w reg off half) b = none := by
  unfold postHeld postHold
  rcases h with rfl | down | empty
  · rfl
  · simp [down]
  · simp [empty, postFits]

/-- A read that reaches the block at a register that is not read at one instant sends what the register reads as, and has its effect. -/
theorem readTake_at {w : Agent} {r : Reg} {c i : Nat} {b : Block} (reach : accessReach b w = true) (parts : r.whole = false)
    (place : regIdx (accessArrive w true b) w r c = .at_ i) (off : Nat) (half : Half) :
    readTake w (some (r, c)) off half b = valueSent w off (readReg (accessArrive w true b) w r i &&& halfMask half)
      (readEffect w r i (halfMask half) (accessArrive w true b)) := by
  have read : halfRead w r c half (accessArrive w true b) = (readReg (accessArrive w true b) w r i, accessArrive w true b) := by
    simp [halfRead, parts, regAt, place]
  simp only [readTake, reach, read, place]
  cases w <;> rfl

/-- A read that a command names by its register, where nothing holds it up. -/
theorem regReadOf_at {w : Agent} {r : Reg} {c i : Nat} {b : Block} (unheld : Unheld b w) (reach : accessReach b w = true)
    (seen : r.seen w = true) (hc : c < r.spec.count) (parts : r.whole = false)
    (place : regIdx (accessArrive w true b) w r c = .at_ i) (half : Half) :
    regReadOf w r c half b = valueSent w (r.offset w c) (readReg (accessArrive w true b) w r i &&& halfMask half)
      (readEffect w r i (halfMask half) (accessArrive w true b)) := by
  simp only [regReadOf, regNamed_seen seen hc, regReadFrom, postHeld_read_none unheld]
  exact readTake_at reach parts place _ half

/-! ### Reads of the claim registers -/

/-- The partition that a VF is mapped to is what its copy of PT_VF_MAP says (R487). -/
theorem vfPart_congr {b c : Block} {fn : Nat} (same : rget c .ptVfMap fn = rget b .ptVfMap fn) : vfPart c fn = vfPart b fn := by
  have field : ∀ f : Fld, f.reg = .ptVfMap → fget c f fn = fget b f fn := fun f hf => by rw [fget, fget, hf, same]
  rw [vfPart, vfPart, fon, fon, field _ rfl, field _ rfl]

/-- A function's own claim register lies in its bank; a VF sees it while a partition holds the VF (R487, R592). -/
theorem regIdx_sgClaim {w : Agent} {b : Block} (host : w ≠ .mgmt) (held : ∀ h v, w = .vf h v → vfPart b (128 * h + v) ≠ none) :
    regIdx b w .sgClaim 0 = .at_ (bankOf w) := by
  cases w with
  | mgmt => exact absurd rfl host
  | pf h => rfl
  | vf h v =>
    have mapped : (vfPart b (128 * h + v) == none) = false := beq_eq_false_iff_ne.mpr (held h v rfl)
    simp only [regIdx, mapped]
    rfl

/-- A claim register reads as the claim of its target, and its read takes that claim (R583, R592, R593). -/
theorem readReg_sgClaim (b : Block) (w : Agent) (i : Nat) :
    readReg b w .sgClaim i = sgClaimValue b (sgOwnTarget w).1 (sgOwnTarget w).2 := rfl

theorem readReg_sgClaimT (b : Block) (i : Nat) : readReg b .mgmt .sgClaimT i = sgClaimValue b i 512 := rfl

/-- The offset of the claim register that an agent reads: its own, or that of a target. -/
def claimOffset (w : Agent) : Option Nat → Nat
  | none => Reg.sgClaim.offset w 0
  | some k => Reg.sgClaimT.offset w k

/-- INTERRUPT_CLAIM sends the value of the claim and takes it. -/
theorem exec_interruptClaim {s : State} {w : Agent} {reg : Option Nat} {t fn : Nat} (acts : ActsFor w reg t fn) (unheld : Unheld s.blk w)
    (reach : accessReach s.blk w = true) (held : ∀ h v, w = .vf h v → vfPart s.blk (128 * h + v) ≠ none) (half : Half) :
    exec (.interruptClaim w reg half) s = .next { s with blk := (valueSent w (claimOffset w reg)
      (sgClaimValue (accessArrive w true s.blk) t fn &&& halfMask half) (sgClaim t fn (accessArrive w true s.blk))) } := by
  cases reg with
  | none =>
    obtain ⟨host, own⟩ := acts
    obtain ⟨rfl, rfl⟩ := Prod.mk.inj own
    have place : regIdx (accessArrive w true s.blk) w .sgClaim 0 = .at_ (bankOf w) := by
      refine regIdx_sgClaim host fun h v vf => ?_
      have small : 128 * h + v < 256 := by subst vf; exact bankOf_lt_of_reach host reach
      have kept := (sigOnly_accessArrive_read w s.blk).regs .ptVfMap (128 * h + v) rfl (by omega)
      rw [vfPart_congr kept]
      exact held h v vf
    have seen : Reg.seen .sgClaim w = true := by
      cases w with
      | mgmt => exact absurd rfl host
      | pf h => rfl
      | vf h v => rfl
    have read := regReadOf_at unheld reach seen (by decide) (by decide) place half
    exact congrArg (fun c => Host.Outcome.next { s with blk := c }) read
  | some k =>
    obtain ⟨rfl, hk, rfl, rfl⟩ := acts
    have read := regReadOf_at unheld reach (r := .sgClaimT) (c := t) rfl hk (by decide) rfl half
    exact congrArg (fun c => Host.Outcome.next { s with blk := c }) read

/-! ### The best source of a target -/

/-- The pending sources of a word of SG_PENDING, in rising order. -/
def pendWord (b : Block) (k : Nat) : List Nat :=
  if rget b .sgPending k = 0#64 then [] else ((List.range 64).filter (fun i => (rget b .sgPending k).getLsbD i)).map (64 * k + ·)

theorem sgPendList_eq (b : Block) : sgPendList b = (List.range 32).flatMap (pendWord b) := rfl

theorem mem_pendWord {b : Block} {k n : Nat} : n ∈ pendWord b k ↔ k = n / 64 ∧ sgPendingBit b n = true := by
  have place : n ∈ pendWord b k ↔ ∃ i, (i < 64 ∧ (rget b .sgPending k).getLsbD i = true) ∧ 64 * k + i = n := by
    unfold pendWord
    split
    · next zero => simp [zero]
    · simp
  rw [place]
  constructor
  · rintro ⟨i, ⟨hi, set⟩, rfl⟩
    have word : (64 * k + i) / 64 = k := by omega
    have bit : (64 * k + i) % 64 = i := by omega
    exact ⟨word.symm, by rw [sgPendingBit, word, bit]; exact set⟩
  · rintro ⟨rfl, set⟩
    exact ⟨n % 64, ⟨Nat.mod_lt _ (by decide), set⟩, by omega⟩

theorem pendWord_rising (b : Block) (k : Nat) : (pendWord b k).Pairwise (· < ·) := by
  unfold pendWord
  split
  · exact List.Pairwise.nil
  · exact List.pairwise_map.mpr ((List.pairwise_lt_range.filter _).imp fun less => by omega)

/-- The pending sources are those whose pending bit is set. -/
theorem mem_sgPendList {b : Block} {n : Nat} : n ∈ sgPendList b ↔ n < 2048 ∧ sgPendingBit b n = true := by
  simp only [sgPendList_eq, List.mem_flatMap, List.mem_range, mem_pendWord]
  constructor
  · rintro ⟨k, hk, rfl, set⟩
    exact ⟨by omega, set⟩
  · rintro ⟨hn, set⟩
    exact ⟨n / 64, by omega, rfl, set⟩

/-- The pending sources are listed in rising order: within a word, and from word to word. -/
theorem sgPendList_rising (b : Block) : (sgPendList b).Pairwise (· < ·) := by
  rw [sgPendList_eq]
  refine List.pairwise_flatMap.mpr ⟨fun k _ => pendWord_rising b k, List.pairwise_lt_range.imp fun less x hx y hy => ?_⟩
  have := (mem_pendWord.mp hx).1
  have := (mem_pendWord.mp hy).1
  omega

/-- The better of the best source so far and another: the one found first, unless the other's priority is higher. -/
def better (priority : Nat → Nat) (best : Option Nat) (s : Nat) : Option Nat :=
  match best with
  | none => some s
  | some x => if priority x < priority s then some s else some x

/-- Once a source is the best, it stays so among sources of no higher priority. -/
theorem foldl_better_stays {priority : Nat → Nat} {n : Nat} {l : List Nat} (h : ∀ m ∈ l, priority m ≤ priority n) :
    l.foldl (better priority) (some n) = some n := by
  induction l with
  | nil => rfl
  | cons m l ih =>
    have ⟨first, rest⟩ := List.forall_mem_cons.mp h
    rw [List.foldl_cons, better, if_neg (by omega), ih rest]

/-- A source of a higher priority than those before it is the best when it is met. -/
theorem foldl_better_next {priority : Nat → Nat} {n : Nat} {l : List Nat} (h : ∀ m ∈ l, priority m < priority n) :
    ∀ best, (∀ x ∈ best, priority x < priority n) → better priority (l.foldl (better priority) best) n = some n := by
  induction l with
  | nil =>
    intro best lower
    cases best with
    | none => rfl
    | some x => exact if_pos (lower x rfl)
  | cons m l ih =>
    intro best lower
    have ⟨first, rest⟩ := List.forall_mem_cons.mp h
    refine ih rest _ fun x hx => ?_
    unfold better at hx
    split at hx
    · cases hx; exact first
    · split at hx
      · cases hx; exact first
      · cases hx; exact lower x rfl

/-- Of a rising list, the source with the highest priority and the lowest number among equals is the best. -/
theorem foldl_better_rising {priority : Nat → Nat} {n : Nat} {l : List Nat} (rising : l.Pairwise (· < ·)) (mem : n ∈ l)
    (h : ∀ m ∈ l, m ≠ n → priority m < priority n ∨ priority m = priority n ∧ n < m) :
    l.foldl (better priority) none = some n := by
  obtain ⟨before, behind, rfl⟩ := List.append_of_mem mem
  obtain ⟨-, -, less⟩ := List.pairwise_append.mp rising
  rw [List.foldl_append, List.foldl_cons, foldl_better_next (fun m hm => ?_) none (fun _ none => nomatch none),
    foldl_better_stays fun m hm => ?_]
  · by_cases same : m = n
    · rw [same]
    · have := h m (by simp [hm]) same
      omega
  · have := less m hm n (by simp)
    have := h m (by simp [hm]) (by omega)
    omega

/-- The sources that a claim for a target chooses from. -/
def claimable (b : Block) (t fn : Nat) : List Nat := (sgPendList b).filter (fun s => sgEligible b s && sgAims b s t fn)

theorem mem_claimable {b : Block} {t fn n : Nat} :
    n ∈ claimable b t fn ↔ n < 2048 ∧ sgEligible b n = true ∧ sgAims b n t fn = true := by
  have pending : sgEligible b n = true → sgPendingBit b n = true := by
    simp only [sgEligible, Bool.and_eq_true]
    exact fun eligible => eligible.1.1
  rw [claimable, List.mem_filter, mem_sgPendList, Bool.and_eq_true]
  exact ⟨fun ⟨⟨small, _⟩, both⟩ => ⟨small, both⟩, fun ⟨small, both⟩ => ⟨⟨small, pending both.1⟩, both⟩⟩

/-- A claim for a target that is not self-claiming returns the best of the sources that it chooses from. -/
theorem sgBest_eq {t : Nat} (claims : ¬(t = 14 ∨ t = 15 ∨ t = 17 ∨ t = 18)) (b : Block) (fn : Nat) :
    sgBest b t fn = (claimable b t fn).foldl (better (sgPriority b)) none := if_neg claims

theorem sgBest_some {b : Block} {t fn n : Nat} (claims : ¬(t = 14 ∨ t = 15 ∨ t = 17 ∨ t = 18)) (mem : n ∈ claimable b t fn)
    (h : ∀ m ∈ claimable b t fn, m ≠ n → sgPriority b m < sgPriority b n ∨ sgPriority b m = sgPriority b n ∧ n < m) :
    sgBest b t fn = some n := by
  rw [sgBest_eq claims]
  exact foldl_better_rising ((sgPendList_rising b).filter _) mem h

theorem sgBest_none {b : Block} {t fn : Nat} (claims : ¬(t = 14 ∨ t = 15 ∨ t = 17 ∨ t = 18)) (h : ∀ n, n ∉ claimable b t fn) :
    sgBest b t fn = none := by
  rw [sgBest_eq claims, List.eq_nil_iff_forall_not_mem.mpr h]
  rfl

/-! ### The pending bit, the count and the in-service bit of a source -/

/-- Different copies of a register have different keys. -/
theorem regKey_copy_ne {r : Reg} {i j : Nat} (h : i ≠ j) : regKey r i ≠ regKey r j := by
  simp only [regKey]
  omega

/-- Setting the pending bit of a source sets it and leaves that of every other. -/
theorem sgPendingBit_setPending_same (n : Nat) (on : Bool) (b : Block) : sgPendingBit (sgSetPending n on b) n = on := by
  rw [sgPendingBit, sgSetPending, rget_rput_same, getLsbD_qset _ _ _ _ _ (Nat.mod_lt _ (by decide)), if_pos (by omega), Nat.sub_self]
  cases on <;> rfl

theorem sgPendingBit_setPending_other {n m : Nat} (h : m ≠ n) (on : Bool) (b : Block) :
    sgPendingBit (sgSetPending n on b) m = sgPendingBit b m := by
  unfold sgPendingBit sgSetPending
  by_cases word : m / 64 = n / 64
  · rw [word, rget_rput_same, getLsbD_qset _ _ _ _ _ (Nat.mod_lt _ (by decide)), if_neg (by omega)]
  · rw [rget_rput_other _ _ _ _ _ _ (regKey_copy_ne word)]

/-- Setting the count of a source sets it and leaves that of every other. -/
theorem sgCount_setCount_same (n v : Nat) (b : Block) : sgCount (sgSetCount n v b) n = v % 256 := by
  rw [sgCount, sgSetCount, rget_rput_same, qbits_qset_same _ _ _ _ (by omega),
    show 8 * (n % 8) + 7 + 1 - 8 * (n % 8) = 8 by omega, show 2 ^ 8 = 256 by decide]

theorem sgCount_setCount_other {n m : Nat} (h : m ≠ n) (v : Nat) (b : Block) : sgCount (sgSetCount n v b) m = sgCount b m := by
  unfold sgCount sgSetCount
  by_cases word : m / 8 = n / 8
  · rw [word, rget_rput_same, qbits_qset_other _ _ _ _ _ _ (by omega) (by omega)]
  · rw [rget_rput_other _ _ _ _ _ _ (regKey_copy_ne word)]

/-- Pending bits and counts are held apart. -/
theorem sgPendingBit_setCount {n m : Nat} (hn : n < 2048) (hm : m < 2048) (v : Nat) (b : Block) :
    sgPendingBit (sgSetCount n v b) m = sgPendingBit b m := by
  rw [sgPendingBit, sgSetCount, rget_rput_other _ _ _ _ _ _ (regKey_ne (by decide) (by omega) (by omega)), sgPendingBit]

theorem sgCount_setPending {n m : Nat} (hn : n < 2048) (hm : m < 2048) (on : Bool) (b : Block) :
    sgCount (sgSetPending n on b) m = sgCount b m := by
  rw [sgCount, sgSetPending, rget_rput_other _ _ _ _ _ _ (regKey_ne (by decide) (by omega) (by omega)), sgCount]

/-- A rising list with a number put in holds it, and what it held. -/
theorem mem_sins {x y : Nat} {l : List Nat} : x ∈ sins y l ↔ x = y ∨ x ∈ l := by
  induction l with
  | nil => simp [sins]
  | cons z l ih =>
    unfold sins
    split_ifs with less same
    · simp
    · simp [same]
    · simp only [List.mem_cons, ih]
      tauto

/-- A source enters service: its pending bit and count are cleared (R583). -/
def enterService (n : Nat) (b : Block) : Block :=
  { sgSetCount n 0 (sgSetPending n false b) with sgServing := sins n b.sgServing }

/-- A claim takes the best source into service. -/
theorem sgClaim_some {b : Block} {t fn n : Nat} (best : sgBest b t fn = some n) : sgClaim t fn b = enterService n b := by
  rw [sgClaim, best]
  rfl

theorem sgClaim_none {b : Block} {t fn : Nat} (best : sgBest b t fn = none) : sgClaim t fn b = b := by rw [sgClaim, best]

theorem sgClaimValue_some {b : Block} {t fn n : Nat} (best : sgBest b t fn = some n) :
    sgClaimValue b t fn = BitVec.ofNat 64 (2 ^ 63 + sgCount b n * 2 ^ 48 + n) := by rw [sgClaimValue, best]

theorem sgClaimValue_none {b : Block} {t fn : Nat} (best : sgBest b t fn = none) : sgClaimValue b t fn = 0#64 := by rw [sgClaimValue, best]

theorem enterService_same {n : Nat} (hn : n < 2048) (b : Block) :
    sgPendingBit (enterService n b) n = false ∧ sgCount (enterService n b) n = 0 ∧ sgInService (enterService n b) n = true := by
  refine ⟨?_, sgCount_setCount_same n 0 _, List.contains_iff_mem.mpr (mem_sins.mpr (.inl rfl))⟩
  exact (sgPendingBit_setCount hn hn 0 _).trans (sgPendingBit_setPending_same n false b)

theorem enterService_other {n m : Nat} (hn : n < 2048) (hm : m < 2048) (h : m ≠ n) (b : Block) :
    sgPendingBit (enterService n b) m = sgPendingBit b m ∧ sgCount (enterService n b) m = sgCount b m ∧
      sgInService (enterService n b) m = sgInService b m := by
  refine ⟨?_, ?_, ?_⟩
  · exact (sgPendingBit_setCount hn hm 0 _).trans (sgPendingBit_setPending_other h false b)
  · exact (sgCount_setCount_other h 0 _).trans (sgCount_setPending hn hm false b)
  · refine Bool.eq_iff_iff.mpr (List.contains_iff_mem.trans (mem_sins.trans (Iff.trans ?_ List.contains_iff_mem.symm)))
    exact or_iff_right h

/-- A source in service is not eligible (R581). -/
theorem not_eligible_of_inService {b : Block} {n : Nat} (h : sgInService b n = true) : sgEligible b n = false := by
  simp [sgEligible, h]

/-! ### The obligation -/

/-- Settles O56: the pending sources are listed in rising order, so the first of the highest priority is the lowest; the read sends its
number and takes it into service. -/
theorem claimsReturnTheHighestPriority : Obligations.ClaimsReturnTheHighestPriority := by
  unfold Obligations.ClaimsReturnTheHighestPriority
  intro s w reg half t fn acts unheld reach t14 t15 t17 t18 held
  have claims : ¬(t = 14 ∨ t = 15 ∨ t = 17 ∨ t = 18) := by omega
  have claim := exec_interruptClaim acts unheld reach held half
  refine ⟨fun n hn eligible aims highest => ?_, fun nothing => ?_, fun n => not_eligible_of_inService⟩
  · have best : sgBest (accessArrive w true s.blk) t fn = some n := by
      refine sgBest_some claims (mem_claimable.mpr ⟨hn, eligible, aims⟩) fun m mem other => ?_
      obtain ⟨hm, also, same⟩ := mem_claimable.mp mem
      exact highest m hm other also same
    rw [sgClaimValue_some best, sgClaim_some best] at claim
    obtain ⟨pending, count, service⟩ := enterService_same hn (accessArrive w true s.blk)
    exact ⟨_, claim, pending, count, service, fun m hm other => enterService_other hn hm other _⟩
  · have best : sgBest (accessArrive w true s.blk) t fn = none := by
      refine sgBest_none claims fun n mem => ?_
      obtain ⟨hn, both⟩ := mem_claimable.mp mem
      exact nothing n hn both
    rw [sgClaimValue_none best, sgClaim_none best, BitVec.zero_and] at claim
    exact claim

end Sys2Proof.Laws

/-!
The block as a whole: what a command can answer, what it does to the depot data areas and to the queue, and what resets leave.
-/
namespace Sys2Proof.Laws

open Sys2Proof Sys2Proof.Machine Sys2Proof.Safety

/-! ### The form of a command's answer -/

/-- The depot data areas after a command that runs. -/
def depotAfter (c : Instr) (s : State) : List Host.Cell :=
  match c with
  | .depotWriteAck n e => depotWritten n e s.blk s.depot
  | .depotZeroDone => if phase s.blk = 3 then [] else s.depot
  | .partitionResetDeadline p stage => if stage = .final ∧ scrubs s.blk p then depotCut p 0 s.depot else s.depot
  | .recomposeMoveDone => depotMoved s.blk s.depot
  | _ => s.depot

/-- Does an exchange take an answer that brings data of this length, or none? -/
def fitsLength (len : Option Nat) (t : Txn) : Bool :=
  match len with
  | some l => lenFits l t
  | none => true

/-- A command changes the block and the depot data areas, or it is an answer to an exchange; nothing else is a command. -/
theorem exec_form (c : Instr) (s : State) :
    match answerOf c with
    | none => ∃ b, exec c s = .next { s with depot := depotAfter c s, blk := b }
    | some (n, len) => ∃ f, exec c s = answer n (fitsLength len) f { s with depot := depotAfter c s } := by
  cases c <;> exact ⟨_, rfl⟩

/-- A command that runs leaves the queue, and the depot data areas are then those of `depotAfter`. -/
theorem exec_next {c : Instr} {s t : State} (h : exec c s = .next t) : t.pending = s.pending ∧ t.depot = depotAfter c s := by
  have form := exec_form c s
  split at form
  · obtain ⟨b, form⟩ := form
    cases form.symm.trans h
    exact ⟨rfl, rfl⟩
  · obtain ⟨f, form⟩ := form
    rcases answer_cases (s := { s with depot := depotAfter c s }) (f := f) with next | fault
    · cases (form.trans next).symm.trans h
      exact ⟨rfl, rfl⟩
    · cases (form.trans fault).symm.trans h

/-- Settles O1. -/
theorem stepRunsTheCommandInFront : Obligations.StepRunsTheCommandInFront := step_cons

/-- Settles O5. -/
theorem commandsLeaveTheQueueAlone : Obligations.CommandsLeaveTheQueueAlone := by
  intro c s t h
  exact (exec_next h).1

/-! ### Answers that fit, and answers that do not -/

/-- An answer fits where its exchange was opened and, if it is open still, takes its data. -/
theorem answerFits_iff {b : Block} {n : Nat} {len : Option Nat} :
    AnswerFits b n len ↔ n < b.nextTxn ∧ ∀ t, tfind b.txns n = some t → fitsLength len t = true := by
  refine and_congr_right fun _ => forall_congr' fun t => ?_
  cases len with
  | none => simp [fitsLength]
  | some l =>
    cases reads : t.reads with
    | false => simp [fitsLength, lenFits, reads]
    | true =>
      simp only [fitsLength, lenFits, reads, Option.some.injEq, forall_const, Bool.not_true, Bool.false_or, beq_iff_eq]
      exact ⟨fun same found => same l found rfl, fun same m found len => len ▸ same found⟩

theorem answer_fits {n : Nat} {len : Option Nat} {f : Block → Block} {s : State} (h : AnswerFits s.blk n len) :
    answer n (fitsLength len) f s = .next { s with blk := f s.blk } := by
  obtain ⟨opened, fits⟩ := answerFits_iff.mp h
  cases found : tfind s.blk.txns n with
  | none => exact answer_closed opened found
  | some t => exact answer_open opened found (fits t found)

theorem answer_not_fits {n : Nat} {len : Option Nat} {f : Block → Block} {s : State} (h : ¬ AnswerFits s.blk n len) :
    answer n (fitsLength len) f s = .fault .noPromise := by
  by_cases opened : n < s.blk.nextTxn
  · have unfit : ¬ ∀ t, tfind s.blk.txns n = some t → fitsLength len t = true := fun fits => h (answerFits_iff.mpr ⟨opened, fits⟩)
    push Not at unfit
    obtain ⟨t, found, unfit⟩ := unfit
    exact answer_unfit opened found (Bool.eq_false_iff.mpr unfit)
  · exact answer_unknown (Nat.le_of_not_lt opened)

/-- Settles O6: a command is no answer, or `answer` decides. -/
theorem onlyAnswersCanStopTheBlock : Obligations.OnlyAnswersCanStopTheBlock := by
  intro c s
  have form := exec_form c s
  refine ⟨fun r refused => ?_, fun none => ?_, fun n len some => ?_⟩
  · split at form
    · obtain ⟨b, form⟩ := form
      cases form.symm.trans refused
    · obtain ⟨f, form⟩ := form
      rcases answer_cases (s := { s with depot := depotAfter c s }) (f := f) with next | fault
      · cases (form.trans next).symm.trans refused
      · cases (form.trans fault).symm.trans refused
  · rw [none] at form
    obtain ⟨b, form⟩ := form
    exact ⟨_, form⟩
  · rw [some] at form
    obtain ⟨f, form⟩ := form
    exact ⟨fun fits => ⟨_, form.trans (answer_fits (s := { s with depot := depotAfter c s }) fits)⟩,
      fun unfit => form.trans (answer_not_fits (s := { s with depot := depotAfter c s }) unfit)⟩

/-! ### The depot data areas -/

/-- A depot write keeps the canonical form. -/
theorem wf_depotWritten (n : Nat) (e : Ecc) (b : Block) {d : List Host.Cell} (h : Memory.wf d = true) :
    Memory.wf (depotWritten n e b d) = true := by
  unfold depotWritten
  split
  · split
    · exact wf_memWrite _ _ _ h
    · exact h
  · exact h

/-- Whatever a command does to the depot keeps the canonical form. -/
theorem wf_depotAfter (c : Instr) {s : State} (h : Memory.wf s.depot = true) : Memory.wf (depotAfter c s) = true := by
  unfold depotAfter
  split
  · exact wf_depotWritten _ _ _ h
  · split
    · exact wf_nil
    · exact h
  · split
    · exact wf_depotCut _ _ _ h
    · exact h
  · exact wf_depotMoved _ _ h
  · exact h

/-- Settles O3: time alone leaves the depot, and every command keeps its form. -/
theorem depotCanonicalFormIsKept : Obligations.DepotCanonicalFormIsKept := by
  intro s t canonical h
  unfold step at h
  split at h
  · cases h
    exact canonical
  · next c rest _ =>
    have after := (exec_next h).2
    unfold DepotCanonical
    rw [after]
    exact wf_depotAfter c (s := { s with pending := rest }) canonical

/-- A command that writes no depot leaves it. -/
theorem depotAfter_of_not_writesDepot {c : Instr} {s : State} (h : writesDepot c = false) : depotAfter c s = s.depot := by
  unfold depotAfter
  split
  · cases h
  · cases h
  · next stage =>
    cases stage with
    | final => cases h
    | uncommitted => rfl
    | committed => rfl
  · cases h
  · rfl

theorem exec_partitionResetDeadline (p : Nat) (stage : ResetStage) (s : State) :
    ∃ b, exec (.partitionResetDeadline p stage) s =
      .next { s with depot := if stage = .final ∧ scrubs s.blk p then depotCut p 0 s.depot else s.depot, blk := b } := ⟨_, rfl⟩

theorem exec_recomposeMoveDone_depot (s : State) :
    ∃ b, exec .recomposeMoveDone s = .next { s with depot := depotMoved s.blk s.depot, blk := b } := ⟨_, rfl⟩

theorem exec_depotZeroDone (s : State) : exec .depotZeroDone s =
    .next { s with depot := if phase s.blk = 3 then [] else s.depot, blk := zeroDone s.blk } := rfl

/-- Settles O8. -/
theorem onlyFourCommandsTouchTheDepot : Obligations.OnlyFourCommandsTouchTheDepot := by
  refine ⟨fun c s t writes h => (exec_next h).2.trans (depotAfter_of_not_writesDepot writes), fun s p => ?_⟩
  refine ⟨fun scrub => ?_, fun keep => ?_, fun stage early => ?_, fun still => ?_, fun zero => ?_, fun other => ?_⟩
  · obtain ⟨b, h⟩ := exec_partitionResetDeadline p .final s
    rw [if_pos ⟨rfl, scrub⟩] at h
    exact ⟨b, h, fun a inside => memByte_depotCut_in p 0 a s.depot ⟨inside, Nat.zero_le _⟩,
      fun a outside => memByte_depotCut_out p 0 a s.depot fun ⟨inside, _⟩ => outside inside⟩
  · obtain ⟨b, h⟩ := exec_partitionResetDeadline p .final s
    rw [if_neg (by simp [keep])] at h
    exact ⟨b, h⟩
  · obtain ⟨b, h⟩ := exec_partitionResetDeadline p stage s
    rw [if_neg fun ⟨final, _⟩ => early final] at h
    exact ⟨b, h⟩
  · obtain ⟨b, h⟩ := exec_recomposeMoveDone_depot s
    rw [depotMoved, still] at h
    exact ⟨b, h⟩
  · rw [exec_depotZeroDone, zeroDone, if_pos zero, if_pos zero]
  · rw [exec_depotZeroDone, zeroDone, if_neg other, if_neg other]

/-- The depot after the acknowledgement of a depot write holds the bytes sent. -/
theorem depotWritten_write {n : Nat} (e : Ecc) {b : Block} {t : Txn} {x : Nat} {bytes : List Byte} (found : tfind b.txns n = some t)
    (place : t.place = .depot x) (data : t.data = some bytes) (d : List Host.Cell) :
    depotWritten n e b d = memWrite d (depotAt t.part x) (bytes.take ((Ecc.bad t e).getD bytes.length)) := by
  simp only [depotWritten, found, place, data]

/-- The acknowledgement of anything else leaves the depot. -/
theorem depotWritten_other {n : Nat} {e : Ecc} {b : Block}
    (h : ∀ t x bytes, ¬ (tfind b.txns n = some t ∧ t.place = .depot x ∧ t.data = some bytes)) (d : List Host.Cell) :
    depotWritten n e b d = d := by
  unfold depotWritten
  split
  · next t found =>
    split
    · next x bytes place data => exact absurd ⟨found, place, data⟩ (h t x bytes)
    · rfl
  · rfl

theorem exec_depotWriteAck {n : Nat} {e : Ecc} {s : State} (opened : n < s.blk.nextTxn) : exec (.depotWriteAck n e) s =
    .next { s with depot := depotWritten n e s.blk s.depot, blk := settle (depotAck n e s.blk) } :=
  answer_fits (s := { s with depot := depotWritten n e s.blk s.depot }) (len := none) (answerFits_iff.mpr ⟨opened, fun _ _ => rfl⟩)

/-- Settles O7. -/
theorem depotWritesLandWhereTheyWereSent : Obligations.DepotWritesLandWhereTheyWereSent := by
  intro s n e opened
  refine ⟨_, ⟨_, exec_depotWriteAck opened⟩, fun t x bytes found place data => ?_, fun other => depotWritten_other other s.depot⟩
  rw [depotWritten_write e found place data]
  refine ⟨fun a outside => memByte_memWrite_other _ _ _ _ outside, fun canonical i hi => ?_⟩
  rw [memByte_memWrite_at _ _ _ _ canonical hi, List.getD_eq_getElem _ _ hi, List.getElem?_eq_getElem hi]

/-! ### What a signal leaves -/

section
variable {b c : Block} (h : SigOnly b c)
include h

theorem SigOnly.now : c.now = b.now := by
  simpa using congrArg Block.now h.rest
theorem SigOnly.fresh : c.fresh = b.fresh := by
  simpa using congrArg Block.fresh h.rest
theorem SigOnly.nextTxn : c.nextTxn = b.nextTxn := by
  simpa using congrArg Block.nextTxn h.rest
theorem SigOnly.txns : c.txns = b.txns := by
  simpa using congrArg Block.txns h.rest
theorem SigOnly.fuses : c.fuses = b.fuses := by
  simpa using congrArg Block.fuses h.rest
theorem SigOnly.sgServing : c.sgServing = b.sgServing := by
  simpa using congrArg Block.sgServing h.rest
theorem SigOnly.fhPart : c.fhPart = b.fhPart := by
  simpa using congrArg Block.fhPart h.rest
theorem SigOnly.halves : c.halves = b.halves := by
  simpa using congrArg Block.halves h.rest
theorem SigOnly.sq : c.sq = b.sq := by
  simpa using congrArg Block.sq h.rest
theorem SigOnly.he : c.he = b.he := by
  simpa using congrArg Block.he h.rest
theorem SigOnly.tu : c.tu = b.tu := by
  simpa using congrArg Block.tu h.rest
theorem SigOnly.pt : c.pt = b.pt := by
  simpa using congrArg Block.pt h.rest
theorem SigOnly.ft : c.ft = b.ft := by
  simpa using congrArg Block.ft h.rest
theorem SigOnly.ps : c.ps = b.ps := by
  simpa using congrArg Block.ps h.rest
theorem SigOnly.gov : c.gov = b.gov := by
  simpa using congrArg Block.gov h.rest
theorem SigOnly.ck : c.ck = b.ck := by
  simpa using congrArg Block.ck h.rest
theorem SigOnly.ce : c.ce = b.ce := by
  simpa using congrArg Block.ce h.rest
theorem SigOnly.en : c.en = b.en := by
  simpa using congrArg Block.en h.rest
theorem SigOnly.md : c.md = b.md := by
  simpa using congrArg Block.md h.rest
theorem SigOnly.cc : c.cc = b.cc := by
  simpa using congrArg Block.cc h.rest

end

/-! ### Time -/

/-- Time that goes on changes the time, and what the counters of clock cycles change (R668). -/
theorem timeTo_sigOnly (t : Nat) (b : Block) : ∃ c, SigOnly b c ∧ timeTo t b = { c with now := max t b.now } := by
  unfold timeTo
  split
  · next past => exact ⟨b, SigOnly.refl b, by rw [max_eq_right past]⟩
  · next ahead => exact ⟨_, sigOnly_each _ _ (fun _ _ => sigOnly_tcCount _ _ _ _ _) b, by rw [max_eq_left (by omega)]⟩

/-- Settles O2. -/
theorem idleStepPassesOneNanosecond : Obligations.IdleStepPassesOneNanosecond := by
  intro s empty
  obtain ⟨c, sig, later⟩ := timeTo_sigOnly (s.blk.now + 1) s.blk
  refine ⟨timeTo (s.blk.now + 1) s.blk, step_nil s empty, ?_⟩
  rw [later]
  exact ⟨max_eq_left (by omega), sig.he, sig.sq, sig.txns, sig.ft, sig.tu, sig.ps, sig.cc,
    fun i hi => sig.regs .fhSrcStatus i rfl (by omega)⟩

/-! ### Registers after a field was set -/

/-- Setting a field leaves the fields of every other register. -/
theorem fget_fput_elsewhere {f g : Fld} {i j : Nat} (v : Nat) (b : Block) (hr : g.reg ≠ f.reg) (hi : i < 2 ^ 32) (hj : j < 2 ^ 32) :
    fget (fput f i v b) g j = fget b g j := fget_fput_reg f g i j v b (regKey_ne hr hj hi)

/-- A field that is set to a value that it can hold reads as that value. -/
theorem fget_fput_fits {f : Fld} {v : Nat} (i : Nat) (b : Block) (h : f.hi < 64) (hv : v < 2 ^ (f.hi + 1 - f.lo)) :
    fget (fput f i v b) f i = v := by rw [fget_fput_same f i v b h, Nat.mod_eq_of_lt hv]

/-! ### Resets -/

/-- Settles O4. -/
theorem resetHoldsTheStatedValues : Obligations.ResetHoldsTheStatedValues := by
  have depth : ∀ p, rget State.reset.blk .tuPartCtl p = rget State.reset.blk .tuPartCtl 0 := fun _ => rfl
  refine ⟨rfl, rfl, rfl, rfl, rfl, rfl, rfl, fun _ _ => rfl, by decide, fun p => ?_, by decide, by decide⟩
  simp only [fget, F.tuPartCtlHoldLimit, F.tuPartCtlDepth, depth p]
  decide

/-- Settles O10: at power-on no register is stored, and then COLD of CK_START is set. -/
theorem powerOnKeepsOnlyStoredValues : Obligations.PowerOnKeepsOnlyStoredValues := by
  intro s f
  refine ⟨powerOn f s.blk, rfl, rfl, fget_fput_fits 0 _ (by decide) (by decide), ?_, fun r i other hi => ?_,
    rfl, rfl, rfl, rfl, rfl, rfl, rfl, rfl, rfl, rfl, rfl, rfl, rfl⟩
  · rw [phase, powerOn, fget_fput_field F.ckStartCold F.ckStartPhase 0 1 _ rfl (by decide) (by decide)]
    exact (by decide : fget State.reset.blk F.ckStartPhase 0 = 0)
  · exact rget_fput_other _ _ _ _ _ _ (regKey_ne other hi (by decide))

end Sys2Proof.Laws

/-!
The fault hub and the reset of the block: what a capture holds, what the rungs of a fatal fault do, and what start-up, a block reset and a
dump leave.
-/
namespace Sys2Proof.Laws

open Sys2Proof Sys2Proof.Machine Sys2Proof.Safety

/-! ### A command on the block -/

/-- A command on the block alone, by what it makes of the block. -/
theorem run_eq {f : Block → Block} {s : State} {b : Block} (h : f s.blk = b) : run f s = .next { s with blk := b } := by
  rw [run_next, h]

/-- A command after which the work that can go on does, by what it makes of the block before that. -/
theorem run_settle_eq {f : Block → Block} {s : State} {b : Block} (h : f s.blk = b) :
    run (fun b => settle (f b)) s = .next { s with blk := settle b } := by rw [run_next, h]

/-! ### Changes made in turn -/

/-- What each change leaves, all of them in turn leave. -/
theorem each_keeps {α β σ : Type} (g : σ → β) (l : List α) (f : α → σ → σ) (h : ∀ a ∈ l, ∀ b, g (f a b) = g b) (b : σ) :
    g (each l f b) = g b := by
  induction l generalizing b with
  | nil => rfl
  | cons a l ih =>
    have ⟨first, rest⟩ := List.forall_mem_cons.mp h
    exact (ih rest _).trans (first b)

theorem eachN_keeps {β σ : Type} (g : σ → β) (n : Nat) (f : Nat → σ → σ) (h : ∀ k, k < n → ∀ b, g (f k b) = g b) (b : σ) :
    g (eachN n f b) = g b := each_keeps g _ f (fun k hk => h k (List.mem_range.mp hk)) b

/-- A field that is set in each copy of a list reads as what was set. -/
theorem fget_each_fput {f : Fld} {v : Nat} (hf : f.hi < 64) (hv : v < 2 ^ (f.hi + 1 - f.lo)) {l : List Nat} {k : Nat} {b : Block}
    (h : k ∈ l ∨ fget b f k = v) : fget (each l (fun j c => fput f j v c) b) f k = v := by
  induction l generalizing b with
  | nil => exact h.resolve_left (by simp)
  | cons j l ih =>
    refine ih ?_
    by_cases same : k = j
    · exact .inr (same ▸ fget_fput_fits j b hf hv)
    · refine h.imp (fun mem => (List.mem_cons.mp mem).resolve_left same) fun holds => ?_
      rw [fget_fput_reg f f j k v b (regKey_copy_ne same), holds]

/-! ### What a note of the fault hub leaves -/

section
variable {b c : Block} (h : NoteOnly b c)
include h

theorem NoteOnly.now : c.now = b.now := by
  simpa using congrArg Block.now h.rest
theorem NoteOnly.fresh : c.fresh = b.fresh := by
  simpa using congrArg Block.fresh h.rest
theorem NoteOnly.nextTxn : c.nextTxn = b.nextTxn := by
  simpa using congrArg Block.nextTxn h.rest
theorem NoteOnly.txns : c.txns = b.txns := by
  simpa using congrArg Block.txns h.rest
theorem NoteOnly.fuses : c.fuses = b.fuses := by
  simpa using congrArg Block.fuses h.rest
theorem NoteOnly.sgServing : c.sgServing = b.sgServing := by
  simpa using congrArg Block.sgServing h.rest
theorem NoteOnly.halves : c.halves = b.halves := by
  simpa using congrArg Block.halves h.rest
theorem NoteOnly.sq : c.sq = b.sq := by
  simpa using congrArg Block.sq h.rest
theorem NoteOnly.he : c.he = b.he := by
  simpa using congrArg Block.he h.rest
theorem NoteOnly.pt : c.pt = b.pt := by
  simpa using congrArg Block.pt h.rest
theorem NoteOnly.ft : c.ft = b.ft := by
  simpa using congrArg Block.ft h.rest
theorem NoteOnly.ps : c.ps = b.ps := by
  simpa using congrArg Block.ps h.rest
theorem NoteOnly.gov : c.gov = b.gov := by
  simpa using congrArg Block.gov h.rest
theorem NoteOnly.ck : c.ck = b.ck := by
  simpa using congrArg Block.ck h.rest
theorem NoteOnly.ce : c.ce = b.ce := by
  simpa using congrArg Block.ce h.rest
theorem NoteOnly.en : c.en = b.en := by
  simpa using congrArg Block.en h.rest
theorem NoteOnly.md : c.md = b.md := by
  simpa using congrArg Block.md h.rest
theorem NoteOnly.cc : c.cc = b.cc := by
  simpa using congrArg Block.cc h.rest

theorem NoteOnly.fget {f : Fld} {i : Nat} (note : noteReg f.reg i = false) (hi : i < 2 ^ 32) : fget c f i = fget b f i :=
  congrArg (fun w => qbits w f.hi f.lo) (h.regs f.reg i note hi)

end

theorem SigOnly.fget {b c : Block} (h : SigOnly b c) {f : Fld} {i : Nat} (sig : sigReg f.reg = false) (hi : i < 2 ^ 32) :
    fget c f i = fget b f i :=
  congrArg (fun w => qbits w f.hi f.lo) (h.regs f.reg i sig hi)

/-! ### Captures (R561, R574) -/

/-- A list that a number was removed from does not hold it. -/
theorem not_mem_srem (x : Nat) (l : List Nat) : x ∉ srem x l := by simp [srem]

/-- Only the sources of the hub have a class (R559, R560). -/
theorem fhClass_none {s : Nat} (h : 512 ≤ s) : fhClass s = none := by
  unfold fhClass
  repeat rw [if_neg (by omega)]

theorem fhClass_lt {s cls : Nat} (h : fhClass s = some cls) : s < 512 ∧ cls < 4 := by
  have small : ∀ s < 512, (fhClass s).all (· < 4) = true := by decide +kernel
  by_cases hs : s < 512
  · have below := small s hs
    rw [h] at below
    exact ⟨hs, by simpa using below⟩
  · rw [fhClass_none (by omega)] at h
    cases h

theorem fhStart_lt (s : Nat) : fhStart s < 8 := by
  unfold fhStart
  split
  · decide
  · split_ifs
    · split <;> decide
    · decide
  · decide

theorem objCode_lt (o : Obj) : o.code.1 < 16 := by cases o <;> simp [Obj.code]

/-- The capture of a source before its timer is looked at: its class, starting rung, count and object (R561, R574). -/
def captureSet (s cls : Nat) (part : Option Nat) (o : Obj) (b : Block) : Block :=
  fput F.fhSrcStatusObject s o.code.2 <| fput F.fhSrcStatusKind s o.code.1 <| fput F.fhSrcStatusPartition s (part.getD 0) <|
    fput F.fhSrcStatusCount s 1 <| fput F.fhSrcStatusRung s (fhStart s) <| fput F.fhSrcStatusClass s cls <|
    fput F.fhSrcStatusCaptured s 1 { b with fhPart := if part.isSome then sins s b.fhPart else srem s b.fhPart }

/-- The capture, told to the first capture of the block and to its interrupt source. -/
theorem fhCapture_eq (s cls : Nat) (part : Option Nat) (o : Obj) (b : Block) : fhCapture s cls part o b =
    sgAssert (1024 + s) (fhFirst s cls (part.getD 0)
      (fput F.fhSrcStatusEscalating s (b2n (fhRuns (captureSet s cls part o b) s)) (captureSet s cls part o b))) := rfl

/-- What is told of a capture leaves the captures. -/
theorem srcStatus_fhFirst {s : Nat} (k cls part : Nat) (hs : s < 2 ^ 32) (b : Block) :
    rget (fhFirst k cls part b) .fhSrcStatus s = rget b .fhSrcStatus s := by
  have field : ∀ f : Fld, f.reg = .fhFirst → ∀ v c, rget (fput f 0 v c) .fhSrcStatus s = rget c .fhSrcStatus s := fun f hf v c =>
    rget_fput_other _ _ _ _ _ _ (regKey_ne (by rw [hf]; decide) hs (by decide))
  unfold fhFirst
  split
  · rfl
  · rw [rget_rput_other _ _ _ _ _ _ (regKey_ne (by decide) hs (by decide)), field _ rfl, field _ rfl, field _ rfl, field _ rfl]

theorem srcStatus_sgAssert {s : Nat} (k : Nat) (hs : s < 2 ^ 32) (b : Block) :
    rget (sgAssert k b) .fhSrcStatus s = rget b .fhSrcStatus s := (sigOnly_sgAssert k b).regs .fhSrcStatus s rfl hs

/-- The fields of a capture but ESCALATING are those of `captureSet`. -/
theorem fget_fhCapture {s : Nat} (cls : Nat) (part : Option Nat) (o : Obj) (b : Block) {f : Fld} (hs : s < 2 ^ 32)
    (hf : f.reg = .fhSrcStatus) (hi : f.hi < 64) (apart : 57 < f.lo ∨ f.hi < 57) :
    fget (fhCapture s cls part o b) f s = fget (captureSet s cls part o b) f s := by
  have told : rget (fhCapture s cls part o b) f.reg s = rget (fput F.fhSrcStatusEscalating s
      (b2n (fhRuns (captureSet s cls part o b) s)) (captureSet s cls part o b)) f.reg s := by
    rw [fhCapture_eq, hf, srcStatus_sgAssert _ hs, srcStatus_fhFirst _ _ _ hs]
  rw [fget, told]
  exact fget_fput_field F.fhSrcStatusEscalating f s _ _ hf hi apart

/-- What a capture holds. -/
theorem fhCapture_holds {s cls : Nat} (part : Option Nat) (o : Obj) (b : Block) (hs : s < 512) (hc : cls < 4) :
    let c := fhCapture s cls part o b
    fget c F.fhSrcStatusCaptured s = 1 ∧ fget c F.fhSrcStatusClass s = cls ∧ fget c F.fhSrcStatusRung s = fhStart s ∧
      fget c F.fhSrcStatusCount s = 1 ∧ fget c F.fhSrcStatusKind s = o.code.1 ∧ fget c F.fhSrcStatusObject s = o.code.2 % 2 ^ 32 := by
  have h32 : s < 2 ^ 32 := by omega
  have start := fhStart_lt s
  have code := objCode_lt o
  refine ⟨?_, ?_, ?_, ?_, ?_, ?_⟩ <;> rw [fget_fhCapture cls part o b h32 rfl (by decide) (by decide), captureSet] <;>
    simp (disch := decide) only [fget_fput_field, fget_fput_same]
  · decide
  · exact Nat.mod_eq_of_lt hc
  · exact Nat.mod_eq_of_lt start
  · decide
  · exact Nat.mod_eq_of_lt code
  · rfl

/-- An enabled source of a block that is not stopped, with nothing captured, is captured and counted (R561, R575). -/
theorem fhRecord_captures {s cls : Nat} {o : Obj} {part : Option Nat} {b : Block} (class_ : fhClass s = some cls) (runs : stopped b = false)
    (enabled : fhEnabled b s = true) (free : fon b F.fhSrcStatusCaptured s = false) : fhRecord s o part false b =
      fhCapture s cls (if 256 ≤ s then some ((s - 256) / 16) else part) o (fbump F.fhSrcCtlTotal s 1 b) := by
  have hs : s < 2 ^ 32 := by have := fhClass_lt class_; omega
  have counted : ∀ f : Fld, ∀ i, f.reg ≠ .fhSrcCtl → i < 2 ^ 32 → fget (fbump F.fhSrcCtlTotal s 1 b) f i = fget b f i :=
    fun f i hf hi => fget_fput_elsewhere _ _ hf hs hi
  have runs' : stopped (fbump F.fhSrcCtlTotal s 1 b) = false := by
    rw [stopped, fon, counted _ _ (by decide) (by decide)]; exact runs
  have enabled' : fhEnabled (fbump F.fhSrcCtlTotal s 1 b) s = true := by
    rw [fhEnabled, fon, fbump, fget_fput_field F.fhSrcCtlTotal F.fhSrcCtlEnable s _ _ rfl (by decide) (by decide)]; exact enabled
  have free' : fon (fbump F.fhSrcCtlTotal s 1 b) F.fhSrcStatusCaptured s = false := by
    rw [fon, counted _ _ (by decide) hs]; exact free
  simp only [fhRecord, class_, runs', enabled', free']
  rfl

/-- A capture leaves the counts of its source. -/
theorem total_fhCapture {s : Nat} (cls : Nat) (part : Option Nat) (o : Obj) (b : Block) (hs : s < 2 ^ 32) :
    fget (fhCapture s cls part o b) F.fhSrcCtlTotal s = fget b F.fhSrcCtlTotal s := by
  have status : ∀ f : Fld, f.reg = .fhSrcStatus → ∀ v c, rget (fput f s v c) .fhSrcCtl s = rget c .fhSrcCtl s := fun f hf v c =>
    rget_fput_other _ _ _ _ _ _ (regKey_ne (by rw [hf]; decide) hs hs)
  have first : ∀ f : Fld, f.reg = .fhFirst → ∀ v c, rget (fput f 0 v c) .fhSrcCtl s = rget c .fhSrcCtl s := fun f hf v c =>
    rget_fput_other _ _ _ _ _ _ (regKey_ne (by rw [hf]; decide) hs (by decide))
  have told : ∀ k p c, rget (fhFirst s k p c) .fhSrcCtl s = rget c .fhSrcCtl s := by
    intro k p c
    unfold fhFirst
    split
    · rfl
    · rw [rget_rput_other _ _ _ _ _ _ (regKey_ne (by decide) hs (by decide)), first _ rfl, first _ rfl, first _ rfl, first _ rfl]
  have kept : rget (fhCapture s cls part o b) .fhSrcCtl s = rget b .fhSrcCtl s := by
    rw [fhCapture_eq, (sigOnly_sgAssert _ _).regs .fhSrcCtl s rfl hs, told, status _ rfl, captureSet, status _ rfl, status _ rfl, status _ rfl,
      status _ rfl, status _ rfl, status _ rfl, status _ rfl]
    rfl
  exact congrArg (fun w => qbits w _ _) kept

/-- Raising a source that is captured by it then has the effects of its starting rung, from rung 2 on (R563). -/
theorem fhRaise_captures {s cls : Nat} {o : Obj} {part : Option Nat} {b : Block} (class_ : fhClass s = some cls) (runs : stopped b = false)
    (enabled : fhEnabled b s = true) (free : fon b F.fhSrcStatusCaptured s = false) :
    let c := fhRecord s o part false b
    fhRaise s o part false b = if 2 ≤ fhStart s then rungEffects s (fhStart s) c else c := by
  have ⟨hs, hc⟩ := fhClass_lt class_
  obtain ⟨captured, -, rung, -⟩ := fhCapture_holds (if 256 ≤ s then some ((s - 256) / 16) else part) o (fbump F.fhSrcCtlTotal s 1 b) hs hc
  rw [← fhRecord_captures class_ runs enabled free] at captured rung
  have on : fon (fhRecord s o part false b) F.fhSrcStatusCaptured s = true := beq_iff_eq.mpr captured
  simp only [fhRaise, free, on, rung, Bool.true_and, Bool.false_eq_true, if_false, Bool.and_eq_true, decide_eq_true_eq]
  by_cases acts : 2 ≤ fhStart s
  · rw [if_pos ⟨by omega, acts⟩, if_pos acts]
  · rw [if_neg fun both => acts both.2, if_neg acts]

/-! ### A block stop -/

/-- A block stop stops the block, after a dump, and leaves what a signal leaves (R566). -/
theorem blockStop_eq (b : Block) : ∃ c, SigOnly b c ∧ (blockStop b = c ∧ stopped b = true ∨ blockStop b = fput F.fhCtlStopped 0 1 c) := by
  unfold blockStop
  split
  · next stop => exact ⟨b, SigOnly.refl b, .inl ⟨rfl, stop⟩⟩
  · exact ⟨_, sigOnly_dumpTrigger 1 b, .inr rfl⟩

theorem stopped_blockStop (b : Block) : stopped (blockStop b) = true := by
  obtain ⟨c, _, ⟨same, stop⟩ | stops⟩ := blockStop_eq b
  · rwa [blockStop, if_pos stop]
  · rw [stops, stopped, fon, fget_fput_same _ _ _ _ (by decide)]; decide

theorem blockStop_he (b : Block) : (blockStop b).he = b.he := by
  obtain ⟨c, sig, ⟨same, _⟩ | stops⟩ := blockStop_eq b
  · rw [same, sig.he]
  · rw [stops, fput_he, sig.he]

theorem blockStop_sq (b : Block) : (blockStop b).sq = b.sq := by
  obtain ⟨c, sig, ⟨same, _⟩ | stops⟩ := blockStop_eq b
  · rw [same, sig.sq]
  · rw [stops, fput_sq, sig.sq]

theorem fget_blockStop {f : Fld} {i : Nat} (b : Block) (sig : sigReg f.reg = false) (hf : f.reg ≠ .fhCtl) (hi : i < 2 ^ 32) :
    fget (blockStop b) f i = fget b f i := by
  obtain ⟨c, only, ⟨same, _⟩ | stops⟩ := blockStop_eq b
  · rw [same, only.fget sig hi]
  · rw [stops, fget_fput_elsewhere _ _ hf (by decide) hi, only.fget sig hi]

/-- Rung 4 of a fault that names no ring and no partition stops the block and does nothing else (R563). -/
theorem rungEffects_fatal {s : Nat} {b : Block} (kind : fget b F.fhSrcStatusKind s ≠ 1) (part : s ∉ b.fhPart) :
    rungEffects s 4 b = blockStop b := by
  simp [rungEffects, kind, part]

/-! ### The steps of start-up (R709) -/

/-- What the fuse load brings, before a load error is told (R709 steps 2 to 4). -/
def fuseLoaded (b : Block) : Block :=
  let b := rput .idProtFrame 0 (b.fuses.frame &&& Reg.bitsOf .idProtFrame (fun _ => true)) (phaseSet 2 b)
  let b := eachN 12 (fun t b => fput F.ckTileEffective t 900 b) b
  let b := eachN (variant b).hostPorts (fun h b => fput F.hpPortStatusLstate h 5 (fput F.hpPortStatusProto h 3 b)) b
  let b := enReady b
  { b with ce := { b.ce with wrap := some b.fresh }, fresh := b.fresh + 8 }

theorem fuseLoaded_fuses (b : Block) : (fuseLoaded b).fuses = b.fuses := by
  have ports : ∀ n c, (eachN n (fun h b => fput F.hpPortStatusLstate h 5 (fput F.hpPortStatusProto h 3 b)) c).fuses = c.fuses := by
    intro n c
    refine eachN_keeps (fun b : Block => b.fuses) _ _ (fun _ _ _ => ?_) _
    rfl
  have tiles : ∀ c, (eachN 12 (fun t b => fput F.ckTileEffective t 900 b) c).fuses = c.fuses := by
    intro c
    refine eachN_keeps (fun b : Block => b.fuses) _ _ (fun _ _ _ => ?_) _
    rfl
  simp only [fuseLoaded, enReady, reseed, phaseSet, modEn_fuses, fput_fuses, rput_fuses, ports, tiles]

theorem fuseDone_eq {b : Block} (h : phase b = 0) :
    fuseDone b = if b.fuses.loadError then fhRaise 0 .none none false (fuseLoaded b) else fuseLoaded b := by
  rw [← fuseLoaded_fuses b, fuseDone, if_neg (not_not_intro h)]
  rfl

/-- No variant has more than two host ports (R2). -/
theorem hostPorts_le (b : Block) : (variant b).hostPorts ≤ 2 := by
  have most : ∀ code, (variantOf code).hostPorts ≤ 2 := by
    intro code
    unfold variantOf
    split <;> decide
  exact most _

/-- The host ports and the entropy source leave every register of start-up and of the tiles. -/
theorem fget_fuseLoaded {f : Fld} {i : Nat} (b : Block) (hp : f.reg ≠ .hpPortStatus) (en : f.reg ≠ .enStatus) (hi : i < 2 ^ 32) :
    fget (fuseLoaded b) f i = fget (eachN 12 (fun t b => fput F.ckTileEffective t 900 b)
      (rput .idProtFrame 0 (b.fuses.frame &&& Reg.bitsOf .idProtFrame (fun _ => true)) (phaseSet 2 b))) f i := by
  have ready : ∀ c, fget (enReady c) f i = fget c f i := fun c => fget_fput_elsewhere (f := F.enStatusState) 1 c en (by decide) hi
  refine (ready _).trans (eachN_keeps (fun b => fget b f i) _ _ (fun h small c => ?_) _)
  have := hostPorts_le (eachN 12 (fun t b => fput F.ckTileEffective t 900 b)
      (rput .idProtFrame 0 (b.fuses.frame &&& Reg.bitsOf .idProtFrame (fun _ => true)) (phaseSet 2 b)))
  have small : h < 2 ^ 32 := by omega
  exact (fget_fput_elsewhere _ _ hp small hi).trans (fget_fput_elsewhere _ _ hp small hi)

theorem fuseLoaded_holds (b : Block) :
    phase (fuseLoaded b) = 2 ∧ (∀ t, t < 12 → fget (fuseLoaded b) F.ckTileEffective t = 900) ∧
      fget (fuseLoaded b) F.enStatusState 0 = 1 ∧ (fuseLoaded b).ce.wrap.isSome = true := by
  refine ⟨?_, fun t ht => ?_, fget_fput_fits (f := F.enStatusState) 0 _ (by decide) (by decide), rfl⟩
  · refine (fget_fuseLoaded b (by decide) (by decide) (by decide)).trans ?_
    refine (eachN_keeps (fun b => fget b F.ckStartPhase 0) _ _ (fun t ht c => ?_) _).trans ?_
    · exact fget_fput_elsewhere _ _ (by decide) (by omega) (by decide)
    · refine (congrArg (fun w => qbits w 63 61) (rget_rput_other .idProtFrame .ckStart 0 0 _ _ (by decide))).trans ?_
      exact fget_fput_fits (f := F.ckStartPhase) 0 _ (by decide) (by decide)
  · rw [fget_fuseLoaded b (by decide) (by decide) (by omega)]
    exact fget_each_fput (by decide) (by decide) (.inl (List.mem_range.mpr ht))

/-- A tile that moves to its target leaves every register but its own. -/
theorem fget_tileSet {f : Fld} {i : Nat} (t : Nat) (b : Block) (hf : f.reg ≠ .ckTile) (hi : i < 2 ^ 32) :
    fget (tileSet t b) f i = fget b f i := by
  unfold tileSet
  split
  · next moves => exact fget_fput_elsewhere _ _ hf (by omega) hi
  · rfl

/-- Configuration is ready (R709 step 8, R710). -/
theorem ready_holds (us : Nat) (b : Block) :
    phase (ready us b) = 5 ∧ fget (ready us b) F.ckStartReadyUs 0 = (if us < 2 ^ 32 then us else 2 ^ 32 - 1) ∧
      (ready us b).hp.retry = (ready us b).hp.perst := by
  have start : ∀ f : Fld, f.reg = .ckStart → fget (ready us b) f 0 =
      fget (fput F.ckStartReadyUs 0 (if us < 2 ^ 32 then us else 2 ^ 32 - 1) (phaseSet 5 b)) f 0 := fun f hf =>
    eachN_keeps (fun b => fget b f 0) _ _ (fun t _ c => fget_tileSet t c (by rw [hf]; decide) (by decide)) _
  refine ⟨?_, ?_, rfl⟩
  · rw [phase, start _ rfl, fget_fput_field F.ckStartReadyUs F.ckStartPhase 0 _ _ rfl (by decide) (by decide), phaseSet,
      fget_fput_fits 0 _ (by decide) (by decide)]
  · rw [start _ rfl]
    refine fget_fput_fits 0 _ (by decide) ?_
    show _ < 2 ^ 32
    split <;> omega

/-- Settles O9. -/
theorem startUpRunsItsSteps : Obligations.StartUpRunsItsSteps := by
  intro s us
  refine ⟨fun zero => ⟨fuseLoaded s.blk, ?_, fuseLoaded_holds s.blk⟩, fun two => ?_, fun four => ?_, fun four => ?_, fun other => ?_,
    fun other => ?_, fun other => ?_⟩
  · rw [← fuseDone_eq zero]
    rfl
  · exact run_eq (if_pos two)
  · refine ⟨ready us (dictLoad s.blk.md.stored s.blk), ?_, ready_holds us _⟩
    exact run_eq (if_pos four)
  · refine ⟨ready us (fput F.ckStartDefaulted 0 1 (dictLoad [] s.blk)), ?_, ready_holds us _⟩
    exact run_eq (if_pos four)
  · exact run_eq (if_pos other)
  · exact run_eq (if_neg other)
  · exact run_eq (if_neg other)

/-! ### Dumps (R688-R695) -/

/-- The messages and records of a signal leave the dump that is in progress. -/
theorem emitSignal_dumping (h : Nat) (m : Msg) (b : Block) : (emitSignal h m b).tc = b.tc := by
  unfold emitSignal
  dsimp only
  split
  · rfl
  · refine each_keeps (fun b : Block => b.tc) _ _ (fun k _ c => ?_) _
    split
    · split <;> rfl
    · rfl

theorem msixSignal_tc (fn vec : Nat) (b : Block) : (msixSignal fn vec b).tc = b.tc := by
  unfold msixSignal hostWake
  split
  · rw [emitSignal_dumping]
    split <;> rfl
  · rfl

theorem errorSend_tc (h sev : Nat) (b : Block) : (errorSend h sev b).tc = b.tc := by
  unfold errorSend
  rw [emitSignal_dumping]
  split <;> rfl

/-- Nothing that a trigger does ends a dump in progress. -/
theorem sgAct_dumping (n : Nat) : ∀ (t : Trig) (b : Block), b.tc.dumping.isSome = true → (sgAct n t b).tc.dumping.isSome = true := by
  induction n with
  | zero => intro t b h; exact h
  | succ n ih =>
    intro t b h
    cases t with
    | freeze cause at_ =>
      simp only [sgAct]
      split
      · exact h
      · exact ih _ _ h
    | dump reason =>
      simp only [sgAct]
      split
      · exact h
      · split
        · exact h
        · exact ih _ _ rfl
    | assert s =>
      simp only [sgAct]
      have marked : ∀ n on c, (sgSetCount s n (sgSetPending s on c)).tc = c.tc := fun _ _ _ => rfl
      split_ifs <;> simp only [marked, emit_tc, msixSignal_tc, errorSend_tc, ih, h]

/-- A dump that takes a slot is in progress (R690). -/
theorem dumpTrigger_takes {b : Block} {reason slot : Nat} (free : b.tc.dumping = none) (takes : dumpSlot b reason = some slot) :
    (dumpTrigger reason b).tc.dumping.isSome = true := by
  have begins : dumpTrigger reason b = sgAct 4 (.freeze 5 b.now) (dumpBegin reason slot b) := by
    simp [dumpTrigger, sgAct, free, takes]
  rw [begins]
  exact sgAct_dumping _ _ _ rfl

/-- A dump that is written: its slot is complete, and no dump is in progress (R695). -/
def dumpClosed (slot : Nat) (d : Dump) (b : Block) : Block :=
  fput F.tcDumpCtlBusy 0 0 <| fput F.tcDumpStatusComplete slot 1 <|
    modTc (fun t => { t with dumps := tput t.dumps slot { d with ended := b.now, body := dumpBody b d }, dumping := none }) b

theorem dumpComplete_eq {slot : Nat} {d : Dump} {b : Block} (dumping : b.tc.dumping = some slot) (held : tfind b.tc.dumps slot = some d) :
    dumpComplete b = sgAssert 1823 (dumpClosed slot d b) := by
  simp only [dumpComplete, dumping, held]
  rfl

/-- The end of a dump says nothing of a reset that waits for it. -/
theorem dumpComplete_ck (b : Block) : (dumpComplete b).ck = b.ck := by
  unfold dumpComplete
  split
  · rfl
  · split
    · rfl
    · rw [(sigOnly_sgAssert _ _).ck]
      rfl

/-! ### A block reset (R707, R708) -/

/-- A register that a block reset keeps reads as before, and every other but the count of refused dumps is at its reset value. -/
theorem rget_blockClear {r : Reg} {i : Nat} (b : Block) (hr : r ≠ .tcDumpCtl) (hi : i < 2 ^ 32) :
    rget (blockClear b) r i = if r ∈ stickyRegs then rget b r i else regReset r i := by
  have held : ∀ v c, rget (fput F.tcDumpCtlIgnored 0 v c) r i = rget c r i := fun v c =>
    rget_fput_other _ _ _ _ _ _ (regKey_ne hr hi (by decide))
  have code : regKey r i / 2 ^ 32 = r.code := by simp only [regKey]; omega
  have sticky : (stickyRegs.any fun q => q.code == regKey r i / 2 ^ 32) = decide (r ∈ stickyRegs) := by
    rw [code, Bool.eq_iff_iff, List.any_eq_true, decide_eq_true_eq]
    refine ⟨fun ⟨q, mem, same⟩ => code_inj (beq_iff_eq.mp same) ▸ mem, fun mem => ⟨r, mem, beq_iff_eq.mpr rfl⟩⟩
  have filtered := tfind_filter_key b.regs (fun k => stickyRegs.any fun q => q.code == k / 2 ^ 32) (regKey r i)
  rw [sticky] at filtered
  have kept : ∀ c : Block, c.regs = b.regs.filter (fun e => stickyRegs.any fun q => q.code == e.1 / 2 ^ 32) →
      rget c r i = if r ∈ stickyRegs then rget b r i else regReset r i := by
    intro c hc
    rw [rget, hc, filtered]
    by_cases mem : r ∈ stickyRegs <;> simp [mem, rget]
  unfold blockClear
  dsimp only
  split
  · exact kept _ rfl
  · exact (held _ _).trans (kept _ rfl)

/-- What a block reset leaves in the records of the units. -/
theorem blockClear_holds (b : Block) : (blockClear b).he.items = [] ∧ (blockClear b).he.logs = [] ∧ (blockClear b).sq.rings = [] ∧
    (blockClear b).ft.qps = [] ∧ (blockClear b).ce.slots = [] ∧ (blockClear b).ps.sched = none ∧ (blockClear b).tu.slots = [] ∧
    (blockClear b).md.sessions = [] ∧ (blockClear b).tc.dumps = b.tc.dumps := by
  unfold blockClear
  dsimp only
  split <;> exact ⟨rfl, rfl, rfl, rfl, rfl, rfl, rfl, rfl, rfl⟩

theorem phase_blockClear (b : Block) : phase (blockClear b) = 0 := by
  rw [phase, fget, rget_blockClear b (by decide) (by decide), if_neg (by decide)]
  decide

/-- Settles O11. -/
theorem blockResetKeepsCapturesAndDumps : Obligations.BlockResetKeepsCapturesAndDumps := by
  intro s
  refine ⟨fun idle runs free takes => ?_, fun idle stop free => ?_, fun none => ?_, fun some => ?_, fun n d dumping hn hd => ?_⟩
  · obtain ⟨n, takes⟩ := takes
    have dumps := dumpTrigger_takes free takes
    have only := sigOnly_dumpTrigger 4 s.blk
    have waits : blockReset s.blk = modCk (fun k => { k with resetting := true }) (fput F.fhCtlStopped 0 1 (dumpTrigger 4 s.blk)) := by
      simp [blockReset, idle, runs, free, dumps]
    refine ⟨blockReset s.blk, rfl, ?_⟩
    rw [waits]
    refine ⟨rfl, dumps, ?_, congrArg He.items only.he⟩
    exact beq_iff_eq.mpr (fget_fput_fits (f := F.fhCtlStopped) 0 (dumpTrigger 4 s.blk) (by decide) (by decide))
  · have clears : blockReset s.blk = blockClear s.blk := by simp [blockReset, idle, stop, free]
    refine ⟨blockReset s.blk, rfl, ?_⟩
    rw [clears]
    obtain ⟨items, logs, rings, qps, slots, sched, tslots, sessions, dumps⟩ := blockClear_holds s.blk
    have kept : ∀ r i, r ∈ stickyRegs → i < 2 ^ 32 → rget (blockClear s.blk) r i = rget s.blk r i := fun r i mem hi =>
      (rget_blockClear s.blk (by rintro rfl; exact absurd mem (by decide)) hi).trans (if_pos mem)
    exact ⟨items, logs, rings, qps, slots, sched, tslots, sessions, phase_blockClear s.blk, dumps,
      fun i hi => kept _ i (by decide) (by omega), kept _ 0 (by decide) (by decide), kept _ 0 (by decide) (by decide),
      fun i hi => kept _ i (by decide) (by omega), fun r i other hr hi => (rget_blockClear s.blk hr hi).trans (if_neg other)⟩
  · have same : dumpEnd s.blk = s.blk := by simp [dumpEnd, none]
    exact run_eq same
  · have ends : dumpEnd s.blk = if s.blk.ck.resetting then blockClear (dumpComplete s.blk) else dumpComplete s.blk := by
      simp [dumpEnd, some, dumpComplete_ck]
    refine ⟨dumpEnd s.blk, rfl, fun waits => ?_, fun alone => ?_⟩
    · rw [ends, waits]; rfl
    · rw [ends, alone]; rfl
  · refine ⟨_, dumpComplete_eq dumping hd, rfl, ?_, fget_fput_fits 0 _ (by decide) (by decide), rfl⟩
    rw [dumpClosed, fget_fput_elsewhere _ _ (by decide) (by decide) (by omega), fget_fput_fits n _ (by decide) (by decide)]

end Sys2Proof.Laws

/-!
Clocks and power: tile frequencies, temperatures, supplies and the ramp governor.
-/
namespace Sys2Proof.Laws

open Sys2Proof Sys2Proof.Machine Sys2Proof.Safety

/-! ### Tile frequencies (R703) -/

theorem clamp_bounds {lo hi : Nat} (h : lo ≤ hi) (x : Nat) : lo ≤ clamp lo hi x ∧ clamp lo hi x ≤ hi := by
  unfold clamp
  split_ifs <;> omega

/-- A value between two bounds stays between them when it is clamped to others that meet them. -/
theorem clamp_stays {lo hi lo' hi' x : Nat} (lower : lo ≤ x) (upper : x ≤ hi) (meets : lo' ≤ hi) (meets' : lo ≤ hi') :
    lo ≤ clamp lo' hi' x ∧ clamp lo' hi' x ≤ hi := by
  unfold clamp
  split_ifs <;> omega

/-- Clamped to each of a list of ranges that meet each other in pairs, a value ends within all of them. -/
theorem foldl_clamp_within {α : Type} {lo hi : α → Nat} {done todo : List α} {x : Nat} (inside : ∀ u ∈ done, lo u ≤ x ∧ x ≤ hi u)
    (meet : ∀ u ∈ done ++ todo, ∀ v ∈ done ++ todo, lo u ≤ hi v) :
    ∀ u ∈ done ++ todo, lo u ≤ todo.foldl (fun y v => clamp (lo v) (hi v) y) x ∧ todo.foldl (fun y v => clamp (lo v) (hi v) y) x ≤ hi u := by
  induction todo generalizing done x with
  | nil => simpa using inside
  | cons v todo ih =>
    have shift : done ++ v :: todo = (done ++ [v]) ++ todo := by simp
    rw [shift] at meet ⊢
    refine ih (fun u hu => ?_) meet
    have vIn : v ∈ (done ++ [v]) ++ todo := by simp
    rcases List.mem_append.mp hu with old | new
    · have uIn : u ∈ (done ++ [v]) ++ todo := by simp [old]
      exact clamp_stays (inside u old).1 (inside u old).2 (meet v vIn u uIn) (meet u uIn v vIn)
    · cases List.mem_singleton.mp new
      exact clamp_bounds (meet v vIn v vIn) x

/-- The frequency that a tile moves to lies within 2:1 of each of its neighbours', where those are within 4:1 of each other. -/
theorem tileWant_within {b : Block} {t : Nat} (near : ∀ u v, u ∈ neighbours t → v ∈ neighbours t →
    fget b F.ckTileEffective u ≤ 4 * fget b F.ckTileEffective v) {u : Nat} (hu : u ∈ neighbours t) :
    (fget b F.ckTileEffective u + 1) / 2 ≤ tileWant b t ∧ tileWant b t ≤ 2 * fget b F.ckTileEffective u := by
  refine foldl_clamp_within (lo := fun u => (fget b F.ckTileEffective u + 1) / 2) (hi := fun u => 2 * fget b F.ckTileEffective u)
    (done := []) (fun _ none => nomatch none) (fun u hu v hv => ?_) u hu
  have := near u v hu hv
  omega

theorem neighbours_lt {t u : Nat} (h : u ∈ neighbours t) : u < 12 ∧ u ≠ t := by
  obtain ⟨range, away⟩ := List.mem_filter.mp h
  refine ⟨List.mem_range.mp range, fun same => ?_⟩
  subst same
  simp [hops] at away

/-- Every tile has a neighbour. -/
theorem neighbours_ne_nil {t : Nat} (h : t < 12) : ∃ u, u ∈ neighbours t := by
  have some : ∀ t < 12, (neighbours t).length ≠ 0 := by decide
  exact List.exists_mem_of_length_pos (Nat.pos_of_ne_zero (some t h))

/-- Settles O12. -/
theorem tileFrequencyStaysWithinTwoToOne : Obligations.TileFrequencyStaysWithinTwoToOne := by
  intro s t
  refine ⟨fun ht runs slow near => ?_, fun still => ?_⟩
  · have moves : (if t < 12 && started s.blk then tileSet t s.blk else s.blk) = fput F.ckTileEffective t (tileWant s.blk t) s.blk := by
      simp [ht, runs, tileSet]
    refine ⟨_, run_eq moves, fun u hu => ?_, fun u hu other => fget_fput_reg _ _ _ _ _ _ (regKey_copy_ne other)⟩
    obtain ⟨-, away⟩ := neighbours_lt hu
    obtain ⟨lower, upper⟩ := tileWant_within near hu
    have := slow u hu
    rw [fget_fput_reg F.ckTileEffective F.ckTileEffective t u _ _ (regKey_copy_ne away),
      fget_fput_fits t _ (by decide) (show tileWant s.blk t < 2 ^ 12 by omega)]
    omega
  · have stays : (if t < 12 && started s.blk then tileSet t s.blk else s.blk) = s.blk := by
      rcases still with far | held
      · simp [Nat.not_lt.mpr far]
      · simp [held]
    exact run_eq stays

/-! ### Temperatures (R702, R722, R723) -/

/-- A report of a temperature with what the hub records of a gradient, before throttling is looked at. -/
def tempHeld (t c : Nat) (b : Block) : Block :=
  let b := fput F.ckTileTemp t (if c < 255 then c else 255) b
  let near := (neighbours t).filter (fun u => fget b F.ckTileTemp u != 0)
  let b := if near.any (fun u => fget b F.ckTileTemp u + 30 < c) then fhNote (177 + 2 * t) (.tile t) none b else b
  each (near.filter (fun u => c + 30 < fget b F.ckTileTemp u)) (fun u b => fhNote (177 + 2 * u) (.tile u) none b) b

/-- The tile becomes hot, or is no longer hot (R722). -/
def tempHot (t c : Nat) (b : Block) : Block :=
  if throttleAt b ≤ c && !b.ck.hot.contains t then
    fbump F.ckThermalThrottles 0 1 (modCk (fun k => { k with hot := sins t k.hot }) b)
  else if c + 5 ≤ throttleAt b then modCk (fun k => { k with hot := srem t k.hot }) b
  else b

theorem tempReport_eq {t : Nat} (c : Nat) (b : Block) (ht : t < 12) : tempReport t c b =
    if tripAt (tempHot t c (tempHeld t c b)) ≤ c then fhRaise 248 (.tile t) none false (tempHot t c (tempHeld t c b))
    else tempHot t c (tempHeld t c b) := by
  rw [tempReport, if_neg (by omega)]
  rfl

theorem noteOnly_each {α : Type} (l : List α) (f : α → Block → Block) (h : ∀ a ∈ l, ∀ b, NoteOnly b (f a b)) (b : Block) :
    NoteOnly b (each l f b) := by
  induction l generalizing b with
  | nil => exact NoteOnly.refl b
  | cons a l ih =>
    have ⟨first, rest⟩ := List.forall_mem_cons.mp h
    exact (first b).trans (ih rest _)

/-- Beside the temperature, a report changes what notes of the hub change. -/
theorem noteOnly_tempHeld {t : Nat} (c : Nat) (b : Block) (ht : t < 12) :
    NoteOnly (fput F.ckTileTemp t (if c < 255 then c else 255) b) (tempHeld t c b) := by
  refine NoteOnly.trans (noteOnly_ite (noteOnly_fhNote (by omega) _ _ _) (NoteOnly.refl _)) (noteOnly_each _ _ (fun u hu d => ?_) _)
  have := (neighbours_lt (List.mem_filter.mp (List.mem_filter.mp hu).1).1).1
  exact noteOnly_fhNote (by omega) _ _ _

theorem tempHot_fuses (t c : Nat) (b : Block) : (tempHot t c b).fuses = b.fuses := by
  unfold tempHot
  split_ifs <;> rfl

theorem fget_tempHot {f : Fld} {i : Nat} (t c : Nat) (b : Block) (hf : f.reg ≠ .ckThermal) (hi : i < 2 ^ 32) :
    fget (tempHot t c b) f i = fget b f i := by
  unfold tempHot
  split_ifs
  · exact fget_fput_elsewhere (f := F.ckThermalThrottles) _ _ hf (by decide) hi
  · rfl
  · rfl

theorem hot_tempHot (t c : Nat) (b : Block) : (throttleAt b ≤ c → (tempHot t c b).ck.hot.contains t = true) ∧
    (c + 5 ≤ throttleAt b → (tempHot t c b).ck.hot.contains t = false) := by
  unfold tempHot
  by_cases above : throttleAt b ≤ c
  · refine ⟨fun _ => ?_, fun below => by omega⟩
    by_cases hot : t ∈ b.ck.hot
    · rw [if_neg (by simp [hot]), if_neg (by omega)]
      simpa using hot
    · rw [if_pos (by simp [above, hot])]
      exact List.contains_iff_mem.mpr (mem_sins.mpr (.inl rfl))
  · refine ⟨fun no => absurd no above, fun below => ?_⟩
    rw [if_neg (by simp [above]), if_pos below]
    simpa using not_mem_srem t b.ck.hot

/-- Notes of the hub leave the temperature at which tiles throttle. -/
theorem throttleAt_tempHeld {t : Nat} (c : Nat) (b : Block) (ht : t < 12) : throttleAt (tempHeld t c b) = throttleAt b := by
  have held := noteOnly_tempHeld c b ht
  have throttle : fget (tempHeld t c b) F.ckThermalThrottle 0 = fget b F.ckThermalThrottle 0 :=
    (held.fget rfl (by decide)).trans (fget_fput_elsewhere _ _ (by decide) (by omega) (by decide))
  have fuses : (tempHeld t c b).fuses = b.fuses := held.fuses
  rw [throttleAt, throttleAt, tripAt, tripAt, throttle, fuses]

/-- Settles O13. -/
theorem temperaturesThrottleAndTrip : Obligations.TemperaturesThrottleAndTrip := by
  intro s t c ht
  have held := noteOnly_tempHeld c s.blk ht
  have tile : ¬ 12 ≤ t := by omega
  refine ⟨⟨tempHot t c (tempHeld t c s.blk), run_settle_eq (tempReport_eq c s.blk ht), ?_, ?_, ?_⟩, fun above => ?_,
    fun below => ?_, fun above below => ?_⟩
  · rw [tempHot_fuses, held.fuses]
    rfl
  · rw [fget_tempHot _ _ _ (by decide) (by omega), held.fget rfl (by omega)]
    refine fget_fput_fits t s.blk (by decide) ?_
    show _ < 2 ^ 8
    split <;> omega
  · have hot := hot_tempHot t c (tempHeld t c s.blk)
    rwa [throttleAt_tempHeld c s.blk ht] at hot
  · exact run_eq (by simp [throttleStep, tile, above])
  · exact run_eq (by simp [throttleStep, tile, below, show ¬ throttleAt s.blk ≤ fget s.blk F.ckTileTemp t by omega])
  · refine run_eq ?_
    simp [throttleStep, tile, Nat.not_le.mpr above, Nat.not_le.mpr below]

/-! ### Supplies (R723) -/

/-- A supply fault that is captured stops the block; work and rings stay. -/
theorem supply_captures {n : Nat} {b : Block} (runs : stopped b = false) (free : fon b F.fhSrcStatusCaptured 249 = false) :
    let o : Obj := if n < 12 then .tile n else .none
    let c := fhRaise 249 o none false b
    stopped c = true ∧ fget c F.fhSrcStatusCaptured 249 = 1 ∧ fget c F.fhSrcStatusClass 249 = 3 ∧ fget c F.fhSrcStatusRung 249 = 4 ∧
      c.he = b.he ∧ c.sq = b.sq := by
  intro o c
  have fatal : fhClass 249 = some 3 := by decide
  have record := fhRecord_captures (o := o) (part := none) fatal runs (by simp [fhEnabled, fatal]) free
  have note := noteOnly_fhRecord (s := 249) (by decide) o none false b
  obtain ⟨captured, class_, rung, -, kind, -⟩ := fhCapture_holds none o (fbump F.fhSrcCtlTotal 249 1 b) (s := 249) (cls := 3)
    (by decide) (by decide)
  have noRing : o.code.1 ≠ 1 := by
    simp only [o]
    split <;> simp [Obj.code]
  have noPart : 249 ∉ (fhRecord 249 o none false b).fhPart := by
    have told := sigOnly_sgAssert (1024 + 249) (fhFirst 249 3 0 (fput F.fhSrcStatusEscalating 249
      (b2n (fhRuns (captureSet 249 3 none o (fbump F.fhSrcCtlTotal 249 1 b)) 249)) (captureSet 249 3 none o (fbump F.fhSrcCtlTotal 249 1 b))))
    have first : ∀ s cls part (d : Block), (fhFirst s cls part d).fhPart = d.fhPart := by
      intro s cls part d
      unfold fhFirst
      split <;> rfl
    have held : (fhRecord 249 o none false b).fhPart = srem 249 b.fhPart := by
      rw [record]
      exact (told.fhPart.trans (first _ _ _ _)).trans rfl
    rw [held]
    exact not_mem_srem _ _
  have raised : c = blockStop (fhRecord 249 o none false b) := by
    have effects := fhRaise_captures (o := o) (part := none) fatal runs (by simp [fhEnabled, fatal]) free
    refine (effects.trans (if_pos (by decide))).trans (rungEffects_fatal ?_ noPart)
    rw [record]
    exact fun ring => noRing (kind.symm.trans ring)
  rw [raised]
  have kept : ∀ f : Fld, f.reg = .fhSrcStatus → fget (blockStop (fhRecord 249 o none false b)) f 249 =
      fget (fhCapture 249 3 none o (fbump F.fhSrcCtlTotal 249 1 b)) f 249 := fun f hf => by
    rw [fget_blockStop _ (by rw [hf]; rfl) (by rw [hf]; decide) (by decide), record]
    rfl
  refine ⟨stopped_blockStop _, (kept _ rfl).trans captured, (kept _ rfl).trans class_, (kept _ rfl).trans rung, ?_, ?_⟩
  · rw [blockStop_he, note.he]
  · rw [blockStop_sq, note.sq]

/-! ### The ramp governor (R715-R719) -/

/-- Asking a die for ballast changes what it was asked for, and what has been sent. -/
theorem ballastAsk_gov (k d : Nat) (b : Block) : { (ballastAsk k d b).gov with share := b.gov.share } = b.gov ∧
    (ballastAsk k d b).he = b.he := by
  unfold ballastAsk
  dsimp only
  split <;> exact ⟨rfl, rfl⟩

/-! ### The obligation -/
/-- The reserve after a tick: it rises and falls no faster than the shelf allows (R717). -/
theorem reserve_within {reserve up dn tgt : Nat} :
    let low := if tgt < reserve - dn then reserve - dn else tgt
    let r := if reserve + up < low then reserve + up else low
    r ≤ reserve + up ∧ reserve - dn ≤ r := by
  intro low r
  simp only [r, low]
  split_ifs <;> omega

/-- What a tick asks of the dies, writes to the registers and tells the hub, once the governor's own state is set (R717-R719). -/
def govTell (en ramp : Bool) (ballast total held : Nat) (b : Block) : Block :=
  let b := if en then each (diesPresent b) (ballastAsk ballast) b else modGov (fun g => { g with share := [] }) b
  let asked := b.gov.share.foldl (fun n e => n + e.2) 0
  let b := fput F.ckGovStatusLoad 0 (total / 1000000) (fput F.ckGovStatusBallast 0 asked b)
  let b := fbump F.ckGovStatusHeld 0 held b
  if ramp then fhNote 250 .none none (fbump F.ckGovStatusRamp 0 1 b) else b

/-- What a tick tells leaves the work, and of the governor's state all but the shares of the dies. -/
theorem govTell_gov (en ramp : Bool) (ballast total held : Nat) (b : Block) :
    { (govTell en ramp ballast total held b).gov with share := b.gov.share } = b.gov ∧ (govTell en ramp ballast total held b).he = b.he := by
  have asked : ∀ (l : List Nat) (c : Block), { (each l (ballastAsk ballast) c).gov with share := b.gov.share } =
      { c.gov with share := b.gov.share } ∧ (each l (ballastAsk ballast) c).he = c.he := by
    intro l c
    refine ⟨each_keeps (fun c : Block => { c.gov with share := b.gov.share }) l _ (fun d _ e => ?_) c,
      each_keeps (fun c : Block => c.he) l _ (fun d _ e => (ballastAsk_gov ballast d e).2) c⟩
    exact congrArg (fun g : Gov => { g with share := b.gov.share }) (ballastAsk_gov ballast d e).1
  have noted : ∀ c : Block, (fhNote 250 .none none c).gov = c.gov ∧ (fhNote 250 .none none c).he = c.he := fun c =>
    have note := noteOnly_fhNote (s := 250) (by decide) .none none c
    ⟨note.gov, note.he⟩
  cases en <;> cases ramp <;>
    simp only [govTell, if_true, Bool.false_eq_true, if_false, fbump, fput_gov, fput_he, modGov_gov, modGov_he, noted, asked, and_self]

/-- A tick sets the reserve within the slew, notes what it was told, and tells. -/
theorem govTick_form (blkW : Nat) (b : Block) : ∃ en ramp ballast total held tgt f g,
    govTick blkW b = govTell en ramp ballast total held { mapRounds f b with gov := g } ∧
      (let dt := if b.gov.tickAt = 0 then govPeriod b else b.now - b.gov.tickAt
       let up := shelfRate b F.ckGovCtlShelfRise * dt
       let dn := shelfRate b F.ckGovCtlShelfFall * dt
       let low := if tgt < b.gov.reserve - dn then b.gov.reserve - dn else tgt
       g.reserve = if b.gov.reserve + up < low then b.gov.reserve + up else low) ∧
      g.blk = blkW ∧ g.tickAt = b.now := ⟨_, _, _, _, _, _, _, _, rfl, rfl, rfl, rfl⟩

theorem govTick_holds (blkW : Nat) (b : Block) :
    (let dt := if b.gov.tickAt = 0 then govPeriod b else b.now - b.gov.tickAt
     (govTick blkW b).gov.reserve ≤ b.gov.reserve + shelfRate b F.ckGovCtlShelfRise * dt ∧
      b.gov.reserve - shelfRate b F.ckGovCtlShelfFall * dt ≤ (govTick blkW b).gov.reserve) ∧
    (govTick blkW b).gov.blk = blkW ∧ (govTick blkW b).gov.tickAt = b.now ∧ (govTick blkW b).he.items = b.he.items := by
  obtain ⟨en, ramp, ballast, total, held, tgt, f, g, form, reserve, blk, tick⟩ := govTick_form blkW b
  obtain ⟨gov, he⟩ := govTell_gov en ramp ballast total held { mapRounds f b with gov := g }
  rw [← form] at gov he
  have same : ∀ {β : Type} (p : Gov → β), p { (govTick blkW b).gov with share := g.share } = p g := fun p => congrArg p gov
  refine ⟨?_, (same Gov.blk).trans blk, (same Gov.tickAt).trans tick, congrArg He.items he⟩
  have now : (govTick blkW b).gov.reserve = g.reserve := same Gov.reserve
  simp only [now, reserve]
  exact reserve_within

/-- Settles O14. -/
theorem powerAndItsGovernor : Obligations.PowerAndItsGovernor := by
  refine ⟨fun s n => ⟨fun island => ?_, fun none => ?_, fun tile idle => ?_, fun busy => ?_, fun tile => ?_, fun none => ?_,
    fun channel idle => ?_, fun busy => ?_⟩, fun s blkW d work most => ⟨?_, fun die present => ?_, fun die present => ?_, fun none => ?_,
    fun die present share on => ?_, fun none => ?_⟩⟩
  · exact ⟨_, run_settle_eq (if_pos island), rfl, supply_captures⟩
  · exact run_settle_eq (if_neg (by omega))
  · exact run_eq (by simp [tileGate, tile, idle])
  · refine run_eq ?_
    rcases busy with far | busy
    · simp [tileGate, Nat.not_lt.mpr far]
    · simp [tileGate, busy]
  · exact run_eq (if_pos tile)
  · exact run_eq (if_neg (by omega))
  · have down : channelDown n s.blk = modCk (fun k => { k with down := sins n k.down }) s.blk := by simp [channelDown, channel, idle]
    exact ⟨_, run_eq down, mem_sins.mpr (.inl rfl), rfl, rfl, rfl⟩
  · refine run_eq ?_
    rcases busy with absent | busy
    · simp [channelDown, absent]
    · simp [channelDown, busy]
  · exact ⟨_, run_settle_eq rfl, govTick_holds blkW s.blk⟩
  · have held : powerReport d work most s.blk = modGov (fun g => { g with
        reports := tput g.reports d (work % 65536, most % 65536, s.blk.now), missing := srem d g.missing }) s.blk := by
      simp [powerReport, die, present]
    exact ⟨_, run_eq held, tfind_tput_same _ _ _, not_mem_srem _ _, rfl⟩
  · have marked : powerMissing d s.blk = modGov (fun g => { g with missing := sins d g.missing }) s.blk := by
      simp [powerMissing, die, present]
    exact ⟨_, run_eq marked, mem_sins.mpr (.inl rfl), rfl, rfl⟩
  · have absent : (decide (d < 4) && diePresent s.blk d) = false := by
      rcases none with far | absent
      · simp [far]
      · simp [absent]
    exact ⟨run_eq (by simp [powerReport, absent]), run_eq (by simp [powerMissing, absent]), run_eq (by simp [ballastRepeat, absent])⟩
  · exact run_eq (by simp [ballastRepeat, die, present, share, on])
  · refine run_eq ?_
    rcases none with share | off
    · simp [ballastRepeat, share]
    · simp [ballastRepeat, off]

end Sys2Proof.Laws

/-!
Register accesses: where a write lands and what it stores, what a read returns and clears, and what becomes of an access that reaches no
register.
-/
namespace Sys2Proof.Laws

open Sys2Proof Sys2Proof.Machine Sys2Proof.Safety

/-! ### Bits of words and fields -/

/-- A bit lies in a field's mask where it lies in the field. -/
theorem getLsbD_fmask_iff {hi lo i : Nat} (h : hi < 64) : (fmask hi lo).getLsbD i = true ↔ lo ≤ i ∧ i ≤ hi := by
  rw [getLsbD_fmask]
  simp only [Bool.and_eq_true, decide_eq_true_eq]
  omega

/-- Words with the same bits in a field have the same value there. -/
theorem of_congr {f : Fld} {v w : BitVec 64} (same : ∀ n, f.lo ≤ n → n ≤ f.hi → v.getLsbD n = w.getLsbD n) :
    f.of v = f.of w := by
  apply Nat.eq_of_testBit_eq
  intro n
  rw [Fld.of, Fld.of, testBit_qbits, testBit_qbits]
  by_cases inside : n < f.hi + 1 - f.lo
  · rw [same _ (by omega) (by omega)]
  · simp [inside]

/-- The bits of a field that an access names are in the half that it names. -/
theorem getLsbD_halfMask_of_names {half : Half} {f : Fld} (names : Names half f) (h : f.hi < 64) {n : Nat} (lo : f.lo ≤ n) (hi : n ≤ f.hi) :
    (halfMask half).getLsbD n = true := by
  have bit := congrArg (fun w : BitVec 64 => w.getLsbD n) names
  have inside : (fmask f.hi f.lo).getLsbD n = true := (getLsbD_fmask_iff h).mpr ⟨lo, hi⟩
  simpa [inside] using bit

/-- What a write says of a field that it names is what its word says. -/
theorem of_and_halfMask {half : Half} {f : Fld} (names : Names half f) (h : f.hi < 64) (v : BitVec 64) :
    f.of (v &&& halfMask half) = f.of v :=
  of_congr fun n lo hi => by rw [BitVec.getLsbD_and, getLsbD_halfMask_of_names names h lo hi, Bool.and_true]

/-- A word with a field at a value says that value. -/
theorem of_carry {f : Fld} (v : Nat) (w : BitVec 64) (h : f.hi < 64) : f.of (carry f v w) = v % 2 ^ (f.hi + 1 - f.lo) :=
  qbits_qset_same _ _ _ _ h

/-- Another field of that word is as it was. -/
theorem of_carry_other {f g : Fld} (v : Nat) (w : BitVec 64) (h : g.hi < 64) (apart : f.hi < g.lo ∨ g.hi < f.lo) :
    g.of (carry f v w) = g.of w := qbits_qset_other _ _ _ _ _ _ h apart

/-- A command that names what a one-bit field says carries it, where its access names the field. -/
theorem on_carry_named {half : Half} {f : Fld} (names : Names half f) (h : f.hi < 64) (one : f.hi = f.lo) (w : BitVec 64) :
    f.on (carry f 1 w &&& halfMask half) = true := by
  rw [Fld.on, of_and_halfMask names h, of_carry 1 w h, one, Nat.add_sub_cancel_left]
  rfl

/-- The whole register names each of its fields, and a half those that lie in it. -/
theorem names_lo {half : Half} {f : Fld} (h : fmask f.hi f.lo &&& halfMask .lo = fmask f.hi f.lo) (low : half ≠ .hi) : Names half f := by
  cases half with
  | full => exact BitVec.and_allOnes
  | lo => exact h
  | hi => exact absurd rfl low

theorem names_hi {half : Half} {f : Fld} (h : fmask f.hi f.lo &&& halfMask .hi = fmask f.hi f.lo) (high : half ≠ .lo) : Names half f := by
  cases half with
  | full => exact BitVec.and_allOnes
  | lo => exact absurd rfl high
  | hi => exact h

/-- A bit of the fields with some access codes. -/
theorem getLsbD_bitsOf (r : Reg) (p : Acc → Bool) (n : Nat) :
    (r.bitsOf p).getLsbD n = r.spec.fields.any (fun f => p f.acc && (fmask f.hi f.lo).getLsbD n) := by
  have fold : ∀ (l : List Fld) (m : BitVec 64), (l.foldl (fun m f => if p f.acc then m ||| fmask f.hi f.lo else m) m).getLsbD n =
      (m.getLsbD n || l.any (fun f => p f.acc && (fmask f.hi f.lo).getLsbD n)) := by
    intro l
    induction l with
    | nil => simp
    | cons f l ih =>
      intro m
      rw [List.foldl_cons, ih, List.any_cons]
      cases p f.acc <;> simp [Bool.or_assoc]
  rw [Reg.bitsOf, fold]
  simp

/-! ### Changes of one register -/

/-- `c` is `b` but for one register copy. -/
structure WordOnly (r : Reg) (i : Nat) (b c : Block) : Prop where
  rest : { c with regs := b.regs } = b
  others : ∀ q j, regKey q j ≠ regKey r i → rget c q j = rget b q j

theorem WordOnly.refl (r : Reg) (i : Nat) (b : Block) : WordOnly r i b b := ⟨rfl, fun _ _ _ => rfl⟩

theorem WordOnly.trans {r : Reg} {i : Nat} {b c d : Block} (h : WordOnly r i b c) (g : WordOnly r i c d) : WordOnly r i b d := by
  refine ⟨?_, fun q j other => (g.others q j other).trans (h.others q j other)⟩
  have rest := h.rest
  rw [← g.rest] at rest
  exact rest

theorem wordOnly_rput (r : Reg) (i : Nat) (v : BitVec 64) (b : Block) : WordOnly r i b (rput r i v b) :=
  ⟨rfl, fun _ _ other => rget_rput_other _ _ _ _ _ _ other⟩

theorem wordOnly_fput (f : Fld) (i v : Nat) (b : Block) : WordOnly f.reg i b (fput f i v b) := wordOnly_rput _ _ _ _

theorem wordOnly_ite {r : Reg} {i : Nat} {p : Prop} [Decidable p] {b c d : Block} (hc : WordOnly r i b c) (hd : WordOnly r i b d) :
    WordOnly r i b (if p then c else d) := by
  split
  · exact hc
  · exact hd

/-! ### Stored bits (R12, R13, R733) -/

theorem getLsbD_storeBits (r : Reg) (i : Nat) (val m : BitVec 64) (b : Block) {n : Nat} (hn : n < 64) :
    (rget (storeBits r i val m b) r i).getLsbD n = if m.getLsbD n then val.getLsbD n else (rget b r i).getLsbD n := by
  rw [storeBits, rget_rput_same]
  rw [BitVec.getLsbD_or, BitVec.getLsbD_and, BitVec.getLsbD_and, BitVec.getLsbD_not]
  cases m.getLsbD n <;> simp [hn]

/-- A write that only stores: RW bits take what is written, W1C bits are cleared by a 1, and other bits stay. -/
theorem getLsbD_storePlain (r : Reg) (i : Nat) (val mask : BitVec 64) (b : Block) {n : Nat} (hn : n < 64) :
    (rget (storePlain r i val mask b) r i).getLsbD n = if (r.bitsOf (· == .w1c) &&& mask &&& val).getLsbD n then false
      else if (r.bitsOf (· == .rw) &&& mask).getLsbD n then val.getLsbD n else (rget b r i).getLsbD n := by
  unfold storePlain
  dsimp only
  by_cases none : r.bitsOf (· == .w1c) &&& mask &&& val = 0#64
  · rw [if_pos none, none, getLsbD_storeBits _ _ _ _ _ hn]
    simp
  · rw [if_neg none, getLsbD_storeBits _ _ _ _ _ hn, getLsbD_storeBits _ _ _ _ _ hn]
    simp

/-- A write that only stores changes its register and nothing else. -/
theorem wordOnly_storePlain (r : Reg) (i : Nat) (val mask : BitVec 64) (b : Block) : WordOnly r i b (storePlain r i val mask b) := by
  unfold storePlain
  exact (wordOnly_rput r i _ b).trans (wordOnly_ite (WordOnly.refl _ _ _) (wordOnly_rput _ _ _ _))

/-- An RW field that a write names takes what is written. -/
theorem fget_storePlain_named {f : Fld} {half : Half} (i : Nat) (val : BitVec 64) (b : Block) (names : Names half f) (h : f.hi < 64)
    (rw_ : fmask f.hi f.lo &&& f.reg.bitsOf (· == .rw) = fmask f.hi f.lo) (w1c : fmask f.hi f.lo &&& f.reg.bitsOf (· == .w1c) = 0#64) :
    fget (storePlain f.reg i (val &&& halfMask half) (halfMask half) b) f i = f.of val := by
  refine of_congr fun n lo hi => ?_
  have inside : (fmask f.hi f.lo).getLsbD n = true := (getLsbD_fmask_iff h).mpr ⟨lo, hi⟩
  have stored : (f.reg.bitsOf (· == .rw)).getLsbD n = true := by simpa [inside] using congrArg (fun w : BitVec 64 => w.getLsbD n) rw_
  have kept : (f.reg.bitsOf (· == .w1c)).getLsbD n = false := by simpa [inside] using congrArg (fun w : BitVec 64 => w.getLsbD n) w1c
  rw [getLsbD_storePlain _ _ _ _ _ (by omega)]
  simp [stored, kept, getLsbD_halfMask_of_names names h lo hi]

/-! ### Where an access lands -/

/-- What an agent has still to read of a register in part has no say in where an access lands. -/
theorem regIdx_halves (b : Block) (h : Tbl (Nat × Half × BitVec 64)) (w : Agent) (r : Reg) (c : Nat) :
    regIdx { b with halves := h } w r c = regIdx b w r c := by
  cases r <;> rfl

theorem regNamed_none {w : Agent} {r : Reg} {c : Nat} (h : r.seen w = false ∨ r.spec.count ≤ c) : regNamed w r c = none := by
  rw [regNamed, if_neg]
  rcases h with unseen | far
  · simp [unseen]
  · simp [far]

/-- Every command that is a write of a register is that write. -/
theorem exec_writeOf {c : Instr} {s : State} {w : Agent} {r : Reg} {k : Nat} {half : Half} {val : BitVec 64} {ok : Bool}
    (h : writeOf c = some (w, r, k, half, val, ok)) : exec c s = .next { s with blk := regWriteFrom w (regNamed w r k) half val ok s.blk } := by
  unfold writeOf at h
  split at h <;> cases h <;> rfl

/-- A write waits behind those that wait at its port (R446). -/
theorem regWriteFrom_waits {b : Block} {w : Agent} (h : ¬ Unheld b w) (reg : Option (Reg × Nat)) (half : Half) (val : BitVec 64) (ok : Bool) :
    regWriteFrom w reg half val ok b = modHp (fun p => { p with
      queue := tput p.queue (bankOf w / 128) (postQueue b (bankOf w / 128) ++ [.write w reg half val ok]) }) b := by
  unfold Unheld at h
  push Not at h
  obtain ⟨host, up, waits⟩ := h
  have isUp : hostUp b (bankOf w / 128) = true := by simpa using up
  have held : (postQueue b (bankOf w / 128)).isEmpty = false := by simpa using waits
  simp [regWriteFrom, postHeld, host, postHold, isUp, held]

/-- A write that does not wait is taken. -/
theorem regWriteFrom_unheld {b : Block} {w : Agent} (h : Unheld b w) (reg : Option (Reg × Nat)) (half : Half) (val : BitVec 64) (ok : Bool) :
    regWriteFrom w reg half val ok b = writeTake settle w reg half val ok b := by
  rw [regWriteFrom, postHeld_write_none h]

/-- A write that a command names by its register and that lands stores at its register. -/
theorem exec_writeOf_lands {c : Instr} {s : State} {w : Agent} {r : Reg} {k i : Nat} {half : Half} {val : BitVec 64} {ok : Bool} {b : Block}
    (h : writeOf c = some (w, r, k, half, val, ok)) (lands : Lands s.blk w r k i b) (md : r ≠ .mdCtl) :
    exec c s = .next { s with blk := after r (regStore w r k val (halfMask half) b) } := by
  have ⟨_, _, seen, there, _, _, _⟩ := lands
  rw [exec_writeOf h, regNamed_seen seen there, regWriteFrom_lands lands md]

section
variable {c : Instr} {s : State} {w : Agent} {r : Reg} {k i : Nat} {half : Half} {val : BitVec 64} {ok : Bool} {b b' : Block}
  (h : writeOf c = some (w, r, k, half, val, ok)) (lands : Lands s.blk w r k i b) (md : r ≠ .mdCtl)
include h lands md

/-- Such a write, where its register takes it, and no work waits for it. -/
theorem exec_write_applies (quiet : r.opens = false) (applies : regApply w r i val (halfMask half) b = some b') :
    exec c s = .next { s with blk := b' } := by
  have ⟨_, _, _, _, _, _, place⟩ := lands
  rw [exec_writeOf_lands h lands md, regStore_at place applies, after, quiet]
  rfl

/-- Such a write, where its register takes it, and the work that can goes on. -/
theorem exec_write_settles (opens : r.opens = true) (applies : regApply w r i val (halfMask half) b = some b') :
    exec c s = .next { s with blk := settle b' } := by
  have ⟨_, _, _, _, _, _, place⟩ := lands
  rw [exec_writeOf_lands h lands md, regStore_at place applies, after, opens]
  rfl

/-- Such a write, where its register does not take it. -/
theorem exec_write_ignored (quiet : r.opens = false) (refused : regApply w r i val (halfMask half) b = none) :
    exec c s = .next { s with blk := regIgnored w r b } := by
  have ⟨_, _, _, _, _, _, place⟩ := lands
  rw [exec_writeOf_lands h lands md, regStore_refused place refused, after, quiet]
  rfl

theorem exec_write_ignored_settles (opens : r.opens = true) (refused : regApply w r i val (halfMask half) b = none) :
    exec c s = .next { s with blk := settle (regIgnored w r b) } := by
  have ⟨_, _, _, _, _, _, place⟩ := lands
  rw [exec_writeOf_lands h lands md, regStore_refused place refused, after, opens]
  rfl

end

/-! ### Writes that store -/

/-- Settles O16. -/
theorem registerWriteStoresItsBits : Obligations.RegisterWriteStoresItsBits := by
  intro s w off k i r half val b lands decoded stores
  have ⟨_, _, _, _, _, _, place⟩ := lands
  have plain : regApply w r i val (halfMask half) b = some (storePlain r i (val &&& halfMask half) (halfMask half) b) := by
    cases r <;> cases stores <;> rfl
  have quiet : r.opens = false ∧ r ≠ .mdCtl := by
    cases r <;> cases stores <;> decide
  have write : exec (.registerWrite w off half val) s =
      .next { s with blk := storePlain r i (val &&& halfMask half) (halfMask half) b } := by
    refine run_eq ?_
    rw [regWrite, decoded, regWriteFrom_lands lands quiet.2, regStore_at place plain, after, quiet.1]
    rfl
  refine ⟨_, write, fun n hn => ?_, (wordOnly_storePlain _ _ _ _ _).others, (wordOnly_storePlain _ _ _ _ _).rest⟩
  rw [getLsbD_storePlain _ _ _ _ _ hn]
  cases half_ : (halfMask half).getLsbD n <;> simp [half_]

end Sys2Proof.Laws

/-!
Register accesses that reach no register, and reads: what is counted, and what a read returns and clears.
-/
namespace Sys2Proof.Laws

open Sys2Proof Sys2Proof.Machine Sys2Proof.Safety

/-! ### The counter of ignored writes of TC never falls -/

/-- TC's counter of ignored writes is in `c` at least what it is in `b`. -/
def CountRises (b c : Block) : Prop := fget b F.idIgnoredCount 15 ≤ fget c F.idIgnoredCount 15

theorem CountRises.refl (b : Block) : CountRises b b := Nat.le_refl _

theorem CountRises.trans {b c d : Block} (h : CountRises b c) (g : CountRises c d) : CountRises b d := Nat.le_trans h g

theorem countRises_of_eq {b c : Block} (h : rget c .idIgnored 15 = rget b .idIgnored 15) : CountRises b c :=
  Nat.le_of_eq (congrArg (fun w => qbits w 31 0) h.symm)

theorem countRises_fput (f : Fld) {i : Nat} (v : Nat) (b : Block) (hf : Reg.idIgnored ≠ f.reg) (hi : i < 2 ^ 32) : CountRises b (fput f i v b) :=
  countRises_of_eq (ignoredCount_fput (by decide) v b hf hi)

theorem countRises_ite {p : Prop} [Decidable p] {b c d : Block} (hc : CountRises b c) (hd : CountRises b d) :
    CountRises b (if p then c else d) := by
  split
  · exact hc
  · exact hd

theorem countRises_dumpRefused (b : Block) : CountRises b (dumpRefused b) := by
  have counted : fget (fbump F.idIgnoredCount 15 1 b) F.idIgnoredCount 15 = satAdd F.idIgnoredCount.max (fget b F.idIgnoredCount 15) 1 :=
    fget_fbump_same _ _ _ _ (by decide)
  refine CountRises.trans (c := fbump F.idIgnoredCount 15 1 b) ?_ (countRises_fput F.tcDumpCtlIgnored _ _ (by decide) (by decide))
  have most : fget b F.idIgnoredCount 15 < 2 ^ 32 := qbits_lt _ _ _
  have top : F.idIgnoredCount.max = 2 ^ 32 - 1 := rfl
  rw [CountRises, counted, satAdd]
  split <;> omega

/-- A trigger counts dumps that are refused, and takes nothing back. -/
theorem countRises_sgAct (n : Nat) : ∀ (t : Trig) (b : Block), CountRises b (sgAct n t b) := by
  have h15 : (15 : Nat) < 2 ^ 32 := by decide
  induction n with
  | zero => intro t b; exact CountRises.refl b
  | succ n ih =>
    intro t b
    cases t with
    | freeze cause at_ =>
      simp only [sgAct]
      refine countRises_ite (countRises_fput F.tcFreezeExtra _ _ (by decide) (by decide)) (CountRises.trans (countRises_of_eq ?_) (ih _ _))
      rw [ignoredCount_rput h15 _ _ (by decide) (by decide), ignoredCount_fput h15 _ _ (by decide) (by decide),
        ignoredCount_fput h15 _ _ (by decide) (by decide)]
    | dump reason =>
      simp only [sgAct]
      refine countRises_ite (countRises_dumpRefused b) ?_
      split
      · exact countRises_dumpRefused b
      · next slot takes => exact (countRises_of_eq (ignoredCount_dumpBegin h15 _ _ (dumpSlot_lt takes))).trans (ih _ _)
    | assert s =>
      simp only [sgAct]
      by_cases out : ((1863 ≤ s && s < 1984) || 2048 ≤ s) = true
      · rw [if_pos out]; exact CountRises.refl b
      · rw [if_neg out]
        have hs : s < 2048 := by
          simp only [Bool.or_eq_true, Bool.and_eq_true, decide_eq_true_eq, not_or] at out
          omega
        have mark : ∀ n on c, rget (sgSetCount s n (sgSetPending s on c)) .idIgnored 15 = rget c .idIgnored 15 := fun n on c => by
          rw [ignoredCount_setCount h15 _ _ hs, ignoredCount_setPending h15 _ _ hs]
        have sent : ∀ m c, rget (emit m c) .idIgnored 15 = rget c .idIgnored 15 := fun _ _ => rfl
        have acts : ∀ t c, rget c .idIgnored 15 = rget b .idIgnored 15 → CountRises b (sgAct n t c) := fun t c same =>
          (countRises_of_eq same).trans (ih t c)
        refine countRises_ite (CountRises.refl b) (countRises_ite (countRises_of_eq (mark _ _ _)) (countRises_ite (countRises_of_eq ?_)
          (countRises_ite (countRises_of_eq ?_) (countRises_ite (countRises_of_eq ?_) (countRises_ite (acts _ _ ?_)
            (countRises_ite (acts _ _ ?_) (countRises_of_eq (mark _ _ _))))))))
        · rw [ignoredCount_msixSignal h15 _ (sgTarget_small b s hs), mark]
        · rw [sent, mark]
        · rw [mark, ignoredCount_errorSend h15, mark]
        · rw [mark, mark]
        · rw [mark, mark]

theorem countRises_sgAssert (s : Nat) (b : Block) : CountRises b (sgAssert s b) := countRises_sgAct _ _ _

theorem countRises_fhFirst (s cls part : Nat) (b : Block) : CountRises b (fhFirst s cls part b) := by
  have field : ∀ f v c, Reg.idIgnored ≠ f.reg → CountRises c (fput f 0 v c) := fun f v c hf => countRises_fput f v c hf (by decide)
  refine countRises_ite (CountRises.refl b) ?_
  exact (field F.fhFirstValid _ _ (by decide)).trans <| (field F.fhFirstClass _ _ (by decide)).trans <|
    (field F.fhFirstPartition _ _ (by decide)).trans <| (field F.fhFirstSource _ _ (by decide)).trans <|
    countRises_of_eq (ignoredCount_rput (by decide) _ _ (by decide) (by decide))

theorem countRises_fhRecord {s : Nat} (hs : s < 2 ^ 32) (o : Obj) (part : Option Nat) (secondary : Bool) (b : Block) :
    CountRises b (fhRecord s o part secondary b) := by
  have field : ∀ f v c, Reg.idIgnored ≠ f.reg → CountRises c (fput f s v c) := fun f v c hf => countRises_fput f v c hf hs
  have maybe : ∀ (p : Prop) [Decidable p] f v c, Reg.idIgnored ≠ f.reg → CountRises c (if p then fput f s v c else c) :=
    fun _ _ f v c hf => countRises_ite (field f v c hf) (CountRises.refl c)
  have captured : ∀ cls p c, CountRises c (fhCapture s cls p o c) := by
    intro cls p c
    have held : ∀ l, CountRises c { c with fhPart := l } := fun _ => CountRises.refl c
    exact (held _).trans <| (field F.fhSrcStatusCaptured _ _ (by decide)).trans <| (field F.fhSrcStatusClass _ _ (by decide)).trans <|
      (field F.fhSrcStatusRung _ _ (by decide)).trans <| (field F.fhSrcStatusCount _ _ (by decide)).trans <|
      (field F.fhSrcStatusPartition _ _ (by decide)).trans <| (field F.fhSrcStatusKind _ _ (by decide)).trans <|
      (field F.fhSrcStatusObject _ _ (by decide)).trans <| (field F.fhSrcStatusEscalating _ _ (by decide)).trans <|
      (countRises_fhFirst _ _ _ _).trans (countRises_sgAssert _ _)
  have merged : ∀ cls p c, CountRises c (fhMerge s cls p c) := by
    intro cls p c
    exact (field F.fhSrcStatusCount _ _ (by decide)).trans <| (maybe _ F.fhSrcStatusClass _ _ (by decide)).trans <|
      (maybe _ F.fhSrcStatusRung _ _ (by decide)).trans <| (maybe _ F.fhSrcStatusEscalating _ _ (by decide)).trans <|
      (countRises_fhFirst _ _ _ _).trans <| (countRises_sgAssert _ _).trans <|
      countRises_ite (countRises_sgAssert _ _) (CountRises.refl _)
  unfold fhRecord
  split
  · exact CountRises.refl b
  · exact (field F.fhSrcCtlTotal _ b (by decide)).trans <| countRises_ite (CountRises.refl _) <| countRises_ite (merged _ _ _) (captured _ _ _)

/-! ### The counter of the unit that ignores a write -/

/-- A write that is ignored is counted by its unit; SQ and SG count it by function too (R33). -/
def ignoredCounted (u : UnitId) (w : Agent) (b : Block) : Block :=
  let b := fbump F.idIgnoredCount u.row 1 b
  match u with
  | .sq =>
    match w with
    | .pf h => fbump F.sqIgnoredCount (128 * h) 1 b
    | .vf h v => fbump F.sqIgnoredCount (128 * h) 1 (fbump F.sqIgnoredCount (128 * h + v) 1 b)
    | .mgmt => b
  | .sg =>
    match w with
    | .pf h => fbump F.sgStatusIgnored (128 * h) 1 b
    | .vf h v => fbump F.sgStatusIgnored (128 * h) 1 (fbump F.sgStatusIgnored (128 * h + v) 1 b)
    | .mgmt => fbump F.sgStatusIgnored 256 1 b
  | _ => b

/-- A write that is ignored is counted, and where a partition is concerned noted. -/
theorem ignored_form (u : UnitId) (w : Agent) (part : Option Nat) (b : Block) : ignored u w part b = ignoredCounted u w b ∨
    ∃ p, p < 16 ∧ ignored u w part b = fhNote (256 + 16 * p + 15) (.fn (bankOf w)) (some p) (ignoredCounted u w b) := by
  have form : ignored u w part b = (let c := ignoredCounted u w b
      let own : Option Nat := match w with | .vf h v => vfPart c (128 * h + v) | _ => none
      match part.or own with
      | some p => if partPresent c p then fhNote (256 + 16 * p + 15) (.fn (bankOf w)) (some p) c else c
      | none => c) := rfl
  rw [form]
  dsimp only
  split
  · next p _ =>
    split
    · next present => exact .inr ⟨p, partPresent_lt present, rfl⟩
    · exact .inl rfl
  · exact .inl rfl

/-- The unit's own counter after a write that it ignores, where the bank of the agent is one that exists. -/
theorem count_ignoredCounted (u : UnitId) {w : Agent} (hw : bankOf w < 2 ^ 32) (b : Block) :
    fget (ignoredCounted u w b) F.idIgnoredCount u.row = satAdd F.idIgnoredCount.max (fget b F.idIgnoredCount u.row) 1 := by
  have row : u.row < 2 ^ 32 := by cases u <;> decide
  rw [← fget_fbump_same F.idIgnoredCount u.row 1 b (by decide)]
  have other : ∀ f : Fld, ∀ i c, f.reg ≠ .idIgnored → i < 2 ^ 32 → fget (fbump f i 1 c) F.idIgnoredCount u.row = fget c F.idIgnoredCount u.row :=
    fun f i c hf hi => fget_fput_elsewhere _ _ hf.symm hi row
  unfold ignoredCounted
  dsimp only
  split
  · split
    · exact other _ _ _ (by decide) hw
    · exact (other _ _ _ (by decide) (by simp only [bankOf] at hw; omega)).trans (other _ _ _ (by decide) hw)
    · rfl
  · split
    · exact other _ _ _ (by decide) hw
    · exact (other _ _ _ (by decide) (by simp only [bankOf] at hw; omega)).trans (other _ _ _ (by decide) hw)
    · exact other _ _ _ (by decide) (by decide)
  · rfl

/-- The unit's ignored-write counter is one higher, saturating (R33); that of TC at least that, since a dump may be refused too. -/
theorem count_ignored (u : UnitId) {w : Agent} (hw : bankOf w < 2 ^ 32) (part : Option Nat) (b : Block) :
    let more := satAdd F.idIgnoredCount.max (fget b F.idIgnoredCount u.row) 1
    more ≤ fget (ignored u w part b) F.idIgnoredCount u.row ∧ (u ≠ .tc → fget (ignored u w part b) F.idIgnoredCount u.row = more) := by
  intro more
  have counted := count_ignoredCounted u hw b
  rcases ignored_form u w part b with same | ⟨p, hp, noted⟩
  · rw [same]
    exact ⟨Nat.le_of_eq counted.symm, fun _ => counted⟩
  · have note := noteOnly_fhNote (s := 256 + 16 * p + 15) (by omega) (.fn (bankOf w)) (some p) (ignoredCounted u w b)
    by_cases tc : u = .tc
    · subst tc
      rw [noted]
      refine ⟨Nat.le_trans (Nat.le_of_eq counted.symm) (countRises_fhRecord (by omega) _ _ _ _), fun no => absurd rfl no⟩
    · have row : u.row < 2 ^ 32 ∧ noteReg .idIgnored u.row = false := by
        revert tc
        cases u <;> decide
      have same : fget (ignored u w part b) F.idIgnoredCount u.row = more := by
        rw [noted, note.fget row.2 row.1]
        exact counted
      exact ⟨Nat.le_of_eq same.symm, fun _ => same⟩

/-- A write that its register ignores is ignored by its unit; PS counts it besides (R428). -/
theorem count_regIgnored {w : Agent} (r : Reg) (hw : bankOf w < 2 ^ 32) (b : Block) :
    let more := satAdd F.idIgnoredCount.max (fget b F.idIgnoredCount r.spec.unit.row) 1
    more ≤ fget (regIgnored w r b) F.idIgnoredCount r.spec.unit.row ∧
      (r.spec.unit ≠ .tc → fget (regIgnored w r b) F.idIgnoredCount r.spec.unit.row = more) := by
  have same : fget (regIgnored w r b) F.idIgnoredCount r.spec.unit.row =
      fget (ignored r.spec.unit w none b) F.idIgnoredCount r.spec.unit.row := by
    have row : r.spec.unit.row < 2 ^ 32 := by cases r <;> decide
    unfold regIgnored
    dsimp only
    split
    case h_7 => rfl
    all_goals exact fget_fput_elsewhere _ _ (by decide) (by decide) row
  rw [same]
  exact count_ignored _ hw none b

/-! ### Writes that land nowhere -/

/-- The bank of an agent whose access reaches the block. -/
theorem bankOf_lt {w : Agent} {b : Block} (reach : accessReach b w = true) : bankOf w < 2 ^ 32 := by
  by_cases mgmt : w = .mgmt
  · subst mgmt; decide
  · have := bankOf_lt_of_reach mgmt reach
    omega

/-- A write that reaches the block at a register is taken there as far as the block is not stopped. -/
theorem writeTake_reach {w : Agent} {r : Reg} {k : Nat} {half : Half} {val : BitVec 64} {ok : Bool} {b : Block} (reach : accessReach b w = true) :
    writeTake settle w (some (r, k)) half val ok b = regTake settle w r k (halfMask half) val ok (accessArrive w false b) := by
  simp [writeTake, reach]

/-- A write that a stopped block does not take (R566). -/
theorem regTake_stopped {f : Block → Block} {w : Agent} {r : Reg} {k : Nat} {m val : BitVec 64} {ok : Bool} {b : Block}
    (stop : stopTakes b w r = false) : regTake f w r k m val ok b = letGo w b := by
  have stop' : stopTakes (letGo w b) w r = false := stop
  simp [regTake, stop']

theorem regTake_takes {w : Agent} {r : Reg} {k : Nat} {m val : BitVec 64} {ok : Bool} {b : Block}
    (takes : stopTakes b w r = true) (md : r ≠ .mdCtl) : regTake settle w r k m val ok b = after r (regStore w r k val m (letGo w b)) := by
  have takes' : stopTakes (letGo w b) w r = true := takes
  simp [regTake, takes', md, after]

/-- Settles O15. -/
theorem writesThatLandNowhereChangeNothing : Obligations.WritesThatLandNowhereChangeNothing := by
  intro c s w r k half val ok named b q
  have write := exec_writeOf (s := s) named
  refine ⟨fun held => ?_, fun unheld away => ?_, fun unheld reach nowhere => ?_, fun unheld reach seen there => ⟨fun stop => ?_,
    fun takes md => ⟨fun absent => ?_, fun foreign => ?_⟩⟩⟩
  · rw [write, regWriteFrom_waits held]
  · rw [write, regWriteFrom_unheld unheld, writeTake_away away]
  · rw [write, regWriteFrom_unheld unheld, regNamed_none nowhere]
    simp [writeTake, reach, b]
  all_goals rw [write, regWriteFrom_unheld unheld, regNamed_seen seen there, writeTake_reach reach]
  · rw [regTake_stopped stop]
  · have place : regIdx (letGo w b) w r k = .absent := (regIdx_halves b _ w r k).trans absent
    have mapped : unmappedVf (letGo w b) w = unmappedVf b w := rfl
    rw [regTake_takes takes md]
    simp only [regStore, place, mapped]
  · have place : regIdx (letGo w b) w r k = .foreign := (regIdx_halves b _ w r k).trans foreign
    refine ⟨regIgnored w r (letGo w b), ?_, count_regIgnored r (bankOf_lt reach) (letGo w b)⟩
    rw [regTake_takes takes md, regStore_foreign place]

/-! ### Reads (R12, R16) -/

/-- What a read clears: the RC bits under its mask. -/
theorem getLsbD_clearRc (r : Reg) (i : Nat) (mask : BitVec 64) (b : Block) {n : Nat} (hn : n < 64) :
    (rget (clearRc r i mask b) r i).getLsbD n = ((rget b r i).getLsbD n && !(r.bitsOf (· == .rc) &&& mask).getLsbD n) := by
  have fold : ∀ (l : List Fld) (b : Block), (rget (l.foldl (fun b f => if f.acc == .rc && (mask &&& fmask f.hi f.lo) != 0#64
      then rput r i (rget b r i &&& ~~~(mask &&& fmask f.hi f.lo)) b else b) b) r i).getLsbD n =
      ((rget b r i).getLsbD n && !(l.any (fun f => f.acc == .rc && (fmask f.hi f.lo).getLsbD n) && mask.getLsbD n)) := by
    intro l
    induction l with
    | nil => simp
    | cons f l ih =>
      intro b
      rw [List.foldl_cons, ih, List.any_cons]
      cases rc : f.acc == .rc with
      | false => simp
      | true =>
        by_cases none : mask &&& fmask f.hi f.lo = 0#64
        · have bit : (mask.getLsbD n && (fmask f.hi f.lo).getLsbD n) = false := by
            rw [← BitVec.getLsbD_and, none, BitVec.getLsbD_zero]
          simp only [none, bne_self_eq_false, Bool.and_false, Bool.false_eq_true, if_false, Bool.true_and]
          revert bit
          cases mask.getLsbD n <;> cases (fmask f.hi f.lo).getLsbD n <;> simp
        · simp only [bne_iff_ne.mpr none, Bool.and_self, if_true, rget_rput_same, BitVec.getLsbD_and, BitVec.getLsbD_not, hn, decide_true,
            Bool.true_and]
          cases (rget b r i).getLsbD n <;> cases mask.getLsbD n <;> cases (fmask f.hi f.lo).getLsbD n <;> simp
  rw [clearRc, fold, BitVec.getLsbD_and, getLsbD_bitsOf]

/-- A read clears bits of its register and nothing else. -/
theorem wordOnly_clearRc (r : Reg) (i : Nat) (mask : BitVec 64) (b : Block) : WordOnly r i b (clearRc r i mask b) := by
  have fold : ∀ (l : List Fld) (c : Block), WordOnly r i c (l.foldl (fun b f => if f.acc == .rc && (mask &&& fmask f.hi f.lo) != 0#64
      then rput r i (rget b r i &&& ~~~(mask &&& fmask f.hi f.lo)) b else b) c) := by
    intro l
    induction l with
    | nil => exact WordOnly.refl r i
    | cons f l ih => exact fun c => (wordOnly_ite (wordOnly_rput r i _ c) (WordOnly.refl r i c)).trans (ih _)
  exact fold _ b

/-- In a register whose read has no other effect a read clears RC bits. -/
theorem readEffect_clearsOnly {r : Reg} (h : clearsOnly r = true) (w : Agent) (i : Nat) (mask : BitVec 64) (b : Block) :
    readEffect w r i mask b = clearRc r i mask b := by
  cases r <;> cases h <;> rfl

/-- What a read of part of a register keeps for the other part is no more than `halves` (R16). -/
theorem halfRead_rest (w : Agent) (r : Reg) (k : Nat) (half : Half) (b : Block) :
    ∃ h, (halfRead w r k half b).2 = { b with halves := h } := by
  unfold halfRead
  dsimp only
  split
  · exact ⟨b.halves, rfl⟩
  · split
    · split
      · exact ⟨_, rfl⟩
      · exact ⟨_, rfl⟩
    · exact ⟨_, rfl⟩

/-- What a read takes of a register that is not read at one instant, or reads whole. -/
theorem halfRead_whole {w : Agent} {r : Reg} {k : Nat} {half : Half} {b : Block} (h : half = .full ∨ r.whole = false) :
    halfRead w r k half b = (regAt b w r k, b) := by
  have whole : (half = .full || !r.whole) = true := by
    rcases h with rfl | parts
    · rfl
    · simp [parts]
  simp [halfRead, whole]

/-- The second half of a register that is read at one instant. -/
theorem halfRead_second {w : Agent} {r : Reg} {k : Nat} {half h : Half} {x : BitVec 64} {b : Block} (part : half ≠ .full) (whole : r.whole = true)
    (kept : tfind b.halves (bankOf w) = some (regKey r k, h, x)) (other : h ≠ half) :
    halfRead w r k half b = (x, { b with halves := tdel b.halves (bankOf w) }) := by
  simp [halfRead, part, whole, kept, other]

/-- The first half of it, or the same half again. -/
theorem halfRead_first {w : Agent} {r : Reg} {k : Nat} {half : Half} {b : Block} (part : half ≠ .full) (whole : r.whole = true)
    (kept : ∀ x h, tfind b.halves (bankOf w) = some (regKey r k, h, x) → h = half) : halfRead w r k half b =
      (regAt b w r k, { b with halves := tput b.halves (bankOf w) (regKey r k, half, regAt b w r k) }) := by
  cases held : tfind b.halves (bankOf w) with
  | none => simp [halfRead, part, whole, held]
  | some e =>
    obtain ⟨y, h, x⟩ := e
    have fresh : ¬(y = regKey r k ∧ h ≠ half) := by
      rintro ⟨rfl, other⟩
      exact other (kept x h held)
    simp only [halfRead, part, whole, held, fresh]
    rfl

/-- The answer to a read that has found a register copy. -/
theorem readTake_answers {w : Agent} {r : Reg} {k i : Nat} {b : Block} (reach : accessReach b w = true)
    (place : regIdx (accessArrive w true b) w r k = .at_ i) (off : Nat) (half : Half) : readTake w (some (r, k)) off half b =
      answered w off ((halfRead w r k half (accessArrive w true b)).1 &&& halfMask half)
        (readEffect w r i (halfMask half) (halfRead w r k half (accessArrive w true b)).2) := by
  obtain ⟨h, kept⟩ := halfRead_rest w r k half (accessArrive w true b)
  have place' : regIdx (halfRead w r k half (accessArrive w true b)).2 w r k = .at_ i := by
    rw [kept, regIdx_halves, place]
  simp only [readTake, reach, place', answered]
  cases w <;> rfl

theorem readTake_nothing {w : Agent} {b : Block} (reach : accessReach b w = true) (off : Nat) (half : Half) :
    readTake w none off half b = answered w off 0#64 (accessArrive w true b) := by
  simp only [readTake, reach, answered]
  cases w <;> rfl

theorem readTake_away {w : Agent} {b : Block} (away : accessReach b w = false) (o : Option (Reg × Nat)) (off : Nat) (half : Half) :
    readTake w o off half b = accessArrive w true b := by
  simp [readTake, away]

theorem badTake_away {w : Agent} {b : Block} (away : accessReach b w = false) (off : Nat) (read : Bool) :
    badTake w off read b = accessArrive w read b := by
  show (if !accessReach b w then accessArrive w read b else _) = _
  rw [away]
  rfl

/-- An access that breaks R14 is recorded, with its function on a host port (R15). -/
def badRecorded (w : Agent) (b : Block) : Block :=
  fhNote 3 (match w with | .mgmt => .none | _ => .fn (bankOf w)) (match w with | .vf h v => vfPart b (128 * h + v) | _ => none) b

theorem badTake_reach {w : Agent} {b : Block} (reach : accessReach b w = true) (off : Nat) (read : Bool) : badTake w off read b =
    if read then answered w off 0#64 (badRecorded w (accessArrive w read b)) else badRecorded w (accessArrive w read b) := by
  show (if !accessReach b w then accessArrive w read b else if !read then badRecorded w (accessArrive w read b)
    else answered w off 0#64 (badRecorded w (accessArrive w read b))) = _
  rw [reach]
  cases read <;> rfl

/-- A read that is not named by a command arrives at an offset. -/
theorem exec_readClear_bar0 {w : Agent} {s : State} (unheld : Unheld s.blk w) (off : Nat) (half : Half) :
    exec (.readClear w (.bar0 off) half) s = .next { s with blk := readTake w (regDecode w off) off half s.blk } := by
  refine run_eq ?_
  simp only [regRead, regReadFrom, postHeld_read_none unheld]

/-- Reads of BAR2 and accesses that break R14 wait no more than others. -/
theorem postHeld_none {w : Agent} {b : Block} (h : Unheld b w) {x : Posted} (fits : ∀ h, postFits b h x = true) : postHeld w x b = none := by
  unfold postHeld postHold
  rcases h with rfl | down | empty
  · rfl
  · simp [down]
  · simp [empty, fits]

theorem exec_readClear_bar2 {w : Agent} {s : State} (unheld : Unheld s.blk w) (half : Half) :
    exec (.readClear w .bar2 half) s = .next { s with blk := bar2ReadTake w half s.blk } := by
  refine run_eq ?_
  simp only [bar2Read, postHeld_none unheld (x := .bar2Read w half) (fun _ => rfl)]

theorem exec_badRegisterAccess {w : Agent} {s : State} (unheld : Unheld s.blk w) (off : Nat) (read : Bool) :
    exec (.badRegisterAccess w off read) s = .next { s with blk := badTake w off read s.blk } := by
  refine run_eq ?_
  simp only [regBad, postHeld_none unheld (x := .bad w off read) (fun _ => rfl)]

/-! ### Stranded logs and weights -/

/-- POP of a stranded log (R274). -/
theorem strandPop_cons {fn : Nat} {b : Block} {e : List (BitVec 64)} {l : List (List (BitVec 64))} (h : tget [] b.he.logs fn = e :: l) :
    strandPop fn b = some (modHe (fun h => { h with logs := tset [] h.logs fn l }) b) := by
  rw [strandPop, h]

theorem strandPop_nil {fn : Nat} {b : Block} (h : tget [] b.he.logs fn = []) : strandPop fn b = none := by
  rw [strandPop, h]

/-- What is kept of a register for a second read is set aside. -/
theorem halves_rest {b c : Block} {h : Tbl (Nat × Half × BitVec 64)} (rest : { c with regs := b.regs } = { b with halves := h }) :
    { c with regs := b.regs, halves := b.halves } = b := by
  have all := congrArg (fun e : Block => { e with halves := b.halves }) rest
  exact all

/-- A read of a register that only clears: what it answers, what it clears, and what it keeps of a register that is read at one instant. -/
theorem readTake_clearsOnly {w : Agent} {r : Reg} {k i : Nat} {b0 b : Block} (arrived : accessArrive w true b0 = b)
    (reach : accessReach b0 w = true) (place : regIdx b w r k = .at_ i) (clears : clearsOnly r = true) (off : Nat) (half : Half) :
    ∃ c v, readTake w (some (r, k)) off half b0 = answered w off (v &&& halfMask half) c ∧
      (∀ n, n < 64 → (rget c r i).getLsbD n = ((rget b r i).getLsbD n && !(r.bitsOf (· == .rc) &&& halfMask half).getLsbD n)) ∧
      (∀ q j, regKey q j ≠ regKey r i → rget c q j = rget b q j) ∧ { c with regs := b.regs, halves := b.halves } = b ∧
      v = (halfRead w r k half b).1 ∧ c.halves = (halfRead w r k half b).2.halves := by
  obtain ⟨h, kept⟩ := halfRead_rest w r k half b
  have answer := readTake_answers reach (arrived.symm ▸ place) off half
  rw [arrived, readEffect_clearsOnly clears, kept] at answer
  have only := wordOnly_clearRc r i (halfMask half) { b with halves := h }
  have halves : (clearRc r i (halfMask half) { b with halves := h }).halves = h := congrArg Block.halves only.rest
  refine ⟨clearRc r i (halfMask half) { b with halves := h }, _, answer, fun n hn => getLsbD_clearRc _ _ _ _ hn, only.others,
    halves_rest (h := h) only.rest, rfl, ?_⟩
  rw [kept, halves]

/-- Settles O17. -/
theorem readsClearAndPopsRemove : Obligations.ReadsClearAndPopsRemove := by
  constructor
  case left =>
    intro s w off half read b unheld
    refine ⟨fun host reach isRead => ?_, fun away => ⟨?_, fun isRead at_ place => ?_⟩,
      fun reach isRead nothing => ?_, fun r k i reach isRead decoded place clears => ?_, fun reach => ?_⟩
    · subst isRead
      rw [exec_readClear_bar2 unheld]
      simp [bar2ReadTake, host, reach, b]
    · rw [exec_badRegisterAccess unheld, badTake_away away]
    · subst isRead
      rcases place with rfl | ⟨rfl, host⟩
      · rw [exec_readClear_bar0 unheld, readTake_away away]
      · rw [exec_readClear_bar2 unheld]
        simp [bar2ReadTake, host, away, b]
    · subst isRead
      rw [exec_readClear_bar0 unheld, nothing, readTake_nothing reach]
    · subst isRead
      obtain ⟨c, v, answer, bits, others, rest, value, halves⟩ := readTake_clearsOnly rfl reach place clears off half
      have at_ : regAt b w r k = readReg b w r i := by simp [regAt, place]
      refine ⟨c, v, ?_, bits, others, rest, fun all => ?_, fun part whole => ⟨fun x h held other => ?_, fun first => ?_⟩⟩
      · rw [exec_readClear_bar0 unheld, decoded, answer]
      · rw [value, halves, halfRead_whole all]
        exact ⟨at_, rfl⟩
      · rw [value, halves, halfRead_second part whole held other]
        exact ⟨rfl, rfl⟩
      · rw [value, halves, halfRead_first part whole first]
        exact ⟨at_, tfind_tput_same _ _ _⟩
    · intro c
      rw [exec_badRegisterAccess unheld, badTake_reach reach]
      rfl
  case right =>
    intro s w half val b i
    refine ⟨fun lands names => ⟨fun e l held => ?_, fun empty => ?_⟩, fun p lands => ?_⟩
    · have pop : regApply w .heStrandCtl i (carry F.heStrandCtlPop 1 val) (halfMask half) b =
          some (modHe (fun h => { h with logs := tset [] h.logs i l }) b) := by
        simp only [regApply, on_carry_named names (by decide) (by decide), strandPop_cons held, if_true]
      exact exec_write_applies rfl lands (by decide) rfl pop
    · have pop : regApply w .heStrandCtl i (carry F.heStrandCtlPop 1 val) (halfMask half) b = none := by
        simp only [regApply, on_carry_named names (by decide) (by decide), strandPop_nil empty, if_true]
      exact exec_write_ignored rfl lands (by decide) rfl pop
    · have only := wordOnly_storePlain .hePartWeight i (val &&& halfMask half) (halfMask half) b
      refine ⟨storePlain .hePartWeight i (val &&& halfMask half) (halfMask half) b, only.rest, only.others, fun low => ?_, fun high => ?_, ?_⟩
      · exact fget_storePlain_named (f := F.hePartWeightWeight) i val b (names_lo (by decide) low) (by decide) (by decide) (by decide)
      · exact fget_storePlain_named (f := F.hePartWeightSpecOff) i val b (names_hi (by decide) high) (by decide) (by decide) (by decide)
      · exact exec_write_settles rfl lands (by decide) rfl rfl

end Sys2Proof.Laws

/-!
Doorbells and the commands of SQ_CMD: what a pointer does at its ring, how BAR2 writes and portal messages reach a ring,
and what each command makes of its ring, completion ring or QP.
-/
namespace Sys2Proof.Laws

open Sys2Proof Sys2Proof.Machine Sys2Proof.Safety

/-! ### A pointer at its ring -/

theorem tailTake_valid {b : Block} {key ptr : Nat} {r : Ring} (at_ : tfind b.sq.rings key = some r) (valid : TailValid r ptr) :
    tailTake key ptr b = modRing key (fun r => { r with tail := ptr, used := b.now }) b := by
  obtain ⟨short, inside, room⟩ := valid
  have good : ¬ (2 ^ 17 ≤ ptr ∨ r.size ≤ ptr % 65536 ∨ r.size < ringUsed r.size r.head r.tail + ringUsed r.size r.tail ptr) := by
    rintro (h | h | h)
    · exact absurd short (Nat.not_lt.2 h)
    · exact absurd inside (Nat.not_lt.2 h)
    · exact absurd room (Nat.not_le.2 h)
  simp only [tailTake, at_, if_neg good]

theorem tailTake_invalid {b : Block} {key ptr : Nat} {r : Ring} (at_ : tfind b.sq.rings key = some r) (invalid : ¬ TailValid r ptr) :
    tailTake key ptr b = malformed (key / 4096) 0x0B false (key % 4096) (ptr % 2 ^ 17) b := by
  have bad : 2 ^ 17 ≤ ptr ∨ r.size ≤ ptr % 65536 ∨ r.size < ringUsed r.size r.head r.tail + ringUsed r.size r.tail ptr := by
    by_contra good
    obtain ⟨short, inside, room⟩ := not_or.1 good |>.imp_right not_or.1
    exact invalid ⟨Nat.not_le.1 short, Nat.not_le.1 inside, Nat.not_lt.1 room⟩
  simp only [tailTake, at_, if_pos bad]

theorem headTake_valid {b : Block} {key ptr : Nat} {c : Cq} (at_ : tfind b.sq.cqs key = some c) (valid : HeadValid c ptr) :
    headTake key ptr b = modCq key (fun c => { c with head := ptr, used := b.now }) b := by
  obtain ⟨short, inside, used⟩ := valid
  have good : ¬ (2 ^ 17 ≤ ptr ∨ c.size ≤ ptr % 65536 ∨ ringUsed c.size c.head c.tail < ringUsed c.size c.head ptr) := by
    rintro (h | h | h)
    · exact absurd short (Nat.not_lt.2 h)
    · exact absurd inside (Nat.not_lt.2 h)
    · exact absurd used (Nat.not_le.2 h)
  simp only [headTake, at_, if_neg good]

theorem headTake_invalid {b : Block} {key ptr : Nat} {c : Cq} (at_ : tfind b.sq.cqs key = some c) (invalid : ¬ HeadValid c ptr) :
    headTake key ptr b = malformed (key / 4096) 0x0B true (key % 4096) (ptr % 2 ^ 17) b := by
  have bad : 2 ^ 17 ≤ ptr ∨ c.size ≤ ptr % 65536 ∨ ringUsed c.size c.head c.tail < ringUsed c.size c.head ptr := by
    by_contra good
    obtain ⟨short, inside, used⟩ := not_or.1 good |>.imp_right not_or.1
    exact invalid ⟨Nat.not_le.1 short, Nat.not_le.1 inside, Nat.not_lt.1 used⟩
  simp only [headTake, at_, if_pos bad]

theorem doorbell_ring {b : Block} {key : Nat} {r : Ring} (at_ : tfind b.sq.rings key = some r) (here : r.resident = true)
    (none_ : NoneWaits b false key) (w : Agent) (ptr : Nat) : doorbell w false key ptr b = tailTake key ptr b := by
  rw [NoneWaits] at none_
  simp only [doorbell, at_, here, none_, Bool.false_eq_true, if_false, Bool.not_false, Bool.and_true, if_true]

theorem doorbell_cq {b : Block} {key : Nat} {c : Cq} (at_ : tfind b.sq.cqs key = some c) (here : c.resident = true)
    (none_ : NoneWaits b true key) (w : Agent) (ptr : Nat) : doorbell w true key ptr b = headTake key ptr b := by
  rw [NoneWaits] at none_
  simp only [doorbell, at_, here, none_, if_true, Bool.not_false, Bool.and_true]

/-- A doorbell whose context is not on its tile is kept for the load that it asks for (R212). -/
theorem doorbell_ring_away {b : Block} {key : Nat} {r : Ring} (at_ : tfind b.sq.rings key = some r) (away : r.resident = false)
    (w : Agent) (ptr : Nat) : doorbell w false key ptr b =
      ringLoad false key (modSq (fun q => { q with waiting := q.waiting ++ [(false, key, ptr, w)] }) b) := by
  simp [doorbell, at_, away]

theorem doorbell_cq_away {b : Block} {key : Nat} {c : Cq} (at_ : tfind b.sq.cqs key = some c) (away : c.resident = false)
    (w : Agent) (ptr : Nat) : doorbell w true key ptr b =
      ringLoad true key (modSq (fun q => { q with waiting := q.waiting ++ [(true, key, ptr, w)] }) b) := by
  simp [doorbell, at_, away]

/-! ### A BAR2 write that reaches the block -/

/-- What a doorbell does where it is taken, and that it is ignored and counted where it is not. -/
theorem bar2_of_rings {b0 b : Block} {w : Agent} {slot key ptr : Nat} {size : DbSize} {val : BitVec 64} {cq : Bool}
    (rings : RingsBell b0 w slot size val cq key ptr b) :
    bar2 w slot size val b0 =
      (if (match cq with
        | false => match tfind b.sq.rings key with | some r => r.host && fromOwner w r.owner && ringHears b key | none => false
        | true => match tfind b.sq.cqs key with | some c => fromOwner w c.owner && cqHears b key | none => false) = true
      then doorbell w cq key ptr b else ignored .sq w (some (key / 4096)) b) := by
  obtain ⟨host, unheld, plain, up, rfl, mse, awake, runs, sized, p, j, slotted, rfl, kind⟩ := rings
  have held : postHold (bankOf w / 128) (.bar2 w slot size val) b0 = none := by
    simpa only [postHeld, if_neg host] using postHeld_none unheld (x := .bar2 w slot size val) (fun _ => rfl)
  have part : (4096 * p + j % 4096) / 4096 = p := by omega
  have written : (if size = .quad then val.toNat else val.toNat % 2 ^ 32) = ptr ∧ (size = .quad ∨ size = .lower) := by
    rcases sized with ⟨rfl, rfl⟩ | ⟨rfl, rfl⟩ <;> simp
  have known : ¬ (size ≠ .quad ∧ size ≠ .lower) := by
    rintro ⟨nq, nl⟩
    exact written.2.elim nq nl
  have taken : ¬ (w = .mgmt ∨ (!hostUp b0 (bankOf w / 128)) = true ∨ ideOff b0 (bankOf w) = true) := by
    simp [host, up, plain]
  simp only [bar2, if_neg host, held, bar2Take, if_neg taken, mse, awake, runs, Bool.not_true, Bool.or_false,
    Bool.false_eq_true, if_false, bar2Write, if_neg known, slotted, written.1, part, Option.map_some]
  cases cq with
  | false =>
    have small : j < 4096 := Nat.not_le.1 fun h => Bool.false_ne_true (kind.2 h)
    simp only [small, if_true]
    cases tfind (hostTlp (bankOf w / 128) b0).sq.rings (4096 * p + j % 4096) with
    | none => simp
    | some r => dsimp only; split <;> simp_all
  | true =>
    have large : ¬ j < 4096 := Nat.not_lt.2 (kind.1 rfl)
    simp only [large, if_false]
    cases tfind (hostTlp (bankOf w / 128) b0).sq.cqs (4096 * p + j % 4096) with
    | none => simp
    | some c => dsimp only; split <;> simp_all

/-- Settles O18: a BAR2 write reaches its ring, and the pointer does what its ring makes of it. -/
theorem doorbellsMoveTheirPointers : Obligations.DoorbellsMoveTheirPointers := by
  unfold Obligations.DoorbellsMoveTheirPointers
  intro s w slot size val key ptr b
  refine ⟨fun r rings at_ host owner hears => ?_, fun c rings at_ owner hears here waits => ?_,
    fun c rings at_ owner hears away => ?_, fun cq rings unheard => ?_⟩
  · have taken : bar2 w slot size val s.blk = doorbell w false key ptr b := by
      simp [bar2_of_rings rings, at_, host, owner, hears]
    exact ⟨fun here waits valid => run_settle_eq ((taken.trans (doorbell_ring at_ here waits w ptr)).trans (tailTake_valid at_ valid)),
      fun here waits invalid => run_settle_eq ((taken.trans (doorbell_ring at_ here waits w ptr)).trans (tailTake_invalid at_ invalid)),
      fun away => run_settle_eq (taken.trans (doorbell_ring_away at_ away w ptr))⟩
  · have taken : bar2 w slot size val s.blk = headTake key ptr b := by
      simp [bar2_of_rings rings, at_, owner, hears, doorbell_cq at_ here waits]
    exact ⟨fun valid => run_settle_eq (taken.trans (headTake_valid at_ valid)),
      fun invalid => run_settle_eq (taken.trans (headTake_invalid at_ invalid))⟩
  · refine run_settle_eq (Eq.trans ?_ (doorbell_cq_away at_ away w ptr))
    simp [bar2_of_rings rings, at_, owner, hears]
  · have dropped : bar2 w slot size val s.blk = ignored .sq w (some (key / 4096)) b := by
      rw [bar2_of_rings rings]
      cases cq with
      | false =>
        cases at_ : tfind b.sq.rings key with
        | none => simp
        | some r => rcases unheard r at_ with h | h | h <;> simp [h]
      | true =>
        cases at_ : tfind b.sq.cqs key with
        | none => simp
        | some c => rcases unheard c at_ with h | h <;> simp [h]
    exact ⟨run_settle_eq dropped, run_settle_eq dropped⟩

/-! ### Portal messages -/

theorem portalMsg_unmapped {b : Block} {die portal : Nat} {msg : BitVec 64} (runs : stopped b = false) (hd : die < 4) (hp : portal < 64)
    (unmapped : fon b F.sqPortalMapValid (64 * die + portal) = false) : portalMsg die portal msg b = ignored .sq .mgmt none b := by
  simp [portalMsg, runs, Nat.not_le.2 hd, Nat.not_le.2 hp, unmapped]

/-- A message with its must-be-zero bits zero goes to the ring that it names. -/
theorem portalMsg_takes {b : Block} {die portal p : Nat} {msg : BitVec 64} (takes : PortalTakes b die portal msg p) :
    portalMsg die portal msg b =
      if msg.getLsbD 47 then
        (if cqHears b (4096 * p + qbits msg 43 32) then doorbell .mgmt true (4096 * p + qbits msg 43 32) (qbits msg 16 0) b
          else ignored .sq .mgmt (some p) b)
      else match tfind b.sq.rings (4096 * p + qbits msg 43 32) with
        | none => ignored .sq .mgmt (some p) b
        | some r =>
          if !r.host && ringHears b (4096 * p + qbits msg 43 32) then doorbell .mgmt false (4096 * p + qbits msg 43 32) (qbits msg 16 0) b
          else ignored .sq .mgmt (some p) b := by
  obtain ⟨runs, hd, hp, mapped, rfl, present, hears, zero⟩ := takes
  simp [portalMsg, runs, Nat.not_le.2 hd, Nat.not_le.2 hp, mapped, hears, present, zero] <;> rfl

theorem portalMsg_malformed {b : Block} {die portal p : Nat} {msg : BitVec 64} (runs : stopped b = false) (hd : die < 4) (hp : portal < 64)
    (mapped : fon b F.sqPortalMapValid (64 * die + portal) = true) (part : p = fget b F.sqPortalMapPartition (64 * die + portal))
    (present : partPresent b p = true) (hears : partDeaf b p = false) (set : msg &&& 0xFFFF7000FFFE0000#64 ≠ 0#64) :
    portalMsg die portal msg b = malformed p 0x0B (msg.getLsbD 47) (qbits msg 43 32) (qbits msg 16 0) b := by
  subst part
  simp [portalMsg, runs, Nat.not_le.2 hd, Nat.not_le.2 hp, mapped, hears, present, set]

/-- Settles O19: a portal message is looked at before its ring is, and rings no host ring. -/
theorem portalMessagesActForTheMappedPartition : Obligations.PortalMessagesActForTheMappedPartition := by
  unfold Obligations.PortalMessagesActForTheMappedPartition
  intro s die portal msg p
  refine ⟨fun r takes tail at_ hears => ⟨fun compute here waits valid => run_settle_eq ?_, fun host => run_settle_eq ?_⟩,
    fun c takes head at_ hears here waits valid => run_settle_eq ?_,
    fun runs hd hp unmapped => ⟨run_settle_eq (portalMsg_unmapped runs hd hp unmapped), run_settle_eq (portalMsg_unmapped runs hd hp unmapped)⟩,
    fun runs hd hp mapped part present hears set => run_settle_eq (portalMsg_malformed runs hd hp mapped part present hears set)⟩
  · rw [portalMsg_takes takes, tail]
    simp [at_, compute, hears, doorbell_ring at_ here waits, tailTake_valid at_ valid]
  · rw [portalMsg_takes takes, tail]
    simp [at_, host]
  · rw [portalMsg_takes takes, head]
    simp [hears, doorbell_cq at_ here waits, headTake_valid at_ valid]

/-! ### Commands of SQ_CMD -/

/-- A command that lands in its bank, with what its register takes of it. -/
theorem exec_sqCommand {c : Instr} {s : State} {w : Agent} {op : Nat} {half : Half} {val : BitVec 64} {b b' : Block} {p obj : Nat}
    (h : writeOf c = some (w, .sqCmd, 0, half, carry F.sqCmdOp op val, true)) (issues : Issues s.blk w op half val b p obj)
    (applies : sqCommand w (carry F.sqCmdOp op val &&& halfMask half) b = some b') : exec c s = .next { s with blk := settle b' } :=
  exec_write_settles h issues.1 (by decide) rfl applies

/-- The opcode of a command that its access carries. -/
theorem issues_op {b0 b : Block} {w : Agent} {op : Nat} {half : Half} {val : BitVec 64} {p obj : Nat} (issues : Issues b0 w op half val b p obj)
    (short : op < 256) : qbits (carry F.sqCmdOp op val &&& halfMask half) 63 56 = op := by
  obtain ⟨_, high, _⟩ := issues
  have named : Names half F.sqCmdOp := names_hi (by decide) high
  exact (of_and_halfMask named (by decide) _).trans ((of_carry op val (by decide)).trans (Nat.mod_eq_of_lt short))

/-- A command of a ring or a completion ring answers with the code that `f` gives. -/
def RingCommand (w : Agent) (op : Nat) (f : Nat → Nat → Block → Nat × Block) : Prop :=
  ∀ (v : BitVec 64) (b : Block) (p : Nat), sqPart b w v = some p → fon b F.sqCmdStatusBusy (bankOf w) = false → qbits v 63 56 = op →
    qbits v 19 0 < 4096 →
    sqCommand w v b = some (sqResult (bankOf w) (f (4096 * p + qbits v 19 0) (bankOf w) b).1 (f (4096 * p + qbits v 19 0) (bankOf w) b).2)

theorem ringCommand_create (w : Agent) : RingCommand w 1 sqCreate := by
  intro v b p part idle op small
  simp [sqCommand, part, idle, op, Nat.not_le.2 small]

theorem ringCommand_bind (w : Agent) : RingCommand w 2 (sqBind w) := by
  intro v b p part idle op small
  simp [sqCommand, part, idle, op, Nat.not_le.2 small]

theorem ringCommand_pause (w : Agent) : RingCommand w 3 sqPause := by
  intro v b p part idle op small
  simp [sqCommand, part, idle, op, Nat.not_le.2 small]

theorem ringCommand_resume (w : Agent) : RingCommand w 4 sqResume := by
  intro v b p part idle op small
  simp [sqCommand, part, idle, op, Nat.not_le.2 small]

theorem ringCommand_cqCreate (w : Agent) : RingCommand w 8 (cqCreate w) := by
  intro v b p part idle op small
  simp [sqCommand, part, idle, op, Nat.not_le.2 small]

theorem ringCommand_cqTeardown (w : Agent) : RingCommand w 9 cqTeardown := by
  intro v b p part idle op small
  simp [sqCommand, part, idle, op, Nat.not_le.2 small]

theorem exec_ringCommand {c : Instr} {s : State} {w : Agent} {op : Nat} {half : Half} {val : BitVec 64} {b b' : Block} {p obj code : Nat}
    {f : Nat → Nat → Block → Nat × Block} (command : RingCommand w op f)
    (h : writeOf c = some (w, .sqCmd, 0, half, carry F.sqCmdOp op val, true)) (issues : Issues s.blk w op half val b p obj)
    (short : op < 256) (small : obj < 4096) (answers : f (4096 * p + obj) (bankOf w) b = (code, b')) :
    exec c s = .next { s with blk := settle (sqResult (bankOf w) code b') } := by
  have ⟨_, _, idle, part, named⟩ := issues
  subst named
  refine exec_sqCommand h issues ((command _ b p part idle (issues_op issues short) small).trans ?_)
  rw [answers]

/-- Where the three arguments read 0, none is stray. -/
theorem noArgs_any {b : Block} {w : Agent} (none_ : NoArgs b w) : (List.range 3).any (fun i => sqArg b (bankOf w) i != 0#64) = false := by
  simp only [List.any_eq_false, List.mem_range]
  intro i hi
  simp [none_ i hi]

/-- A command that ends with BUSY at 1, or with its code: SQ_TEARDOWN. -/
theorem sqCommand_teardown {w : Agent} {v : BitVec 64} {b : Block} {p : Nat} (part : sqPart b w v = some p)
    (idle : fon b F.sqCmdStatusBusy (bankOf w) = false) (op : qbits v 63 56 = 5) (small : qbits v 19 0 < 4096) :
    sqCommand w v b = match sqTeardown (4096 * p + qbits v 19 0) (bankOf w) b with
      | (some code, b) => some (sqResult (bankOf w) code b)
      | (none, b) => some b := by
  simp [sqCommand, part, idle, op, Nat.not_le.2 small] <;> rfl

theorem sqTeardown_created {key : Nat} {w : Agent} {b : Block} {r : Ring} (none_ : NoArgs b w) (at_ : tfind b.sq.rings key = some r)
    (created : r.state = .created) : sqTeardown key (bankOf w) b = (some 0, ringFree key b) := by
  simp only [sqTeardown, noArgs_any none_, at_, if_pos created]
  rfl

theorem sqTeardown_drains {key : Nat} {w : Agent} {b : Block} {r : Ring} (none_ : NoArgs b w) (at_ : tfind b.sq.rings key = some r)
    (busy : r.state ≠ .created) : sqTeardown key (bankOf w) b = (none, sqBusy (bankOf w) (modRing key (fun r =>
      { r with state := .draining, discardFetch := r.fetching.isSome, teardown := r.teardown ++ [bankOf w] }) b)) := by
  simp only [sqTeardown, noArgs_any none_, at_, if_neg busy]
  rfl

/-- The ring that SQ_CREATE makes of the arguments of its bank. -/
def ringMade (b : Block) (key bank : Nat) : Ring :=
  { ringNew (sqArg b bank 0).toNat (64 * 2 ^ (sqArg b bank 1).toNat) with resident := ringRoom b false key }

theorem sqCreate_good {key bank : Nat} {b : Block} (base : sqStray (sqArg b bank 0) 0x0001FFFFFFFFF000#64 = false)
    (size : (sqArg b bank 1).toNat ≤ 10) (rest : sqArg b bank 2 = 0#64)
    (region : (ringRegion b none (sqArg b bank 0).toNat (64 * (64 * 2 ^ (sqArg b bank 1).toNat))).isSome = true) :
    sqCreate key bank b = if ringState b key ≠ .free then (sqInUse, b)
      else (sqOk, modSq (fun q => { q with rings := tput q.rings key (ringMade b key bank) }) b) := by
  have place := Option.isNone_eq_false_iff.2 region
  simp [sqCreate, base, Nat.not_lt.2 size, rest, place, ringMade]

/-- Settles O20: each command of a ring answers with what its own function gives. -/
theorem ringCommandsChangeTheirRing : Obligations.RingCommandsChangeTheirRing := by
  unfold Obligations.RingCommandsChangeTheirRing
  intro s w half val b p obj small
  refine ⟨fun issues base size rest region => ⟨fun free => ?_, fun taken => ?_⟩,
    fun issues none_ => ⟨fun active sound => ?_, fun other => ?_⟩, fun issues none_ => ⟨fun still whole sound => ?_, fun other => ?_⟩,
    fun issues none_ r at_ => ⟨fun created => ?_, fun busy => ?_⟩⟩
  · refine ⟨_, exec_ringCommand (ringCommand_create w) rfl issues (by decide) small
      ((sqCreate_good base size rest region).trans (if_neg (not_not.2 free))), rfl, _, tfind_tput_same _ _ _, rfl, rfl, rfl, rfl, rfl, rfl, ?_⟩
    exact fun k other => tfind_tput_other _ _ _ _ other
  · exact exec_ringCommand (ringCommand_create w) rfl issues (by decide) small
      ((sqCreate_good base size rest region).trans (if_pos taken))
  · refine exec_ringCommand (ringCommand_pause w) rfl issues (by decide) small ?_
    simp [sqPause, noArgs_any none_, active, sound, sqOk, -List.any_eq_true, -List.any_eq_false]
  · refine exec_ringCommand (ringCommand_pause w) rfl issues (by decide) small ?_
    simp only [sqPause, noArgs_any none_, Bool.false_eq_true, if_false, if_pos other]
  · have good : ¬ ((ringState b (4096 * p + obj) ≠ .paused ∧ ringState b (4096 * p + obj) ≠ .halted) ∨
        recomposing b ((4096 * p + obj) / 4096) = true ∨ linePoisoned b 1 (4096 * p + obj) = true) := by
      rcases still with h | h <;> simp [h, whole, sound]
    refine exec_ringCommand (ringCommand_resume w) rfl issues (by decide) small ?_
    simp only [sqResume, noArgs_any none_, Bool.false_eq_true, if_false, if_neg good, sqOk]
  · refine exec_ringCommand (ringCommand_resume w) rfl issues (by decide) small ?_
    simp only [sqResume, noArgs_any none_, Bool.false_eq_true, if_false, if_pos (other.imp_left not_or.1)]
  · have ⟨_, _, idle, part, named⟩ := issues
    subst named
    refine exec_sqCommand rfl issues ((sqCommand_teardown part idle (issues_op issues (by decide)) small).trans ?_)
    rw [sqTeardown_created none_ at_ created]
  · have ⟨_, _, idle, part, named⟩ := issues
    subst named
    refine exec_sqCommand rfl issues ((sqCommand_teardown part idle (issues_op issues (by decide)) small).trans ?_)
    rw [sqTeardown_drains none_ at_ busy]

/-! ### Binding and completion rings -/

/-- The completion ring that CQ_CREATE makes of the arguments of its bank. -/
def cqMade (w : Agent) (b : Block) (key bank : Nat) : Cq :=
  { state := .active, base := (sqArg b bank 0).toNat, size := 64 * 2 ^ qbits (sqArg b bank 1) 3 0,
    tailWord := (sqArg b bank 2).toNat, irq := qbits (sqArg b bank 1) 42 32, owner := ownerOf w (qbits (sqArg b bank 1) 54 48),
    head := 0, tail := 0, orphan := 0, resident := ringRoom b true key, issued := [], owed := [], parked := [], used := 0 }

theorem cqCreate_good {w : Agent} {key bank p : Nat} {b : Block} (part : key / 4096 = p)
    (base : sqStray (sqArg b bank 0) 0x0001FFFFFFFFF000#64 = false) (kinds : sqStray (sqArg b bank 1) 0x007F07FF0000000F#64 = false)
    (word : sqStray (sqArg b bank 2) 0x0001FFFFFFFFFFF8#64 = false) (size : qbits (sqArg b bank 1) 3 0 ≤ 10)
    (irq : qbits (sqArg b bank 1) 42 32 / 64 = p) (fits : ownerFits b p (ownerOf w (qbits (sqArg b bank 1) 54 48)) = true)
    (ring : ∃ g, ringRegion b (some p) (sqArg b bank 0).toNat (32 * (64 * 2 ^ qbits (sqArg b bank 1) 3 0)) = some g ∧
      ∀ h, g = .port h → h = ownerOf w (qbits (sqArg b bank 1) 54 48) / 128)
    (tail : ∃ g, ringRegion b (some p) (sqArg b bank 2).toNat 8 = some g ∧
      ∀ h, g = .port h → h = ownerOf w (qbits (sqArg b bank 1) 54 48) / 128) (free : cqState b key = .free) :
    cqCreate w key bank b = (sqOk, modSq (fun q => { q with cqs := tput q.cqs key (cqMade w b key bank) }) b) := by
  obtain ⟨g, region, onPort⟩ := ring
  obtain ⟨g', region', onPort'⟩ := tail
  subst part
  simp only [cqCreate, base, kinds, word, Nat.not_lt.2 size, irq, fits, region, region', free]
  cases g <;> cases g' <;> simp_all [cqMade]

/-- The host port on which a ring lies, if it lies in the memory of a host. -/
def ringPort (r : Ring) : Option Nat := match regionOf r.base with | .port h => some h | _ => none

theorem bind_rightPort {b : Block} {p a : Nat} {w : Agent} {port : Option Nat}
    (onPort : ∀ h, port = some h → h = ownerOf w a / 128 ∧ ownerFits b p (ownerOf w a) = true ∧ (a ≤ 120 ∨ bankOf w % 128 ≠ 0)) :
    (port.isSome && (port != some (ownerOf w a / 128) || !ownerFits b p (ownerOf w a) || (bankOf w % 128 == 0 && 120 < a))) = false := by
  cases port with
  | none => rfl
  | some h =>
    obtain ⟨rfl, fits, few | vf⟩ := onPort h rfl
    · simp [fits, Nat.not_lt.2 few]
    · simp [fits, vf]

/-- SQ_BIND of a CREATED ring that may be bound comes down to its completion ring. -/
theorem sqBind_created {w : Agent} {key bank p : Nat} {b : Block} {r : Ring} (part : key / 4096 = p)
    (stray0 : sqStray (sqArg b bank 0) 0xFFF#64 = false) (stray1 : sqStray (sqArg b bank 1) 0xFFF#64 = false)
    (stray2 : sqStray (sqArg b bank 2) 0xFF#64 = false) (at_ : tfind b.sq.rings key = some r) (created : r.state = .created)
    (sound : linePoisoned b 1 key = false) (soundCq : linePoisoned b 2 (4096 * p + (sqArg b bank 0).toNat) = false)
    (right : ((ringPort r).isSome && (ringPort r != some (ownerOf w (sqArg b bank 2).toNat / 128) ||
      !ownerFits b p (ownerOf w (sqArg b bank 2).toNat) || (bankOf w % 128 == 0 && 120 < (sqArg b bank 2).toNat))) = false) :
    sqBind w key bank b = match tfind b.sq.cqs (4096 * p + (sqArg b bank 0).toNat) with
      | none => (sqNotOwner, b)
      | some c =>
        if c.state ≠ .active ∨ c.orphan ≠ 0 then (sqNotOwner, b)
        else (sqOk, modRing key (fun r' => { r' with
          state := .active, cq := (sqArg b bank 0).toNat, asn := (sqArg b bank 1).toNat, host := (ringPort r).isSome,
          owner := if (ringPort r).isSome then ownerOf w (sqArg b bank 2).toNat else 0, bound := true }) b) := by
  subst part
  simp only [sqBind, stray0, stray1, stray2, at_, created, sound, soundCq, Bool.or_self, Bool.false_eq_true, if_false, ne_eq,
    not_true, or_self]
  exact if_neg (Bool.eq_false_iff.1 right)

theorem cqTeardown_active {key : Nat} {w : Agent} {b : Block} (none_ : NoArgs b w) (active : cqState b key = .active) :
    cqTeardown key (bankOf w) b =
      if b.sq.rings.any (fun e => e.1 / 4096 == key / 4096 && e.2.cq == key % 4096 && e.2.bound && e.2.state != .free) then
        (sqInUse, b) else (sqOk, cqFree key b) := by
  simp only [cqTeardown, noArgs_any none_, Bool.false_eq_true, if_false, active, ne_eq, not_true]

/-- Settles O21: SQ_BIND, CQ_CREATE and CQ_TEARDOWN answer with what their own functions give. -/
theorem bindingAndCompletionRings : Obligations.BindingAndCompletionRings := by
  unfold Obligations.BindingAndCompletionRings
  intro s w half val b p obj small
  have part : (4096 * p + obj) / 4096 = p := by omega
  refine ⟨?_, ?_, ?_⟩
  · intro issues stray0 stray1 stray2 r at_ created sound soundCq fn port onPort
    have right := bind_rightPort (b := b) (p := p) (w := w) (a := (sqArg b (bankOf w) 2).toNat) (port := ringPort r) onPort
    refine ⟨fun c found active own => exec_ringCommand (ringCommand_bind w) rfl issues (by decide) small ?_,
      fun other => exec_ringCommand (ringCommand_bind w) rfl issues (by decide) small ?_⟩
    · rw [sqBind_created part stray0 stray1 stray2 at_ created sound soundCq right]
      simp only [found, active, own, ne_eq, not_true, or_self, if_false]
      rfl
    · rw [sqBind_created part stray0 stray1 stray2 at_ created sound soundCq right]
      rw [cqState] at other
      cases found : tfind b.sq.cqs (4096 * p + (sqArg b (bankOf w) 0).toNat) with
      | none => rfl
      | some c =>
        rw [found] at other
        exact if_pos (Or.inl other)
  · intro issues base kinds word size irq fits ring tail free
    exact ⟨_, exec_ringCommand (ringCommand_cqCreate w) rfl issues (by decide) small
      (cqCreate_good part base kinds word size irq fits ring tail free), rfl, _, tfind_tput_same _ _ _, rfl, rfl, rfl, rfl, rfl, rfl, rfl, rfl⟩
  · intro issues none_ active used
    exact ⟨fun free => exec_ringCommand (ringCommand_cqTeardown w) rfl issues (by decide) small
        ((cqTeardown_active none_ active).trans (if_neg (Bool.eq_false_iff.1 free))),
      fun bound => exec_ringCommand (ringCommand_cqTeardown w) rfl issues (by decide) small
        ((cqTeardown_active none_ active).trans (if_pos bound))⟩

/-! ### QPs -/

/-- What QP_CREATE makes of the arguments of its bank. -/
def qpMade (p k bank : Nat) (b : Block) : Block :=
  let c := modFt (fun t => { t with qps := tput t.qps k (qpNew b p (sqArg b bank 0) (sqArg b bank 1) (sqArg b bank 2)) })
    (lineForget (lineOf 0 k) b)
  if (sqArg b bank 0).getLsbD 40 then modKey (qbits (sqArg b bank 2) 15 0) (fun s => { s with state := 2, qp := k }) c else c

theorem qps_qpMade (p k bank : Nat) (b : Block) :
    (qpMade p k bank b).ft.qps = tput b.ft.qps k (qpNew b p (sqArg b bank 0) (sqArg b bank 1) (sqArg b bank 2)) := by
  rw [qpMade]
  cases (sqArg b bank 0).getLsbD 40 <;> rfl

theorem regs_qpMade (p k bank : Nat) (b : Block) : (qpMade p k bank b).regs = b.regs := by
  rw [qpMade]
  cases (sqArg b bank 0).getLsbD 40 <;> rfl

theorem ce_qpMade_clear {bank : Nat} {b : Block} (clear : (sqArg b bank 0).getLsbD 40 = false) (p k : Nat) :
    (qpMade p k bank b).ce = b.ce := by
  rw [qpMade, clear]
  rfl

theorem tget_tset_same {α : Type} [DecidableEq α] {d v : α} (t : Tbl α) (k : Nat) (set : v ≠ d) : tget d (tset d t k v) k = v := by
  rw [tset, if_neg set, tget, tfind_tput_same]

theorem keySlotOf_modKey_same {b : Block} {n : Nat} {f : KeySlot → KeySlot} (set : f (keySlotOf b n) ≠ slotEmpty) :
    keySlotOf (modKey n f b) n = f (keySlotOf b n) := tget_tset_same (d := slotEmpty) b.ce.slots n set

theorem keySlotOf_qpMade_enc {bank : Nat} {b : Block} (enc : (sqArg b bank 0).getLsbD 40 = true) (p k : Nat) :
    keySlotOf (qpMade p k bank b) (qbits (sqArg b bank 2) 15 0) =
      { (keySlotOf b (qbits (sqArg b bank 2) 15 0)) with state := 2, qp := k } := by
  rw [qpMade, if_pos enc]
  refine keySlotOf_modKey_same fun empty => ?_
  have zero : (2 : Nat) = 0 := congrArg KeySlot.state empty
  exact absurd zero (by decide)

/-- QP_CREATE whose arguments are good. -/
theorem qpCreate_good {p k bank : Nat} {b : Block} (fabric : noFabric b = false) (named : k ≠ 0) (pool : k < qpPool b)
    (key : (sqArg b bank 0).getLsbD 40 = true → (variant b).cipher = true ∧ (keySlotOf b (qbits (sqArg b bank 2) 15 0)).state = 1 ∧
      qbits (sqArg b bank 2) 15 0 / 4096 = p)
    (stray0 : sqStray (sqArg b bank 0) 0x03FF03FFFFFF7FFF#64 = false) (stray2 : sqStray (sqArg b bank 2) 0xFFFF#64 = false)
    (peer : ¬ (fon b F.idNodeValid 0 = true ∧ qbits (sqArg b bank 0) 14 0 = selfNode b)) (node : qbits (sqArg b bank 0) 14 0 ≠ 0x7FFF)
    (peerQp : qbits (sqArg b bank 0) 39 16 ≠ 0) (peerPool : qbits (sqArg b bank 0) 39 16 < qpPool b) :
    qpCreate p k bank b =
      if (tfind b.ft.qps k).isSome then (sqBadState, b)
      else if fget b F.ptCarveQpShare p ≤ qpsUsed b p then (sqNoSpace, b)
      else (sqOk, qpMade p k bank b) := by
  have ciphered : (noFabric b || ((sqArg b bank 0).getLsbD 40 && !(variant b).cipher)) = false := by
    cases enc : (sqArg b bank 0).getLsbD 40 with
    | false => simp [fabric]
    | true => simp [fabric, (key enc).1]
  have good : ¬ (k = 0 ∨ qpPool b ≤ k ∨ sqStray (sqArg b bank 0) 0x03FF03FFFFFF7FFF#64 = true ∨
      sqStray (sqArg b bank 2) 0xFFFF#64 = true ∨ (fon b F.idNodeValid 0 = true ∧ qbits (sqArg b bank 0) 14 0 = selfNode b) ∨
      qbits (sqArg b bank 0) 14 0 = 0x7FFF ∨ qbits (sqArg b bank 0) 39 16 = 0 ∨ qpPool b ≤ qbits (sqArg b bank 0) 39 16 ∨
      ((sqArg b bank 0).getLsbD 40 = true ∧
        ((keySlotOf b (qbits (sqArg b bank 2) 15 0)).state ≠ 1 ∨ qbits (sqArg b bank 2) 15 0 / 4096 ≠ p))) := by
    rintro (h | h | h | h | h | h | h | h | ⟨enc, h⟩)
    · exact named h
    · exact absurd pool (Nat.not_lt.2 h)
    · exact Bool.false_ne_true (stray0.symm.trans h)
    · exact Bool.false_ne_true (stray2.symm.trans h)
    · exact peer h
    · exact node h
    · exact peerQp h
    · exact absurd peerPool (Nat.not_lt.2 h)
    · obtain ⟨_, loaded, own⟩ := key enc
      exact h.elim (fun h => h loaded) (fun h => h own)
  simp only [qpCreate, ciphered, Bool.false_eq_true, if_false, if_neg good]
  rfl

theorem sqCommand_qpCreate {w : Agent} {v : BitVec 64} {b : Block} {p : Nat} (part : sqPart b w v = some p)
    (idle : fon b F.sqCmdStatusBusy (bankOf w) = false) (op : qbits v 63 56 = 16) :
    sqCommand w v b =
      some (sqResult (bankOf w) (qpCreate p (qbits v 19 0) (bankOf w) b).1 (qpCreate p (qbits v 19 0) (bankOf w) b).2) := by
  simp [sqCommand, part, idle, op]

theorem sqCommand_qpDestroy {w : Agent} {v : BitVec 64} {b : Block} {p : Nat} (part : sqPart b w v = some p)
    (idle : fon b F.sqCmdStatusBusy (bankOf w) = false) (op : qbits v 63 56 = 17) :
    sqCommand w v b = match qpDestroy w p (qbits v 19 0) (bankOf w) b with
      | (none, _) => none
      | (some (some c), b) => some (sqResult (bankOf w) c b)
      | (some none, b) => some b := by
  simp [sqCommand, part, idle, op] <;> rfl

theorem exec_qpCreate {s : State} {w : Agent} {half : Half} {val : BitVec 64} {b b' : Block} {p obj code : Nat}
    (issues : Issues s.blk w 0x10 half val b p obj) (answers : qpCreate p obj (bankOf w) b = (code, b')) :
    exec (.qpCreate w half val) s = .next { s with blk := settle (sqResult (bankOf w) code b') } := by
  have ⟨_, _, idle, part, named⟩ := issues
  subst named
  refine exec_sqCommand rfl issues ((sqCommand_qpCreate part idle (issues_op issues (by decide))).trans ?_)
  rw [answers]

theorem qpDestroy_none {w : Agent} {p k : Nat} {b : Block} (fabric : noFabric b = false) (none_ : NoArgs b w) (away : tfind b.ft.qps k = none) :
    qpDestroy w p k (bankOf w) b = (some (some sqBadState), b) := by
  simp only [qpDestroy, fabric, noArgs_any none_, away, Bool.false_eq_true, if_false]

theorem qpDestroy_drains {w : Agent} {p k : Nat} {b : Block} {q : Qp} (fabric : noFabric b = false) (none_ : NoArgs b w)
    (at_ : tfind b.ft.qps k = some q) (part : q.part = p) (own : owns b w p = true) (live : q.state ≠ 3) :
    qpDestroy w p k (bankOf w) b = (some none, sqBusy (bankOf w) (qpDrain k (some (bankOf w)) b)) := by
  subst part
  simp only [qpDestroy, fabric, noArgs_any none_, at_, own, if_neg live, Bool.not_true, Bool.false_eq_true, if_false, ne_eq, not_true]

/-- Settles O22: QP_CREATE answers with what its arguments make, and QP_DESTROY drains a QP of the partition. -/
theorem queuePairsAreMadeAndDrained : Obligations.QueuePairsAreMadeAndDrained := by
  unfold Obligations.QueuePairsAreMadeAndDrained
  intro s w half val b p obj fabric a slot
  refine ⟨fun issues named pool key stray0 stray2 peer node peerQp peerPool => ?_, fun issues none_ => ⟨fun q at_ part own live => ?_, fun away => ?_⟩⟩
  · have good := qpCreate_good fabric named pool key stray0 stray2 peer node peerQp peerPool
    refine ⟨fun away room => ?_, fun taken => exec_qpCreate issues (good.trans (if_pos (Option.isSome_iff_ne_none.2 taken)))⟩
    have made : qpCreate p obj (bankOf w) b = (0, qpMade p obj (bankOf w) b) := by
      rw [good, away, if_neg (Nat.not_le.2 room)]
      rfl
    refine ⟨_, exec_qpCreate issues made, regs_qpMade _ _ _ _, fun clear => ce_qpMade_clear clear _ _,
      fun enc => keySlotOf_qpMade_enc enc _ _, qpNew b p (a 0) (a 1) (a 2), ?_, rfl, rfl, rfl, rfl, rfl, rfl, rfl, rfl, rfl⟩
    rw [qps_qpMade, tfind_tput_same]
  · have ⟨_, _, idle, there, named⟩ := issues
    subst named
    refine exec_sqCommand rfl issues ((sqCommand_qpDestroy there idle (issues_op issues (by decide))).trans ?_)
    rw [qpDestroy_drains fabric none_ at_ part own live]
  · have ⟨_, _, idle, there, named⟩ := issues
    subst named
    refine exec_sqCommand rfl issues ((sqCommand_qpDestroy there idle (issues_op issues (by decide))).trans ?_)
    rw [qpDestroy_none fabric none_ away]

end Sys2Proof.Laws

/-!
Contexts that are loaded, and the deadlines of SQ_TEARDOWN and QP_DESTROY.
-/
namespace Sys2Proof.Laws

open Sys2Proof Sys2Proof.Machine Sys2Proof.Safety

/-! ### Tables under a change of one entry -/

@[simp] theorem tfind_tmod_same {α : Type} (t : Tbl α) (k : Nat) (f : α → α) : tfind (tmod t k f) k = (tfind t k).map f := by
  induction t with
  | nil => rfl
  | cons e t ih =>
    obtain ⟨j, v⟩ := e
    by_cases h : j = k
    · simp [tmod, tfind, h]
    · simp [tmod, tfind, h, ih]

theorem tfind_tmod_other {α : Type} (t : Tbl α) {k j : Nat} (f : α → α) (h : j ≠ k) : tfind (tmod t k f) j = tfind t j := by
  induction t with
  | nil => rfl
  | cons e t ih =>
    obtain ⟨n, v⟩ := e
    by_cases hn : n = k
    · have away : ¬ n = j := fun e => h (e.symm.trans hn)
      simp [tmod, tfind, hn, Ne.symm h]
    · by_cases hj : n = j
      · subst hj
        simp [tmod, tfind, hn]
      · simp [tmod, tfind, hn, hj, ih]

/-- A table with one entry of a key has none once that is removed. -/
theorem tfind_tdel_once {α : Type} (t : Tbl α) (k : Nat) (once : tcount (fun j _ => j == k) t = 1) : tfind (tdel t k) k = none := by
  induction t with
  | nil => rfl
  | cons e t ih =>
    obtain ⟨n, v⟩ := e
    by_cases h : n = k
    · have rest : ∀ e ∈ t, ¬ e.1 = k := by
        simpa [tcount, List.countP_cons, h, List.countP_eq_zero] using once
      simp only [tdel, h, if_true]
      clear once ih
      induction t with
      | nil => rfl
      | cons e t ih =>
        obtain ⟨m, u⟩ := e
        have apart : ¬ m = k := rest (m, u) (by simp)
        simp only [tfind, if_neg apart]
        exact ih fun e he => rest e (List.mem_cons_of_mem _ he)
    · simp only [tdel, tfind, if_neg h]
      exact ih (by simpa [tcount, List.countP_cons, h] using once)

/-! ### Loads -/

/-- A ring context with room on its tile is placed, and its doorbells act. -/
theorem ringLoaded_room {b : Block} {cq : Bool} {key : Nat}
    (mine : (cq, key) ∈ (b.sq.loads.filter (fun l => homeTile l.2 == homeTile key)).take 16) (room : ringRoom b cq key = true) :
    ringLoaded cq key b = doorbellsAct cq key (ringPlace cq key true (modSq (fun q => { q with loads := q.loads.erase (cq, key) }) b)) := by
  have listed := List.contains_iff_mem.2 mine
  simp only [ringLoaded, listed, room, Bool.not_true, Bool.false_eq_true, if_false, if_true]

/-- A QP with room on its tile and in the block becomes resident. -/
theorem qpResident_room {b : Block} {k : Nat} {q : Qp} (at_ : tfind b.ft.qps k = some q) (loading : q.loading = true)
    (tile : tcount (fun n q => homeTile n == homeTile k && q.resident) b.ft.qps < 2048)
    (block : tcount (fun _ q => q.resident) b.ft.qps < 16384) :
    qpResident k b = tcCount (homeTile k) 0x051 (some q.part) 1
      (modQp k (fun q => { q with resident := true, loading := false, used := b.now }) b) := by
  simp only [qpResident, at_, loading, decide_eq_false (Nat.not_le.2 tile), decide_eq_false (Nat.not_le.2 block), Bool.not_true,
    Bool.false_eq_true, if_false, Bool.or_self, Bool.not_false, if_true]

/-! ### A QP that is gone -/

/-- Closing receive contexts and forgetting the QP's line removes no QP. -/
theorem qps_qpFree (k : Nat) (b : Block) : (qpFree k b).ft.qps = tdel b.ft.qps k := by
  let c := lineForget (lineOf 0 k) b
  have closed := each_keeps (fun b : Block => b.ft.qps) (c.ft.rx.filter (fun e => e.2.qp == k && e.2.stage != .place))
    (fun e b => rxClose e.1 b) (fun _ _ _ => rfl) c
  exact congrArg (fun t => tdel t k) closed

theorem qps_epochRetire (b : Block) : (epochRetire b).ft.qps = b.ft.qps := by
  rw [epochRetire]
  split
  · rw [(sigOnly_sgAssert _ _).ft]
    rfl
  · rfl

/-- A QP goes with its entry, and the bank whose QP_DESTROY waited for it is no longer BUSY. -/
theorem qpGone_eq {b : Block} {k : Nat} {q : Qp} (at_ : tfind b.ft.qps k = some q) : qpGone k b =
    match q.destroy with
    | some bank => sqCmdDone bank (epochRetire (qpFree k b))
    | none => epochRetire (qpFree k b) := by
  simp only [qpGone, at_] <;> rfl

theorem qps_qpGone {b : Block} {k : Nat} {q : Qp} (at_ : tfind b.ft.qps k = some q) : (qpGone k b).ft.qps = tdel b.ft.qps k := by
  rw [qpGone_eq at_]
  cases q.destroy with
  | none => exact (qps_epochRetire _).trans (qps_qpFree k b)
  | some bank => exact (qps_epochRetire _).trans (qps_qpFree k b)

theorem busy_qpGone {b : Block} {k : Nat} {q : Qp} {bank : Nat} (at_ : tfind b.ft.qps k = some q) (destroy : q.destroy = some bank) :
    fget (qpGone k b) F.sqCmdStatusBusy bank = 0 := by
  rw [qpGone_eq at_, destroy]
  exact fget_fput_same _ _ _ _ (by decide)

/-! ### The obligation -/

/-- What a draining QP has in flight, ended by its deadline. -/
def qpEmptied (k : Nat) (q : Qp) (b : Block) : Block :=
  modQp k (fun q => { q with sent := [], reads := [], awaits := [], skips := [], curMsn := [] })
    (itemsForced (qpItems b k) (each (qpItems b k) (fun i b => qpForce i q.peerNode b) b))

theorem qpEmptied_empty {b : Block} {k : Nat} {q r : Qp} (at_ : tfind (qpEmptied k q b).ft.qps k = some r) :
    r.sent = [] ∧ r.reads = [] ∧ r.awaits = [] ∧ r.skips = [] := by
  obtain ⟨_, _, rfl⟩ := Option.map_eq_some_iff.1 ((tfind_tmod_same _ _ _).symm.trans at_)
  exact ⟨rfl, rfl, rfl, rfl⟩

/-- Settles O23: a context with room is placed, and a deadline acts where its teardown or QP_DESTROY runs. -/
theorem loadsAndDeadlinesAct : Obligations.LoadsAndDeadlinesAct := by
  unfold Obligations.LoadsAndDeadlinesAct
  intro s cq key qp
  refine ⟨fun mine room => run_settle_eq (ringLoaded_room mine room), fun q at_ loading tile block => ?_,
    fun runs => ⟨run_settle_eq (if_pos runs), ?_⟩, fun none_ => run_settle_eq ?_, fun q at_ => ⟨fun drains => ?_, fun once => ?_, fun live => ?_⟩⟩
  · refine ⟨modQp qp (fun q => { q with resident := true, loading := false, used := s.blk.now }) s.blk,
      run_settle_eq (f := fun b => rxLoaded qp (qpResident qp b)) (by rw [qpResident_room at_ loading tile block]), rfl, ?_,
      fun k other => tfind_tmod_other _ _ other⟩
    exact (tfind_tmod_same _ _ _).trans (congrArg (Option.map _) at_)
  · intro forced
    exact run_settle_eq (f := fun b => teardownStrand key (settle (teardownForce key b)))
      (by rw [teardownForce, if_pos runs])
  · rw [teardownSource, none_]
    rfl
  · refine ⟨qpEmptied qp q s.blk, run_settle_eq ?_, fun r found => qpEmptied_empty found⟩
    simp only [qpDrainEnd, at_, drains]
    rfl
  · exact ⟨(congrArg (tfind · qp) (qps_qpGone at_)).trans (tfind_tdel_once _ _ once), fun bank destroy => busy_qpGone at_ destroy⟩
  · refine run_settle_eq ?_
    simp only [qpDrainEnd, at_, bne_iff_ne, ne_eq, live, not_false_eq_true, if_true]

end Sys2Proof.Laws

/-!
Housekeeping of work: what counting, issuing writes, evicting translations and committing an item change at all, stated once for
every relation of blocks that keeps what they change; and how an item begins.
-/
namespace Sys2Proof.Laws

open Sys2Proof Sys2Proof.Machine Sys2Proof.Safety

/-! ### Relations that housekeeping keeps -/

/-- An item's standing: whose it is, what it asks for, how far it is and how it has ended so far. -/
def standing (it : Item) : Nat × Nat × List (BitVec 64) × Stage × Bool × Nat :=
  (it.part, it.ring, it.desc, it.stage, it.begun, it.status)

/-- What the translation unit keeps a list of, its caches and counters aside. -/
def ledger (t : Tu) : Tbl Access × Tbl Seg × Tbl Inval × Nat × List AtsEntry × List AtsInval :=
  (t.accs, t.segs, t.invals, t.nextInval, t.ats, t.atsInvals)

/-- A relation that holds from a block to the block after any step of housekeeping: a signal, a note, a register after those of the
invalidations (in the order of their numbers), an exchange that opens or closes, an item that keeps its standing, and a change of the
translation unit that keeps its segments, invalidations, ATS cache and accesses. -/
structure Carries (P : Block → Block → Prop) : Prop where
  refl : ∀ b, P b b
  trans : ∀ {b c d}, P b c → P c d → P b d
  signals : ∀ {b c}, SigOnly b c → P b c
  notes : ∀ {b c}, NoteOnly b c → P b c
  late : ∀ (f : Fld) i v b, 21 ≤ f.reg.code → P b (fput f i v b)
  opens : ∀ t b, P b (openTxn t b)
  closes : ∀ p b, P b (closeTxns p b)
  item : ∀ i (f : Item → Item) b, (∀ x, standing (f x) = standing x) → P b (modItem i f b)
  items : ∀ (g : Nat × Item → Nat × Item) b, (∀ e, (g e).1 = e.1) → (∀ e, standing (g e).2 = standing e.2) →
    P b (modHe (fun h => { h with items := h.items.map g }) b)
  caches : ∀ (f : Tu → Tu) b, (∀ t, ledger (f t) = ledger t) → P b (modTu f b)
  traces : ∀ f b, P b (modTc f b)
  governs : ∀ f b, P b (modGov f b)

/-- All that a hot-page record can do: nothing, be counted as dropped, or be written, with the interrupt of an empty queue (R143). -/
theorem hotRecord_cases (c : Counter) (b : Block) :
    (hotRecord c b).1 = b ∨ (hotRecord c b).1 = fbump F.tuHotqCtlDropped c.part 1 b ∨
    ∃ q fn bytes n d, d = fput F.tuHotqPtrTail c.part n (issueWrite q c.part fn bytes 0 0 false false .free b) ∧
      ((hotRecord c b).1 = d ∨ (hotRecord c b).1 = sgAssert (1778 + c.part) d) := by
  let put := fun q fn bytes n => fput F.tuHotqPtrTail c.part n (issueWrite q c.part fn bytes 0 0 false false .free b)
  have written : ∀ q fn bytes n (signals : Prop) [Decidable signals], ∃ q' fn' bytes' n' d, d = put q' fn' bytes' n' ∧
      ((if signals then sgAssert (1778 + c.part) (put q fn bytes n) else put q fn bytes n) = d ∨
        (if signals then sgAssert (1778 + c.part) (put q fn bytes n) else put q fn bytes n) = sgAssert (1778 + c.part) d) :=
    fun q fn bytes n _ _ => ⟨q, fn, bytes, n, _, rfl, (ite_eq_or_eq _ _ _).symm⟩
  simp only [hotRecord]
  split
  · exact Or.inl rfl
  · refine Or.inr ?_
    split
    · exact Or.inl rfl
    · split
      · exact Or.inl rfl
      · next q _ =>
        cases q <;> dsimp only <;>
        · split
          · exact Or.inl rfl
          · exact Or.inr (written _ _ _ _ _)

theorem sigOnly_hostWrites (part fn bus : Nat) (bytes : List (BitVec 8)) (a : Attr) (b : Block) :
    SigOnly b (hostWrites part fn bus bytes a b) := by
  refine sigOnly_each _ _ (fun e c => ?_) b
  exact sigOnly_emitTlpFor _ _ _ c

/-- A source that the hub does not have is not recorded at all. -/
theorem noteOnly_fhRecord_any (s : Nat) (o : Obj) (part : Option Nat) (secondary : Bool) (b : Block) :
    NoteOnly b (fhRecord s o part secondary b) := by
  by_cases hs : s < 512
  · exact noteOnly_fhRecord (Nat.lt_trans hs (by decide)) o part secondary b
  · rw [fhRecord, fhClass_none (Nat.not_lt.1 hs)]
    exact NoteOnly.refl b

theorem noteOnly_fhNote_any (s : Nat) (o : Obj) (part : Option Nat) (b : Block) : NoteOnly b (fhNote s o part b) :=
  noteOnly_fhRecord_any s o part false b

namespace Carries

variable {P : Block → Block → Prop}

theorem ite {p : Prop} [Decidable p] {b c d : Block} (_ : Carries P) (hc : P b c) (hd : P b d) : P b (if p then c else d) := by
  split
  · exact hc
  · exact hd

variable (carries : Carries P)
include carries

/-- A step that may be taken or not. -/
theorem maybe {p : Prop} [Decidable p] {b c d : Block} (h : P b c) (step : P c d) : P b (if p then d else c) :=
  carries.ite (carries.trans h step) h

theorem each {α : Type} {f : α → Block → Block} (h : ∀ a b, P b (f a b)) (l : List α) : ∀ b, P b (each l f b) := by
  induction l with
  | nil => exact carries.refl
  | cons a l ih => exact fun b => carries.trans (h a b) (ih _)

theorem bump (f : Fld) (i n : Nat) (b : Block) (h : 21 ≤ f.reg.code) : P b (fbump f i n b) := carries.late f i _ b h

theorem emits (m : Msg) (b : Block) : P b (emit m b) := carries.signals (sigOnly_emit m b)

theorem tcCount (tile code : Nat) (part : Option Nat) (n : Nat) (b : Block) : P b (tcCount tile code part n b) :=
  carries.signals (sigOnly_tcCount _ _ _ _ _)

theorem countFor (own : Option Nat) (tile code : Nat) (part : Option Nat) (n : Nat) (b : Block) : P b (countFor own tile code part n b) := by
  unfold Machine.countFor
  split
  · exact carries.ite (carries.tcCount _ _ _ _ _) (carries.item _ _ _ fun _ => rfl)
  · exact carries.tcCount _ _ _ _ _

theorem itemCount (i code n : Nat) (b : Block) : P b (itemCount i code n b) := by
  unfold Machine.itemCount
  split
  · exact carries.refl b
  · exact carries.countFor _ _ _ _ _ _

theorem specDiscard (i n : Nat) (b : Block) : P b (specDiscard i n b) :=
  carries.ite (carries.refl b) (carries.trans (carries.itemCount i 0x015 n b) (carries.bump _ _ _ _ (by decide)))

theorem depotCount (own : Option Nat) (code part x len : Nat) (b : Block) : P b (depotCount own code part x len b) := by
  refine carries.each (fun e c => ?_) _ b
  exact carries.countFor _ _ _ _ _ c

theorem waitPoke (part : Nat) (p : Place) (len : Nat) (b : Block) : P b (waitPoke part p len b) := by
  refine carries.items _ b (fun e => ?_) (fun e => ?_) <;> dsimp only <;> split <;> rfl

theorem hostWake (h : Nat) (b : Block) : P b (hostWake h b) :=
  carries.ite (carries.late F.hpPortStatusLstate _ _ _ (by decide)) (carries.refl b)

theorem issueWrite (p : Place) (part fn : Nat) (bytes : List (BitVec 8)) (asn va : Nat) (data poison : Bool) (u : Use) (b : Block) :
    P b (issueWrite p part fn bytes asn va data poison u b) := by
  simp only [Machine.issueWrite]
  split
  · exact carries.trans (carries.waitPoke _ _ _ _) (carries.trans (carries.hostWake _ _) (carries.signals (sigOnly_hostWrites _ _ _ _ _ _)))
  · exact carries.trans (carries.opens _ b) (carries.trans (carries.depotCount _ _ _ _ _ _) (carries.emits _ _))
  · refine carries.trans (carries.opens _ b) (carries.each (fun _ c => ?_) _ _)
    exact carries.emits _ c
  · exact carries.trans (carries.opens _ b) (carries.emits _ _)

theorem hotRecord (c : Counter) (b : Block) : P b (hotRecord c b).1 := by
  obtain same | dropped | ⟨q, fn, bytes, n, d, written, ends⟩ := hotRecord_cases c b
  · rw [same]
    exact carries.refl b
  · rw [dropped]
    exact carries.bump _ _ _ _ (by decide)
  · have placed : P b d := by
      rw [written]
      exact carries.trans (carries.issueWrite _ _ _ _ _ _ _ _ _ b) (carries.late F.tuHotqPtrTail _ _ _ (by decide))
    rcases ends with quiet | signalled
    · rw [quiet]
      exact placed
    · rw [signalled]
      exact carries.trans placed (carries.signals (sigOnly_sgAssert _ _))

theorem counterMerge (c : Counter) (tiles : List Nat) (b : Block) : P b (counterMerge c tiles b).2 := by
  simp only [Machine.counterMerge]
  split
  · exact carries.hotRecord _ b
  · exact carries.refl b

theorem tlbEvict (gone : Tlb → Bool) (b : Block) : P b (tlbEvict gone b) := by
  simp only [Machine.tlbEvict]
  refine carries.trans (carries.each (fun e c => ?_) _ b) (carries.caches _ _ fun _ => ?_)
  · refine carries.trans (carries.ite (carries.bump F.tuCountsDiscard e.part 1 c (by decide)) (carries.refl c)) (carries.each (fun k d => ?_) _ _)
    refine carries.trans (carries.counterMerge k _ d) (carries.caches _ _ fun _ => ?_)
    rfl
  · rfl

theorem walkDiscard (r i : Nat) (p : Nat → Bool) (b : Block) : P b (walkDiscard r i p b) := carries.tlbEvict _ b

theorem walkRemove (key : Nat) (b : Block) : P b (walkRemove key b) := by
  unfold Machine.walkRemove
  split
  · exact carries.refl b
  · refine carries.trans (carries.caches _ b fun _ => ?_) (carries.walkDiscard _ _ _ _)
    rfl

theorem pageCount (tile part asn va page target n : Nat) (b : Block) : P b (pageCount tile part asn va page target n b) := by
  simp only [Machine.pageCount]
  split
  · exact carries.refl b
  · split
    · refine carries.trans (carries.counterMerge _ _ b) (carries.caches _ _ fun _ => ?_)
      rfl
    · refine carries.caches _ b fun _ => ?_
      rfl

theorem spanCount (tile part asn va0 va : Nat) (s : Span) (b : Block) : P b (spanCount tile part asn va0 va s b) := by
  unfold Machine.spanCount
  split
  · exact carries.refl b
  · refine carries.each (fun i c => ?_) _ b
    exact carries.pageCount _ _ _ _ _ _ _ c

theorem eventPut (tile engine : Nat) (w0 w1 : BitVec 64) (b : Block) : P b (eventPut tile engine w0 w1 b) := by
  unfold Machine.eventPut
  exact carries.traces _ b

theorem event (i kind : Nat) (b : Block) : P b (event i kind b) := by
  unfold Machine.event
  split
  · exact carries.refl b
  · exact carries.ite (carries.refl b) (carries.ite (carries.eventPut _ _ _ _ b) (carries.item _ _ _ fun _ => rfl))

theorem arithEvents (part ring : Nat) (e : Ev) (b : Block) : P b (arithEvents part ring e b) := by
  unfold Machine.arithEvents
  split
  · exact carries.refl b
  · exact carries.trans (carries.bump _ _ _ b (by decide)) (carries.trans (carries.bump _ _ _ _ (by decide))
      (carries.trans (carries.bump _ _ _ _ (by decide)) (carries.notes (noteOnly_fhNote_any _ _ _ _))))

theorem tracePut (tile part : Nat) (words : List (BitVec 64)) (b : Block) : P b (tracePut tile part words b) := by
  simp only [Machine.tracePut]
  split
  · exact carries.traces _ b
  · exact carries.trans (carries.traces _ b) (carries.bump _ _ _ _ (by decide))

theorem commit (i : Nat) (b : Block) : P b (commit i b) := by
  unfold Machine.commit
  split
  · exact carries.refl b
  · next it _ =>
    split
    · exact carries.refl b
    · have events : ∀ c, P c (Machine.each it.events (fun e b => Machine.eventPut it.tile it.engine (BitVec.ofNat 64 e.1) (eventWord it e.2) b) c) := by
        refine carries.each (fun _ c => ?_) _
        exact carries.eventPut _ _ _ _ c
      have counted : ∀ (e : Nat × Nat) c, P c (match it.src.at_ e.1 e.2 with
          | some (_, n, s) => Machine.spanCount it.tile it.part (itemAsn c it) (dSrc it.desc) (dSrc it.desc + e.1) (s.part e.1 n) c
          | none => c) := by
        intro e c
        split
        · exact carries.spanCount _ _ _ _ _ _ _
        · exact carries.refl c
      have late : ∀ (f : Fld) i n c, 21 ≤ f.reg.code → P c (fbump f i n c) := fun f i n c h => carries.bump f i n c h
      dsimp only
      refine carries.maybe (carries.maybe (carries.trans (carries.maybe ?_ (carries.tracePut _ _ _ _)) (late _ _ _ _ (by decide)))
        (late _ _ _ _ (by decide))) (carries.governs _ _)
      refine carries.trans (carries.trans ?_ (carries.arithEvents _ _ _ _)) (carries.event _ _ _)
      refine carries.trans (carries.trans ?_ (late _ _ _ _ (by decide))) (carries.each counted _ _)
      refine carries.trans (events b) (carries.trans (carries.item _ _ _ fun _ => ?_) (carries.each (fun _ c => ?_) _ _))
      · rfl
      · exact carries.tcCount _ _ _ _ c

end Carries

/-! ### What housekeeping leaves of every item -/

/-- Every item of `b` is in `c` with the same standing, and no other. -/
def ItemsStand (b c : Block) : Prop := ∀ i, (tfind c.he.items i).map standing = (tfind b.he.items i).map standing

theorem ItemsStand.refl (b : Block) : ItemsStand b b := fun _ => rfl

theorem ItemsStand.trans {b c d : Block} (h : ItemsStand b c) (g : ItemsStand c d) : ItemsStand b d := fun i => (g i).trans (h i)

theorem itemsStand_of_he {b c : Block} (h : c.he = b.he) : ItemsStand b c := fun i => by rw [h]

theorem itemsStand_ite {p : Prop} [Decidable p] {b c d : Block} (hc : ItemsStand b c) (hd : ItemsStand b d) :
    ItemsStand b (if p then c else d) := by
  split
  · exact hc
  · exact hd

/-- What leaves the items leaves their standing. -/
theorem ItemsStand.he {b c d : Block} (h : ItemsStand b c) (e : d.he = c.he) : ItemsStand b d := h.trans (itemsStand_of_he e)

theorem ItemsStand.find {b c : Block} (h : ItemsStand b c) {i : Nat} {x : Item} (at_ : tfind b.he.items i = some x) :
    ∃ y, tfind c.he.items i = some y ∧ standing y = standing x := by
  have eq := h i
  rw [at_] at eq
  exact Option.map_eq_some_iff.1 eq

theorem itemsStand_modItem {f : Item → Item} (i : Nat) (b : Block) (h : ∀ x, standing (f x) = standing x) : ItemsStand b (modItem i f b) := by
  intro j
  by_cases e : j = i
  · subst e
    simp [modItem, modHe, Function.comp_def, h]
  · rw [show (modItem i f b).he.items = tmod b.he.items i f from rfl, tfind_tmod_other _ _ e]

/-- A map that keeps each key and each standing. -/
theorem itemsStand_mapItems {g : Nat × Item → Nat × Item} (keys : ∀ e, (g e).1 = e.1) (stands : ∀ e, standing (g e).2 = standing e.2)
    (b : Block) : ItemsStand b (modHe (fun h => { h with items := h.items.map g }) b) := by
  intro j
  show (tfind (b.he.items.map g) j).map standing = (tfind b.he.items j).map standing
  induction b.he.items with
  | nil => rfl
  | cons e t ih =>
    rw [List.map_cons, tfind, tfind, keys]
    split
    · simp [stands]
    · exact ih

theorem itemsStand_carries : Carries ItemsStand where
  refl := ItemsStand.refl
  trans := ItemsStand.trans
  signals h := itemsStand_of_he h.he
  notes h := itemsStand_of_he h.he
  late _ _ _ _ _ := itemsStand_of_he rfl
  opens _ _ := itemsStand_of_he rfl
  closes _ _ := itemsStand_of_he rfl
  item _ _ _ h := itemsStand_modItem _ _ h
  items _ _ keys stands := itemsStand_mapItems keys stands _
  caches _ _ _ := itemsStand_of_he rfl
  traces _ _ := itemsStand_of_he rfl
  governs _ _ := itemsStand_of_he rfl

/-- The walk that TILE_WALK_DECLARE registers. -/
def walkOf (b : Block) (it : Item) : TileWalk :=
  { part := it.part, asn := itemAsn b it, tile := ringTile it.part it.ring, fn := ownFn b it, base := dSrc it.desc,
    size := dLength it.desc, stride := toSigned 64 (dDst it.desc), count := dScale it.desc,
    depth := if bits (dSeed it.desc) 7 0 = 0 then fget b F.tuPartCtlDepth it.part + 1 else bits (dSeed it.desc) 7 0,
    next := 0, ahead := 0, pos := 0, used := b.now }

/-- An older walk of the same number, and one more where the tile holds no further, give way. -/
def walkRoom (key tile : Nat) (b : Block) : Block :=
  match walkVictim (walkRemove key b) tile with
  | some v => walkRemove v (walkRemove key b)
  | none => walkRemove key b

theorem walkDeclare_eq {i : Nat} {b : Block} {it : Item} (at_ : tfind b.he.items i = some it) :
    walkDeclare i b = modTu (fun t => { t with tileWalks := tput t.tileWalks (4096 * it.ringKey + dWalk it.desc) (walkOf b it) })
      (walkRoom (4096 * it.ringKey + dWalk it.desc) (ringTile it.part it.ring) b) := by
  simp only [walkDeclare, at_]
  rfl

theorem itemsStand_walkDeclare (i : Nat) (b : Block) : ItemsStand b (walkDeclare i b) := by
  cases at_ : tfind b.he.items i with
  | none => exact itemsStand_of_he (congrArg Block.he (by simp only [walkDeclare, at_]))
  | some it =>
    have room : ItemsStand b (walkRoom (4096 * it.ringKey + dWalk it.desc) (ringTile it.part it.ring) b) := by
      unfold walkRoom
      split
      · exact (itemsStand_carries.walkRemove _ b).trans (itemsStand_carries.walkRemove _ _)
      · exact itemsStand_carries.walkRemove _ b
    rw [walkDeclare_eq at_]
    exact room.he rfl

theorem itemsStand_walkConsume (i : Nat) (b : Block) : ItemsStand b (walkConsume i b) := by
  have missed := itemsStand_carries.item i (fun it => { it with walkMiss := true }) b fun _ => rfl
  unfold walkConsume
  split
  · exact ItemsStand.refl b
  · refine itemsStand_ite (ItemsStand.refl b) (itemsStand_ite missed ?_)
    dsimp only
    split
    · exact missed
    · exact itemsStand_ite ((itemsStand_carries.tlbEvict _ b).he rfl) ((itemsStand_carries.tlbEvict _ b).he rfl)

theorem itemsStand_itemUnread (i : Nat) (b : Block) : ItemsStand b (itemUnread i b) := by
  unfold itemUnread
  dsimp only
  split
  · refine (itemsStand_of_he ?_).trans (itemsStand_modItem i _ fun _ => rfl)
    rfl
  · exact itemsStand_of_he rfl

/-! ### An item that fails -/

theorem tfind_modItem {i : Nat} {f : Item → Item} {b : Block} {x : Item} (at_ : tfind b.he.items i = some x) :
    tfind (modItem i f b).he.items i = some (f x) := (tfind_tmod_same _ _ _).trans (congrArg (Option.map f) at_)

/-- An item that has not failed yet and is not past its work fails with the status that is given, and drains. -/
theorem itemFail_fails {i st aux : Nat} {b : Block} {it : Item} (at_ : tfind b.he.items i = some it) (sound : it.status = 0)
    (early : it.stage = .waiting ∨ it.stage = .active ∨ it.stage = .draining) :
    ∃ x, tfind (itemFail i st aux b).he.items i = some x ∧ x.status = st ∧ x.aux = aux ∧ x.stage = .draining := by
  have takes : (it.status != 0 || !(it.stage == .waiting || it.stage == .active || it.stage == .draining)) = false := by
    rcases early with h | h | h <;> simp [sound, h]
  simp only [itemFail, at_, takes, Bool.false_eq_true, if_false]
  have kept := (itemsStand_ite (p := (it.committed || dOpcode it.desc = 0x08) = true) (ItemsStand.refl b) (itemsStand_carries.specDiscard i it.rd b)).trans
    (itemsStand_itemUnread i _)
  obtain ⟨y, found, _⟩ := kept.find at_
  exact ⟨_, tfind_modItem found, rfl, rfl, rfl⟩

/-! ### Beginning an item -/

theorem exec_begin {c : Instr} {i : Nat} {p : List (BitVec 64) → Bool} (h : beginOf c = some (i, p)) (s : State) :
    exec c s = .next { s with blk := beginIf i p s.blk } := by
  unfold beginOf at h
  split at h <;> cases h <;> rfl

theorem exec_begins {c : Instr} {s : State} {i : Nat} {it : Item} (begins : Begins c s.blk i it) :
    exec c s = .next { s with blk := settle (itemBegin i s.blk) } := by
  obtain ⟨⟨p, names, passes⟩, at_, may⟩ := begins
  rw [exec_begin names]
  simp only [beginIf, at_, passes, may, Bool.and_self, if_true]

theorem exec_begins_not {c : Instr} {s : State} {i : Nat} (names : ∃ p, beginOf c = some (i, p)) (none_ : ∀ it, ¬ Begins c s.blk i it) :
    exec c s = .next s := by
  obtain ⟨p, names⟩ := names
  have stays : beginIf i p s.blk = s.blk := by
    unfold beginIf
    split
    · next it at_ =>
      refine if_neg fun both => none_ it ?_
      obtain ⟨passes, may⟩ := Bool.and_eq_true_iff.1 both
      exact ⟨⟨p, names, passes⟩, at_, may⟩
    · rfl
  rw [exec_begin names, stays]

/-- An item begun: what an item is as its work starts. -/
def begun (it : Item) : Item := { it with begun := true, stage := .active }

theorem itemBegin_failed {i : Nat} {b : Block} {it : Item} (at_ : tfind b.he.items i = some it) (failed : it.status ≠ 0) :
    itemBegin i b = modItem i (fun it => { it with stopped := true }) (modItem i (fun it => { it with begun := true, stage := .draining }) b) := by
  simp only [itemBegin, at_, if_pos failed]

theorem itemBegin_bad {i : Nat} {b : Block} {it : Item} {st aux : Nat} (at_ : tfind b.he.items i = some it) (sound : it.status = 0)
    (bad : beginBad b it = some (st, aux)) : itemBegin i b = itemFail i st aux b := by
  simp only [itemBegin, at_, sound, ne_eq, not_true, if_false, bad]

/-- An item that runs is begun; a NOP and a declared walk have then nothing left to do. -/
theorem itemBegin_runs {i : Nat} {b : Block} {it : Item} (at_ : tfind b.he.items i = some it) (sound : it.status = 0)
    (runs : beginBad b it = none) :
    (dOpcode it.desc = 0x00 → itemBegin i b = modItem i (fun it => { it with stage := .draining }) (modItem i begun b)) ∧
    (dOpcode it.desc = 0x09 → itemBegin i b = modItem i (fun it => { it with stage := .draining }) (walkDeclare i (modItem i begun b))) ∧
    (¬ (dOpcode it.desc = 0x00 ∨ dOpcode it.desc = 0x09) → ItemsStand (modItem i begun b) (itemBegin i b)) := by
  have start : modItem i (fun it => { it with begun := true, stage := .active }) b = modItem i begun b := rfl
  refine ⟨fun nop => ?_, fun walk => ?_, fun other => ?_⟩
  · simp only [itemBegin, at_, sound, ne_eq, not_true, if_false, runs, nop, if_true, start]
  · simp only [itemBegin, at_, sound, ne_eq, not_true, if_false, runs, walk, (by decide : ¬ 9 = 0), if_true, start]
  · obtain ⟨nop, walk⟩ := not_or.1 other
    simp only [itemBegin, at_, sound, ne_eq, not_true, if_false, runs, if_neg nop, if_neg walk, start]
    generalize hc : (if opNeedsQp (dOpcode it.desc) = true then _ else walkConsume i (modItem i begun b)) = c
    have loads : ItemsStand (walkConsume i (modItem i begun b)) c := by
      subst hc
      split
      · split
        · exact itemsStand_ite (ItemsStand.refl _) (itemsStand_of_he rfl)
        · exact ItemsStand.refl _
      · exact ItemsStand.refl _
    refine ((itemsStand_walkConsume i _).trans loads).trans ?_
    split
    · exact itemsStand_ite (itemsStand_carries.event _ _ _) (ItemsStand.refl _)
    · exact ItemsStand.refl _

/-- Settles O24: each opcode's item begins as its own branch says. -/
theorem itemsBeginAsTheirOpcodeSays : Obligations.ItemsBeginAsTheirOpcodeSays := by
  unfold Obligations.ItemsBeginAsTheirOpcodeSays
  refine fun c s i => ⟨fun it begins => ?_, exec_begins_not⟩
  have runs := exec_begins begins
  obtain ⟨_, at_, may⟩ := begins
  have waits : it.stage = .waiting := by
    simp only [mayBegin, Bool.and_eq_true, beq_iff_eq] at may
    exact may.1.1.2
  have started := tfind_modItem (f := begun) at_
  refine ⟨fun failed => ?_, fun sound st aux bad => ⟨?_, itemFail_fails at_ sound (Or.inl waits)⟩, fun sound fine => ?_⟩
  · rw [itemBegin_failed at_ failed] at runs
    exact ⟨_, runs, tfind_modItem (tfind_modItem at_), rfl, rfl, rfl⟩
  · rw [runs, itemBegin_bad at_ sound bad]
  · obtain ⟨nop, walk, other⟩ := itemBegin_runs at_ sound fine
    by_cases h0 : dOpcode it.desc = 0x00
    · have apart : dOpcode it.desc ≠ 0x09 := by rw [h0]; decide
      rw [nop h0] at runs
      refine ⟨_, _, runs, tfind_modItem started, rfl, sound, rfl, rfl, rfl, ?_, fun h => absurd h apart⟩
      rw [if_pos (Or.inl h0)]
    · by_cases h9 : dOpcode it.desc = 0x09
      · obtain ⟨y, found, stands⟩ := (itemsStand_walkDeclare i _).find started
        obtain ⟨part, ring, desc, _, begins, status⟩ : _ ∧ _ ∧ _ ∧ _ ∧ _ ∧ _ := by simpa only [standing, Prod.mk.injEq] using stands
        rw [walk h9, walkDeclare_eq started] at runs
        rw [walkDeclare_eq started] at found
        refine ⟨_, _, runs, tfind_modItem found, begins, status.trans sound, desc, part, ring, ?_, fun _ => ?_⟩
        · rw [if_pos (Or.inr h9)]
        · exact ⟨walkOf (modItem i begun s.blk) (begun it), tfind_tput_same _ _ _, rfl, rfl, rfl, rfl, rfl, rfl⟩
      · have neither : ¬ (dOpcode it.desc = 0x00 ∨ dOpcode it.desc = 0x09) := not_or.2 ⟨h0, h9⟩
        obtain ⟨y, found, stands⟩ := (other neither).find started
        obtain ⟨part, ring, desc, stage, begins, status⟩ : _ ∧ _ ∧ _ ∧ _ ∧ _ ∧ _ := by simpa only [standing, Prod.mk.injEq] using stands
        refine ⟨_, y, runs, found, begins, status.trans sound, desc, part, ring, ?_, fun h => absurd h h9⟩
        rw [if_neg neither]
        exact stage

end Sys2Proof.Laws

/-!
WAIT items: the read of the waited word, and the watchdog.
-/
namespace Sys2Proof.Laws

open Sys2Proof Sys2Proof.Machine Sys2Proof.Safety

/-! ### Exchange numbers are given in order -/

/-- The next exchange number of `c` is that of `b` or a later one. -/
def TxnsGoOn (b c : Block) : Prop := b.nextTxn ≤ c.nextTxn

theorem TxnsGoOn.refl (b : Block) : TxnsGoOn b b := Nat.le_refl _

theorem TxnsGoOn.trans {b c d : Block} (h : TxnsGoOn b c) (g : TxnsGoOn c d) : TxnsGoOn b d := Nat.le_trans h g

theorem txnsGoOn_of_eq {b c : Block} (h : c.nextTxn = b.nextTxn) : TxnsGoOn b c := Nat.le_of_eq h.symm

theorem txnsGoOn_carries : Carries TxnsGoOn where
  refl := TxnsGoOn.refl
  trans := TxnsGoOn.trans
  signals h := txnsGoOn_of_eq h.nextTxn
  notes h := txnsGoOn_of_eq h.nextTxn
  late _ _ _ b _ := TxnsGoOn.refl b
  opens _ _ := Nat.le_succ _
  closes _ b := TxnsGoOn.refl b
  item _ _ b _ := TxnsGoOn.refl b
  items _ b _ _ := TxnsGoOn.refl b
  caches _ b _ := TxnsGoOn.refl b
  traces _ b := TxnsGoOn.refl b
  governs _ b := TxnsGoOn.refl b

/-- What counts for an item opens and closes no exchange. -/
theorem txns_countFor (own : Option Nat) (tile code : Nat) (part : Option Nat) (n : Nat) (b : Block) :
    (countFor own tile code part n b).txns = b.txns ∧ (countFor own tile code part n b).nextTxn = b.nextTxn := by
  have counts := sigOnly_tcCount tile code part n b
  unfold countFor
  split
  · split
    · exact ⟨counts.txns, counts.nextTxn⟩
    · exact ⟨rfl, rfl⟩
  · exact ⟨counts.txns, counts.nextTxn⟩

theorem txns_depotCount (own : Option Nat) (code part x len : Nat) (b : Block) :
    (depotCount own code part x len b).txns = b.txns ∧ (depotCount own code part x len b).nextTxn = b.nextTxn := by
  constructor
  · refine each_keeps Block.txns _ _ (fun _ _ c => ?_) b
    exact (txns_countFor _ _ _ _ _ c).1
  · refine each_keeps Block.nextTxn _ _ (fun _ _ c => ?_) b
    exact (txns_countFor _ _ _ _ _ c).2

theorem txns_hostWake (h : Nat) (b : Block) : (hostWake h b).txns = b.txns ∧ (hostWake h b).nextTxn = b.nextTxn := by
  rw [hostWake]
  split <;> exact ⟨rfl, rfl⟩

theorem sigOnly_hostReads (part fn bus len : Nat) (a : Attr) (coherent : Bool) (txn : Nat) (b : Block) :
    SigOnly b (hostReads part fn bus len a coherent txn b) := by
  refine sigOnly_each _ _ (fun e c => ?_) b
  exact sigOnly_emitTlpFor _ _ _ c

/-- A read that is issued is open under the next number. -/
theorem txns_issueRead (p : Place) (part fn len asn va : Nat) (data coherent : Bool) (u : Use) (b : Block) :
    (issueRead p part fn len asn va data coherent u b).txns = tput b.txns b.nextTxn ⟨p, part, fn, len, none, asn, va, u⟩ ∧
    (issueRead p part fn len asn va data coherent u b).nextTxn = b.nextTxn + 1 := by
  have wakes := txns_hostWake
  simp only [issueRead, issueReadFor]
  split
  · next h bus x =>
    have reads := sigOnly_hostReads part fn bus len
    exact ⟨(reads _ _ _ _).txns.trans (wakes h _).1, (reads _ _ _ _).nextTxn.trans (wakes h _).2⟩
  · exact txns_depotCount _ _ _ _ _ _
  · exact ⟨rfl, rfl⟩

/-! ### The read of the waited word -/

/-- The block as it is when the read of a waited word is issued: the item notes its read, and is committed where the word is on a port. -/
def waitNoted (i : Nat) (it : Item) (p : Place) (b : Block) : Block :=
  let noted := (if p.isPort then commit i else id) (modItem i (fun it =>
    { it with passed := it.passed || p.isPort, rd := 1, retry := false, final := if it.final = 0 then 0 else 2 }) b)
  match it.fen.spans with
  | s :: _ => spanCount it.tile it.part (itemAsn noted it) (dFenceAddr it.desc) (dFenceAddr it.desc) (s.part 0 8) noted
  | [] => noted

theorem waitRead_reads {b : Block} {i : Nat} {it : Item} {p : Place} (at_ : tfind b.he.items i = some it) (place : fencePlace it = some p)
    (none_ : b.txns.any (fun t => t.2.use == .waitRead i) = false) (reached : placeStatus b (itemFn b it p) p = none) :
    waitRead i b = issueRead p it.part (itemFn b it p) 8 (itemAsn b it) (dFenceAddr it.desc) false true (.waitRead i) (waitNoted i it p b) := by
  simp only [waitRead, at_, place, none_, Bool.false_eq_true, if_false, reached]
  rfl

theorem txnsGoOn_waitNoted (i : Nat) (it : Item) (p : Place) (b : Block) : TxnsGoOn b (waitNoted i it p b) := by
  have noted : ∀ f, TxnsGoOn b ((if p.isPort then commit i else id) (modItem i f b)) := by
    intro f
    cases p.isPort with
    | false => exact txnsGoOn_of_eq rfl
    | true => exact TxnsGoOn.trans (c := modItem i f b) (txnsGoOn_of_eq rfl) (txnsGoOn_carries.commit i _)
  unfold waitNoted
  dsimp only
  split
  · exact (noted _).trans (txnsGoOn_carries.spanCount _ _ _ _ _ _ _)
  · exact noted _

/-! ### The watchdog -/

/-- A WAIT item fails without the registers or the rings being touched. -/
theorem itemFail_wait {b : Block} {i : Nat} {it : Item} (at_ : tfind b.he.items i = some it) (wait : dOpcode it.desc = 0x08) (st aux : Nat) :
    (itemFail i st aux b).regs = b.regs ∧ (itemFail i st aux b).sq = b.sq := by
  have unread : ∀ c, (itemUnread i c).regs = c.regs ∧ (itemUnread i c).sq = c.sq := by
    intro c
    unfold itemUnread
    dsimp only
    split <;> exact ⟨rfl, rfl⟩
  unfold itemFail
  simp only [at_, wait, decide_true, Bool.or_true, if_true]
  split
  · exact ⟨rfl, rfl⟩
  · exact unread b

/-- The ring of an expired WAIT item is HALTED, and the item fails. -/
def watchdogHalted (i : Nat) (it : Item) (b : Block) : Block :=
  fbump F.ccWatchdogExpired it.part 1 (itemFail i 0x024 0 (modRing it.ringKey (fun r =>
    if r.state = .active ∨ r.state = .paused then { r with state := .halted, haltCause := 1 } else r) b))

theorem watchdog_unready {b : Block} {i : Nat} {it : Item} (at_ : tfind b.he.items i = some it) (active : it.stage = .active)
    (opcode : dOpcode it.desc = 0x08) (wait : dWait it.desc = true) (runs : stopped b = false) (unready : it.fenceReady = false) :
    watchdog i b = settle (partFault it.part 3 (.ring it.ring) (watchdogHalted i it b)) := by
  simp [watchdog, at_, active, opcode, wait, runs, unready, watchdogEnd, watchdogHalted]

theorem waits_iff {b : Block} {i : Nat} : waits b i = true ↔ ∃ it, tfind b.he.items i = some it ∧ it.stage = .active ∧
    dOpcode it.desc = 0x08 ∧ dWait it.desc = true ∧ it.fenceReady = true ∧ stopped b = false := by
  unfold waits
  cases at_ : tfind b.he.items i with
  | none => simp
  | some it => simp [and_assoc]

/-- Settles O25: an item that waits reads its word, and one whose word cannot be reached is ended by its watchdog. -/
theorem waitItemsPollAndExpire : Obligations.WaitItemsPollAndExpire := by
  unfold Obligations.WaitItemsPollAndExpire
  refine fun s i => ⟨fun waiting => run_eq ?_, fun waiting => run_eq (if_pos waiting), fun it p at_ place none_ reached => ?_,
    fun idle => ?_, fun it r at_ active opcode wait runs unready sound ring live => ?_⟩
  · obtain ⟨it, at_, active, opcode, wait, ready, runs⟩ := waits_iff.1 waiting
    simp [watchdog, at_, active, opcode, wait, ready, runs]
  · have opened := txns_issueRead p it.part (itemFn s.blk it p) 8 (itemAsn s.blk it) (dFenceAddr it.desc) false true (.waitRead i)
      (waitNoted i it p s.blk)
    rw [waitRead_reads at_ place none_ reached]
    refine ⟨_, _, txnsGoOn_waitNoted i it p s.blk, (congrArg (tfind · _) opened.1).trans (tfind_tput_same _ _ _), rfl, rfl, rfl, rfl, rfl, opened.2⟩
  · exact (run_eq (f := waitPoll i) (if_neg (Bool.eq_false_iff.1 idle))).trans rfl
  · have kept := itemFail_wait (b := modRing it.ringKey (fun r =>
      if r.state = .active ∨ r.state = .paused then { r with state := .halted, haltCause := 1 } else r) s.blk) (i := i) at_ opcode 0x024 0
    refine ⟨watchdogHalted i it s.blk, run_eq (watchdog_unready at_ active opcode wait runs unready), ?_, ?_, ?_⟩
    · refine (congrArg (fun q : Sq => tfind q.rings it.ringKey) kept.2).trans ?_
      refine (tfind_tmod_same _ _ _).trans ?_
      rw [ring, Option.map_some, if_pos live]
    · obtain ⟨x, found, status, _, stage⟩ := itemFail_fails (i := i) (st := 0x024) (aux := 0) (b := modRing it.ringKey (fun r =>
        if r.state = .active ∨ r.state = .paused then { r with state := .halted, haltCause := 1 } else r) s.blk) at_ sound (Or.inr (Or.inl active))
      exact ⟨x, found, status, stage⟩
    · have counted := fget_fbump_same F.ccWatchdogExpired it.part 1 (itemFail i 0x024 0 (modRing it.ringKey (fun r =>
        if r.state = .active ∨ r.state = .paused then { r with state := .halted, haltCause := 1 } else r) s.blk)) (by decide)
      refine counted.trans ?_
      simp only [fget, rget, kept.1]
      rfl

end Sys2Proof.Laws

/-!
Answers to exchanges: what an answer of a die, of the depot or of a host port brings to the work that waits for it.
-/
namespace Sys2Proof.Laws

open Sys2Proof Sys2Proof.Machine Sys2Proof.Safety

/-! ### An answer to an open exchange -/

theorem onTxn_open {n : Nat} {p : Txn → Bool} {f : Txn → Block → Block} {b : Block} {t : Txn} (at_ : tfind b.txns n = some t)
    (takes : p t = true) : onTxn n p f b = f t b := by
  simp only [onTxn, at_, takes, if_true]

theorem onTxn_closed {n : Nat} {p : Txn → Bool} {f : Txn → Block → Block} {b : Block} (none_ : tfind b.txns n = none) : onTxn n p f b = b := by
  simp only [onTxn, none_]

/-- An answer that fits is what its function makes of the block, and the work that can goes on. -/
theorem answer_settles {n : Nat} {fits : Txn → Bool} {f : Block → Block} {s : State} {t : Txn} {b : Block} (opened : Open s.blk n t)
    (fit : fits t = true) (h : f s.blk = b) : answer n fits (fun b => settle (f b)) s = .next { s with blk := settle b } := by
  subst h
  exact answer_open opened.1 opened.2 fit

theorem alignDown_badFrom_die (d a k : Nat) : badFrom (.die d a) k = alignDown (a + k) 64 - a := rfl

/-! ### ECC results -/

theorem eccNote_ok (t : Txn) (b : Block) : eccNote t .ok b = b := by
  unfold eccNote
  split <;> simp_all

theorem eccNote_prefetch {t : Txn} {b : Block} (prefetch : prefetching b t.use = true) (offs : List Nat) : eccNote t (.corrected offs) b = b := by
  unfold eccNote
  cases t.place <;> simp [prefetch]

theorem eccNote_corrected {t : Txn} {b : Block} {x : Nat} (depot : t.place = .depot x) (recorded : prefetching b t.use = false) (offs : List Nat) :
    eccNote t (.corrected offs) b =
      each (offs.filter (fun k => k < t.len)) (fun k b => fhNote (96 + 2 * ecChannel b t x k) (.channel (ecChannel b t x k)) none b) b := by
  simp only [eccNote, depot, recorded, Bool.false_eq_true, if_false]

theorem eccNote_uncorrectable {t : Txn} {b : Block} {x : Nat} (depot : t.place = .depot x) (k : Nat) :
    eccNote t (.uncorrectable k) b = if quiet b t.use then b
      else fhRaise (97 + 2 * ecChannel b t x k) (.channel (ecChannel b t x k)) none false b := by
  simp only [eccNote, depot]
  rfl

/-- Settles O26: each answer is taken by its own kind of exchange, with what it records first. -/
theorem dieAndDepotAnswersReachTheirWork : Obligations.DieAndDepotAnswersReachTheirWork := by
  unfold Obligations.DieAndDepotAnswersReachTheirWork
  intro s n t opened
  have at_ := opened.2
  refine ⟨fun d a data die reads len => ⟨?_, fun k => ?_⟩, fun d a die writes => ?_, fun d a die => ?_, fun x depot reads => ?_,
    fun x depot writes => ⟨?_, fun k => ?_⟩⟩
  · refine answer_settles opened (by simp [lenFits, reads, len]) ?_
    rw [dieData, onTxn_open at_ (by simp [reads, die, Place.isDie])]
    simp [die]
  · refine answer_settles opened (by simp [lenFits, reads, len]) ?_
    rw [dieData, onTxn_open at_ (by simp [reads, die, Place.isDie])]
    simp [die, badFrom]
  · refine answer_settles opened rfl ?_
    rw [dieAck, onTxn_open at_ (by simp [writes, die, Place.isDie])]
  · refine run_settle_eq ?_
    rw [dieLate, onTxn_open at_ (by simp [die, Place.isDie])]
    simp [die]
  · have takes : (t.reads && t.place.isDepot) = true := by simp [reads, depot, Place.isDepot]
    have brings : ∀ e, exec (.depotReadData n e) s = .next { s with blk := settle (readArrive n t (memRead s.depot (depotAt t.part x) t.len)
        (((Ecc.bad t e).or (match e with | .corrected (_ :: _) => if prefetching s.blk t.use then some 0 else none | _ => none)).map
          (fun k => (k, 0x051))) (eccNote t e s.blk)) } := by
      intro e
      refine answer_settles (f := depotData n e s.depot) opened rfl ?_
      rw [depotData, onTxn_open at_ takes]
      simp only [depotBytes, depot] <;> rfl
    refine ⟨?_, fun offs prefetch => ?_, fun offs recorded => ?_, fun k => ?_, fun plain k => ?_⟩
    · rw [brings, eccNote_ok]
      rfl
    · rw [brings, eccNote_prefetch prefetch]
      cases offs with
      | nil => rfl
      | cons o offs => simp [Ecc.bad, prefetch]
    · rw [brings, eccNote_corrected depot recorded]
      cases offs with
      | nil => rfl
      | cons o offs => simp [Ecc.bad, recorded]
    · rw [brings, eccNote_uncorrectable depot]
      simp [Ecc.bad, depot, badFrom]
    · show ecChannel s.blk t x k = depotChannel s.blk (x + k)
      unfold ecChannel
      split
      · next w l mirror => exact absurd mirror (plain w l)
      · rfl
  · refine answer_settles (f := depotAck n .ok) (s := { s with depot := depotWritten n .ok s.blk s.depot }) opened rfl ?_
    rw [depotAck, onTxn_open at_ (by simp [writes, depot, Place.isDepot]), eccNote_ok]
    rfl
  · refine answer_settles (f := depotAck n (.uncorrectable k)) (s := { s with depot := depotWritten n (.uncorrectable k) s.blk s.depot }) opened rfl ?_
    rw [depotAck, onTxn_open at_ (by simp [writes, depot, Place.isDepot]), eccNote_uncorrectable depot]
    simp only [Ecc.bad, depot, badFrom]

/-! ### Completions on a host port -/

/-- A completion of a number that was never asked for (R28). -/
theorem hostAnswer_unknown {n : Nat} {b : Block} (unknown : b.nextTxn ≤ n) (len : Option Nat) (f : Block → Block) :
    hostAnswer n len f b = tlpError (strayFn n b / 128) (strayFn n b % 128) b := by
  have out : txnKnown n b = false := decide_eq_false (Nat.not_lt.2 unknown)
  simp only [hostAnswer, out, Bool.not_false, if_true]

theorem hostAnswer_closed {n : Nat} {b : Block} (known : n < b.nextTxn) (none_ : tfind b.txns n = none) (len : Option Nat) (f : Block → Block) :
    hostAnswer n len f b = f b := by
  have in_ : txnKnown n b = true := decide_eq_true known
  simp only [hostAnswer, in_, none_, Bool.not_true, Bool.false_eq_true, if_false]

/-- A completion of an open request with the length that it asked for. -/
theorem hostAnswer_fits {n : Nat} {b : Block} {t : Txn} {len : Option Nat} (opened : Open b n t)
    (fits : (t.reads && len.any (· != t.len)) = false) (f : Block → Block) : hostAnswer n len f b = f b := by
  have in_ : txnKnown n b = true := decide_eq_true opened.1
  simp only [hostAnswer, in_, opened.2, fits, Bool.not_true, Bool.false_eq_true, if_false]
  split <;> rfl

theorem hostAnswer_unfit {n : Nat} {b : Block} {t : Txn} {len : Option Nat} {h a : Nat} {tr : Bool} (opened : Open b n t)
    (port : t.place = .port h a tr) (unfit : (t.reads && len.any (· != t.len)) = true) (f : Block → Block) :
    hostAnswer n len f b = tlpError h (t.fn % 128) b := by
  have in_ : txnKnown n b = true := decide_eq_true opened.1
  simp only [hostAnswer, in_, opened.2, port, unfit, Bool.not_true, Bool.false_eq_true, if_false, if_true]

/-- What does not wait for a discarded read is not touched by a completion without an exchange. -/
theorem strayCpl_closed {n : Nat} {b : Block} (none_ : tfind b.txns n = none) : strayCpl n b = b := by
  simp only [strayCpl, none_]

theorem strayCpl_used {n : Nat} {b : Block} {t : Txn} (at_ : tfind b.txns n = some t) (used : t.use ≠ .free) : strayCpl n b = b := by
  simp only [strayCpl, at_]
  split
  · next free _ => exact absurd free used
  · rfl

theorem hostData_closed {n : Nat} {b : Block} (none_ : tfind b.txns n = none) (res : CplResult) : hostData n res b = b := onTxn_closed none_

theorem atsTxn_closed {n : Nat} {b : Block} (none_ : tfind b.txns n = none) (res : AtsResult) : atsTxn n res b = b := by
  rw [atsTxn, strayCpl_closed none_, onTxn_closed none_]

/-- Each answer of a die, the depot, a fetch or a table line leaves the block as it is, where its exchange is closed. -/
theorem exec_answer_closed {c : Instr} {s : State} {n : Nat} (answers : Answers c n s.blk) (none_ : tfind s.blk.txns n = none) :
    exec c s = .next { s with blk := settle s.blk } := by
  obtain ⟨len, names, known, _⟩ := answers
  have depot : ∀ e, depotWritten n e s.blk s.depot = s.depot := fun e => by simp only [depotWritten, none_]
  have closed : ∀ fits (f : Block → Block), f s.blk = s.blk → answer n fits (fun b => settle (f b)) s = .next { s with blk := settle s.blk } := by
    intro fits f same
    rw [answer_closed known none_, same]
  have stray := strayCpl_closed none_
  have acked : ∀ e, exec (.depotWriteAck n e) s = .next { s with blk := settle s.blk } := by
    intro e
    show execDepotWriteAck n e s = _
    rw [execDepotWriteAck, depot]
    exact closed _ (depotAck n e) (onTxn_closed none_)
  unfold answerOf at names
  split at names <;> cases names
  · exact closed _ (dieData n _ _) (onTxn_closed none_)
  · exact closed _ (dieAck n) (onTxn_closed none_)
  · exact closed _ (depotData n _ s.depot) (onTxn_closed none_)
  · exact acked _
  · exact closed _ (fetchAnswer n _) (by rw [fetchAnswer, stray, onTxn_closed none_])
  · exact closed _ (walkLineAnswer n _) (by rw [walkLineAnswer, stray, onTxn_closed none_])

/-- The data or the error of a completion, where its exchange is open and waits for it. -/
theorem hostData_open {n : Nat} {b : Block} {t : Txn} {h a : Nat} {tr : Bool} (at_ : tfind b.txns n = some t)
    (port : t.place = .port h a tr) (reads : t.reads = true) (waits : t.use ≠ .free ∧ ∀ x, t.use ≠ .ats x) (res : CplResult) :
    hostData n res b = match res with
      | .data bytes poison => readArrive n t bytes (poison.map (fun k => (alignDown (a + k) 64 - a, 0x050)))
          (if poison.isSome then cplPoison t.fn (hostTlpFor (some t.part) h b) else hostTlpFor (some t.part) h b)
      | .error abort => readArrive n t [] (some (0, 0x051)) (fhRaise (32 * h + 34) (.fn t.fn)
          (vfPart (hostTlpFor (some t.part) h b) t.fn) false (cplError t.fn abort (hostTlpFor (some t.part) h b))) := by
  rw [hostData, onTxn_open at_ (by simp [reads, port, Place.isPort])]
  simp only [port]
  split
  · next free => exact absurd free waits.1
  · next x ats => exact absurd ats (waits.2 x)
  · cases res <;> rfl

/-- A read whose work has ended is discarded and counted (R264). -/
theorem hostData_free {n : Nat} {b : Block} {t : Txn} {h a : Nat} {tr : Bool} (at_ : tfind b.txns n = some t)
    (port : t.place = .port h a tr) (reads : t.reads = true) (free : t.use = .free) (res : CplResult) :
    hostData n res b = closeTxn n (fbump F.hpEventsCplDiscard h 1 (hostTlpFor (some t.part) h b)) := by
  rw [hostData, onTxn_open at_ (by simp [reads, port, Place.isPort])]
  simp only [port, free]

theorem hostLate_open {n : Nat} {b : Block} {t : Txn} {h a : Nat} {tr : Bool} (at_ : tfind b.txns n = some t)
    (port : t.place = .port h a tr) (reads : t.reads = true) : hostLate n b = match t.use with
      | .free => closeTxn n b
      | .ats x => atsAnswer x (.error false) (closeTxn n b)
      | _ => readArrive n t [] (some (0, 0x051)) (fhRaise (32 * h + 34) (.fn t.fn) (vfPart b t.fn) false b) := by
  rw [hostLate, onTxn_open at_ (by simp [reads, port, Place.isPort])]
  simp only [port] <;> rfl

/-- Settles O27: an answer of a host port does what its exchange waits for, and no exchange that is closed waits. -/
theorem hostAnswersReachTheirWork : Obligations.HostAnswersReachTheirWork := by
  unfold Obligations.HostAnswersReachTheirWork
  intro s n
  refine ⟨fun c => exec_answer_closed, fun none_ c which => ?_, fun unknown c which => ?_,
    fun t h a tr data poison opened port reads other => ?_, fun t opened => ?_⟩
  · rcases which with rfl | rfl | ⟨known, ⟨res, rfl⟩ | ⟨res, rfl⟩⟩
    · exact run_settle_eq (f := dieLate n) (onTxn_closed none_)
    · exact run_settle_eq (f := hostLate n) (onTxn_closed none_)
    · exact run_settle_eq ((hostAnswer_closed known none_ _ _).trans (hostData_closed none_ res))
    · exact run_settle_eq ((hostAnswer_closed known none_ _ _).trans (atsTxn_closed none_ res))
  · rcases which with ⟨res, rfl⟩ | ⟨res, rfl⟩ <;> exact run_settle_eq (hostAnswer_unknown unknown _ _)
  · refine run_settle_eq (hostAnswer_unfit opened port ?_ _)
    simpa [reads] using Ne.symm other
  have at_ := opened.2
  have error : (t.reads && (none : Option Nat).any (· != t.len)) = false := by simp
  refine ⟨fun h a tr port reads waits => ?_, fun h a tr port reads free => ?_, fun p r k fetch => ?_, fun w walk => ?_, fun a res ats => ?_,
    fun h a tr x port reads ats => ?_⟩
  · have brings := hostData_open at_ port reads waits
    intro late
    refine ⟨fun data len => ?_, fun abort => ?_, ?_⟩
    · have fits : (t.reads && (some data.length).any (· != t.len)) = false := by simp [len]
      exact ⟨run_settle_eq ((hostAnswer_fits opened fits _).trans (brings _)), fun k => run_settle_eq ((hostAnswer_fits opened fits _).trans (brings _))⟩
    · exact run_settle_eq ((hostAnswer_fits opened error _).trans (brings _))
    · refine run_settle_eq ((hostLate_open at_ port reads).trans ?_)
      split
      · next free => exact absurd free waits.1
      · next x ats => exact absurd ats (waits.2 x)
      · rfl
  · have drops := hostData_free at_ port reads free
    refine ⟨fun data poison len => ?_, fun abort => ⟨?_, ?_⟩⟩
    · have fits : (t.reads && (some data.length).any (· != t.len)) = false := by simp [len]
      exact run_settle_eq ((hostAnswer_fits opened fits _).trans (drops _))
    · exact run_settle_eq ((hostAnswer_fits opened error _).trans (drops _))
    · refine run_settle_eq ((hostLate_open at_ port reads).trans ?_)
      simp only [free]
  · have used : t.use ≠ .free := by simp [fetch]
    have takes : ∀ res, fetchAnswer n res s.blk = match res with
        | .descs ds => fetchDone n (4096 * p + r) k (some ds) (closeTxn n s.blk)
        | .failed abort => fetchDone n (4096 * p + r) k none (closeTxn n (portError t abort s.blk)) := by
      intro res
      rw [fetchAnswer, strayCpl_used at_ used, onTxn_open at_ (by simp [fetch])]
      simp only [fetch] <;> cases res <;> rfl
    exact ⟨fun ds => answer_settles (f := fetchAnswer n _) opened rfl (takes _), fun abort => answer_settles (f := fetchAnswer n _) opened rfl (takes _)⟩
  · have used : t.use ≠ .free := by simp [walk]
    have takes : ∀ res, walkLineAnswer n res s.blk = match res with
        | .line qs => walkAnswer w (some qs) (closeTxn n s.blk)
        | .error abort => walkAnswer w none (closeTxn n (portError t abort s.blk)) := by
      intro res
      rw [walkLineAnswer, strayCpl_used at_ used, onTxn_open at_ (by simp [walk])]
      simp only [walk] <;> cases res <;> rfl
    exact ⟨fun qs => answer_settles (f := walkLineAnswer n _) opened rfl (takes _), fun abort => answer_settles (f := walkLineAnswer n _) opened rfl (takes _)⟩
  · refine run_settle_eq ((hostAnswer_fits opened error _).trans ?_)
    rw [atsTxn, strayCpl_used at_ (by simp [ats]), onTxn_open at_ (by simp [ats])]
    simp only [ats] <;> cases res <;> rfl
  · refine run_settle_eq ((hostLate_open at_ port reads).trans ?_)
    simp only [ats]

end Sys2Proof.Laws

/-!
What an answer does: waited words, fences, completion entries, failed fetches and ATS answers.
-/
namespace Sys2Proof.Laws

open Sys2Proof Sys2Proof.Machine Sys2Proof.Safety

/-! ### One item through pokes, events and reads that are let go -/

/-- A write may poke an item that waits; nothing else of it changes. -/
theorem tfind_waitPoke {b : Block} {i : Nat} {it : Item} (at_ : tfind b.he.items i = some it) (part : Nat) (p : Place) (len : Nat) :
    ∃ r, tfind (waitPoke part p len b).he.items i = some { it with retry := r } := by
  have poked : ∀ (g : Nat × Item → Nat × Item) (t : Tbl Item), (∀ e, (g e).1 = e.1) → (∀ e, ∃ r, (g e).2 = { e.2 with retry := r }) →
      tfind t i = some it → ∃ r, tfind (t.map g) i = some { it with retry := r } := by
    intro g t keys values
    induction t with
    | nil => intro h; cases h
    | cons e t ih =>
      intro h
      rw [List.map_cons, tfind, keys]
      rw [tfind] at h
      by_cases same : e.1 = i
      · rw [if_pos same] at h ⊢
        cases h
        obtain ⟨r, value⟩ := values e
        exact ⟨r, congrArg some value⟩
      · rw [if_neg same] at h ⊢
        exact ih h
  refine poked _ b.he.items (fun e => ?_) (fun e => ?_) at_ <;> dsimp only <;> split
  · rfl
  · rfl
  · exact ⟨true, rfl⟩
  · exact ⟨e.2.retry, rfl⟩

theorem tfind_event {b : Block} {i : Nat} {it : Item} (at_ : tfind b.he.items i = some it) (kind : Nat) :
    ∃ e, tfind (event i kind b).he.items i = some { it with events := e } := by
  simp only [event, at_]
  split
  · exact ⟨it.events, at_⟩
  · split
    · exact ⟨it.events, at_⟩
    · exact ⟨_, tfind_modItem at_⟩

theorem tfind_itemUnread {b : Block} {i : Nat} {it : Item} (at_ : tfind b.he.items i = some it) :
    ∃ a, tfind (itemUnread i b).he.items i = some { it with acc := a } := by
  unfold itemUnread
  dsimp only
  split
  · exact ⟨none, tfind_modItem at_⟩
  · exact ⟨it.acc, at_⟩

theorem sq_itemUnread (i : Nat) (b : Block) : (itemUnread i b).sq = b.sq := by
  unfold itemUnread
  dsimp only
  split <;> rfl

/-! ### Waited words -/

theorem waitEval_reached {b : Block} {i w : Nat} {it : Item} (at_ : tfind b.he.items i = some it) (reached : dFenceValue it.desc ≤ w % 2 ^ 63) :
    waitEval i w b = modItem i (fun it => { it with stage := .draining }) b := by
  simp only [waitEval, at_, if_pos reached]

theorem waitEval_broken {b : Block} {i w : Nat} {it : Item} (at_ : tfind b.he.items i = some it) (below : w % 2 ^ 63 < dFenceValue it.desc)
    (broken : 2 ^ 63 ≤ w) : waitEval i w b = itemFail i 0x025 w b := by
  simp only [waitEval, at_, if_neg (Nat.not_le.2 below), if_pos broken]

theorem waitEval_waits {b : Block} {i w : Nat} {it : Item} (at_ : tfind b.he.items i = some it) (below : w % 2 ^ 63 < dFenceValue it.desc)
    (sound : w < 2 ^ 63) (again : it.final ≠ 2) : waitEval i w b = modItem i (fun it => { it with slot := false }) b := by
  simp only [waitEval, at_, if_neg (Nat.not_le.2 below), if_neg (Nat.not_le.2 sound), if_neg again]

/-! ### Fences -/

/-- A fence write that was answered: its exchange is closed, and the item is as it was. -/
def poked (n : Nat) (t : Txn) (len : Nat) (b : Block) : Block := waitPoke t.part t.place len (closeTxn n b)

theorem writeArrive_fence {n i : Nat} {t : Txn} {b : Block} {it : Item} (use : t.use = .fence i) (bad : Option Nat)
    (at_ : tfind (poked n t (bad.getD t.len) b).he.items i = some it) :
    writeArrive n t bad b = if bad.isSome then fenceFail i 0x051 (dFenceAddr it.desc) (poked n t (bad.getD t.len) b)
      else fenceDone i (poked n t (bad.getD t.len) b) := by
  rw [poked] at at_ ⊢
  simp only [writeArrive, use, at_]

theorem fenceDone_writes {i : Nat} {b : Block} {it : Item} (at_ : tfind b.he.items i = some it) (stage : it.stage = .fenceWrite)
    (written : it.status = 0 ∨ it.fenceBroken = true) :
    ∃ x, tfind (fenceDone i b).he.items i = some x ∧ x.stage = .record ∧ x.status = it.status ∧ x.fenced = true := by
  have good : (it.status != 0 && !it.fenceBroken) = false := by
    rcases written with h | h <;> simp [h]
  obtain ⟨e, found⟩ := tfind_event (tfind_modItem (f := fun it => if it.status != 0 && !it.fenceBroken then { it with stage := .fence }
    else { it with fenced := true, stage := if it.stage = .fence ∨ it.stage = .fenceWrite then .record else it.stage }) at_) 0x06
  refine ⟨_, found, ?_⟩
  simp only [good, Bool.false_eq_true, if_false, stage, or_true, if_true, and_self]

/-- The item of a fence that failed goes to its record, with an earlier status where it has one. -/
theorem tfind_fenceFail {i st aux : Nat} {b : Block} {it : Item} (at_ : tfind b.he.items i = some it) :
    ∃ x, tfind (fenceFail i st aux b).he.items i = some x ∧ x.stage = .record ∧ x.fenced = it.fenced ∧
      x.status = if it.status = 0 then st else it.status := by
  have rings : ∀ (f : Ring → Ring) (c : Block), tfind c.he.items i = some it → tfind (marksSet it (modRing it.ringKey f c)).he.items i = some it :=
    fun _ _ h => h
  obtain ⟨a, found⟩ := tfind_itemUnread (rings (fun r => { r with shadow := shadowSet r.shadow (dFenceAddr it.desc) (fun e =>
    { e with broken := true, good := it.fencePrior.getD e.good }) }) b at_)
  simp only [fenceFail, at_]
  exact ⟨_, tfind_modItem found, rfl, rfl, rfl⟩

/-- The shadow entry of a fence that failed is broken, and keeps its last good value. -/
theorem shadow_fenceFail {i st aux : Nat} {b : Block} {it : Item} {r : Ring} {e : Shadow} (at_ : tfind b.he.items i = some it)
    (ring : tfind b.sq.rings it.ringKey = some r) (entry : e ∈ r.shadow) (addr : e.addr = dFenceAddr it.desc) :
    ∃ r', tfind (fenceFail i st aux b).sq.rings it.ringKey = some r' ∧
      { e with broken := true, good := it.fencePrior.getD e.good } ∈ r'.shadow := by
  simp only [fenceFail, at_]
  rw [show ∀ f c, (modItem i f c).sq = c.sq from fun _ _ => rfl, sq_itemUnread]
  simp only [marksSet, modRing, modSq, tfind_tmod_same, ring, Option.map_some]
  refine ⟨_, rfl, List.mem_map.2 ⟨e, entry, if_pos addr⟩⟩

/-! ### Fetches that fail -/

theorem fetchFail_live {b : Block} {key : Nat} {r : Ring} (at_ : tfind b.sq.rings key = some r) (live : r.state = .active ∨ r.state = .paused) :
    fetchFail key b = partFault (key / 4096) 3 (.ring (key % 4096)) (modRing key (fun r =>
      if r.state = .active ∨ r.state = .paused then { r with state := .halted, haltCause := 2, fetching := none, discardFetch := false }
      else { r with fetching := none, discardFetch := false }) b) := by
  have was : (r.state == .active || r.state == .paused) = true := by simpa using live
  simp only [fetchFail, at_, was, if_true]

/-! ### ATS answers -/

/-- The accesses of the translation unit are as they were. -/
def AccsStand (b c : Block) : Prop := c.tu.accs = b.tu.accs

theorem accsStand_carries : Carries AccsStand where
  refl _ := rfl
  trans h g := Eq.trans g h
  signals h := congrArg Tu.accs h.tu
  notes h := congrArg Tu.accs h.tu
  late _ _ _ _ _ := rfl
  opens _ _ := rfl
  closes _ _ := rfl
  item _ _ _ _ := rfl
  items _ _ _ _ := rfl
  caches _ b h := congrArg Prod.fst (h b.tu)
  traces _ _ := rfl
  governs _ _ := rfl

theorem accs_atsDrop (gone : AtsEntry → Bool) (b : Block) : (atsDrop gone b).tu.accs = b.tu.accs :=
  accsStand_carries.tlbEvict _ _

theorem atsAnswer_error {b : Block} {n addr len : Nat} {a : Access} (at_ : tfind b.tu.accs n = some a) (waits : a.wait = .ats addr len)
    (abort : Bool) : atsAnswer n (.error abort) b = modAcc n (fun x => { x with wait := .bad ⟨0x0A, x.va⟩ }) b := by
  simp only [atsAnswer, at_, waits]

theorem atsAnswer_untranslated {b : Block} {n addr len : Nat} {a : Access} (at_ : tfind b.tu.accs n = some a) (waits : a.wait = .ats addr len) :
    atsAnswer n .untranslated b = modAcc n (fun x => { x with wait := .done x.span }) b := by
  simp only [atsAnswer, at_, waits]

/-- The room that a function's port makes in its ATS cache for a translation (R118). -/
def atsRoom (fn addr len : Nat) (b : Block) : Block :=
  let c := atsDrop (fun x => x.fn == fn && x.pasid == (pasidOf b fn).map (·.1) && overlaps x.addr x.len addr len) b
  let mine := c.tu.ats.filter (fun x => x.fn / 128 == fn / 128)
  if mine.length < 4096 then c
  else match mine.head? with
    | some v => atsDrop (· == v) c
    | none => c

theorem accs_atsRoom (fn addr len : Nat) (b : Block) : (atsRoom fn addr len b).tu.accs = b.tu.accs := by
  unfold atsRoom
  dsimp only
  split
  · exact accs_atsDrop _ b
  · split
    · exact (accs_atsDrop _ _).trans (accs_atsDrop _ b)
    · exact accs_atsDrop _ b

theorem atsAnswer_translation {b : Block} {n addr len target : Nat} {rd wr : Bool} {a : Access} (at_ : tfind b.tu.accs n = some a)
    (waits : a.wait = .ats addr len) (right : atsRight a.kind rd wr = true) :
    atsAnswer n (.translation target rd wr) b = modAcc n (fun x => { x with wait := .again }) (modTu (fun t =>
      { t with ats := t.ats ++ [⟨a.fn, (pasidOf b a.fn).map (·.1), addr, len, target, rd, wr⟩] }) (atsRoom a.fn addr len b)) := by
  simp only [atsAnswer, at_, waits, right, if_true] <;> rfl

theorem tfind_modAcc {b : Block} {n : Nat} {a : Access} {f : Access → Access} (at_ : tfind b.tu.accs n = some a) :
    tfind (modAcc n f b).tu.accs n = some (f a) := (tfind_tmod_same _ _ _).trans (congrArg (Option.map f) at_)

/-- Settles O28: each answer does what its own function says of the item, ring or access that waits. -/
theorem answersDoTheirWork : Obligations.AnswersDoTheirWork := by
  unfold Obligations.AnswersDoTheirWork
  intro b i w it at_
  have pokes : ∀ n t len, it.stage = .fenceWrite → ∃ r, tfind (poked n t len b).he.items i = some { it with retry := r } :=
    fun n t len _ => tfind_waitPoke (b := closeTxn n b) at_ t.part t.place len
  refine ⟨fun reached => ?_, fun below broken sound active => ?_, fun below sound again => ?_, fun n t use stage => ⟨fun written => ?_, ?_, ?_⟩,
    fun n t c use at_cq => ?_, fun key r ring live => ?_, fun n a addr len found waits => ⟨fun abort => ?_, ?_, fun target rd wr right => ?_⟩⟩
  · rw [waitEval_reached at_ reached]
    exact tfind_modItem at_
  · rw [waitEval_broken at_ below broken]
    exact itemFail_fails at_ sound (Or.inr (Or.inl active))
  · rw [waitEval_waits at_ below sound again]
    exact tfind_modItem at_
  · obtain ⟨r, found⟩ := pokes n t t.len stage
    have does := writeArrive_fence (n := n) (b := b) use none found
    have ends := fenceDone_writes found stage written
    rw [does]
    exact ends
  · obtain ⟨r, found⟩ := pokes n t 0 stage
    have does := writeArrive_fence (n := n) (b := b) use (some 0) found
    have ends := tfind_fenceFail (st := 0x051) (aux := dFenceAddr it.desc) found
    rw [does]
    exact ends
  · intro r e ring entry addr
    obtain ⟨_, found⟩ := pokes n t 0 stage
    have does := writeArrive_fence (n := n) (b := b) use (some 0) found
    have ends := shadow_fenceFail (st := 0x051) (aux := dFenceAddr it.desc) (b := poked n t 0 b) found ring entry addr
    rw [does]
    exact ends
  · obtain ⟨r, found⟩ := tfind_waitPoke (b := closeTxn n b) at_ t.part t.place t.len
    refine ⟨modCq (itemCq b it) (fun c => { c with issued := c.issued.map (fun e => if e.1 = i then (i, e.2.1, true) else e) })
      (poked n t t.len b), ?_, (tfind_tmod_same _ _ _).trans (congrArg (Option.map _) at_cq)⟩
    simp only [writeArrive, use, Option.isSome_none, Bool.false_eq_true, if_false, Option.getD_none, entryAcked, found]
    rfl
  · refine ⟨_, fetchFail_live ring live, ?_, rfl⟩
    refine (tfind_tmod_same _ _ _).trans ?_
    rw [ring, Option.map_some, if_pos live]
  · rw [atsAnswer_error found waits]
    exact tfind_modAcc found
  · rw [atsAnswer_untranslated found waits]
    exact tfind_modAcc found
  · rw [atsAnswer_translation found waits right]
    refine ⟨⟨a.fn, (pasidOf b a.fn).map (·.1), addr, len, target, rd, wr⟩, List.mem_append_right _ (List.mem_singleton.2 rfl), rfl, ?_⟩
    exact tfind_modAcc ((congrArg (tfind · n) (accs_atsRoom a.fn addr len b)).trans found)

end Sys2Proof.Laws

/-!
Compute dies that come and go.
-/
namespace Sys2Proof.Laws

open Sys2Proof Sys2Proof.Machine Sys2Proof.Safety

/-! ### One item while others fail -/

/-- Item `i` stands in `c` as it did in `b`. -/
def StandsAt (i : Nat) (b c : Block) : Prop := (tfind c.he.items i).map standing = (tfind b.he.items i).map standing

theorem ItemsStand.at_ {b c : Block} (h : ItemsStand b c) (i : Nat) : StandsAt i b c := h i

theorem StandsAt.trans {i : Nat} {b c d : Block} (h : StandsAt i b c) (g : StandsAt i c d) : StandsAt i b d := Eq.trans g h

theorem standsAt_modItem_other {i j : Nat} (h : i ≠ j) (f : Item → Item) (b : Block) : StandsAt i b (modItem j f b) :=
  congrArg (Option.map standing) (tfind_tmod_other b.he.items f h)

/-- The failing of one item leaves the standing of every other. -/
theorem standsAt_itemFail_other {i j : Nat} (h : i ≠ j) (st aux : Nat) (b : Block) : StandsAt i b (itemFail j st aux b) := by
  unfold itemFail
  split
  · exact rfl
  · split
    · exact rfl
    · refine StandsAt.trans (ItemsStand.at_ ?_ i) (standsAt_modItem_other h _ _)
      exact (itemsStand_ite (ItemsStand.refl b) (itemsStand_carries.specDiscard _ _ b)).trans (itemsStand_itemUnread _ _)

theorem itemsStand_undo (i : Nat) (b : Block) : ItemsStand b (undo i b) := by
  unfold undo
  split
  · exact ItemsStand.refl b
  · split
    · exact ItemsStand.refl b
    · dsimp only
      refine ItemsStand.trans ?_ (itemsStand_carries.specDiscard _ _ _)
      exact ItemsStand.trans (itemsStand_itemUnread i b) (itemsStand_modItem _ _ fun _ => rfl)

theorem itemsStand_undoEarly (i : Nat) (b : Block) : ItemsStand b (undoEarly i b) := by
  unfold undoEarly
  split
  · exact itemsStand_ite (itemsStand_undo i b) (ItemsStand.refl b)
  · exact ItemsStand.refl b

/-- Item `i` has the status and the stage. -/
def StatusStage (i st : Nat) (stage : Stage) (b : Block) : Prop := ∃ x, tfind b.he.items i = some x ∧ x.status = st ∧ x.stage = stage

theorem StatusStage.of_standsAt {i st : Nat} {stage : Stage} {b c : Block} (h : StatusStage i st stage b) (stands : StandsAt i b c) :
    StatusStage i st stage c := by
  obtain ⟨x, found, status, at_⟩ := h
  rw [StandsAt, found] at stands
  obtain ⟨y, found', same⟩ := Option.map_eq_some_iff.1 stands
  obtain ⟨_, _, _, stage', _, status'⟩ : _ ∧ _ ∧ _ ∧ _ ∧ _ ∧ _ := by simpa only [standing, Prod.mk.injEq] using same
  exact ⟨y, found', status'.trans status, stage'.trans at_⟩

/-- What a cut does to one item: it lets its work go, and fails it. -/
def cutItem (st : Nat) (i : Nat) (b : Block) : Block := itemFail i st 0 (undoEarly i b)

theorem cutItem_other {i j st : Nat} (h : i ≠ j) (b : Block) : StandsAt i b (cutItem st j b) :=
  ((itemsStand_undoEarly j b).at_ i).trans (standsAt_itemFail_other h st 0 _)

theorem cutItem_active {i st : Nat} {b : Block} (active : StatusStage i 0 .active b) : StatusStage i st .draining (cutItem st i b) := by
  obtain ⟨x, found, sound, stage⟩ := active.of_standsAt ((itemsStand_undoEarly i b).at_ i)
  obtain ⟨y, at_, status, _, drains⟩ := itemFail_fails (st := st) (aux := 0) found sound (Or.inr (Or.inl stage))
  exact ⟨y, at_, status, drains⟩

theorem cutItem_failed {i st : Nat} {b : Block} (set : st ≠ 0) (failed : StatusStage i st .draining b) : StatusStage i st .draining (cutItem st i b) := by
  obtain ⟨x, found, status, stage⟩ := failed.of_standsAt ((itemsStand_undoEarly i b).at_ i)
  have again : (x.status != 0 || !(x.stage == .waiting || x.stage == .active || x.stage == .draining)) = true := by simp [status, set]
  have stays : cutItem st i b = undoEarly i b := by
    simp only [cutItem, itemFail, found, again, if_true]
  rw [stays]
  exact ⟨x, found, status, stage⟩

/-- Of the items that are cut, one that is active fails once. -/
theorem each_cutItem {i st : Nat} (set : st ≠ 0) : ∀ (l : List Nat) (b : Block),
    (StatusStage i st .draining b → StatusStage i st .draining (each l (cutItem st) b)) ∧
    (i ∈ l → StatusStage i 0 .active b → StatusStage i st .draining (each l (cutItem st) b)) := by
  intro l
  induction l with
  | nil => exact fun b => ⟨id, fun h => absurd h (List.not_mem_nil)⟩
  | cons j l ih =>
    intro b
    rw [each]
    by_cases h : i = j
    · subst h
      exact ⟨fun failed => (ih _).1 (cutItem_failed set failed), fun _ active => (ih _).1 (cutItem_active active)⟩
    · refine ⟨fun failed => (ih _).1 (failed.of_standsAt (cutItem_other h b)), fun listed active => ?_⟩
      exact (ih _).2 ((List.mem_cons.1 listed).resolve_left h) (active.of_standsAt (cutItem_other h b))

/-! ### The cut of a die -/

theorem mem_of_tfind {α : Type} {t : Tbl α} {k : Nat} {v : α} (h : tfind t k = some v) : (k, v) ∈ t := by
  induction t with
  | nil => cases h
  | cons e t ih =>
    rw [tfind] at h
    by_cases same : e.1 = k
    · rw [if_pos same] at h
      cases h
      subst same
      exact List.mem_cons_self
    · rw [if_neg same] at h
      exact List.mem_cons_of_mem _ (ih h)

theorem mem_itemsOf {b : Block} {i : Nat} {it : Item} {p : Item → Bool} (at_ : tfind b.he.items i = some it) (h : p it = true) : i ∈ itemsOf b p :=
  List.mem_map.2 ⟨(i, it), List.mem_filter.2 ⟨mem_of_tfind at_, h⟩, rfl⟩

theorem dieCut_idle {d : Nat} {b : Block} (none_ : ∀ e, e ∈ b.txns → e.2.onDie d = false) :
    dieCut d b = each (itemsOf b (fun it => it.touches b d)) (cutItem 0x021) (closeTxns (fun t => t.onDie d)
      (each (itemsOf b (fun it => it.ringsIn b d)) (fun i b => modItem i (fun it => { it with cqLost := true }) b) b)) := by
  have lost : b.txns.filter (fun e => e.2.onDie d) = [] := List.filter_eq_nil_iff.2 fun e he => by simp [none_ e he]
  simp only [dieCut, lost]
  rfl

/-- Settles O29: the sizes of a die that comes up are stored, and a cut fails what touches the die. -/
theorem diesComeAndGo : Obligations.DiesComeAndGo := by
  unfold Obligations.DiesComeAndGo
  intro s d hbm sram
  refine ⟨fun there => ?_, fun there present => ⟨run_settle_eq ?_, run_settle_eq ?_⟩, fun c i it none_ at_ touches sound active => ?_,
    fun away => ⟨run_settle_eq ?_, run_settle_eq ?_⟩, fun away => run_settle_eq (if_pos away)⟩
  · have up : dieUp d hbm sram s.blk = fput F.idCmemDiePresent d 1 (fput F.idCmemDieHbm64m d (Nat.min (hbm / 2 ^ 26) 3072)
        (fput F.idCmemDieSram64m d (Nat.min (sram / 2 ^ 26) 1024) s.blk)) := if_neg (Nat.not_le.2 there)
    have few : Nat.min (hbm / 2 ^ 26) 3072 < 2 ^ 12 := Nat.lt_of_le_of_lt (Nat.min_le_right _ _) (by decide)
    have less : Nat.min (sram / 2 ^ 26) 1024 < 2 ^ 12 := Nat.lt_of_le_of_lt (Nat.min_le_right _ _) (by decide)
    refine ⟨_, run_settle_eq up, fget_fput_fits d _ (by decide) (by decide), ?_, ?_, rfl, rfl, fun q j other => ?_⟩
    · rw [fget_fput_field F.idCmemDiePresent F.idCmemDieHbm64m _ _ _ rfl (by decide) (by decide), fget_fput_fits d _ (by decide) few]
    · rw [fget_fput_field F.idCmemDiePresent F.idCmemDieSram64m _ _ _ rfl (by decide) (by decide),
        fget_fput_field F.idCmemDieHbm64m F.idCmemDieSram64m _ _ _ rfl (by decide) (by decide), fget_fput_fits d _ (by decide) less]
    · exact ((rget_rput_other _ _ _ _ _ _ other).trans (rget_rput_other _ _ _ _ _ _ other)).trans (rget_rput_other _ _ _ _ _ _ other)
  · simp only [dieDown, Nat.not_le.2 there, present, Bool.not_true, Bool.false_eq_true, if_false]
  · simp only [dieReset, Nat.not_le.2 there, present, Bool.not_true, Bool.false_eq_true, if_false]
  · have marked : ItemsStand c (closeTxns (fun t => t.onDie d)
        (each (itemsOf c (fun it => it.ringsIn c d)) (fun i b => modItem i (fun it => { it with cqLost := true }) b) c)) := by
      refine ItemsStand.trans (itemsStand_carries.each (fun j e => ?_) _ c) (itemsStand_of_he rfl)
      exact itemsStand_modItem j e fun _ => rfl
    rw [dieCut_idle none_]
    have hit := mem_itemsOf (p := fun it => it.touches c d) at_ touches
    exact (each_cutItem (by decide) _ _).2 hit (StatusStage.of_standsAt ⟨it, at_, sound, active⟩ (marked.at_ i))
  · rcases away with gone | none_
    · simp [dieDown, gone]
    · simp [dieDown, none_]
  · rcases away with gone | none_
    · simp [dieReset, gone]
    · simp [dieReset, none_]

end Sys2Proof.Laws

/-!
Segments and invalidations: what invalidating removes and what it never touches, how an invalidation is issued and completes, and what
TU_AS_CTL, TU_SEG_CTL and the end of a segment's check store.
-/
namespace Sys2Proof.Laws

open Sys2Proof Sys2Proof.Machine Sys2Proof.Safety

/-! ### What removing translations never touches -/

/-- Every register up to those of the invalidations, the lists of segments and invalidations and the ATS cache are as they were. -/
structure LedgerStands (b c : Block) : Prop where
  regs : ∀ r i, r.code ≤ 20 → r ≠ .idIgnored → i < 2 ^ 32 → rget c r i = rget b r i
  lists : (ledger c.tu).2 = (ledger b.tu).2

namespace LedgerStands

variable {b c : Block}

theorem refl (b : Block) : LedgerStands b b := ⟨fun _ _ _ _ _ => rfl, rfl⟩

theorem trans {d : Block} (h : LedgerStands b c) (g : LedgerStands c d) : LedgerStands b d :=
  ⟨fun r i early hr hi => (g.regs r i early hr hi).trans (h.regs r i early hr hi), g.lists.trans h.lists⟩

theorem of_eq (regs : c.regs = b.regs) (lists : (ledger c.tu).2 = (ledger b.tu).2) : LedgerStands b c :=
  ⟨fun r i _ _ _ => by simp only [rget, regs], lists⟩

theorem fget (h : LedgerStands b c) {f : Fld} {i : Nat} (early : f.reg.code ≤ 20) (hr : f.reg ≠ .idIgnored) (hi : i < 2 ^ 32) :
    fget c f i = fget b f i := congrArg (fun w => qbits w f.hi f.lo) (h.regs f.reg i early hr hi)

theorem segs (h : LedgerStands b c) : c.tu.segs = b.tu.segs := congrArg (·.1) h.lists

theorem invals (h : LedgerStands b c) : c.tu.invals = b.tu.invals := congrArg (·.2.1) h.lists

theorem nextInval (h : LedgerStands b c) : c.tu.nextInval = b.tu.nextInval := congrArg (·.2.2.1) h.lists

theorem ats (h : LedgerStands b c) : c.tu.ats = b.tu.ats := congrArg (·.2.2.2.1) h.lists

theorem atsInvals (h : LedgerStands b c) : c.tu.atsInvals = b.tu.atsInvals := congrArg (·.2.2.2.2) h.lists

end LedgerStands

/-- The registers of a signal lie after those of the translation unit, the count of ignored writes aside. -/
theorem sigReg_early {r : Reg} (early : r.code ≤ 20) (hr : r ≠ .idIgnored) : sigReg r = false := by
  by_contra sig
  simp only [Bool.not_eq_false, sigReg, Bool.or_eq_true, beq_iff_eq, hr, or_false] at sig
  rcases sig with (((((((rfl | rfl) | rfl) | rfl) | rfl) | rfl) | rfl) | rfl) | rfl <;> exact absurd early (by decide)

theorem noteReg_early {r : Reg} {i : Nat} (early : r.code ≤ 20) (hr : r ≠ .idIgnored) : noteReg r i = false := by
  by_contra note
  simp only [Bool.not_eq_false, noteReg, sigReg_early early hr, Bool.false_and, Bool.false_or, Bool.or_eq_true, beq_iff_eq] at note
  rcases note with ((rfl | rfl) | rfl) | rfl <;> exact absurd early (by decide)

theorem ledgerStands_carries : Carries LedgerStands where
  refl := LedgerStands.refl
  trans := LedgerStands.trans
  signals h := ⟨fun r i early hr hi => h.regs r i (sigReg_early early hr) hi, congrArg (fun t => (ledger t).2) h.tu⟩
  notes h := ⟨fun r i early hr hi => h.regs r i (noteReg_early early hr) hi, congrArg (fun t => (ledger t).2) h.tu⟩
  late f i v b late := ⟨fun r j early _ hj => rget_rput_other _ _ _ _ _ _ (by simp only [regKey]; omega), rfl⟩
  opens _ _ := .of_eq rfl rfl
  closes _ _ := .of_eq rfl rfl
  item _ _ _ _ := .of_eq rfl rfl
  items _ _ _ _ := .of_eq rfl rfl
  caches _ b h := .of_eq rfl (congrArg Prod.snd (h b.tu))
  traces _ _ := .of_eq rfl rfl
  governs _ _ := .of_eq rfl rfl

theorem ledgerStands_invalRemove (p : Nat) (s : Scope) (b : Block) : LedgerStands b (invalRemove p s b) := by
  unfold invalRemove
  dsimp only
  refine .trans ?_ (ledgerStands_carries.each (fun e c => ledgerStands_carries.walkRemove _ c) _ _)
  refine .trans ?_ (ledgerStands_carries.each (f := lineForget) (fun _ _ => .of_eq rfl rfl) _ _)
  refine .trans (ledgerStands_carries.caches _ b fun _ => ?_) (ledgerStands_carries.bump F.tuCountsDiscard _ _ _ (by decide))
  rfl

theorem ledgerStands_modItem (i : Nat) (f : Item → Item) (b : Block) : LedgerStands b (modItem i f b) := .of_eq rfl rfl

theorem ledgerStands_itemUnread (i : Nat) (b : Block) : LedgerStands b (itemUnread i b) := by
  unfold itemUnread
  dsimp only
  split <;> exact .of_eq rfl rfl

theorem ledgerStands_undo (i : Nat) (b : Block) : LedgerStands b (undo i b) := by
  unfold undo
  dsimp only
  split
  · exact .refl b
  · split
    · exact .refl b
    · exact ((ledgerStands_itemUnread i b).trans (ledgerStands_modItem i _ _)).trans (ledgerStands_carries.specDiscard _ _ _)

theorem ledgerStands_itemInval (n i : Nat) (s : Scope) (b : Block) : LedgerStands b (itemInval n i s b) := by
  unfold itemInval
  split
  · exact .refl b
  · dsimp only
    refine .trans ?_ (ledgerStands_modItem i _ _)
    split
    · exact (ledgerStands_undo i b).trans (ledgerStands_modItem i _ _)
    · exact .refl b

theorem ledgerStands_accRedo (p : Access → Bool) (b : Block) : LedgerStands b (accRedo p b) := .of_eq rfl rfl

theorem ledgerStands_modHp (f : Hp → Hp) (b : Block) : LedgerStands b (modHp f b) := .of_eq rfl rfl

/-! ### An invalidation that is issued -/

/-- The record that issuing an invalidation makes. -/
def invalRecord (fn : Option Nat) (p : Nat) (s : Scope) (seg : Option Nat) (b : Block) : Inval :=
  ⟨fn, p, s, seg, false, (invalUses b p s).1, (invalUses b p s).2.1, (invalUses b p s).2.2⟩

/-- The block with an invalidation recorded, before anything is removed for it. -/
def invalNoted (fn : Option Nat) (p : Nat) (s : Scope) (seg : Option Nat) (b : Block) : Block :=
  modTu (fun t => { t with nextInval := b.tu.nextInval + 1, invals := tput t.invals b.tu.nextInval (invalRecord fn p s seg b) }) b

theorem ledgerStands_invalIssue (fn : Option Nat) (p : Nat) (s : Scope) (seg : Option Nat) (b : Block) :
    LedgerStands (invalNoted fn p s seg b) (invalIssue fn p s seg b) := by
  unfold invalIssue
  dsimp only
  refine .trans ?_ (ledgerStands_accRedo _ _)
  refine .trans ?_ (ledgerStands_modHp _ _)
  refine .trans ?_ (ledgerStands_carries.each (fun i c => ledgerStands_itemInval _ i s c) _ _)
  exact ledgerStands_invalRemove p s _

theorem rget_invalIssue (fn : Option Nat) (p : Nat) (s : Scope) (seg : Option Nat) (b : Block) {r : Reg} {i : Nat} (early : r.code ≤ 20)
    (hr : r ≠ .idIgnored) (hi : i < 2 ^ 32) : rget (invalIssue fn p s seg b) r i = rget b r i :=
  (ledgerStands_invalIssue fn p s seg b).regs r i early hr hi

theorem invals_invalIssue (fn : Option Nat) (p : Nat) (s : Scope) (seg : Option Nat) (b : Block) :
    tfind (invalIssue fn p s seg b).tu.invals b.tu.nextInval = some (invalRecord fn p s seg b) := by
  rw [(ledgerStands_invalIssue fn p s seg b).invals]
  exact tfind_tput_same _ _ _

/-! ### Address spaces -/

/-- What a write of TU_AS_CTL stores: PAGES of an address space in use is not among the bits that it may change. -/
def asStored (p a : Nat) (val m : BitVec 64) (b : Block) : BitVec 64 :=
  (rget b .tuAsCtl (asKey p a) &&& ~~~(m &&& (if asRefs b p a = 0 then BitVec.allOnes 64 else ~~~(fmask 62 62)))) |||
    (val &&& (m &&& (if asRefs b p a = 0 then BitVec.allOnes 64 else ~~~(fmask 62 62))))

theorem asControl_eq (p a : Nat) (val m : BitVec 64) (b : Block) : asControl p a val m b =
    if (asStored p a val m b).getLsbD 63 then rput .tuAsCtl (asKey p a) (asStored p a val m b) b
    else accRedo (fun x => x.part == p && x.asn == a)
      (invalIssue none p (.space a) none (rput .tuAsCtl (asKey p a) (asStored p a val m b) b)) := by
  have mask : (if (asRefs b p a == 0) = true then m else m &&& ~~~(fmask 62 62)) =
      m &&& (if asRefs b p a = 0 then BitVec.allOnes 64 else ~~~(fmask 62 62)) := by
    by_cases idle : asRefs b p a = 0
    · rw [if_pos idle, if_pos (beq_iff_eq.2 idle), BitVec.and_allOnes]
    · rw [if_neg idle, if_neg (fun h => idle (beq_iff_eq.1 h))]
  simp only [asControl, mask]
  rfl

theorem rget_asControl (p a : Nat) (val m : BitVec 64) (b : Block) (small : asKey p a < 2 ^ 32) :
    rget (asControl p a val m b) .tuAsCtl (asKey p a) = asStored p a val m b := by
  rw [asControl_eq]
  split
  · exact rget_rput_same _ _ _ _
  · refine ((ledgerStands_accRedo _ _).regs _ _ (by decide) (by decide) small).trans ?_
    exact (rget_invalIssue _ _ _ _ _ (by decide) (by decide) small).trans (rget_rput_same _ _ _ _)

theorem tu_asControl {p a : Nat} {val m : BitVec 64} {b : Block} (valid : (asStored p a val m b).getLsbD 63 = true) :
    (asControl p a val m b).tu = b.tu := by
  rw [asControl_eq, if_pos valid]
  rfl

theorem invals_asControl {p a : Nat} {val m : BitVec 64} {b : Block} (invalid : (asStored p a val m b).getLsbD 63 = false) :
    ∃ v, tfind (asControl p a val m b).tu.invals b.tu.nextInval = some v ∧ v.part = p ∧ v.scope = .space a ∧ v.complete = false := by
  rw [asControl_eq, invalid, if_neg Bool.false_ne_true, (ledgerStands_accRedo _ _).invals]
  exact ⟨_, invals_invalIssue none p (.space a) none (rput .tuAsCtl (asKey p a) (asStored p a val m b) b), rfl, rfl, rfl⟩

theorem asRefs_ignored (w : Agent) (part : Option Nat) (b : Block) (p a : Nat) : asRefs (ignored .tu w part b) p a = asRefs b p a := by
  have note := noteOnly_ignored (u := .tu) (by decide) (by decide) w part b
  have ring : (ignored .tu w part b).sq = b.sq := note.sq
  have item : (ignored .tu w part b).he = b.he := note.he
  have win : (ignored .tu w part b).hp.wins = b.hp.wins := congrArg (fun h => h.wins) (congrArg Block.hp note.rest)
  have walks : (ignored .tu w part b).tu = b.tu := note.tu
  simp only [asRefs, ring, item, win, walks]

/-! ### Segments -/

theorem segIdx_split (i : Nat) : segIdx (i / 65536) (i / 16 % 4096) (i % 16) = i := by
  simp only [segIdx, asKey]
  omega

/-- The block after TU_SEG_CTL is written, before the accesses and the old range are looked at. -/
def segStored (k : Nat) (valid : Bool) (val m : BitVec 64) (b : Block) : Block :=
  fput F.tuSegCtlPending k 1 (rput .tuSegCtl k (qset ((rget b .tuSegCtl k &&& ~~~m) ||| (val &&& m)) 63 63 (b2n valid)) b)

theorem fget_segStored_pending (k : Nat) (valid : Bool) (val m : BitVec 64) (b : Block) :
    fget (segStored k valid val m b) F.tuSegCtlPending k = 1 := fget_fput_fits k _ (by decide) (by decide)

theorem fget_segStored_valid (k : Nat) (valid : Bool) (val m : BitVec 64) (b : Block) :
    fget (segStored k valid val m b) F.tuSegCtlValid k = b2n valid := by
  refine (fget_fput_field F.tuSegCtlPending F.tuSegCtlValid k 1 _ rfl (by decide) (by decide)).trans ?_
  have fits : b2n valid < 2 ^ 1 := by cases valid <;> decide
  show qbits (rget (rput .tuSegCtl k _ b) .tuSegCtl k) 63 63 = _
  rw [rget_rput_same, qbits_qset_same _ _ _ _ (by decide), Nat.mod_eq_of_lt fits]

/-- What a write of TU_SEG_CTL that names VALID leaves: the segment is PENDING, and the old range, where there is one, is invalidated. -/
theorem segWrite_eq {p a s : Nat} {val m : BitVec 64} (names : m.getLsbD 63 = true) (b : Block) :
    let c := accRedo (fun x => x.part == p && x.asn == a && segPending (segStored (segIdx p a s) (val.getLsbD 63) val m b) p a x.va x.len)
      (segStored (segIdx p a s) (val.getLsbD 63) val m b)
    segWrite p a s val m b = match tfind b.tu.segs (segIdx p a s) with
      | some g => invalIssue none p (.range a g.vbase g.len) (some (segIdx p a s)) c
      | none => if val.getLsbD 63 then c else segGone (segIdx p a s) c := by
  simp only [segWrite, names, if_true]
  rfl

theorem fget_segGone_valid (k : Nat) (b : Block) : fget (segGone k b) F.tuSegCtlValid k = fget b F.tuSegCtlValid k :=
  fget_fput_field F.tuSegCtlPending F.tuSegCtlValid k 0 _ rfl (by decide) (by decide)

theorem fget_segGone_pending (k : Nat) (b : Block) : fget (segGone k b) F.tuSegCtlPending k = 0 := fget_fput_fits k _ (by decide) (by decide)

section

variable {p a s k : Nat} {val m : BitVec 64} {b : Block} (key : segIdx p a s = k) (names : m.getLsbD 63 = true)
include key names

theorem fget_segWrite_valid (small : k < 2 ^ 32) :
    fget (segWrite p a s val m b) F.tuSegCtlValid k = b2n (val.getLsbD 63) := by
  subst key
  rw [segWrite_eq names, ← fget_segStored_valid (segIdx p a s) (val.getLsbD 63) val m b]
  split
  · exact ((ledgerStands_invalIssue _ _ _ _ _).fget (by decide) (by decide) small)
  · split
    · rfl
    · exact fget_segGone_valid _ _

/-- With an old range, or with VALID written as 1, the segment waits for its check. -/
theorem fget_segWrite_pending (small : k < 2 ^ 32) (waits : tfind b.tu.segs k ≠ none ∨ val.getLsbD 63 = true) :
    fget (segWrite p a s val m b) F.tuSegCtlPending k = 1 := by
  subst key
  rw [segWrite_eq names]
  split
  · exact ((ledgerStands_invalIssue _ _ _ _ _).fget (by decide) (by decide) small).trans (fget_segStored_pending _ _ val m b)
  · next gone =>
    rw [waits.resolve_left (fun h => h gone), if_pos rfl]
    exact fget_segStored_pending _ _ val m b

theorem segWrite_removes (none_ : tfind b.tu.segs k = none) (off : val.getLsbD 63 = false) :
    fget (segWrite p a s val m b) F.tuSegCtlPending k = 0 := by
  subst key
  rw [segWrite_eq names, none_, off]
  exact fget_segGone_pending _ _

theorem segWrite_stages (none_ : tfind b.tu.segs k = none) (on : val.getLsbD 63 = true) :
    (segWrite p a s val m b).tu = { b.tu with accs := (segWrite p a s val m b).tu.accs } := by
  subst key
  rw [segWrite_eq names, none_, on]
  rfl

theorem segWrite_invalidates {g : Seg} (had : tfind b.tu.segs k = some g) :
    ∃ v, tfind (segWrite p a s val m b).tu.invals b.tu.nextInval = some v ∧ v.seg = some k ∧ v.part = p ∧
      v.scope = .range a g.vbase g.len := by
  subst key
  rw [segWrite_eq names, had]
  exact ⟨_, invals_invalIssue none p (.range a g.vbase g.len) (some (segIdx p a s)) (accRedo _ (segStored _ _ val m b)), rfl, rfl, rfl⟩

end

theorem segError_lt (b : Block) (p a k : Nat) (list : Option (List Nat)) : segError b p a k list < 8 := by
  unfold segError
  dsimp only
  split_ifs <;> decide

/-- The table of segments after a check that found the cause `e`. -/
def segChecked (b : Block) (p a k : Nat) (list : Option (List Nat)) : Block :=
  let c := modTu (fun t => { t with segs := tdel t.segs k }) b
  if segError b p a k list = 0 then
    modTu (fun t => { t with segs := tput t.segs k (segStagedEntry b k ((list.getD []).take (qbits (rget b .tuSegMap k) 63 52 + 1))) }) c
  else fput F.tuSegCtlErr k (segError b p a k list) (fhNote (256 + 16 * p) .none (some p) c)

section

variable {b : Block} {p a k : Nat} {list : Option (List Nat)}

theorem fget_segChecked_err : fget (segChecked b p a k list) F.tuSegCtlErr k =
    if segError b p a k list = 0 then fget b F.tuSegCtlErr k else segError b p a k list := by
  unfold segChecked
  split
  · rfl
  · exact fget_fput_fits k _ (by decide) (Nat.lt_trans (segError_lt _ _ _ _ _) (by decide))

theorem segs_segChecked (sound : segError b p a k list = 0) :
    tfind (segChecked b p a k list).tu.segs k = some (segStagedEntry b k ((list.getD []).take (qbits (rget b .tuSegMap k) 63 52 + 1))) := by
  simp only [segChecked, sound, if_true]
  exact tfind_tput_same _ _ _

theorem segs_segChecked_bad (bad : segError b p a k list ≠ 0) : (segChecked b p a k list).tu.segs = tdel b.tu.segs k := by
  simp only [segChecked, bad, if_false]
  exact congrArg Tu.segs (noteOnly_fhNote_any _ _ _ _).tu

end

theorem segCommitDone_checks {p a s : Nat} {list : Option (List Nat)} {events : List ReadEvent} {b : Block} {place : Place}
    (pending : fon b F.tuSegCtlPending (segIdx p a s) = true) (valid : fon b F.tuSegCtlValid (segIdx p a s) = true)
    (drained : b.tu.invals.any (fun e => e.2.seg == some (segIdx p a s) && !e.2.complete) = false)
    (placed : localPlace (readEvents events b) p (rget (readEvents events b) .tuSegList (segIdx p a s)).toNat
      (2 * (qbits (rget (readEvents events b) .tuSegMap (segIdx p a s)) 63 52 + 1)) = some place) :
    segCommitDone p a s list events b = wake (fun x => x.wait == .seg && x.part == p && x.asn == a)
      (fput F.tuSegCtlPending (segIdx p a s) 0 (segChecked (readEvents events b) p a (segIdx p a s) list)) := by
  simp only [segCommitDone, pending, valid, drained, placed, Bool.not_true, Bool.or_false, Bool.false_eq_true, if_false, segChecked]
  split <;> rfl

/-- Settles O30: what TU_AS_CTL and TU_SEG_CTL store, what they invalidate, and how a commit ends. -/
theorem addressSpacesAndSegmentsChange : Obligations.AddressSpacesAndSegmentsChange := by
  unfold Obligations.AddressSpacesAndSegmentsChange
  intro s w half val b c i
  refine ⟨fun lands small => ?_, fun lands names => ⟨fun pending => ⟨?_, ?_⟩, fun ready small => ?_⟩, ?_⟩
  · intro idle m new
    have key : asKey (i / 4096) (i % 4096) = i := Nat.div_add_mod i 4096
    obtain ⟨c, reg, refs, tu, applies⟩ : ∃ c, rget c .tuAsCtl i = rget b .tuAsCtl i ∧
        asRefs c (i / 4096) (i % 4096) = asRefs b (i / 4096) (i % 4096) ∧ c.tu = b.tu ∧
        regApply w .tuAsCtl i val (halfMask half) b = some (asControl (i / 4096) (i % 4096) (val &&& halfMask half)
          (Reg.bitsOf .tuAsCtl (fun x => x == .rw || x == .rwi) &&& halfMask half) c) := by
      by_cases held : (asRefs b (i / 4096) (i % 4096) != 0 && halfMask half &&& fmask 62 62 != 0#64) = true
      · refine ⟨ignored .tu w (some (i / 4096)) b, ignored_rget (by decide) (by decide) _ _ _ (by decide) (noteReg_tu rfl _) small,
          asRefs_ignored _ _ _ _ _, ignored_tu (by decide) (by decide) _ _ _, ?_⟩
        simp only [regApply, held, if_true]
      · refine ⟨b, rfl, rfl, rfl, ?_⟩
        simp only [regApply, held, if_false, Bool.false_eq_true]
    have stored : asStored (i / 4096) (i % 4096) (val &&& halfMask half) (Reg.bitsOf .tuAsCtl (fun x => x == .rw || x == .rwi) &&& halfMask half) c =
        new := by simp only [asStored, key, reg, refs, new, m, idle]
    refine ⟨_, exec_write_settles rfl lands (by decide) rfl applies, ?_, fun valid => ?_, fun invalid => ?_⟩
    · have read := rget_asControl (i / 4096) (i % 4096) (val &&& halfMask half)
        (Reg.bitsOf .tuAsCtl (fun x => x == .rw || x == .rwi) &&& halfMask half) c (key.symm ▸ small)
      rwa [key, stored] at read
    · exact (tu_asControl (stored ▸ valid)).trans tu
    · rw [← tu]
      exact invals_asControl (stored ▸ invalid)
  · exact exec_write_ignored_settles rfl lands (by decide) rfl (if_pos pending)
  · exact exec_write_ignored_settles rfl lands (by decide) rfl (if_pos pending)
  · have key := segIdx_split i
    have unset : ¬ fon b F.tuSegCtlPending i = true := by rw [ready]; decide
    have named : (halfMask half).getLsbD 63 = true := getLsbD_halfMask_of_names names (by decide) (by decide) (by decide)
    have bit : (Reg.bitsOf .tuSegCtl (· == .rw) &&& halfMask half).getLsbD 63 = true := by
      rw [BitVec.getLsbD_and, named]
      decide
    have applies : ∀ v, regApply w .tuSegCtl i v (halfMask half) b = some (segWrite (i / 65536) (i / 16 % 4096) (i % 16) (v &&& halfMask half)
        (Reg.bitsOf .tuSegCtl (· == .rw) &&& halfMask half) b) := fun v => if_neg unset
    have carried : ∀ v, (carry F.tuSegCtlValid v val &&& halfMask half).getLsbD 63 = v.testBit 0 := fun v => by
      rw [BitVec.getLsbD_and, named, carry, getLsbD_qset _ _ _ _ _ (by decide), Bool.and_true, if_pos (by decide)]
      rfl
    refine ⟨_, _, exec_write_settles rfl lands (by decide) rfl (applies _), exec_write_settles rfl lands (by decide) rfl (applies _),
      fget_segWrite_pending key bit small (.inr (carried 1)), ?_, ?_, fun none_ => ⟨segWrite_stages key bit none_ (carried 1), segWrite_removes key bit none_ (carried 0)⟩,
      fun g had => ⟨fget_segWrite_pending key bit small (.inl (by rw [had]; exact nofun)), fun z which => ?_⟩⟩
    · rw [fget_segWrite_valid key bit small, carried 1]
      rfl
    · rw [fget_segWrite_valid key bit small, carried 0]
      rfl
    · rcases which with rfl | rfl <;> exact segWrite_invalidates key bit had
  · intro p a k list ev n b pending valid small drained placed
    obtain ⟨place, found⟩ := Option.isSome_iff_exists.1 placed
    refine ⟨_, rfl, ?_⟩
    rw [segCommitDone_checks (p := p) (a := a) (s := k) (list := list) (events := ev) pending valid drained found]
    refine ⟨fget_fput_fits n _ (by decide) (by decide), ?_, fun sound => segs_segChecked sound, fun bad => segs_segChecked_bad bad⟩
    exact (fget_fput_field F.tuSegCtlPending F.tuSegCtlErr n 0 _ rfl (by decide) (by decide)).trans fget_segChecked_err

end Sys2Proof.Laws

/-!
Invalidations: how a command of TU_INV_CTL issues one, how one completes in the order of its function, and what a host's invalidation
removes from the ATS cache.
-/
namespace Sys2Proof.Laws

open Sys2Proof Sys2Proof.Machine Sys2Proof.Safety

/-! ### Invalidations that are issued -/

theorem invalWrite_issues {fn p scope asn pages : Nat} {b : Block} (known : scope < 3)
    (room : (fget b F.tuInvStatusIssued fn + 65536 - fget b F.tuInvStatusDone fn) % 65536 < 16) (range : scope = 0 → pages ≠ 0) :
    invalWrite fn p scope asn pages b = some (fput F.tuInvStatusIssued fn (fget b F.tuInvStatusIssued fn + 1)
      (invalIssue (some fn) p (if scope = 0 then .range asn (rget b .tuInvVa fn).toNat (4096 * pages)
        else if scope = 1 then .space asn else .partition) none b)) := by
  have taken : (decide (16 ≤ (fget b F.tuInvStatusIssued fn + 65536 - fget b F.tuInvStatusDone fn) % 65536) || scope == 3 ||
      (scope == 0 && pages == 0)) = false := by
    simp only [Bool.or_eq_false_iff, decide_eq_false_iff_not, Nat.not_le, beq_eq_false_iff_ne, Bool.and_eq_false_imp, beq_iff_eq]
    exact ⟨⟨room, Nat.ne_of_lt known⟩, range⟩
  simp only [invalWrite, taken, Bool.false_eq_true, if_false]

theorem nextInval_invalIssue (fn : Option Nat) (p : Nat) (s : Scope) (seg : Option Nat) (b : Block) :
    (invalIssue fn p s seg b).tu.nextInval = b.tu.nextInval + 1 := (ledgerStands_invalIssue fn p s seg b).nextInval

/-! ### Invalidations that complete -/

/-- A function's oldest invalidation, where it is complete, is counted in DONE, and then the next is looked at. -/
theorem invalDone_counts {m fn k : Nat} {v : Inval} {b : Block} (oldest : tfirst (fun _ u => u.fn == some fn) b.tu.invals = some k)
    (at_ : tfind b.tu.invals k = some v) (complete : v.complete = true) :
    invalDone (m + 1) fn b = invalDone m fn (fput F.tuInvStatusDone fn (fget b F.tuInvStatusDone fn + 1)
      (modTu (fun t => { t with invals := tdel t.invals k }) b)) := by
  simp only [invalDone, oldest, at_, complete, if_true]

theorem invalDone_waits {m fn : Nat} {b : Block} (open_ : ∀ k u, tfind b.tu.invals k = some u → u.complete = false) :
    invalDone m fn b = b := by
  cases m with
  | zero => rfl
  | succ m =>
    rw [invalDone]
    split
    · rfl
    · next k _ =>
      cases at_ : tfind b.tu.invals k with
      | none => rfl
      | some v => exact if_neg (by rw [open_ k v at_]; exact Bool.false_ne_true)

/-- Completing an invalidation changes neither whose it is nor its place among the others. -/
theorem tfirst_complete (fn n : Nat) (t : Tbl Inval) :
    tfirst (fun _ u => u.fn == some fn) (tmod t n (fun v => { v with complete := true })) = tfirst (fun _ u => u.fn == some fn) t := by
  induction t with
  | nil => rfl
  | cons e t ih =>
    obtain ⟨k, v⟩ := e
    rw [tfirst, tfirst] at ih
    rw [tmod]
    by_cases mine : (v.fn == some fn) = true
    · split <;> simp [tfirst, mine]
    · split
      · simp [tfirst, mine]
      · simp [tfirst, mine, ih]

theorem tdel_tmod {α : Type} (t : Tbl α) (k : Nat) (f : α → α) : tdel (tmod t k f) k = tdel t k := by
  induction t with
  | nil => rfl
  | cons e t ih =>
    obtain ⟨j, v⟩ := e
    rw [tmod, tdel]
    by_cases same : j = k
    · simp [same, tdel]
    · simp [same, tdel, ih]

/-- The block with an invalidation marked complete, before DONE counts it. -/
def invalMarked (n : Nat) (v : Inval) (b : Block) : Block :=
  wake (fun a => a.part == v.part && a.wait == .held && v.scope.covers a.asn a.va 1) (modTu (fun t =>
    { t with invals := tmod t.invals n (fun v => { v with complete := true }),
             tileWalks := t.tileWalks.map (fun e => if e.2.part = v.part then (e.1, { e.2 with ahead := e.2.next, pos := 0 }) else e) }) b)

/-- With the oldest invalidation of a function complete and no other, DONE counts it and it is gone. -/
theorem invalComplete_counts {n fn : Nat} {v : Inval} {b : Block} (at_ : tfind b.tu.invals n = some v) (open_ : v.complete = false)
    (idle : invalIdle b v = true) (mine : v.fn = some fn) (alone : v.seg = none)
    (oldest : tfirst (fun _ u => u.fn == some fn) b.tu.invals = some n) (once : tfind (tdel b.tu.invals n) n = none)
    (others : ∀ k u, tfind b.tu.invals k = some u → k ≠ n → u.complete = false) :
    invalComplete n b = fput F.tuInvStatusDone fn (fget b F.tuInvStatusDone fn + 1)
      (modTu (fun t => { t with invals := tdel t.invals n }) (invalMarked n v b)) := by
  have rest : ∀ k u, tfind (tdel (tmod b.tu.invals n (fun v => { v with complete := true })) n) k = some u → u.complete = false := by
    intro k u found
    rw [tdel_tmod] at found
    have other : k ≠ n := fun same => by rw [same, once] at found; exact nomatch found
    exact others k u ((tfind_tdel_other _ _ _ other) ▸ found) other
  have marked : tfind (invalMarked n v b).tu.invals n = some { v with complete := true } :=
    (tfind_tmod_same _ _ _).trans (by rw [at_]; rfl)
  have counted := invalDone_counts (m := 15) (b := invalMarked n v b) ((tfirst_complete fn n b.tu.invals).trans oldest) marked rfl
  have waits := invalDone_waits (m := 15) (fn := fn) (b := fput F.tuInvStatusDone fn (fget b F.tuInvStatusDone fn + 1)
    (modTu (fun t => { t with invals := tdel t.invals n }) (invalMarked n v b))) rest
  refine Eq.trans ?_ (counted.trans waits)
  simp only [invalComplete, at_, open_, idle, mine, alone, Bool.not_true, Bool.or_self, Bool.false_eq_true, if_false]
  rfl

/-! ### Invalidations of a host -/

/-- No eviction, where nothing that the TLB holds is to go, stores a register. -/
theorem regs_tlbEvict {gone : Tlb → Bool} {b : Block} (none_ : ∀ e, e ∈ b.tu.tlb → gone e = false) : (tlbEvict gone b).regs = b.regs := by
  have empty : b.tu.tlb.filter gone = [] := List.filter_eq_nil_iff.2 fun e he => by simp [none_ e he]
  simp only [tlbEvict, empty]
  rfl

theorem regs_atsDrop {gone : AtsEntry → Bool} {b : Block} (unlinked : ∀ e, e ∈ b.tu.tlb → e.link = none) : (atsDrop gone b).regs = b.regs := by
  refine regs_tlbEvict fun e he => ?_
  rw [unlinked e he, Bool.and_eq_false_iff]
  exact .inr (List.any_eq_false.2 fun _ _ => by simp)

theorem ledgerStands_tlbEvict (gone : Tlb → Bool) (b : Block) : LedgerStands b (tlbEvict gone b) := ledgerStands_carries.tlbEvict gone b

theorem ats_atsDrop (gone : AtsEntry → Bool) (b : Block) : (atsDrop gone b).tu.ats = b.tu.ats.filter (fun e => !gone e) :=
  (ledgerStands_tlbEvict _ _).ats

/-- Does an entry of the ATS cache match a host's invalidation (R120)? -/
def atsHit (fn : Nat) (pasid : Option Nat) (addr len : Nat) (e : AtsEntry) : Bool :=
  e.fn == fn && e.pasid == pasid && overlaps e.addr e.len addr len

theorem atsHit_iff {fn : Nat} {pasid : Option Nat} {addr len : Nat} {e : AtsEntry} :
    atsHit fn pasid addr len e = true ↔ e.fn = fn ∧ e.pasid = pasid ∧ overlaps e.addr e.len addr len = true := by
  simp only [atsHit, Bool.and_eq_true, beq_iff_eq, and_assoc]

section

variable (fn : Nat) (pasid : Option Nat) (addr len itag : Nat) (b : Block)

/-- The entries that a host's invalidation names are dropped, and the ITag is noted to be answered; of the items only what they have
resolved is cut. -/
theorem atsInvalidate_form : ∃ users pieces c, c = modTu (fun t => { t with atsInvals := t.atsInvals ++ [⟨fn, itag, users, pieces⟩] })
      (atsDrop (fun e => (b.tu.ats.filter (atsHit fn pasid addr len)).contains e) b) ∧
    (atsInvalidate fn pasid addr len itag b).regs = c.regs ∧ (atsInvalidate fn pasid addr len itag b).tu.ats = c.tu.ats ∧
    (atsInvalidate fn pasid addr len itag b).tu.atsInvals = c.tu.atsInvals := by
  unfold atsInvalidate
  dsimp only
  refine ⟨_, _, _, rfl, (each_keeps Block.regs _ _ (fun _ _ _ => ?_) _).trans rfl,
    (congrArg Tu.ats (each_keeps Block.tu _ _ (fun _ _ _ => ?_) _)).trans rfl,
    (congrArg Tu.atsInvals (each_keeps Block.tu _ _ (fun _ _ _ => ?_) _)).trans rfl⟩
  all_goals split <;> rfl

theorem mem_ats_atsInvalidate (e : AtsEntry) : e ∈ (atsInvalidate fn pasid addr len itag b).tu.ats ↔
    e ∈ b.tu.ats ∧ ¬ (e.fn = fn ∧ e.pasid = pasid ∧ overlaps e.addr e.len addr len = true) := by
  obtain ⟨_, _, _, rfl, _, ats, _⟩ := atsInvalidate_form fn pasid addr len itag b
  rw [ats]
  show e ∈ (atsDrop _ b).tu.ats ↔ _
  rw [ats_atsDrop]
  simp only [List.mem_filter, List.contains_eq_mem, Bool.not_eq_true', decide_eq_false_iff_not, atsHit_iff]
  exact and_congr_right fun listed => by simp only [listed, true_and]

theorem atsInvals_atsInvalidate : ∃ x, x ∈ (atsInvalidate fn pasid addr len itag b).tu.atsInvals ∧ x.fn = fn ∧ x.itag = itag := by
  obtain ⟨users, pieces, _, rfl, _, _, noted⟩ := atsInvalidate_form fn pasid addr len itag b
  rw [noted]
  exact ⟨⟨fn, itag, users, pieces⟩, List.mem_append_right _ List.mem_cons_self, rfl, rfl⟩

theorem regs_atsInvalidate (unlinked : ∀ e, e ∈ b.tu.tlb → e.link = none) : (atsInvalidate fn pasid addr len itag b).regs = b.regs := by
  obtain ⟨_, _, _, rfl, regs, _, _⟩ := atsInvalidate_form fn pasid addr len itag b
  exact regs.trans (regs_atsDrop unlinked)

end

theorem writeOf_invalidates {scope : Nat} (known : scope < 3) (w : Agent) (half : Half) (val : BitVec 64) :
    writeOf (invalidates scope w half val) = some (w, .tuInvCtl, 0, half, carry F.tuInvCtlScope scope val, true) := by
  match scope, known with
  | 0, _ => rfl
  | 1, _ => rfl
  | 2, _ => rfl

theorem regApply_tuInvCtl {w : Agent} {i p : Nat} {val mask : BitVec 64} {b : Block} (sel : selPart b w F.tuAsSelPartition = some p) :
    regApply w .tuInvCtl i val mask b =
      invalWrite i p (F.tuInvCtlScope.of (val &&& mask)) (fget b F.tuAsSelAs i) (F.tuInvCtlPages.of (val &&& mask)) b := by
  simp only [regApply, sel]

/-- Settles O32: invalidations are issued with their scope, complete in order, and a host's removes what matches. -/
theorem invalidationsAreIssuedAndComplete : Obligations.InvalidationsAreIssuedAndComplete := by
  unfold Obligations.InvalidationsAreIssuedAndComplete
  intro s w half val b i p scope
  refine ⟨fun lands sel known named room => ?_, fun n v fn at_ open_ idle mine alone oldest once others => ?_, fun n gone => ?_,
    fun port f pasid addr len itag up here => ?_, fun port f pasid addr len itag away => ?_⟩
  · intro pages range
    have applies := regApply_tuInvCtl (i := i) (val := carry F.tuInvCtlScope scope val) (mask := halfMask half) sel
    rw [named, invalWrite_issues known room range] at applies
    refine ⟨_, _, exec_write_settles (writeOf_invalidates known w half val) lands (by decide) rfl applies, fget_fput_same _ _ _ _ (by decide), nextInval_invalIssue _ _ _ _ _,
      invals_invalIssue _ _ _ _ _, rfl, rfl, rfl, rfl⟩
  · refine ⟨_, run_settle_eq (invalComplete_counts at_ open_ idle mine alone oldest once others), fget_fput_same _ _ _ _ (by decide), rfl, rfl, ?_⟩
    exact fget_fput_field F.tuInvStatusDone F.tuInvStatusIssued fn _ _ rfl (by decide) (by decide)
  · exact run_settle_eq (by simp only [invalComplete, gone])
  · have tlp := sigOnly_hostTlp port s.blk (Nat.lt_trans (hostUp_lt up) (by decide))
    refine ⟨_, (run_eq (if_pos (by rw [up, here]; rfl))), fun e => ?_, atsInvals_atsInvalidate _ _ _ _ _ _, fun unlinked => ?_⟩
    · rw [mem_ats_atsInvalidate, tlp.tu]
    · refine regs_atsInvalidate _ _ _ _ _ _ fun e he => ?_
      rw [tlp.tu] at he
      exact beq_iff_eq.1 (List.all_eq_true.1 unlinked e he)
  · exact run_eq (b := s.blk) (if_neg (by rw [away]; exact Bool.false_ne_true))

end Sys2Proof.Laws

/-!
Waiting accesses: what ends the wait for a slot, for a held leaf or for a page request, and how access counters decay.
-/
namespace Sys2Proof.Laws

open Sys2Proof Sys2Proof.Machine Sys2Proof.Safety

/-! ### Slots and holds -/

theorem tfind_mapValues {α : Type} (f : α → α) (t : Tbl α) (k : Nat) : tfind (t.map (fun e => (e.1, f e.2))) k = (tfind t k).map f := by
  induction t with
  | nil => rfl
  | cons e t ih =>
    rw [List.map_cons, tfind, tfind]
    split
    · rfl
    · exact ih

theorem tfind_wake (p : Access → Bool) (b : Block) (k : Nat) :
    tfind (wake p b).tu.accs k = (tfind b.tu.accs k).map (fun a => if p a then { a with wait := .again } else a) :=
  tfind_mapValues (fun a : Access => if p a then { a with wait := .again } else a) b.tu.accs k

/-- The block with a translation slot given to an address space, before the accesses that waited for one try again (R82). -/
def slotGiven (p a : Nat) (b : Block) : Block :=
  modTu (fun t => { t with loading := t.loading.filter (· != (p, a)), slots := t.slots ++ [(slotFree b, p, a)] }) b

theorem slotLoaded_loading {p a : Nat} {b : Block} (loading : (p, a) ∈ b.tu.loading) :
    slotLoaded p a b = wake (fun x => x.wait == .slot && x.part == p && x.asn == a) (slotGiven p a b) := by
  have held : b.tu.loading.contains (p, a) = true := List.contains_iff_mem.2 loading
  simp only [slotLoaded, held, Bool.not_true, Bool.false_eq_true, if_false]
  rfl

theorem slotLoaded_idle {p a : Nat} {b : Block} (idle : (p, a) ∉ b.tu.loading) : slotLoaded p a b = b := by
  have none_ : b.tu.loading.contains (p, a) = false := by simpa using idle
  simp only [slotLoaded, none_, Bool.not_false, if_true]

/-! ### Counters (R145, R146) -/

/-- A counter whose tile counts are merged into it, and then half of it is left. -/
def decayed (b : Block) (c : Counter) : Counter :=
  { c with merged := satAdd 65535 c.merged (c.tiles.foldl (· + ·) 0) / 2, tiles := List.replicate 12 0,
           flagged := c.flagged && decide (fget b F.tuAsCtlHotThresh (asKey c.part c.asn) / 2 ≤ satAdd 65535 c.merged (c.tiles.foldl (· + ·) 0) / 2) }

theorem counterMerge_low {c : Counter} {b : Block} (low : fget b F.tuAsCtlHotThresh (asKey c.part c.asn) = 0 ∨
      satAdd 65535 c.merged (c.tiles.foldl (· + ·) 0) < fget b F.tuAsCtlHotThresh (asKey c.part c.asn)) :
    counterMerge c (List.replicate 12 0) b =
      ({ c with merged := satAdd 65535 c.merged (c.tiles.foldl (· + ·) 0), tiles := List.replicate 12 0 }, b) := by
  have zero : c.tiles.foldl (· + ·) 0 - (List.replicate 12 0).foldl (· + ·) 0 = c.tiles.foldl (· + ·) 0 := rfl
  have quiet : (!c.flagged && fget b F.tuAsCtlHotThresh (asKey c.part c.asn) != 0 &&
      decide (fget b F.tuAsCtlHotThresh (asKey c.part c.asn) ≤ satAdd 65535 c.merged (c.tiles.foldl (· + ·) 0))) = false := by
    rcases low with off | under
    · simp [off]
    · simp [Nat.not_le.2 under]
  simp only [counterMerge, zero, quiet, Bool.false_eq_true, if_false]

/-- A decay of the only counter of an address space. -/
theorem counterDecay_one {p a : Nat} {c : Counter} {b : Block} (runs : fget b F.tuAsCtlDecay (asKey p a) ≠ 0)
    (only : b.tu.counters.filter (fun c => c.part == p && c.asn == a) = [c]) (hp : c.part = p) (ha : c.asn = a)
    (low : fget b F.tuAsCtlHotThresh (asKey c.part c.asn) = 0 ∨
      satAdd 65535 c.merged (c.tiles.foldl (· + ·) 0) < fget b F.tuAsCtlHotThresh (asKey c.part c.asn)) :
    counterDecay p a b = modTu (fun t => { t with counters := t.counters.map (fun x => if x = c then decayed b c else x) }) b := by
  simp only [counterDecay, runs, if_false, only, each, counterMerge_low low]
  subst hp ha
  rfl

theorem filter_map_replaced {α : Type} [DecidableEq α] {q : α → Bool} {c m : α} (hc : q c = false) (hm : q m = false) (l : List α) :
    (l.map (fun x => if x = c then m else x)).filter q = l.filter q := by
  induction l with
  | nil => rfl
  | cons x l ih =>
    by_cases same : x = c
    · simp [same, hc, hm, ih]
    · simp [same, List.filter_cons, ih]

/-! ### Page requests (R119) -/

/-- No access waits for a Page Request to be sent. -/
def NoneQueued (t : Tbl Access) : Prop := ∀ e, e ∈ t → ∀ x y, e.2.wait ≠ .prgQueue x y

theorem NoneQueued.tmod {t : Tbl Access} (none_ : NoneQueued t) (n : Nat) {f : Access → Access}
    (keeps : ∀ a : Access, (∀ x y, a.wait ≠ .prgQueue x y) → ∀ x y, (f a).wait ≠ .prgQueue x y) : NoneQueued (tmod t n f) := by
  induction t with
  | nil => exact none_
  | cons e t ih =>
    obtain ⟨k, v⟩ := e
    intro d hd
    rw [Sys2Proof.Machine.tmod] at hd
    split at hd
    · rcases List.mem_cons.1 hd with rfl | rest
      · exact keeps v (none_ (k, v) List.mem_cons_self)
      · exact none_ d (List.mem_cons_of_mem _ rest)
    · rcases List.mem_cons.1 hd with rfl | rest
      · exact none_ (k, v) List.mem_cons_self
      · exact ih (fun e he => none_ e (List.mem_cons_of_mem _ he)) d rest

theorem prgDrain_none {fn : Nat} {b : Block} (none_ : NoneQueued b.tu.accs) : prgDrain fn b = b := by
  refine each_keeps id b.tu.accs _ (fun e he c => ?_) b
  dsimp only [id]
  split
  · split
    · next x y waits => exact absurd waits (none_ e he x y)
    · rfl
  · rfl

/-- What the end of a page request group makes of the access that waits for it. -/
def prgEnded (g code : Nat) (a : Access) : Access :=
  match a.wait with
  | .prg _ _ h => if h ≠ g then a
      else if code = 0 then { a with tries := a.tries + 1, wait := .again }
      else { a with wait := .bad ⟨code, a.va⟩ }
  | _ => a

theorem prgEnded_queued {g code : Nat} {a : Access} (none_ : ∀ x y, a.wait ≠ .prgQueue x y) (x y : Nat) : (prgEnded g code a).wait ≠ .prgQueue x y := by
  unfold prgEnded
  split
  · split
    · exact none_ x y
    · split <;> exact nofun
  · exact none_ x y

/-- The block with a page request group closed. -/
def prgClosed (g code fn : Nat) (b : Block) : Block :=
  modTu (fun t => { t with prgs := tdel t.prgs g, priFailed := if code = 0x21 then sins fn t.priFailed else t.priFailed }) b

theorem prgEnd_open {g code fn n : Nat} {b : Block} (open_ : tfind b.tu.prgs g = some (fn, n)) :
    prgEnd g code b = prgDrain fn (modAcc n (prgEnded g code) (prgClosed g code fn b)) := by
  simp only [prgEnd, open_]
  rfl

/-- The end of a group, where no access waits to send a Page Request, closes it and ends the wait of its access. -/
theorem prgEnd_ends {g code fn n : Nat} {b : Block} (open_ : tfind b.tu.prgs g = some (fn, n)) (none_ : NoneQueued b.tu.accs) :
    prgEnd g code b = modAcc n (prgEnded g code) (prgClosed g code fn b) :=
  (prgEnd_open open_).trans (prgDrain_none (none_.tmod n fun _ => prgEnded_queued))

/-- The same of a block whose translation unit is as in `c`. -/
theorem prgEnd_answers {g code fn n : Nat} {b c : Block} {a : Access} (tu : b.tu = c.tu) (open_ : tfind c.tu.prgs g = some (fn, n))
    (none_ : NoneQueued c.tu.accs) (at_ : tfind c.tu.accs n = some a) :
    tfind (prgEnd g code b).tu.accs n = some (prgEnded g code a) ∧ (prgEnd g code b).tu.prgs = tdel c.tu.prgs g ∧
    (prgEnd g code b).tu.priFailed = (if code = 0x21 then sins fn c.tu.priFailed else c.tu.priFailed) ∧
    (prgEnd g code b).txns = b.txns ∧ (prgEnd g code b).regs = b.regs := by
  rw [← tu] at open_ none_ at_ ⊢
  rw [prgEnd_ends open_ none_]
  exact ⟨tfind_modAcc (b := prgClosed g code fn b) at_, rfl, rfl, rfl, rfl⟩

theorem prgEnd_closed {g code : Nat} {b : Block} (closed : tfind b.tu.prgs g = none) : prgEnd g code b = b := by simp only [prgEnd, closed]

theorem hostTlp_rest (h : Nat) (b : Block) : (hostTlp h b).tu = b.tu ∧ (hostTlp h b).txns = b.txns := by
  have counted := sigOnly_tcCount (portTile h) 0x071 none 1 (hostWake h b)
  refine ⟨counted.tu.trans ?_, counted.txns.trans ?_⟩
  all_goals
    unfold hostWake
    split <;> rfl

theorem priFailed_pageRequest (n addr len : Nat) (b : Block) : (pageRequest n addr len b).tu.priFailed = b.tu.priFailed := by
  unfold pageRequest
  split
  · rfl
  · split
    · rfl
    · split
      · rfl
      · split
        · rfl
        · dsimp only
          exact (congrArg Tu.priFailed (sigOnly_emitTlpFor _ _ _ _).tu).trans rfl

/-- A function that has been told that its Page Requests fail sends no further one. -/
theorem priFailed_prgDrain (fn : Nat) (b : Block) : (prgDrain fn b).tu.priFailed = b.tu.priFailed := by
  refine each_keeps (fun c : Block => c.tu.priFailed) _ _ (fun e _ c => ?_) b
  split
  · split
    · exact priFailed_pageRequest _ _ _ c
    · rfl
  · rfl

theorem exec_prgResponse (g : Nat) (code : PrgCode) (s : State) : exec (.prgResponse g code) s =
    .next { s with blk := settle (prgEnd g (prgCause code) (prgArrive g s.blk)) } :=
  run_eq (f := fun b => settle (prgEnd g (prgCause code) (prgArrive g b))) rfl

theorem exec_priTimeout (g : Nat) (s : State) : exec (.priTimeout g) s = .next { s with blk := settle (prgEnd g 0x22 s.blk) } :=
  run_eq (f := fun b => settle (prgEnd g 0x22 b)) rfl

/-- Settles O33. -/
theorem accessesWaitAndGoOn : Obligations.AccessesWaitAndGoOn := by
  unfold Obligations.AccessesWaitAndGoOn
  refine ⟨fun s p a n => ⟨fun loading => ?_, fun idle => run_settle_eq (slotLoaded_idle idle), fun x at_ => ?_, fun off => ?_, fun c runs only => ?_⟩,
    fun s g fn n => ⟨fun addr len a open_ at_ waits none_ => ?_, fun open_ gone => ?_, fun closed => ?_⟩⟩
  · refine ⟨_, run_settle_eq (slotLoaded_loading loading), List.mem_append_right _ List.mem_cons_self, ?_, rfl, rfl, fun k x at_ => ?_⟩
    · show (p, a) ∉ s.blk.tu.loading.filter (· != (p, a))
      simp
    · have same : tfind (slotGiven p a s.blk).tu.accs k = some x := at_
      rw [tfind_wake, same]
      simp [and_assoc]
  · refine ⟨_, run_settle_eq rfl, (tfind_modAcc at_), rfl, rfl, fun k other => tfind_tmod_other _ _ other⟩
  · exact run_eq (b := s.blk) (if_pos off)
  · intro sum low
    have mine : c ∈ s.blk.tu.counters.filter (fun c => c.part == p && c.asn == a) := only ▸ List.mem_singleton_self c
    obtain ⟨listed, owned⟩ := List.mem_filter.1 mine
    obtain ⟨hp, ha⟩ := Bool.and_eq_true_iff.1 owned
    obtain rfl := beq_iff_eq.1 hp
    obtain rfl := beq_iff_eq.1 ha
    refine ⟨_, run_eq (counterDecay_one runs only rfl rfl low), rfl, ⟨decayed s.blk c, ?_, rfl, rfl, rfl, rfl, rfl, rfl⟩, ?_⟩
    · exact List.mem_map.2 ⟨c, listed, if_pos rfl⟩
    · exact filter_map_replaced (by simp) (by simp [decayed]) _
  · obtain ⟨tu, txns⟩ := hostTlp_rest (fn / 128) s.blk
    have arrive : prgArrive g s.blk = hostTlp (fn / 128) s.blk := by simp only [prgArrive, open_]
    rw [← arrive] at tu txns
    have ok : prgEnded g 0 a = { a with tries := a.tries + 1, wait := .again } := by simp [prgEnded, waits]
    have bad : ∀ code, code ≠ 0 → prgEnded g code a = { a with wait := .bad ⟨code, a.va⟩ } := fun code h => by simp [prgEnded, waits, h]
    have ends := fun code => prgEnd_answers (code := code) tu open_ none_ at_
    refine ⟨⟨_, exec_prgResponse g _ s, ?_⟩, ⟨_, exec_prgResponse g _ s, ?_⟩, ⟨_, exec_prgResponse g _ s, ?_⟩, ⟨_, exec_priTimeout g s, ?_⟩⟩
    · obtain ⟨access, groups, failed, _⟩ := ends 0
      exact ⟨ok ▸ access, groups, failed⟩
    · obtain ⟨access, groups, _, same, _⟩ := ends 0x20
      exact ⟨bad 0x20 (by decide) ▸ access, groups, same.trans txns⟩
    · obtain ⟨access, groups, failed, _⟩ := ends 0x21
      exact ⟨bad 0x21 (by decide) ▸ access, failed ▸ mem_sins.2 (.inl rfl), groups⟩
    · obtain ⟨access, groups, _, _, regs⟩ := prgEnd_answers (code := 0x22) (b := s.blk) rfl open_ none_ at_
      exact ⟨bad 0x22 (by decide) ▸ access, groups, regs⟩
  · obtain ⟨tu, _⟩ := hostTlp_rest (fn / 128) s.blk
    have arrive : prgArrive g s.blk = hostTlp (fn / 128) s.blk := by simp only [prgArrive, open_]
    refine ⟨_, exec_prgResponse g _ s, ?_⟩
    rw [arrive, prgEnd_open (tu ▸ open_), priFailed_prgDrain]
    exact mem_sins.2 (.inl rfl)
  · have arrive : prgArrive g s.blk = s.blk := by simp only [prgArrive, closed]
    refine ⟨run_settle_eq (prgEnd_closed closed), fun code => ?_⟩
    rw [exec_prgResponse, arrive, prgEnd_closed closed]

end Sys2Proof.Laws

/-!
Packets of a QP: what sending a control packet changes at all, how a sound frame reaches its QP, and what marking a PSN as received does.
-/
namespace Sys2Proof.Laws

open Sys2Proof Sys2Proof.Machine Sys2Proof.Safety

/-! ### What sending changes -/

/-- Nothing of items, rounds and receive contexts changes, no register but those of signals, and of no QP what `π` sees of it. -/
structure PacketStands {β : Type} (π : Qp → β) (b c : Block) : Prop where
  regs : ∀ r i, sigReg r = false → i < 2 ^ 32 → rget c r i = rget b r i
  he : c.he = b.he
  ps : c.ps = b.ps
  now : c.now = b.now
  rx : c.ft.rx = b.ft.rx
  nextRx : c.ft.nextRx = b.ft.nextRx
  qps : ∀ k, (tfind c.ft.qps k).map π = (tfind b.ft.qps k).map π

namespace PacketStands

variable {β : Type} {π : Qp → β} {b c d : Block}

theorem refl (b : Block) : PacketStands π b b := ⟨fun _ _ _ _ => rfl, rfl, rfl, rfl, rfl, rfl, fun _ => rfl⟩

theorem trans (h : PacketStands π b c) (g : PacketStands π c d) : PacketStands π b d where
  regs r i sig hi := (g.regs r i sig hi).trans (h.regs r i sig hi)
  he := g.he.trans h.he
  ps := g.ps.trans h.ps
  now := g.now.trans h.now
  rx := g.rx.trans h.rx
  nextRx := g.nextRx.trans h.nextRx
  qps k := (g.qps k).trans (h.qps k)

theorem of_sigOnly (h : SigOnly b c) : PacketStands π b c where
  regs := h.regs
  he := h.he
  ps := h.ps
  now := h.now
  rx := congrArg Ft.rx h.ft
  nextRx := congrArg Ft.nextRx h.ft
  qps k := by rw [h.ft]

theorem ite {p : Prop} [Decidable p] (hc : PacketStands π b c) (hd : PacketStands π b d) : PacketStands π b (if p then c else d) := by
  split
  · exact hc
  · exact hd

theorem modQp (k : Nat) {f : Qp → Qp} (keeps : ∀ q, π (f q) = π q) (b : Block) : PacketStands π b (Machine.modQp k f b) where
  regs _ _ _ _ := rfl
  he := rfl
  ps := rfl
  now := rfl
  rx := rfl
  nextRx := rfl
  qps j := by
    show (tfind (tmod b.ft.qps k f) j).map π = _
    by_cases same : j = k
    · subst same
      rw [tfind_tmod_same, Option.map_map]
      exact congrFun (congrArg Option.map (funext keeps)) _
    · rw [tfind_tmod_other _ _ same]

theorem weaken (h : PacketStands π b c) {γ : Type} (w : β → γ) : PacketStands (fun q => w (π q)) b c := by
  refine ⟨h.regs, h.he, h.ps, h.now, h.rx, h.nextRx, fun k => ?_⟩
  have same := congrArg (Option.map w) (h.qps k)
  rwa [Option.map_map, Option.map_map] at same

theorem found (h : PacketStands π b c) {k : Nat} {q : Qp} (at_ : tfind b.ft.qps k = some q) :
    ∃ y, tfind c.ft.qps k = some y ∧ π y = π q := by
  have same := h.qps k
  rw [at_] at same
  obtain ⟨y, found, eq⟩ := Option.map_eq_some_iff.1 same
  exact ⟨y, found, eq⟩

end PacketStands

theorem sigOnly_linkEmit (f : LinkFrame) (b : Block) : SigOnly b (linkEmit f b) := by
  cases f <;> exact sigOnly_emit _ b

section

variable {β : Type} (π : Qp → β)

theorem packetStands_modPort (p : Nat) (f : Port → Port) (b : Block) : PacketStands π b (modPort p f b) :=
  ⟨fun _ _ _ _ => rfl, rfl, rfl, rfl, rfl, rfl, fun _ => rfl⟩

theorem packetStands_linkOut (f : LinkFrame) (b : Block) : PacketStands π b (linkOut f b) := by
  unfold linkOut
  split
  · exact .of_sigOnly (sigOnly_linkEmit _ b)
  · dsimp only
    split
    · exact packetStands_modPort π _ _ b
    · exact (packetStands_modPort π _ _ b).trans (.of_sigOnly (sigOnly_linkEmit _ _))

/-- A frame of a control packet that finds another label changes nothing of its QP. -/
theorem packetStands_frameMove {f : Frame} (control : 4 < f.hdr.type) (b : Block) : PacketStands π b (frameMove f b) := by
  have late : decide (f.hdr.type ≤ 4) = false := decide_eq_false (Nat.not_le.2 control)
  unfold frameMove
  split
  · exact .refl b
  · split
    · exact .refl b
    · split
      · exact ⟨fun _ _ _ _ => rfl, rfl, rfl, rfl, rfl, rfl, fun _ => rfl⟩
      · refine .trans (.modQp _ (fun q => congrArg π ?_) b) (packetStands_linkOut π _ _)
        simp only [late, Bool.and_false, Bool.false_eq_true, if_false, List.map_id']

theorem packetStands_frameOut {f : Frame} (control : 4 < f.hdr.type) (b : Block) : PacketStands π b (frameOut f b) := by
  unfold frameOut
  refine .ite (.refl b) ?_
  refine .trans (.of_sigOnly (sigOnly_tcCount (f.port / 2) 0x040 (packetPart b f.hdr.srcQp) 1 b)) ?_
  exact .ite (packetStands_linkOut π _ _) (packetStands_frameMove π control _)

theorem packetStands_release {f : Frame} (control : 4 < f.hdr.type) (k : Nat) (u : Unchecked) (b : Block) : PacketStands π b (release k f u b) :=
  .ite ⟨fun _ _ _ _ => rfl, rfl, rfl, rfl, rfl, rfl, fun _ => rfl⟩ (packetStands_frameOut π control b)

end

section

variable {β : Type} {π : Qp → β} (blind : ∀ q dues loading ctl, π { q with dues := dues, loading := loading, ctl := ctl } = π q)
include blind

/-- A control packet is sent, or waits for its QP to be loaded. -/
theorem packetStands_sendControl (k : Nat) {h : Hdr} (control : 4 < h.type) (body : List (BitVec 8)) (l e : Nat) (b : Block) :
    PacketStands π b (sendControl k h body l e b) := by
  unfold sendControl
  split
  · exact .refl b
  · split
    · refine .trans (.modQp k (fun q => blind q _ q.loading q.ctl) b) (.modQp k (fun q => ?_) _)
      split
      · rfl
      · exact blind q q.dues _ q.ctl
    · split
      · exact .refl b
      · dsimp only
        refine .ite (.refl b) ?_
        refine .trans ?_ (packetStands_release π control k _ _)
        exact .ite (.modQp k (fun q => blind q q.dues q.loading _) b) (.refl b)

theorem packetStands_sendNak (k code : Nat) (h : Hdr) (b : Block) : PacketStands π b (sendNak k code h b) :=
  packetStands_sendControl blind k (by show 4 < 0x11; decide) _ _ _ b

variable (heedless : ∀ q since ce rp gap, π { q with sinceAck := since, ackBytesCe := ce, ackRp := rp, gapAckAt := gap } = π q)
include heedless

theorem packetStands_sendAck (k cls l e : Nat) (b : Block) : PacketStands π b (sendAck k cls l e b) := by
  unfold sendAck
  split
  · exact .refl b
  · exact .trans (.modQp k (fun q => heedless q _ _ _ _) b) (packetStands_sendControl blind k (by show 4 < 0x10; decide) _ _ _ _)

variable (late : ∀ q undur dur last, π { q with undur := undur, dur := dur, lastPsns := last } = π q)
include late

theorem packetStands_durStep (k psn cls l e : Nat) (b : Block) : PacketStands π b (durStep k psn cls l e b) := by
  have marked : PacketStands π b (modQp k (fun q => { q with undur := q.undur.filter (· != psn) }) b) :=
    .modQp k (fun q => late q _ q.dur q.lastPsns) b
  unfold durStep
  dsimp only
  split
  · exact marked
  · next q _ =>
    have moved := PacketStands.modQp k (fun q' => late q' q'.undur (durOf q) (q'.lastPsns.filter (fun p => !(psnDist p.1 (durOf q) < 2 ^ 31))))
      (modQp k (fun q => { q with undur := q.undur.filter (· != psn) }) b)
    exact .ite (marked.trans moved) ((marked.trans moved).trans (packetStands_sendAck blind heedless k _ _ _ _))

end

/-! ### Marking a PSN as received (R342, R343) -/

/-- What of a QP says which PSNs have arrived. -/
def received (q : Qp) : Nat × Nat × List Nat := (q.rcvdCount, q.cumNext, q.rx)

/-- The next PSN expected and the bitmap of a QP once a PSN of the window has arrived. -/
def arrived (q : Qp) (psn : Nat) : Nat × List Nat :=
  if psn = q.cumNext then
    loop (q.rx.length + 1) (fun s : Nat × List Nat => if s.2.contains s.1 then some (psnNext s.1, srem s.1 s.2) else none)
      (psnNext psn, if psn = q.cumNext then q.rx else sins psn q.rx)
  else (q.cumNext, if psn = q.cumNext then q.rx else sins psn q.rx)

theorem arrived_next {q : Qp} (none_ : q.rx = []) : arrived q q.cumNext = (psnNext q.cumNext, []) := by
  simp [arrived, none_, loop]

theorem arrived_gap {q : Qp} {psn : Nat} (gap : psn ≠ q.cumNext) : arrived q psn = (q.cumNext, sins psn q.rx) := by
  simp [arrived, gap]

/-- What marking a PSN stores in its QP. -/
def psnNoted (b : Block) (k : Nat) (q : Qp) (f : Frame) (dur : Bool) (y : Qp) : Qp :=
  { y with cumNext := (arrived q f.hdr.psn).1, rx := (arrived q f.hdr.psn).2, rcvdCount := (y.rcvdCount + 1) % 2 ^ 32, sinceAck := y.sinceAck + 1,
           ackBytesCe := y.ackBytesCe + ceBytes b k q f, ackRp := y.ackRp || f.hdr.cls == clsRp,
           bytesCe := (y.bytesCe + ceBytes b k q f) % 2 ^ 64, lastPath := (f.hdr.path, f.hdr.epoch), used := b.now,
           expMsn := if psnBefore f.hdr.msn y.expMsn then y.expMsn else msnNext f.hdr.msn,
           undur := if dur then y.undur else y.undur ++ [f.hdr.psn],
           lastPsns := if hdrFlag f.hdr flLast then y.lastPsns ++ [(f.hdr.psn, f.hdr.card != 0)] else y.lastPsns }

/-- Marking a PSN changes what its QP says has arrived; all that follows changes nothing of that. -/
theorem rxMark_stored {k : Nat} {f : Frame} {dur : Bool} {b : Block} {q : Qp} (at_ : tfind b.ft.qps k = some q) :
    PacketStands received (modQp k (psnNoted b k q f dur) b) (rxMark k f dur b) := by
  have ack := fun cls l e c => packetStands_sendAck (π := received) (fun _ _ _ _ => rfl) (fun _ _ _ _ _ => rfl) k cls l e c
  have step := fun psn cls l e c => packetStands_durStep (π := received) (fun _ _ _ _ => rfl) (fun _ _ _ _ _ => rfl) (fun _ _ _ _ => rfl) k psn cls l e c
  have counted : PacketStands received (modQp k (psnNoted b k q f dur) b)
      (tcCount (homeTile k) 0x043 (some q.part) (ceBytes b k q f) (modQp k (psnNoted b k q f dur) b)) := .of_sigOnly (sigOnly_tcCount _ _ _ _ _)
  have durable : ∀ p [Decidable p], PacketStands received (modQp k (psnNoted b k q f dur) b)
      (if p then durStep k f.hdr.psn (respCls f.hdr) f.hdr.path f.hdr.epoch
        (tcCount (homeTile k) 0x043 (some q.part) (ceBytes b k q f) (modQp k (psnNoted b k q f dur) b))
      else tcCount (homeTile k) 0x043 (some q.part) (ceBytes b k q f) (modQp k (psnNoted b k q f dur) b)) :=
    fun _ _ => .ite (counted.trans (step _ _ _ _ _)) counted
  unfold rxMark
  split
  · next none_ => exact nomatch at_.symm.trans none_
  · next q' found =>
    obtain rfl : q = q' := Option.some.inj (at_.symm.trans found)
    exact .ite ((durable _).trans (ack _ _ _ _)) (durable _)

theorem rxMark_marks {k : Nat} {f : Frame} {dur : Bool} {b : Block} {q : Qp} (at_ : tfind b.ft.qps k = some q) :
    ∃ y, tfind (rxMark k f dur b).ft.qps k = some y ∧ received y = ((q.rcvdCount + 1) % 2 ^ 32, arrived q f.hdr.psn) := by
  have noted : tfind (modQp k (psnNoted b k q f dur) b).ft.qps k = some (psnNoted b k q f dur q) :=
    (tfind_tmod_same _ _ _).trans (by rw [at_]; rfl)
  exact (rxMark_stored at_).found noted

theorem rxMark_stands (k : Nat) (f : Frame) (dur : Bool) (b : Block) : PacketStands (fun _ => ()) b (rxMark k f dur b) := by
  cases at_ : tfind b.ft.qps k with
  | none =>
    simp only [rxMark, at_]
    exact .refl b
  | some q =>
    exact .trans (.modQp k (f := psnNoted b k q f dur) (fun _ => rfl) b) ((rxMark_stored at_).weaken (fun _ => ()))

/-! ### Frames that reach their QP -/

theorem exec_frame {c : Instr} {f : Frame} (brings : frameOf c = some f) (s : State) : exec c s = .next { s with blk := settle (rxFrame f s.blk) } := by
  unfold frameOf at brings
  split at brings
  all_goals cases brings
  all_goals exact run_eq rfl

theorem counted_sigOnly (b : Block) (f : Frame) : SigOnly b (counted b f) := sigOnly_tcCount _ _ _ _ _

theorem partPresent_counted (b : Block) (f : Frame) (p : Nat) : partPresent (counted b f) p = partPresent b p := by
  rw [partPresent, variant, (counted_sigOnly b f).fuses]
  rfl

theorem linePoisoned_counted (b : Block) (f : Frame) (kind obj : Nat) : linePoisoned (counted b f) kind obj = linePoisoned b kind obj := by
  simp only [linePoisoned, (counted_sigOnly b f).cc]

/-- A sound frame passes every check and is counted. -/
theorem rxChecks_sound {b : Block} {f : Frame} (sound : FrameSound b f) : rxChecks f b = (some (counted b f), b) := by
  obtain ⟨⟨up, shim, fcs, udp, crc, running⟩, iface, here, away, epoch⟩ := sound
  have llr : llrRx f.port f.shim f.fcsOk b = (true, b) := by simp [llrRx, shim, fcs]
  have table : (f.hdr.epoch != epochNow b % 2 && !fon b F.ftEpochCtlPending 0 && !fon b F.ftEpochCtlRetiring 0) = false := by
    rcases epoch with same | pending | retiring
    · simp [same]
    · simp [pending]
    · simp [retiring]
  have whole : (!f.fcsOk || !f.udpOk || f.crc != packetCrc f.hdr f.payload f.tag) = false := by simp [fcs, udp, crc]
  have runs : (stopped b && f.hdr.cls != clsMg) = false := by simp [running]
  have mine : (f.ifaceId != selfNode b || f.hdr.dstNode != selfNode b) = false := by simp [iface, here]
  simp only [rxChecks, up, llr, whole, runs, away, mine, table, Bool.not_true, Bool.false_eq_true, if_false]
  rfl

/-- A sound frame for a QP that knows its sender, with room for it. -/
theorem rxFrame_for {b : Block} {f : Frame} {k : Nat} {q : Qp} (for_ : FrameFor b f k q) (resident : q.resident = true) :
    rxFrame f b = rxResident k f (counted b f) := by
  obtain ⟨sound, rfl, room, at_, node, qp, present, healthy⟩ := for_
  have ft := (counted_sigOnly b f).ft
  have pool : (rxPool (counted b f) (homeTile f.hdr.dstQp) f.hdr.cls).isNone = false := by
    simp only [rxPool, ft]
    exact (by simpa [rxPool] using room)
  have knows : (q.peerNode != f.hdr.srcNode || q.peerQp != f.hdr.srcQp || !partPresent (counted b f) q.part ||
      linePoisoned (counted b f) 0 f.hdr.dstQp) = false := by
    rw [partPresent_counted, linePoisoned_counted]
    simp [node, qp, present, healthy]
  simp [rxFrame, rxChecks_sound sound, pool, ft, at_, knows, resident]

theorem rxFrame_clear {b : Block} {f : Frame} {k : Nat} {q : Qp} (clear : FrameClear b f k q) : rxFrame f b = rxPacket k f (counted b f) := by
  obtain ⟨for_, resident, plain, _⟩ := clear
  simp [rxFrame_for for_ resident, rxResident, plain]

end Sys2Proof.Laws

/-!
Sequenced packets: a new PSN is placed or refused and marked, an old one is acknowledged again.
-/
namespace Sys2Proof.Laws

open Sys2Proof Sys2Proof.Machine Sys2Proof.Safety

/-- A PSN of the window that has not arrived yet. -/
def NewPsn (q : Qp) (psn : Nat) : Prop := psnDist q.cumNext psn < 1024 ∧ psn ∉ q.rx

theorem openSeq_clear {q : Qp} {f : Frame} {b : Block} (plain : f.hdr.enc = false) (clear : q.enc = false) : openSeq b q f = some f := by
  simp [openSeq, plain, clear]

section

variable {k : Nat} {q : Qp} {f : Frame} {b : Block} (at_ : tfind b.ft.qps k = some q) (plain : f.hdr.enc = false) (clear : q.enc = false)
include at_ plain clear

/-- A packet of a new PSN, of no card. -/
theorem rxSeq_new (new : NewPsn q f.hdr.psn) (runs : q.state ≠ 2) (card : f.hdr.card = 0)
    (sized : f.hdr.type = tyReadReq → 0 < f.hdr.msgLen ∧ f.hdr.msgLen ≤ 65536) :
    rxSeq k f b = match frameAdmit b q.part f.hdr with
      | none => rxRefuse k q.part f false b
      | some (parts, grant) =>
        if depotMoves b q.part parts then rxDrop k q.part b
        else (rxOpen (rxNewCtx b k (if f.hdr.type = tyReadReq then .read else .place) f parts none grant)
          (rxMark k f (f.hdr.type == tyReadReq) b)).2 := by
  obtain ⟨near, unseen⟩ := new
  have fits : ¬ (f.hdr.type = tyReadReq ∧ (f.hdr.msgLen = 0 ∨ 65536 < f.hdr.msgLen)) := fun ⟨ty, bad⟩ => by have := sized ty; omega
  simp only [rxSeq, at_, openSeq_clear plain clear, near, decide_true, List.contains_eq_mem, unseen, decide_false, Bool.not_false, Bool.and_self,
    if_true, runs, if_false, card, bne_self_eq_false, Bool.false_and, Bool.false_eq_true, fits] <;>
  rfl

/-- A packet of a new PSN, of a card. -/
theorem rxSeq_card (new : NewPsn q f.hdr.psn) (runs : q.state ≠ 2) (card : f.hdr.card ≠ 0) (ty : f.hdr.type = tyWrite ∨ f.hdr.type = tyCombine) :
    (cardAt b (cardGen b (f.hdr.card - 1)) (f.hdr.card - 1) = none → rxSeq k f b = rxRefuse k q.part f true b) ∧
    (∀ sch x, cardAt b (cardGen b (f.hdr.card - 1)) (f.hdr.card - 1) = some (sch, x) →
      (cardRefuses sch x q.part f.hdr = true → rxSeq k f b = rxRefuse k q.part f true b) ∧
      (cardRefuses sch x q.part f.hdr = false → (roundOf b sch (cardGen b (f.hdr.card - 1)) (f.hdr.card - 1) x).2 = true →
        rxSeq k f b = rxMark k f true (fbump F.psEventsStale 0 1 b))) := by
  obtain ⟨near, unseen⟩ := new
  have carded : (f.hdr.card != 0 && (f.hdr.type == tyWrite || f.hdr.type == tyCombine)) = true := by
    rcases ty with h | h <;> simp [card, h]
  refine ⟨fun none_ => ?_, fun sch x found => ⟨fun refuses => ?_, fun takes stale => ?_⟩⟩
  all_goals simp only [rxSeq, at_, openSeq_clear plain clear, near, decide_true, List.contains_eq_mem, unseen, decide_false, Bool.not_false,
    Bool.and_self, if_true, runs, if_false, carded]
  · simp only [none_]
  · simp only [found, refuses, if_true]
  · simp only [found, takes, stale, if_true, Bool.false_eq_true, if_false]

/-- A packet of a PSN that is not new. -/
theorem rxSeq_old (old : ¬ NewPsn q f.hdr.psn) :
    rxSeq k f b = if q.rx.contains f.hdr.psn || psnBefore f.hdr.psn q.cumNext then
      sendAck k (respCls f.hdr) f.hdr.path f.hdr.epoch (modQp k (fun y =>
        { y with dupCount := (y.dupCount + 1) % 2 ^ 32, ackBytesCe := y.ackBytesCe + ceBytes b k q f, bytesCe := (y.bytesCe + ceBytes b k q f) % 2 ^ 64 })
        (tcCount (homeTile k) 0x043 (some q.part) (ceBytes b k q f) b))
    else fbump F.ftRxErrorsMisdirected 0 1 b := by
  have seen : (decide (psnDist q.cumNext f.hdr.psn < 1024) && !q.rx.contains f.hdr.psn) = false := by
    by_contra h
    simp only [Bool.not_eq_false, Bool.and_eq_true, decide_eq_true_eq, Bool.not_eq_true', List.contains_eq_mem, decide_eq_false_iff_not] at h
    exact old h
  simp only [rxSeq, at_, openSeq_clear plain clear, seen, Bool.false_eq_true, if_false]

end

/-- Which PSNs a QP has received once one more of its window arrives (R342, R343). -/
def PsnMarked (q : Qp) (psn : Nat) (y : Qp) : Prop :=
  y.rcvdCount = (q.rcvdCount + 1) % 2 ^ 32 ∧ (psn = q.cumNext → q.rx = [] → y.cumNext = psnNext psn) ∧
    (psn ≠ q.cumNext → y.cumNext = q.cumNext ∧ psn ∈ y.rx)

theorem psnMarked_of_received {q y : Qp} {psn : Nat} (got : received y = ((q.rcvdCount + 1) % 2 ^ 32, arrived q psn)) : PsnMarked q psn y := by
  obtain ⟨count, rest⟩ := Prod.mk.inj got
  refine ⟨count, fun same none_ => ?_, fun gap => ?_⟩
  · subst same
    rw [arrived_next none_] at rest
    exact (Prod.mk.inj rest).1
  · rw [arrived_gap gap] at rest
    obtain ⟨cum, held⟩ := Prod.mk.inj rest
    exact ⟨cum, held ▸ mem_sins.2 (.inl rfl)⟩

theorem rxMark_psnMarked {k : Nat} {f : Frame} {b : Block} {q : Qp} (at_ : tfind b.ft.qps k = some q) (dur : Bool) :
    ∃ y, tfind (rxMark k f dur b).ft.qps k = some y ∧ PsnMarked q f.hdr.psn y := by
  obtain ⟨y, found, got⟩ := rxMark_marks (f := f) (dur := dur) at_
  exact ⟨y, found, psnMarked_of_received got⟩

/-- The QP to which a NAK is sent still expects what it expected. -/
theorem rxMark_psnMarked_after {k : Nat} {f : Frame} {b c : Block} {q : Qp} (stands : PacketStands received b c) (at_ : tfind b.ft.qps k = some q)
    (dur : Bool) : ∃ y, tfind (rxMark k f dur c).ft.qps k = some y ∧ PsnMarked q f.hdr.psn y := by
  obtain ⟨x, there, same⟩ := stands.found at_
  obtain ⟨y, found, got⟩ := rxMark_marks (f := f) (dur := dur) there
  refine ⟨y, found, psnMarked_of_received ?_⟩
  obtain ⟨count, cum, rx⟩ : x.rcvdCount = q.rcvdCount ∧ x.cumNext = q.cumNext ∧ x.rx = q.rx := by simpa [received] using same
  rw [got, count, arrived, arrived, cum, rx]

/-- A refused packet of no card opens no context and is counted, and its PSN is marked (R342). -/
theorem rxRefuse_marks {k p : Nat} {f : Frame} {b : Block} {q : Qp} (at_ : tfind b.ft.qps k = some q) (few : p < 16) :
    (rxRefuse k p f false b).ft.rx = b.ft.rx ∧
    fget (rxRefuse k p f false b) F.ptRefusedRefused p = satAdd F.ptRefusedRefused.max (fget b F.ptRefusedRefused p) 1 ∧
    ∃ y, tfind (rxRefuse k p f false b).ft.qps k = some y ∧ PsnMarked q f.hdr.psn y := by
  have note := noteOnly_fhNote_any (256 + 16 * p + 11) (.qp k) (some p) (fbump F.ptRefusedRefused p 1 b)
  have nak := packetStands_sendNak (π := received) (fun _ _ _ _ => rfl) k 0x01 f.hdr
    (fhNote (256 + 16 * p + 11) (.qp k) (some p) (fbump F.ptRefusedRefused p 1 b))
  have mark := rxMark_stands k f true (sendNak k 0x01 f.hdr (fhNote (256 + 16 * p + 11) (.qp k) (some p) (fbump F.ptRefusedRefused p 1 b)))
  have small : p < 2 ^ 32 := Nat.lt_trans few (by decide)
  refine ⟨mark.rx.trans (nak.rx.trans (congrArg Ft.rx note.ft)), ?_, ?_⟩
  · have word := (mark.regs .ptRefused p (by decide) small).trans (nak.regs .ptRefused p (by decide) small)
    exact (congrArg (fun w => qbits w 31 0) word).trans ((note.fget (f := F.ptRefusedRefused) rfl small).trans (fget_fbump_same _ _ _ _ (by decide)))
  · exact rxMark_psnMarked_after nak ((congrArg (fun t : Ft => tfind t.qps k) note.ft).trans at_) true

/-- Settles O34: the case of a sequenced packet decides what `rxSeq` is, and each that takes its PSN marks it. -/
theorem sequencedPacketsArePlacedOrRefused : Obligations.SequencedPacketsArePlacedOrRefused := by
  unfold Obligations.SequencedPacketsArePlacedOrRefused
  intro c s f k q brings clear seq h b1 new marked
  have ⟨for_, _, plain, unsealed⟩ := clear
  have ⟨_, _, _, at_, _⟩ := for_
  have sig := counted_sigOnly s.blk f
  have at1 : tfind b1.ft.qps k = some q := (congrArg (fun t : Ft => tfind t.qps k) sig.ft).trans at_
  have run := exec_frame brings s
  rw [rxFrame_clear clear, rxPacket, if_pos seq] at run
  refine ⟨fun isNew runs card sized => ⟨fun parts g admits stays => ?_, fun refused few => ?_⟩, fun old seen => ?_, fun old unseen ahead => ?_,
    fun isNew runs card ty => ?_⟩
  · rw [rxSeq_new at1 plain unsealed isNew runs card sized, admits] at run
    simp only [stays, Bool.false_eq_true, if_false] at run
    obtain ⟨y, found, mark⟩ := rxMark_psnMarked (f := f) at1 (f.hdr.type == tyReadReq)
    have next : (rxMark k f (f.hdr.type == tyReadReq) b1).ft.nextRx = s.blk.ft.nextRx :=
      (rxMark_stands _ _ _ _).nextRx.trans (congrArg Ft.nextRx sig.ft)
    refine ⟨_, rxNewCtx b1 k (if f.hdr.type = tyReadReq then .read else .place) f parts none g, y, run, ?_, rfl, rfl, rfl, rfl, found, mark⟩
    rw [← next]
    exact tfind_tput_same _ _ _
  · rw [rxSeq_new at1 plain unsealed isNew runs card sized, refused] at run
    obtain ⟨rx, count, y, found, mark⟩ := rxRefuse_marks (f := f) at1 few
    refine ⟨_, y, run, rx.trans (congrArg Ft.rx sig.ft), count.trans ?_, found, mark⟩
    rw [sig.fget rfl (Nat.lt_trans few (by decide))]
  · intro n
    have again : (q.rx.contains f.hdr.psn || psnBefore f.hdr.psn q.cumNext) = true := by simpa using seen
    rw [rxSeq_old at1 plain unsealed old, if_pos again] at run
    exact run
  · have beyond : (q.rx.contains f.hdr.psn || psnBefore f.hdr.psn q.cumNext) = false :=
      Bool.or_eq_false_iff.2 ⟨List.contains_eq_mem f.hdr.psn q.rx ▸ decide_eq_false unseen, ahead⟩
    rw [rxSeq_old at1 plain unsealed old, if_neg (by rw [beyond]; exact Bool.false_ne_true)] at run
    exact run
  · obtain ⟨absent, held⟩ := rxSeq_card at1 plain unsealed isNew runs card ty
    refine ⟨fun none_ => run.trans (by rw [absent none_]), fun sch x found => ⟨fun refuses => run.trans ?_, fun takes stale => run.trans ?_⟩⟩
    · rw [(held sch x found).1 refuses]
    · rw [(held sch x found).2 takes stale]

end Sys2Proof.Laws

/-!
Faults that are raised: of what they leave as it is, everything but registers, signals, captures, traces and the states of rings.
-/
namespace Sys2Proof.Laws

open Sys2Proof Sys2Proof.Machine Sys2Proof.Safety

/-- `c` is `b` but for registers, messages, traces, the partitions of captures, configuration space and the states of rings. -/
structure RaiseOnly (b c : Block) : Prop where
  rest : { c with regs := b.regs, out := b.out, tc := b.tc, fhPart := b.fhPart, hp := { c.hp with cfg := b.hp.cfg },
                  sq := { c.sq with rings := b.sq.rings } } = b

namespace RaiseOnly

variable {b c d : Block}

theorem refl (b : Block) : RaiseOnly b b := ⟨rfl⟩

theorem trans (h : RaiseOnly b c) (g : RaiseOnly c d) : RaiseOnly b d := by
  obtain ⟨h⟩ := h
  obtain ⟨g⟩ := g
  rw [← g] at h
  exact ⟨h⟩

theorem of_noteOnly (h : NoteOnly b c) : RaiseOnly b c := by
  refine ⟨?_⟩
  have sq : c.sq = b.sq := h.sq
  have rest := h.rest
  rw [sq] at rest ⊢
  exact rest

theorem of_sigOnly (h : SigOnly b c) : RaiseOnly b c := ⟨by
  have rest := h.rest
  have sq : c.sq = b.sq := h.sq
  have part : c.fhPart = b.fhPart := h.fhPart
  rw [sq, part] at rest
  rw [sq]
  exact rest⟩

theorem ite {p : Prop} [Decidable p] (hc : RaiseOnly b c) (hd : RaiseOnly b d) : RaiseOnly b (if p then c else d) := by
  split
  · exact hc
  · exact hd

/-- A step that may be taken or not. -/
theorem maybe {p : Prop} [Decidable p] (h : RaiseOnly b c) (step : RaiseOnly c d) : RaiseOnly b (if p then d else c) := .ite (h.trans step) h

theorem each {α : Type} {f : α → Block → Block} (h : ∀ a b, RaiseOnly b (f a b)) (l : List α) : ∀ b, RaiseOnly b (Machine.each l f b) := by
  induction l with
  | nil => exact refl
  | cons a l ih => exact fun b => (h a b).trans (ih _)

theorem ft (h : RaiseOnly b c) : c.ft = b.ft := (congrArg Block.ft h.rest :)
theorem he (h : RaiseOnly b c) : c.he = b.he := (congrArg Block.he h.rest :)
theorem tu (h : RaiseOnly b c) : c.tu = b.tu := (congrArg Block.tu h.rest :)
theorem ps (h : RaiseOnly b c) : c.ps = b.ps := (congrArg Block.ps h.rest :)
theorem pt (h : RaiseOnly b c) : c.pt = b.pt := (congrArg Block.pt h.rest :)
theorem ce (h : RaiseOnly b c) : c.ce = b.ce := (congrArg Block.ce h.rest :)
theorem en (h : RaiseOnly b c) : c.en = b.en := (congrArg Block.en h.rest :)
theorem ck (h : RaiseOnly b c) : c.ck = b.ck := (congrArg Block.ck h.rest :)
theorem cc (h : RaiseOnly b c) : c.cc = b.cc := (congrArg Block.cc h.rest :)
theorem md (h : RaiseOnly b c) : c.md = b.md := (congrArg Block.md h.rest :)
theorem gov (h : RaiseOnly b c) : c.gov = b.gov := (congrArg Block.gov h.rest :)
theorem now (h : RaiseOnly b c) : c.now = b.now := (congrArg Block.now h.rest :)
theorem txns (h : RaiseOnly b c) : c.txns = b.txns := (congrArg Block.txns h.rest :)
theorem fuses (h : RaiseOnly b c) : c.fuses = b.fuses := (congrArg Block.fuses h.rest :)

end RaiseOnly

theorem raiseOnly_mbxPartEvent (fn : Nat) (b : Block) : RaiseOnly b (mbxPartEvent fn b) :=
  .trans (c := fput F.ptMbxCtlPartEvent fn 1 b) ⟨rfl⟩ (.of_noteOnly (noteOnly_sgAssert _ _))

theorem raiseOnly_ptEnter (p st : Nat) (b : Block) : RaiseOnly b (ptEnter p st b) := by
  unfold ptEnter
  refine .ite (.refl b) ?_
  dsimp only
  refine .trans ?_ (.each raiseOnly_mbxPartEvent _ _)
  have stopped : RaiseOnly b (if st = 3 then eachRing p Ring.stop (fput F.ptPartStatusState p st b) else fput F.ptPartStatusState p st b) :=
    .ite ⟨rfl⟩ ⟨rfl⟩
  exact stopped.trans (.of_noteOnly (noteOnly_fhNote_any _ _ _ _))

theorem raiseOnly_cfgPut (fn off : Nat) (v : BitVec 32) (b : Block) : RaiseOnly b (cfgPut fn off v b) := ⟨rfl⟩

theorem raiseOnly_ptStop (p : Nat) (b : Block) : RaiseOnly b (ptStop p b) := .ite (raiseOnly_ptEnter p 3 b) (.refl b)

theorem raiseOnly_blockStop (b : Block) : RaiseOnly b (blockStop b) := by
  unfold blockStop
  refine .ite (.refl b) ?_
  exact .trans (.of_sigOnly (sigOnly_dumpTrigger 1 b)) ⟨rfl⟩

theorem raiseOnly_pcieFatal (s : Nat) (b : Block) : RaiseOnly b (pcieFatal s b) := by
  unfold pcieFatal
  dsimp only
  refine .trans (c := _) (.each (fun h c => ?_) _ b) ⟨rfl⟩
  refine .ite ?_ (.refl c)
  have noted := (raiseOnly_cfgPut (128 * h) 0x104 (cfgGet c (128 * h) 0x104 ||| BitVec.ofNat 32 (2 ^ 22)) c).trans
    (raiseOnly_cfgPut (128 * h) 0x11C (BitVec.ofNat 32 s) _)
  refine .ite (.trans (noted.trans (.ite (raiseOnly_cfgPut _ _ _ _) (.refl _))) (.of_sigOnly (sigOnly_emitTlp _ _ _))) noted

theorem raiseOnly_rungEffects (s rung : Nat) (b : Block) : RaiseOnly b (rungEffects s rung b) := by
  unfold rungEffects
  dsimp only
  refine .maybe (.maybe (.maybe (.maybe (.refl b) ⟨rfl⟩) (raiseOnly_ptStop _ _)) (raiseOnly_blockStop _)) (raiseOnly_pcieFatal _ _)

/-- Raising a fault, whatever its rung then does. -/
theorem raiseOnly_fhRaise (s : Nat) (o : Obj) (part : Option Nat) (secondary : Bool) (b : Block) : RaiseOnly b (fhRaise s o part secondary b) := by
  unfold fhRaise
  dsimp only
  have noted := RaiseOnly.of_noteOnly (noteOnly_fhRecord_any s o part secondary b)
  exact .ite (noted.trans (raiseOnly_rungEffects _ _ _)) noted

end Sys2Proof.Laws

/-!
Acknowledgements: how ACK, NAK and APPLIED settle what is outstanding, and what a QP in ERROR is left with.
-/
namespace Sys2Proof.Laws

open Sys2Proof Sys2Proof.Machine Sys2Proof.Safety

/-! ### Blocks whose QPs stand as they were -/

/-- Of no QP has changed what `π` sees of it. -/
def QpsStand {β : Type} (π : Qp → β) (b c : Block) : Prop := ∀ k, (tfind c.ft.qps k).map π = (tfind b.ft.qps k).map π

namespace QpsStand

variable {β : Type} {π : Qp → β} {b c d : Block}

theorem of_qps (h : c.ft.qps = b.ft.qps) : QpsStand π b c := fun k => by rw [h]

theorem of_ft (h : c.ft = b.ft) : QpsStand π b c := of_qps (congrArg Ft.qps h)

theorem refl (b : Block) : QpsStand π b b := fun _ => rfl

theorem trans (h : QpsStand π b c) (g : QpsStand π c d) : QpsStand π b d := fun k => (g k).trans (h k)

theorem ite {p : Prop} [Decidable p] (hc : QpsStand π b c) (hd : QpsStand π b d) : QpsStand π b (if p then c else d) := by
  split
  · exact hc
  · exact hd

theorem each {α : Type} {f : α → Block → Block} (h : ∀ a b, QpsStand π b (f a b)) (l : List α) : ∀ b, QpsStand π b (Machine.each l f b) := by
  induction l with
  | nil => exact refl
  | cons a l ih => exact fun b => (h a b).trans (ih _)

theorem modQp (k : Nat) {f : Qp → Qp} (keeps : ∀ q, π (f q) = π q) (b : Block) : QpsStand π b (Machine.modQp k f b) :=
  (PacketStands.modQp k keeps b).qps

theorem mapQps {f : Qp → Qp} (keeps : ∀ q, π (f q) = π q) (b : Block) :
    QpsStand π b (modFt (fun t => { t with qps := t.qps.map (fun e => (e.1, f e.2)) }) b) := fun k => by
  show (tfind (b.ft.qps.map _) k).map π = _
  rw [tfind_mapValues f, Option.map_map]
  exact congrFun (congrArg Option.map (funext keeps)) _

theorem found (h : QpsStand π b c) {k : Nat} {q : Qp} (at_ : tfind b.ft.qps k = some q) : ∃ y, tfind c.ft.qps k = some y ∧ π y = π q := by
  have same := h k
  rw [at_] at same
  exact (Option.map_eq_some_iff.1 same)

end QpsStand

theorem ft_carries : Carries (fun b c => c.ft = b.ft) where
  refl _ := rfl
  trans h g := Eq.trans g h
  signals h := h.ft
  notes h := h.ft
  late _ _ _ _ _ := rfl
  opens _ _ := rfl
  closes _ _ := rfl
  item _ _ _ _ := rfl
  items _ _ _ _ := rfl
  caches _ _ _ := rfl
  traces _ _ := rfl
  governs _ _ := rfl

theorem ft_itemUnread (i : Nat) (b : Block) : (itemUnread i b).ft = b.ft := by
  unfold itemUnread
  dsimp only
  split <;> rfl

theorem ft_itemFail (i st aux : Nat) (b : Block) : (itemFail i st aux b).ft = b.ft := by
  unfold itemFail
  split
  · rfl
  · split
    · rfl
    · dsimp only
      refine (show (modItem i _ _).ft = _ from ft_itemUnread _ _).trans ?_
      split
      · rfl
      · exact ft_carries.specDiscard _ _ _

theorem ft_fenceFail (i st aux : Nat) (b : Block) : (fenceFail i st aux b).ft = b.ft := by
  unfold fenceFail
  split
  · rfl
  · exact ft_itemUnread _ _

theorem ft_qpItemFail (i st peer : Nat) (b : Block) : (qpItemFail i st peer b).ft = b.ft := by
  unfold qpItemFail
  split
  · rfl
  · dsimp only
    split
    · split
      · exact ft_fenceFail _ _ _ _
      · rfl
    · split
      · exact ft_fenceFail _ _ _ _
      · rfl
    · exact ft_itemFail _ _ _ _

theorem ft_epochRetire (b : Block) : (epochRetire b).ft = b.ft := by
  unfold epochRetire
  split
  · exact (sigOnly_sgAssert _ _).ft
  · rfl

theorem ft_sentDurable (x : Sent) (b : Block) : (sentDurable x b).ft = b.ft := by
  unfold sentDurable
  split
  · rfl
  · split <;> rfl
  · split
    · exact ft_carries.event _ _ _
    · split
      · rfl
      · split
        · rfl
        · exact (sigOnly_tcCount _ _ _ _ _).ft

theorem qps_modLabel (set l : Nat) (f : Label → Label) (b : Block) : (modLabel set l f b).ft.qps = b.ft.qps := rfl

theorem tfind_modQp {k : Nat} {f : Qp → Qp} {b : Block} {q : Qp} (at_ : tfind b.ft.qps k = some q) :
    tfind (modQp k f b).ft.qps k = some (f q) := (tfind_tmod_same _ _ _).trans (congrArg (Option.map f) at_)

/-! ### A QP in ERROR -/

theorem ft_cplAbort (fn : Nat) (b : Block) : (cplAbort fn b).ft = b.ft := (sigOnly_emitTlp _ _ _).ft

theorem ft_tuCapture (part asn tag va cause : Nat) (kind : Kind) (window : Bool) (o : Obj) (b : Block) :
    (tuCapture part asn tag va cause kind window o b).ft = b.ft := by
  unfold tuCapture
  refine (noteOnly_fhNote_any _ _ _ _).ft.trans ?_
  split <;> rfl

/-- What says whether a QP is in ERROR, and why first. -/
def standingOf (q : Qp) : Nat × Nat := (q.state, q.cause)

theorem qpsStand_modHp {β : Type} {π : Qp → β} (f : Hp → Hp) (b : Block) : QpsStand π b (modHp f b) := .of_qps rfl

/-- A QP whose outstanding packets no longer belong to a window access that is over. -/
def winReleased (w : Nat) (q : Qp) : Qp :=
  let dead := fun (s : Sender) => if s = .win w then Sender.dead else s
  { q with sent := q.sent.map (fun s => { s with owner := dead s.owner }), reads := q.reads.map (fun r => { r with owner := dead r.owner }),
           awaits := q.awaits.map (fun a => { a with owner := dead a.owner }), curMsn := q.curMsn.filter (fun c => c.1 != .win w) }

theorem qpsStand_winDrop (w : Nat) (b : Block) : QpsStand standingOf b (winDrop w b) := by
  unfold winDrop
  dsimp only
  refine .trans ?_ (qpsStand_modHp _ _)
  refine .trans ?_ (.mapQps (f := winReleased w) (fun _ => rfl) _)
  split
  · split <;> exact .of_qps rfl
  · exact .of_qps rfl

theorem qpsStand_winFail (w cause va : Nat) (b : Block) : QpsStand standingOf b (winFail w cause va b) := by
  unfold winFail
  split
  · exact .refl b
  · next a _ =>
    have told : QpsStand standingOf b (partFault a.part 5 (.fn a.fn) (fbump F.hpEventsWinFail (a.fn / 128) 1
        (tuCapture a.part a.asn a.win va cause (if a.read then .read else .write) true .none b))) :=
      .of_ft ((raiseOnly_fhRaise _ _ _ _ _).ft.trans (ft_tuCapture _ _ _ _ _ _ _ _ _))
    exact .trans (.ite (told.trans (.of_ft (ft_cplAbort _ _))) told) (qpsStand_winDrop _ _)

theorem qpsStand_qpWinsFail (k cause : Nat) (b : Block) : QpsStand standingOf b (qpWinsFail k cause b) := by
  refine .each (fun w c => ?_) _ b
  split
  · exact .ite (qpsStand_winFail _ _ _ _) (.refl c)
  · exact .refl c

/-- A QP that goes to ERROR has nothing outstanding and keeps the first cause. -/
theorem qpError_clears {k cause psn status : Nat} {owner : Sender} {b : Block} {q : Qp} (at_ : tfind b.ft.qps k = some q) (ready : q.state = 1) :
    ∃ y, tfind (qpError k cause psn owner status b).ft.qps k = some y ∧ y.state = 2 ∧ y.cause = (if q.cause = 0 then cause else q.cause) ∧
      y.sent = [] ∧ y.reads = [] ∧ y.awaits = [] := by
  have up : ¬ q.state = 2 ∧ ¬ q.state = 3 := by rw [ready]; decide
  simp only [qpError, at_, up, if_false, ft_epochRetire]
  let failed := fun q : Qp => { q with state := 2, cause := if q.cause = 0 then cause else q.cause, causePsn := if q.cause = 0 then psn else q.causePsn }
  have first : QpsStand standingOf (modQp k failed b) (partFault q.part 7 (.qp k) (modQp k failed b)) := .of_ft (raiseOnly_fhRaise _ _ _ _ _).ft
  have items : ∀ l c, QpsStand standingOf c (each l (fun i b => qpItemFail i (if owner = .item i then status else causeOther cause) q.peerNode b) c) :=
    fun l c => .each (fun _ _ => .of_ft (ft_qpItemFail _ _ _ _)) l c
  have all := first.trans ((items (qpItems (partFault q.part 7 (.qp k) (modQp k failed b)) k) _).trans (qpsStand_qpWinsFail k (causeWin cause) _))
  obtain ⟨y, found, same⟩ := all.found (tfind_modQp at_)
  obtain ⟨state, why⟩ := Prod.mk.inj same
  exact ⟨_, tfind_modQp found, state, why, rfl, rfl, rfl⟩

/-! ### Packets that control a QP -/

theorem modQp_congr {k : Nat} {b : Block} {q : Qp} {f g : Qp → Qp} (at_ : tfind b.ft.qps k = some q) (same : f q = g q) : modQp k f b = modQp k g b := by
  have eq : tmod b.ft.qps k f = tmod b.ft.qps k g := by
    revert at_
    induction b.ft.qps with
    | nil => exact fun _ => rfl
    | cons e t ih =>
      obtain ⟨j, v⟩ := e
      intro at_
      rw [tfind] at at_
      rw [tmod, tmod]
      by_cases here : j = k
      · rw [if_pos here] at at_ ⊢
        rw [if_pos here, Option.some.inj at_, same]
      · rw [if_neg here] at at_ ⊢
        rw [if_neg here, ih at_]
  simp only [modQp, modFt, eq]

/-- The block as a packet that controls a QP finds it. -/
def heard (b : Block) (f : Frame) (k : Nat) : Block := modQp k (fun q => { q with ctlRx := q.ctlRx, used := b.now }) (counted b f)

/-- What a packet that controls a QP then does, by its type. -/
def controlled (ty k : Nat) (q : Qp) (f : Frame) (b : Block) : Block :=
  match ty with
  | 0x10 => ackRx k f b
  | 0x11 => nakRx k f b
  | 0x12 => appliedRx k f b
  | 0x13 => creditRx k f b
  | 0x20 => probeRx k f b
  | 0x21 => modLabel q.pathSet f.hdr.path (fun x => { x with down := false, losses := 0 }) b
  | 0x22 => skipRx k f b
  | _ => b

theorem rxFrame_control {b : Block} {f : Frame} {k : Nat} {q : Qp} (clear : FrameClear b f k q) (control : 5 < f.hdr.type) :
    rxFrame f b = controlled f.hdr.type k q f (heard b f k) := by
  have ⟨for_, _, plain, unsealed⟩ := clear
  have ⟨_, _, _, at_, _⟩ := for_
  have sig := counted_sigOnly b f
  have at1 : tfind (counted b f).ft.qps k = some q := (congrArg (fun t : Ft => tfind t.qps k) sig.ft).trans at_
  have late : ¬ f.hdr.type ≤ 4 ∧ ¬ f.hdr.type = tyReadResp := ⟨by omega, fun h => by rw [h] at control; exact absurd control (by decide)⟩
  have opened : openControl (counted b f) q f = some (f, q.ctlRx) := by simp [openControl, plain, unsealed]
  have same : modQp k (fun q' => { q' with ctlRx := q.ctlRx, used := (counted b f).now }) (counted b f) = heard b f k :=
    modQp_congr at1 (by rw [sig.now])
  rw [rxFrame_clear clear, rxPacket, if_neg late.1]
  simp only [rxControl, at1, late.2, if_false, opened, same]
  rfl

/-! ### ACK (R342, R347) -/

/-- What of a QP says which packets wait for an acknowledgement. -/
def awaited (q : Qp) : List (Nat × Bool) × Nat × Nat := (q.sent.map (fun x => (x.psn, x.rcvd)), q.cumNext, q.nextPsn)

theorem awaited_ccRound (b : Block) (q : Qp) : awaited (ccRound b q) = awaited q := by
  unfold ccRound
  split <;> rfl

theorem qpsStand_lossMark (k psn : Nat) (fast : Bool) (b : Block) : QpsStand awaited b (lossMark k psn fast b) := by
  unfold lossMark
  split
  · exact .refl b
  · split
    · exact .refl b
    · dsimp only
      refine .trans (.modQp k (fun q => ?_) b) (.of_qps rfl)
      simp only [awaited, List.map_map]
      refine congrArg (fun l => (l, q.cumNext, q.nextPsn)) (List.map_congr_left fun x _ => ?_)
      dsimp only [Function.comp]
      split <;> rfl

/-- The packets that wait once an ACK has come: what it covers is received, and what is durable waits no longer. -/
def ackedSent (q : Qp) (f : Frame) : List Sent :=
  (q.sent.map (fun s => if ackCovers f.hdr.psn (leNat f.payload) s.psn then { s with rcvd := true, resend := false, lossPitch := none } else s)).filter
    (fun s => !(s.rcvd && !psnBefore f.hdr.address s.psn))

theorem ackRx_settles {k : Nat} {f : Frame} {b : Block} {q : Qp} (at_ : tfind b.ft.qps k = some q) :
    ∃ q1 : Qp, q1.sent = ackedSent q f ∧ q1.cumNext = q.cumNext ∧ q1.nextPsn = q.nextPsn ∧
      QpsStand awaited (modQp k (fun _ => q1) b) (ackRx k f b) := by
  unfold ackRx
  split
  · next none_ => exact nomatch at_.symm.trans none_
  · next q' found =>
    obtain rfl : q = q' := Option.some.inj (at_.symm.trans found)
    apply Exists.intro
    refine ⟨?_, ?_, ?_, ?_⟩
    rotate_left 3
    · refine .trans ?_ (.of_ft (ft_epochRetire _))
      refine .trans ?_ (.modQp k (awaited_ccRound _) _)
      refine .trans ?_ (.each (fun (x : Sent) c => qpsStand_lossMark k x.psn true c) _ _)
      refine .trans ?_ (.each (fun x c => .of_ft (ft_sentDurable x c)) _ _)
      refine .trans ?_ (.ite (.refl _) (.of_qps (qps_modLabel _ _ _ _)))
      exact .each (fun x c => .of_qps (qps_modLabel _ _ _ _)) _ _
    · unfold ackedSent
      split
      · split <;> rfl
      · rfl
    · dsimp only
      split
      · split <;> rfl
      · rfl
    · dsimp only
      split
      · split <;> rfl
      · rfl

/-- What waits after an ACK: nothing that it covers as unreceived, and nothing received that is durable. -/
theorem mem_ackedSent {q : Qp} {f : Frame} {x : Sent} (listed : x ∈ ackedSent q f) :
    (ackCovers f.hdr.psn (leNat f.payload) x.psn = true → x.rcvd = true) ∧ (x.rcvd = true → psnBefore f.hdr.address x.psn = true) := by
  obtain ⟨mapped, kept⟩ := List.mem_filter.1 listed
  obtain ⟨s, _, rfl⟩ := List.mem_map.1 mapped
  refine ⟨fun covers => ?_, fun got => by simpa [got] using kept⟩
  split
  · rfl
  · next not_ =>
    rw [if_neg not_] at covers
    exact absurd covers not_

/-- The last two facts of a QP for any that reads the same. -/
theorem sent_of_awaited {y z : Qp} (same : awaited y = awaited z) {p : Nat → Bool → Prop} (all : ∀ x, x ∈ z.sent → p x.psn x.rcvd) :
    ∀ x, x ∈ y.sent → p x.psn x.rcvd := by
  intro x listed
  have lists : y.sent.map (fun x => (x.psn, x.rcvd)) = z.sent.map (fun x => (x.psn, x.rcvd)) := congrArg Prod.fst same
  have image : (x.psn, x.rcvd) ∈ z.sent.map (fun x => (x.psn, x.rcvd)) := lists ▸ List.mem_map.2 ⟨x, listed, rfl⟩
  obtain ⟨w, there, eq⟩ := List.mem_map.1 image
  obtain ⟨psn, rcvd⟩ := Prod.mk.inj eq
  exact psn ▸ rcvd ▸ all w there

/-! ### NAK (R329, R351, R380) -/

/-- The QP once a NAK has consumed a PSN whose owner has failed. -/
def psnConsumed (psn : Nat) (owner : Sender) (q : Qp) : Qp :=
  let q := { q with sent := q.sent.filter (fun s => s.psn != psn), reads := q.reads.filter (fun r => r.psn != psn),
                    awaits := q.awaits.filter (fun a => a.owner != owner || owner == Sender.dead) }
  { q with una := unaOf q }

section

variable {k : Nat} {f : Frame} {b : Block} {q : Qp} {x : Sent} (at_ : tfind b.ft.qps k = some q)
  (named : q.sent.find? (fun x => x.psn == f.hdr.psn) = some x)
include at_ named

/-- A NAK that refuses a packet of an item fails the item and consumes the PSN. -/
theorem nakRx_refuses {i : Nat} (code : f.hdr.address % 256 = 0x01) (owner : x.owner = .item i) :
    nakRx k f b = epochRetire (modQp k (psnConsumed f.hdr.psn x.owner) (qpItemFail i 0x031 q.peerNode b)) := by
  simp only [nakRx, at_, named, code, owner]
  rfl

theorem nakRx_unknown (code : f.hdr.address % 256 = 0x03) : nakRx k f b = qpError k 5 f.hdr.psn x.owner 0x030 b := by
  simp only [nakRx, at_, named, code]

theorem nakRx_auth (code : f.hdr.address % 256 = 0x04) : nakRx k f b = qpError k 8 f.hdr.psn x.owner 0x040 b := by
  simp only [nakRx, at_, named, code]

end

theorem qpItemFail_active {i st peer : Nat} {b : Block} {it : Item} (at_ : tfind b.he.items i = some it) (active : it.stage = .active)
    (aux : st = 0x030 ∨ st = 0x031 ∨ st = 0x032) : qpItemFail i st peer b = itemFail i st peer b := by
  simp only [qpItemFail, at_, active, aux, if_true]

theorem he_epochRetire (b : Block) : (epochRetire b).he = b.he := by
  unfold epochRetire
  split
  · exact (sigOnly_sgAssert _ _).he
  · rfl

/-! ### APPLIED (R345, R346) -/

/-- The messages that wait once `n` bytes of one are applied. -/
def appliedQp (a : Await) (n : Nat) (q : Qp) : Qp :=
  let keep := q.awaits.filter (fun x => x.msn != a.msn)
  let upd := q.awaits.map (fun x => if x.msn = a.msn then { x with applied := n } else x)
  { q with awaits := if a.len ≤ n then keep else upd }

theorem appliedRx_ft {k : Nat} {f : Frame} {b : Block} {q : Qp} {a : Await} (at_ : tfind b.ft.qps k = some q)
    (named : q.awaits.find? (fun a => a.msn == f.hdr.msn) = some a) :
    (appliedRx k f b).ft = (modQp k (appliedQp a (if a.applied < f.hdr.msgLen then f.hdr.msgLen else a.applied)) b).ft := by
  simp only [appliedRx, at_, named]
  split
  · split <;> rfl
  · rfl

/-! ### The obligation -/

theorem heard_qp {b : Block} {f : Frame} {k : Nat} {q : Qp} (clear : FrameClear b f k q) :
    tfind (heard b f k).ft.qps k = some { q with ctlRx := q.ctlRx, used := b.now } := by
  have ⟨for_, _⟩ := clear
  have ⟨_, _, _, at_, _⟩ := for_
  have at1 : tfind (counted b f).ft.qps k = some q := (congrArg (fun t : Ft => tfind t.qps k) (counted_sigOnly b f).ft).trans at_
  exact (tfind_tmod_same _ _ _).trans (congrArg (Option.map _) at1)

theorem heard_he (b : Block) (f : Frame) (k : Nat) : (heard b f k).he = b.he := (counted_sigOnly b f).he

/-- A frame with the type of the command that brings it. -/
def ofType (f : Frame) (ty : Nat) : Frame := { f with hdr := { f.hdr with type := ty } }

theorem heard_ofType (b : Block) (f : Frame) (ty k : Nat) :
    heard b (ofType f ty) k = modQp k (fun q => { q with ctlRx := q.ctlRx, used := b.now }) (counted b f) := rfl

theorem exec_control {c : Instr} {f : Frame} {ty k : Nat} {q : Qp} {s : State} (brings : frameOf c = some (ofType f ty)) (control : 5 < ty)
    (clear : FrameClear s.blk (ofType f ty) k q) {b : Block} (does : controlled ty k q (ofType f ty) (heard s.blk (ofType f ty) k) = b) :
    exec c s = .next { s with blk := settle b } := by
  rw [exec_frame brings, rxFrame_control clear control, ← does]
  rfl

/-- Settles O35: what ACK, NAK and APPLIED leave outstanding, and that a QP in ERROR is left with nothing. -/
theorem acknowledgementsMoveWhatIsOutstanding : Obligations.AcknowledgementsMoveWhatIsOutstanding := by
  unfold Obligations.AcknowledgementsMoveWhatIsOutstanding
  intro s f0 k q typed b1
  refine ⟨fun clear => ?_, fun clear => ⟨fun x i it code named owner at_ active sound => ?_, fun x named => ⟨fun code => ?_, fun code => ?_⟩⟩,
    fun b cause psn owner status at_ ready _ => qpError_clears at_ ready, fun clear a named => ?_⟩
  · have run := exec_control (c := .ack f0) rfl (by decide) clear rfl
    obtain ⟨q1, sent, cum, next, stands⟩ := ackRx_settles (f := ofType f0 tyAck) (heard_qp clear)
    obtain ⟨y, found, same⟩ := stands.found (tfind_modQp (heard_qp clear))
    have left := fun x (listed : x ∈ q1.sent) => mem_ackedSent (sent ▸ listed)
    refine ⟨_, y, run, found, ?_, ?_, ?_, ?_⟩
    · exact sent_of_awaited (p := fun psn rcvd => ackCovers f0.hdr.psn (leNat f0.payload) psn = true → rcvd = true) same fun x h => (left x h).1
    · exact sent_of_awaited (p := fun psn rcvd => rcvd = true → psnBefore f0.hdr.address psn = true) same fun x h => (left x h).2
    · exact (congrArg (fun p => p.2.1) same).trans cum
    · exact (congrArg (fun p => p.2.2) same).trans next
  · have clear : FrameClear s.blk (ofType f0 tyNak) k q := clear
    have item : tfind (heard s.blk (ofType f0 tyNak) k).he.items i = some it := (congrArg (fun h : He => tfind h.items i) (heard_he _ _ _)).trans at_
    obtain ⟨z, failed, status, aux, stage⟩ := itemFail_fails (st := 0x031) (aux := q.peerNode) item sound (.inr (.inl active))
    have refuses := (nakRx_refuses (f := ofType f0 tyNak) (heard_qp clear) named code owner).trans
      (congrArg (fun c => epochRetire (modQp k (psnConsumed f0.hdr.psn x.owner) c)) (qpItemFail_active (peer := q.peerNode) item active (.inr (.inl rfl))))
    refine ⟨_, psnConsumed f0.hdr.psn x.owner { q with ctlRx := q.ctlRx, used := s.blk.now }, z, exec_control (c := .nak f0) rfl (by decide) clear refuses, ?_, ?_,
      status, aux, stage, fun y listed => ?_⟩
    · rw [ft_epochRetire]
      exact tfind_modQp ((congrArg (fun t : Ft => tfind t.qps k) (ft_itemFail _ _ _ _)).trans (heard_qp clear))
    · rw [he_epochRetire]
      exact failed
    · exact fun same => by simpa [same] using (List.mem_filter.1 listed).2
  · exact exec_control (c := .nak f0) rfl (by decide) clear (nakRx_unknown (f := ofType f0 tyNak) (heard_qp clear) named code)
  · exact exec_control (c := .nak f0) rfl (by decide) clear (nakRx_auth (f := ofType f0 tyNak) (heard_qp clear) named code)
  · have ft := appliedRx_ft (f := ofType f0 tyApplied) (heard_qp clear) named
    refine ⟨_, appliedQp a (if a.applied < f0.hdr.msgLen then f0.hdr.msgLen else a.applied) { q with ctlRx := q.ctlRx, used := s.blk.now },
      exec_control (c := .applied f0) rfl (by decide) clear rfl, ?_, fun whole x listed => ?_, fun more part x listed mine => ?_⟩
    · exact (congrArg (fun t : Ft => tfind t.qps k) ft).trans (tfind_modQp (heard_qp clear))
    · have all : a.len ≤ (if a.applied < f0.hdr.msgLen then f0.hdr.msgLen else a.applied) := by split <;> omega
      simp only [appliedQp, all, if_true] at listed
      have mine : a.msn = f0.hdr.msn := by simpa using List.find?_some named
      exact fun same => by simpa [same, mine] using (List.mem_filter.1 listed).2
    · have most : (if a.applied < f0.hdr.msgLen then f0.hdr.msgLen else a.applied) = f0.hdr.msgLen := by split <;> omega
      have some_ : ¬ a.len ≤ f0.hdr.msgLen := Nat.not_le.2 part
      simp only [appliedQp, most, some_, if_false] at listed
      have hers : a.msn = f0.hdr.msn := by simpa using List.find?_some named
      obtain ⟨w, _, rfl⟩ := List.mem_map.1 listed
      by_cases same : w.msn = a.msn
      · rw [if_pos same]
      · rw [if_neg same] at mine
        exact absurd (mine.trans hers.symm) same

end Sys2Proof.Laws

/-!
Credits, probes, skips and the data of reads: what each of these packets brings.
-/
namespace Sys2Proof.Laws

open Sys2Proof Sys2Proof.Machine Sys2Proof.Safety

theorem mem_added {α : Type} [BEq α] [LawfulBEq α] (x : α) (l : List α) : x ∈ (if l.contains x then l else l ++ [x]) := by
  split
  · next held => exact List.contains_iff_mem.1 held
  · exact List.mem_append_right _ List.mem_cons_self

theorem mem_added_of_mem {α : Type} [BEq α] {x y : α} {l : List α} (h : y ∈ l) : y ∈ (if l.contains x then l else l ++ [x]) := by
  split
  · exact h
  · exact List.mem_append_left _ h

theorem heard_ps (b : Block) (f : Frame) (k : Nat) : (heard b f k).ps = b.ps := (counted_sigOnly b f).ps

theorem heard_labels (b : Block) (f : Frame) (k : Nat) : (heard b f k).ft.labels = b.ft.labels := (congrArg Ft.labels (counted_sigOnly b f).ft :)

theorem heard_rx (b : Block) (f : Frame) (k : Nat) : (heard b f k).ft.rx = b.ft.rx := (congrArg Ft.rx (counted_sigOnly b f).ft :)

/-! ### SKIP (R327) -/

theorem psnDist_self {a : Nat} (small : a < 2 ^ 32) : psnDist a a = 0 := by
  rw [psnDist, Nat.mod_eq_of_lt small, Nat.add_sub_cancel_left, Nat.mod_self]

/-- A skip of one PSN that is the next marks it, as a packet that carries nothing, and is acknowledged. -/
theorem skipRx_next {k : Nat} {f : Frame} {b : Block} {q : Qp} (at_ : tfind b.ft.qps k = some q) (one : f.hdr.msgLen = 1)
    (next : f.hdr.psn = q.cumNext) (small : q.cumNext < 2 ^ 32) (none_ : q.rx = []) :
    ∃ g : Frame, g.hdr.psn = q.cumNext ∧ skipRx k f b = sendAck k (respCls f.hdr) f.hdr.path f.hdr.epoch (rxMark k g true b) := by
  have psn : (f.hdr.psn + 0) % 2 ^ 32 = q.cumNext := by rw [Nat.add_zero, next, Nat.mod_eq_of_lt small]
  have new : (decide (psnDist q.cumNext q.cumNext < 1024) && !q.rx.contains q.cumNext) = true := by simp [psnDist_self small, none_]
  have once : List.range (if 1024 < f.hdr.msgLen then 1024 else f.hdr.msgLen) = [0] := by rw [one]; rfl
  refine ⟨{ f with hdr := { f.hdr with psn := q.cumNext, flags := 0, msn := (q.expMsn + 2 ^ 32 - 1) % 2 ^ 32, payloadLen := 0 } }, rfl, ?_⟩
  simp only [skipRx, once, each, at_, psn, new, if_true]

/-! ### READ_RESP (R350) -/

/-- What of a read request is still asked for once `got` of it has come. -/
def readQp (r : Rreq) (got : List (Nat × Nat)) (q : Qp) : Qp :=
  let keep := q.reads.filter (fun x => x.psn != r.psn)
  let upd := q.reads.map (fun x => if x.psn = r.psn then { x with got := got } else x)
  { q with reads := if ivCovers r.len got then keep else upd }

theorem rxFrame_readResp {b : Block} {f : Frame} {k : Nat} {q : Qp} {r : Rreq} (clear : FrameClear b f k q) (ty : f.hdr.type = tyReadResp)
    (named : q.reads.find? (fun r => r.psn == f.hdr.psn) = some r) : rxFrame f b = respData k r f.hdr f.payload (counted b f) := by
  have ⟨for_, _, plain, unsealed⟩ := clear
  have ⟨_, _, _, at_, _⟩ := for_
  have at1 : tfind (counted b f).ft.qps k = some q := (congrArg (fun t : Ft => tfind t.qps k) (counted_sigOnly b f).ft).trans at_
  have late : ¬ f.hdr.type ≤ 4 := by rw [ty]; decide
  rw [rxFrame_clear clear, rxPacket, if_neg late]
  simp only [rxControl, at1, ty, if_true, readRespRx, named, plain, unsealed, Bool.false_eq_true, if_false, Bool.false_and]

/-- An item whose source has got one piece more. -/
def pieceGot (off : Nat) (bytes : List (BitVec 8)) (bad : Bool) (it : Item) : Item :=
  let low := match it.poisonAt with
    | some (p, s) => if p < off then some (p, s) else some (off, 0x050)
    | none => some (off, 0x050)
  { it with passed := true, pieces := it.pieces ++ [(off, bytes)], poisonAt := if bad then low else it.poisonAt }

/-- The block with the piece that a READ_RESP brings to an item. -/
def withPiece (k i : Nat) (r : Rreq) (h : Hdr) (bytes : List (BitVec 8)) (b : Block) : Block :=
  modItem i (pieceGot (r.off + h.address) bytes (hdrFlag h flPoison)) (modQp k (readQp r (ivAdd h.address bytes.length r.got)) b)

theorem respData_eq {k i : Nat} {r : Rreq} {h : Hdr} {bytes : List (BitVec 8)} {b : Block} {it : Item} (owner : r.owner = .item i)
    (item : tfind b.he.items i = some it) :
    respData k r h bytes b = if !it.passed then event i 0x04 (withPiece k i r h bytes b) else withPiece k i r h bytes b := by
  have first : (match tfind (modQp k (readQp r (ivAdd h.address bytes.length r.got)) b).he.items i with | some it => !it.passed | none => false) =
      !it.passed := by
    rw [show tfind (modQp k (readQp r (ivAdd h.address bytes.length r.got)) b).he.items i = some it from item]
  rw [← first]
  simp only [respData, owner]
  rfl

/-- Bytes of an item's read become a piece of its source. -/
theorem respData_item {k i : Nat} {r : Rreq} {h : Hdr} {bytes : List (BitVec 8)} {b : Block} {q : Qp} {it : Item} (at_ : tfind b.ft.qps k = some q)
    (owner : r.owner = .item i) (item : tfind b.he.items i = some it) :
    tfind (respData k r h bytes b).ft.qps k = some (readQp r (ivAdd h.address bytes.length r.got) q) ∧
    ∃ z, tfind (respData k r h bytes b).he.items i = some z ∧ z.pieces = it.pieces ++ [(r.off + h.address, bytes)] ∧ z.passed = true ∧
      z.status = it.status := by
  have found : tfind (withPiece k i r h bytes b).he.items i = some (pieceGot (r.off + h.address) bytes (hdrFlag h flPoison) it) :=
    tfind_modItem (b := modQp k (readQp r (ivAdd h.address bytes.length r.got)) b) item
  rw [respData_eq owner item]
  split
  · obtain ⟨e, there⟩ := tfind_event found 0x04
    exact ⟨(congrArg (fun t : Ft => tfind t.qps k) (ft_carries.event _ _ _)).trans (tfind_modQp at_), _, there, rfl, rfl, rfl⟩
  · exact ⟨tfind_modQp at_, _, found, rfl, rfl, rfl⟩

/-! ### CREDIT (R308) -/

/-- The credits of a card once one for a block of a peer has come. -/
def creditGiven (c node blk : Nat) (p : Ps) : Ps :=
  { p with inOrder := if p.inOrder.contains (c, node) then p.inOrder else p.inOrder ++ [(c, node)],
           credits := if p.credits.contains (c, node, blk) then p.credits else p.credits ++ [(c, node, blk)] }

theorem creditRx_credits {k : Nat} {f : Frame} {b : Block} {q : Qp} (at_ : tfind b.ft.qps k = some q) :
    creditRx k f b = modPs (creditGiven (f.hdr.card - 1) q.peerNode (f.hdr.address / 65536)) b := by
  simp only [creditRx, at_]
  rfl

/-- Settles O36: what CREDIT, PROBE, PROBE_REPLY, SKIP and READ_RESP bring. -/
theorem creditsProbesAndReadDataArrive : Obligations.CreditsProbesAndReadDataArrive := by
  unfold Obligations.CreditsProbesAndReadDataArrive
  intro s f0 k q typed b1
  refine ⟨fun clear => ?_, fun clear none_ => ?_, fun clear => ?_, fun clear one next small none_ => ?_, fun clear r i it named owner at_ => ?_⟩
  · refine ⟨_, exec_control (c := .credit f0) rfl (by decide) clear (creditRx_credits (f := ofType f0 tyCredit) (heard_qp clear)), mem_added _ _, mem_added _ _,
      fun x held => mem_added_of_mem ((heard_ps s.blk (ofType f0 tyCredit) k).symm ▸ held), rfl,
      heard_he s.blk (ofType f0 tyCredit) k⟩
  · refine exec_control (c := .probe f0) rfl (by decide) clear ?_
    have answers : ∀ b, probeRx k (ofType f0 tyProbe) b = sendControl k
        { hdrZero with cls := clsFr, type := tyProbeReply, path := f0.hdr.path, psn := f0.hdr.psn, msn := f0.hdr.msn } [] f0.hdr.path f0.hdr.epoch b :=
      fun b => if_pos none_
    exact (answers _).trans (by rw [none_] <;> rfl)
  · refine ⟨_, exec_control (c := .probeReply f0) rfl (by decide) clear rfl, ?_, rfl, heard_he s.blk (ofType f0 tyProbeReply) k⟩
    have labels := heard_labels s.blk (ofType f0 tyProbeReply) k
    rw [← labels]
    rfl
  · obtain ⟨g, psn, skips⟩ := skipRx_next (f := ofType f0 tySkip) (heard_qp clear) one next small none_
    obtain ⟨y, found, got⟩ := rxMark_marks (f := g) (dur := true) (heard_qp clear)
    have ack := packetStands_sendAck (π := received) (fun _ _ _ _ => rfl) (fun _ _ _ _ _ => rfl) k (respCls f0.hdr) f0.hdr.path f0.hdr.epoch
      (rxMark k g true (heard s.blk (ofType f0 tySkip) k))
    obtain ⟨z, after, same⟩ := ack.found found
    obtain ⟨count, cum, _⟩ : z.rcvdCount = (q.rcvdCount + 1) % 2 ^ 32 ∧ z.cumNext = psnNext q.cumNext ∧ z.rx = [] := by
      have got' : received z = ((q.rcvdCount + 1) % 2 ^ 32, arrived q g.hdr.psn) := same.trans got
      rw [psn, arrived_next none_] at got'
      simpa only [received, Prod.mk.injEq] using got'
    refine ⟨_, z, exec_control (c := .skip f0) rfl (by decide) clear skips, after, cum, count, ?_⟩
    exact ack.rx.trans ((rxMark_stands _ _ _ _).rx.trans (heard_rx _ _ _))
  · have at1 : tfind (counted s.blk (ofType f0 tyReadResp)).ft.qps k = some q := by
      have ⟨⟨_, _, _, there, _⟩, _⟩ := clear
      exact (congrArg (fun t : Ft => tfind t.qps k) (counted_sigOnly s.blk (ofType f0 tyReadResp)).ft).trans there
    have item : tfind (counted s.blk (ofType f0 tyReadResp)).he.items i = some it :=
      (congrArg (fun h : He => tfind h.items i) (counted_sigOnly s.blk (ofType f0 tyReadResp)).he).trans at_
    have run := exec_frame (c := .readResp f0) (f := ofType f0 tyReadResp) rfl s
    rw [rxFrame_readResp (f := ofType f0 tyReadResp) clear rfl named] at run
    obtain ⟨qp, z, found, pieces, passed, status⟩ := respData_item (h := f0.hdr) (bytes := f0.payload) at1 owner item
    refine ⟨_, _, z, run, qp, found, pieces, passed, status, fun whole x listed => ?_⟩
    have mine : r.psn = f0.hdr.psn := by simpa using List.find?_some named
    simp only [readQp, whole, if_true] at listed
    exact fun same => by simpa [same, mine] using (List.mem_filter.1 listed).2

end Sys2Proof.Laws

/-!
PACKET_SEND: which draft is sent, what of its QP that changes, and that a frame on a label that is up leaves as it is.
-/
namespace Sys2Proof.Laws

open Sys2Proof Sys2Proof.Machine Sys2Proof.Safety

/-! ### Labels that take a packet -/

theorem rrPick_fits {r l : Nat} {p : Nat → Bool} (picked : rrPick r p = some l) : p l = true := List.find?_some picked

section

variable {b : Block} {q : Qp} {l : Nat}

/-- Does the port of a label of the current epoch carry frames? -/
def LabelUp (b : Block) (q : Qp) (l : Nat) : Prop := portUp b (entPort (pathEntry b (epochNow b % 2) q.pathSet l)) = true

theorem labelUp_of_not_down (up : labelDown b (epochNow b % 2) q.pathSet l = false) : LabelUp b q l := by
  simpa [LabelUp] using (Bool.or_eq_false_iff.1 up).2

theorem labelUp_of_freeLabel {full : Nat} {avoid : Option Nat} (picked : freeLabel b q full avoid = some l) : LabelUp b q l := by
  refine labelUp_of_not_down ?_
  unfold freeLabel at picked
  dsimp only at picked
  split at picked
  · next found =>
    cases picked
    have fits := rrPick_fits found
    simp only [Bool.and_eq_true, Bool.not_eq_true'] at fits
    obtain ⟨⟨⟨⟨_, up⟩, _⟩, _⟩, _⟩ := fits
    exact up
  · have fits := rrPick_fits picked
    simp only [Bool.and_eq_true, Bool.not_eq_true'] at fits
    obtain ⟨⟨⟨_, up⟩, _⟩, _⟩ := fits
    exact up

theorem labelUp_of_ropedLabel {mask : Nat} {avoid : Option Nat} (picked : ropedLabel b q mask avoid = some l) : LabelUp b q l := by
  have fits := rrPick_fits picked
  simp only [Bool.and_eq_true, Bool.not_eq_true'] at fits
  obtain ⟨⟨⟨_, _⟩, up⟩, _⟩ := fits
  exact labelUp_of_not_down up

theorem labelUp_of_draftLabel {d : Draft} {full : Nat} (picked : draftLabel b q d full = some l) : LabelUp b q l := by
  unfold draftLabel at picked
  dsimp only at picked
  split at picked
  · split at picked
    · exact labelUp_of_ropedLabel picked
    · split at picked
      · split at picked
        · next found => exact labelUp_of_ropedLabel (found.trans picked)
        · exact labelUp_of_ropedLabel picked
      · split at picked
        · next found => exact labelUp_of_ropedLabel (found.trans picked)
        · exact labelUp_of_ropedLabel picked
  · split at picked
    · next found => exact labelUp_of_freeLabel (found.trans picked)
    · split at picked
      · exact labelUp_of_freeLabel picked
      · cases picked

end

/-! ### What a draft's owner does as it leaves -/

/-- The fabric's own state and the fuses are as they were. -/
def LinksStand (b c : Block) : Prop := c.ft = b.ft ∧ c.fuses = b.fuses

theorem linksStand_carries : Carries LinksStand where
  refl _ := ⟨rfl, rfl⟩
  trans h g := ⟨g.1.trans h.1, g.2.trans h.2⟩
  signals h := ⟨h.ft, h.fuses⟩
  notes h := ⟨h.ft, h.fuses⟩
  late _ _ _ _ _ := ⟨rfl, rfl⟩
  opens _ _ := ⟨rfl, rfl⟩
  closes _ _ := ⟨rfl, rfl⟩
  item _ _ _ _ := ⟨rfl, rfl⟩
  items _ _ _ _ := ⟨rfl, rfl⟩
  caches _ _ _ := ⟨rfl, rfl⟩
  traces _ _ := ⟨rfl, rfl⟩
  governs _ _ := ⟨rfl, rfl⟩

theorem LinksStand.portUp {b c : Block} (h : LinksStand b c) (p : Nat) : portUp c p = portUp b p := by
  rw [Machine.portUp, Machine.portUp, portHere, portHere, portOf, portOf, variant, variant, h.1, h.2]

theorem linksStand_drrCharge (a n : Nat) (size : Nat → Option Nat) (b : Block) : LinksStand b (drrCharge a n size b) := by
  unfold drrCharge
  split <;> exact ⟨rfl, rfl⟩

theorem linksStand_itemUnread (i : Nat) (b : Block) : LinksStand b (itemUnread i b) := by
  unfold itemUnread
  dsimp only
  split <;> exact ⟨rfl, rfl⟩

theorem linksStand_undo (i : Nat) (b : Block) : LinksStand b (undo i b) := by
  unfold undo
  split
  · exact ⟨rfl, rfl⟩
  · split
    · exact ⟨rfl, rfl⟩
    · exact linksStand_carries.trans (linksStand_itemUnread i b) (linksStand_carries.specDiscard i _ _)

theorem linksStand_loop {f : Block → Option Block} (h : ∀ b c, f b = some c → LinksStand b c) (n : Nat) : ∀ b, LinksStand b (loop n f b) := by
  induction n with
  | zero => exact linksStand_carries.refl
  | succ n ih =>
    intro b
    rw [loop]
    split
    · next c found => exact linksStand_carries.trans (h b c found) (ih c)
    · exact linksStand_carries.refl b

theorem linksStand_reclaim (t : Nat) (b : Block) : LinksStand b (reclaim t b) := by
  refine linksStand_loop (fun c d found => ?_) 64 b
  split at found
  · cases found
  · obtain ⟨i, _, rfl⟩ := Option.map_eq_some_iff.1 found
    exact linksStand_undo i c

theorem linksStand_stageCharge (i : Nat) (it : Item) (b : Block) : LinksStand b (stageCharge i it b) :=
  linksStand_carries.ite (linksStand_drrCharge _ _ _ b) (linksStand_carries.refl b)

theorem linksStand_modItem (i : Nat) (f : Item → Item) (b : Block) : LinksStand b (modItem i f b) := ⟨rfl, rfl⟩

theorem linksStand_ownerSent (d : Draft) (b : Block) : LinksStand b (ownerSent d b) := by
  have trans := fun {b c e : Block} => linksStand_carries.trans (b := b) (c := c) (d := e)
  unfold ownerSent
  split
  · exact linksStand_carries.refl b
  · split
    · exact linksStand_carries.refl b
    · exact trans (linksStand_carries.each (fun _ _ => linksStand_carries.spanCount _ _ _ _ _ _ _) _ b) ⟨rfl, rfl⟩
  · next i _ =>
    have committed := linksStand_carries.commit i b
    dsimp only
    split
    · exact committed
    · split
      · split
        · exact trans committed (linksStand_carries.spanCount _ _ _ _ _ _ _)
        · exact committed
      · split
        · split
          · exact committed
          · refine trans ?_ (linksStand_modItem i _ _)
            refine trans ?_ (linksStand_carries.each (fun _ _ => linksStand_carries.spanCount _ _ _ _ _ _ _) _ _)
            refine trans ?_ (linksStand_stageCharge i _ _)
            exact linksStand_carries.ite (trans committed (linksStand_reclaim _ _)) committed
        · refine trans ?_ (linksStand_modItem i _ _)
          refine trans ?_ (linksStand_carries.each (fun _ _ => linksStand_carries.spanCount _ _ _ _ _ _ _) _ _)
          exact trans committed (linksStand_carries.arithEvents _ _ _ _)

/-! ### A frame on a port that is up -/

theorem qps_linkOut (f : LinkFrame) (b : Block) : (linkOut f b).ft.qps = b.ft.qps := by
  unfold linkOut
  split
  · exact congrArg Ft.qps (sigOnly_linkEmit _ b).ft
  · dsimp only
    split
    · rfl
    · exact (congrArg Ft.qps (sigOnly_linkEmit _ _).ft).trans rfl

theorem qps_frameOut {f : Frame} {b : Block} (up : portUp b f.port = true) : (frameOut f b).ft.qps = b.ft.qps := by
  have sig := sigOnly_tcCount (f.port / 2) 0x040 (packetPart b f.hdr.srcQp) 1 b
  have up' : portUp (tcCount (f.port / 2) 0x040 (packetPart b f.hdr.srcQp) 1 b) f.port = true :=
    (LinksStand.portUp ⟨sig.ft, sig.fuses⟩ f.port).trans up
  unfold frameOut
  split
  · rfl
  · dsimp only
    rw [if_pos up', qps_linkOut, sig.ft]

theorem qps_release {k : Nat} {f : Frame} {u : Unchecked} {b : Block} (plain : f.hdr.enc = false) (up : portUp b f.port = true) :
    (release k f u b).ft.qps = b.ft.qps := by
  rw [release, plain, if_neg Bool.false_ne_true, qps_frameOut up]

/-- The flag RESEND, added where it was not set, is set. -/
theorem hdrFlag_resend {h g : Hdr} (clear : hdrFlag h flResend = false) (added : g.flags = h.flags + flResend := by rfl) :
    hdrFlag g flResend = true := by
  have off : h.flags.testBit 15 = false := by
    by_contra on
    have on : h.flags.testBit 15 = true := by simpa using on
    have one : h.flags &&& 2 ^ 15 = 2 ^ 15 := by rw [Nat.and_two_pow, on]; rfl
    exact absurd clear (by simp [hdrFlag, flResend, show h.flags &&& 0x8000 = 2 ^ 15 from one])
  have on : (h.flags + 2 ^ 15).testBit 15 = true := by rw [Nat.add_comm, Nat.testBit_two_pow_add_eq, off]; rfl
  have one : (h.flags + 2 ^ 15) &&& 2 ^ 15 = 2 ^ 15 := by rw [Nat.and_two_pow, on]; rfl
  rw [hdrFlag, added]
  exact bne_iff_ne.2 (by rw [show (h.flags + flResend) &&& flResend = 2 ^ 15 from one]; decide)

/-! ### A packet that is sent -/

section

variable {b : Block} {k l : Nat} {q : Qp} (at_ : tfind b.ft.qps k = some q) (up : LabelUp b q l)
include at_ up

/-- A new packet gets the next PSN of its QP and is outstanding. -/
theorem sendNew_sends {d : Draft} (plain : d.enc = false) : ∃ y x, tfind (sendNew k q d l b).ft.qps k = some y ∧
    y.nextPsn = psnNext q.nextPsn ∧ y.sent = q.sent ++ [x] ∧ x.psn = q.nextPsn ∧ x.owner = d.owner ∧ x.tries = 1 ∧
    x.rcvd = false ∧ x.hdr.dstQp = q.peerQp ∧ x.hdr.dstNode = q.peerNode ∧ x.hdr.srcQp = k ∧ x.hdr.path = l ∧ x.body = d.body ∧
    y.cumNext = q.cumNext := by
  have kept : ∀ (g : Qp → Qp) f u, f.hdr.enc = false → f.port = entPort (pathEntry b (epochNow b % 2) q.pathSet l) →
      tfind (release k f u (ownerSent d (modQp k g b))).ft.qps k = some (g q) := by
    intro g f u clear port
    have stands := linksStand_ownerSent d (modQp k g b)
    rw [qps_release clear (by rw [port, stands.portUp]; exact up), stands.1]
    exact tfind_modQp at_
  simp only [sendNew, plain, Bool.false_and, Bool.false_eq_true, if_false]
  exact ⟨_, _, kept _ _ _ rfl rfl, rfl, rfl, rfl, rfl, rfl, rfl, rfl, rfl, rfl, rfl, rfl, rfl⟩

/-- A lost packet leaves under its own PSN, marked as sent again. -/
theorem sendAgain_sends {psn : Nat} {x : Sent} (named : q.sent.find? (fun x => x.psn == psn) = some x) (plain : x.hdr.enc = false) :
    ∃ y, tfind (sendAgain k q psn l b).ft.qps k = some y ∧ y.nextPsn = q.nextPsn ∧
      y.cumNext = q.cumNext ∧ y.sent.length = q.sent.length ∧ ∃ z, z ∈ y.sent ∧ z.psn = psn ∧ z.tries = x.tries + 1 ∧
        z.resend = false ∧ z.hdr.path = l ∧ z.body = x.body ∧ hdrFlag z.hdr flResend = true := by
  have kept : ∀ (g : Qp → Qp) f u, f.hdr.enc = false → f.port = entPort (pathEntry b (epochNow b % 2) q.pathSet l) →
      tfind (release k f u (modQp k g b)).ft.qps k = some (g q) := by
    intro g f u clear port
    rw [qps_release clear (by rw [port]; exact up)]
    exact tfind_modQp at_
  have mine : x.psn = psn := by simpa using List.find?_some named
  simp only [sendAgain, named, ft_epochRetire, (sigOnly_tcCount _ _ _ _ _).ft]
  refine ⟨_, kept _ _ _ plain rfl, rfl, rfl, List.length_map .., _, List.mem_map.2 ⟨x, List.mem_of_find?_eq_some named, rfl⟩, ?_⟩
  rw [if_pos mine]
  refine ⟨mine, rfl, rfl, rfl, rfl, ?_⟩
  dsimp only
  split
  · next flagged => exact flagged
  · next clear => exact hdrFlag_resend (by simpa using clear)

end

/-! ### The step -/

/-- A packet whose draft is granted is sent, as a new one or again. -/
theorem packetStep_granted {b : Block} {k full l : Nat} {q : Qp} {d : Draft} (at_ : tfind b.ft.qps k = some q) (resident : q.resident = true)
    (ready : readyDraft b full k q = some d) (grants : granted b full k d = true) (label : draftLabel b q d full = some l) :
    ∃ c, LinksStand b c ∧ c.regs = b.regs ∧ packetStep k full b = match d.resend with
      | some psn => sendAgain k q psn l c
      | none => sendNew k q d l c := by
  have charged : LinksStand b (txCharge full (homeTile k) d.body.length b) ∧ (txCharge full (homeTile k) d.body.length b).regs = b.regs := by
    refine ⟨linksStand_drrCharge _ _ _ b, ?_⟩
    unfold txCharge drrCharge
    dsimp only
    split <;> rfl
  refine ⟨if d.roped then b else txCharge full (homeTile k) d.body.length b, ?_, ?_, ?_⟩
  · exact linksStand_carries.ite (linksStand_carries.refl b) charged.1
  · split
    · rfl
    · exact charged.2
  · simp only [packetStep, at_, resident, ready, grants, label, Bool.not_true, Bool.false_eq_true, if_false] <;>
    cases d.resend <;> rfl

theorem LabelUp.of_stands {b c : Block} {q : Qp} {l : Nat} (up : LabelUp b q l) (links : LinksStand b c) (regs : c.regs = b.regs) : LabelUp c q l := by
  have word : pathEntry c (epochNow c % 2) q.pathSet l = pathEntry b (epochNow b % 2) q.pathSet l := by
    simp only [pathEntry, epochNow, fget, rget, regs]
  rw [LabelUp, word, links.portUp]
  exact up

/-- Settles O37: PACKET_SEND with nothing to send, with a new packet and with a lost one. -/
theorem packetSendSendsTheNextPacket : Obligations.PacketSendSendsTheNextPacket := by
  unfold Obligations.PacketSendSendsTheNextPacket
  intro s k full
  refine ⟨fun q at_ resident none_ => run_settle_eq ?_, fun q d at_ resident ready refused => run_settle_eq ?_, fun q at_ away => ?_,
    fun none_ => run_settle_eq ?_, fun q d l at_ resident ready grants plain label => ?_⟩
  · simp only [packetStep, at_, resident, none_, Bool.not_true, Bool.false_eq_true, if_false]
  · simp only [packetStep, at_, resident, ready, refused, Bool.not_true, Bool.false_eq_true, if_false, Bool.not_false, if_true]
  · intro here next
    refine run_settle_eq ?_
    simp only [packetStep, at_, away, Bool.not_false, if_true]
    rfl
  · simp only [packetStep, none_]
  · obtain ⟨c, links, regs, sends⟩ := packetStep_granted at_ resident ready grants label
    have at1 : tfind c.ft.qps k = some q := (congrArg (fun t : Ft => tfind t.qps k) links.1).trans at_
    have up := (labelUp_of_draftLabel label).of_stands links regs
    refine ⟨fun fresh => ?_, fun psn x again named clear => ?_⟩
    · obtain ⟨y, x, sent⟩ := sendNew_sends at1 up plain
      rw [fresh] at sends
      exact ⟨_, y, x, run_settle_eq sends, sent⟩
    · obtain ⟨y, sent⟩ := sendAgain_sends at1 up named clear
      rw [again] at sends
      exact ⟨_, y, run_settle_eq sends, sent⟩

end Sys2Proof.Laws

/-!
The timers of a QP, of its reads and of its labels.
-/
namespace Sys2Proof.Laws

open Sys2Proof Sys2Proof.Machine Sys2Proof.Safety

section

variable {b : Block} {k n : Nat} {q : Qp} (at_ : tfind b.ft.qps k = some q)
include at_

/-! ### RTO_EXPIRY (R347, R349) -/

theorem rtoExpire_skip {e : Nat × Nat} (skip : q.skips.find? (fun e => e.1 == n) = some e) : rtoExpire k n b = sendSkip k e.1 e.2 b := by
  simp only [rtoExpire, at_, skip]

theorem rtoExpire_early (none_ : q.skips.find? (fun e => e.1 == n) = none)
    (early : ∀ x, x ∈ q.sent → x.psn = n → x.rcvd = false → x.resend = false → x.lossPitch = none → rtoDue b q x = false) :
    rtoExpire k n b = b := by
  have quiet : ¬ q.sent.any (fun s => s.psn == n && !s.rcvd && !s.resend && s.lossPitch.isNone && rtoDue b q s) = true := by
    intro some_
    obtain ⟨x, listed, due⟩ := List.any_eq_true.1 some_
    simp only [Bool.and_eq_true, beq_iff_eq, Bool.not_eq_true', Option.isNone_iff_eq_none] at due
    obtain ⟨⟨⟨⟨psn, waits⟩, first⟩, pitch⟩, due⟩ := due
    exact absurd due (by rw [early x listed psn waits first pitch]; exact Bool.false_ne_true)
  simp only [rtoExpire, at_, none_, if_neg quiet]

variable {x : Sent} (named : q.sent.find? (fun x => x.psn == n && !x.rcvd) = some x)
include named

theorem rtoExpire_due (none_ : q.skips.find? (fun e => e.1 == n) = none) (first : x.resend = false) (pitch : x.lossPitch = none)
    (due : rtoDue b q x = true) : rtoExpire k n b = lossMark k n false b := by
  have mine := List.find?_some named
  have some_ : q.sent.any (fun s => s.psn == n && !s.rcvd && !s.resend && s.lossPitch.isNone && rtoDue b q s) = true :=
    List.any_eq_true.2 ⟨x, List.mem_of_find?_eq_some named, by simp [mine, first, pitch, due]⟩
  simp only [rtoExpire, at_, none_, if_pos some_]

/-- A packet that is marked as lost at its timeout is sent again, at once or, where it is roped, in a pitch to come. -/
theorem lossMark_marks (first : x.resend = false) (pitch : x.lossPitch = none) :
    ∃ y z, tfind (lossMark k n false b).ft.qps k = some y ∧ z ∈ y.sent ∧ z.psn = n ∧ (x.roped = false → z.resend = true ∧ y.loss = true) ∧
      (x.roped = true → z.lossPitch = some b.ps.n) ∧ z.touts = x.touts + 1 ∧ (lossMark k n false b).regs = b.regs ∧ (lossMark k n false b).he = b.he := by
  have mine : x.psn = n := by
    have both := List.find?_some named
    simp only [Bool.and_eq_true, beq_iff_eq] at both
    exact both.1
  simp only [lossMark, at_, named]
  refine ⟨_, _, (congrArg (fun t => tfind t k) (qps_modLabel _ _ _ _)).trans (tfind_modQp at_),
    List.mem_map.2 ⟨x, List.mem_of_find?_eq_some named, rfl⟩, ?_, ?_, ?_, ?_, rfl, rfl⟩
  all_goals simp only [if_pos mine]
  · exact mine
  · exact fun free => ⟨by simp [free], by simp [free]⟩
  · exact fun roped => by simp [roped, first, pitch]
  · rfl

end

/-! ### Reads (R350) -/

/-- What a read asks for again is its first gap. -/
theorem againDraft_gap {b : Block} {q : Qp} {r : Rreq} {d : Draft} {g : Nat × Nat} (again : againDraft b q r = some d)
    (gap : (ivGaps (2 * r.got.length + 2) 0 r.len r.got).head? = some g) :
    d.hdr.type = tyReadReq ∧ d.owner = r.owner ∧ d.off = r.off + g.1 ∧ d.len = g.2 ∧ d.resend = none := by
  unfold againDraft at again
  split at again
  · cases again
  · split at again
    · cases again
    · next first rest gaps =>
      rw [gaps] at gap
      obtain rfl := Option.some.inj gap
      obtain ⟨a, _, rfl⟩ := Option.map_eq_some_iff.1 again
      exact ⟨rfl, rfl, rfl, rfl, rfl⟩

theorem readExpire_item {b : Block} {k n i : Nat} {q : Qp} {r : Rreq} (at_ : tfind b.ft.qps k = some q)
    (named : q.reads.find? (fun r => r.psn == n) = some r) (owner : r.owner = .item i) :
    readExpire k n b = qpItemFail i 0x032 q.peerNode (modQp k (fun q => { q with reads := q.reads.filter (fun r => r.owner != .item i) }) b) := by
  obtain ⟨psn, who, off, len, first, acked, got, again⟩ := r
  obtain rfl : who = .item i := owner
  simp only [readExpire, at_, named]

/-- Settles O38: each timer of a QP does what its expiry says, where it applies. -/
theorem timersOfAQueuePairExpire : Obligations.TimersOfAQueuePairExpire := by
  unfold Obligations.TimersOfAQueuePairExpire
  intro s k n q at_
  refine ⟨fun e skip => run_settle_eq (rtoExpire_skip at_ skip), fun x none_ named first pitch due => ?_,
    fun none_ early => run_settle_eq (rtoExpire_early at_ none_ early), fun x named => run_settle_eq (by simp only [deliveryExpire, at_, named]),
    fun none_ => run_settle_eq (by simp only [deliveryExpire, at_, none_]), fun r named => run_settle_eq rfl, fun b r d g listed again gap => ?_,
    fun r i it named owner item active sound => ?_, fun i it item qp needs free active begun unread unused none_ => run_settle_eq ?_,
    fun waits => ?_, fun set l => ⟨fun over_ => run_eq ?_, fun cools => run_eq (b := s.blk) (if_pos cools)⟩, fun due => run_eq ?_,
    _, run_eq rfl, tfind_modQp at_, rfl⟩
  · obtain ⟨y, z, found, rest⟩ := lossMark_marks at_ named first pitch
    exact ⟨_, y, z, run_settle_eq (rtoExpire_due at_ named none_ first pitch due), found, rest⟩
  · exact againDraft_gap again gap
  · have there : tfind (modQp k (fun q => { q with reads := q.reads.filter (fun r => r.owner != .item i) }) s.blk).he.items i = some it := item
    obtain ⟨z, failed, status, aux, _⟩ := itemFail_fails (st := 0x032) (aux := q.peerNode) there sound (.inr (.inl active))
    have expires := (readExpire_item at_ named owner).trans (qpItemFail_active (peer := q.peerNode) there active (.inr (.inr rfl)))
    refine ⟨_, z, run_settle_eq expires, failed, status, aux, ?_⟩
    rw [ft_itemFail]
    exact tfind_modQp at_
  · subst qp
    have sent : (if dOpcode it.desc = 0x03 then it.rd else it.cons) = 0 := by split <;> assumption
    simp only [noPathExpire, item, at_, needs, free, active, begun, sent, none_, beq_self_eq_true, Bool.and_self, if_true]
  · exact run_eq (by simp only [appliedProbe, at_, waits, if_true])
  · exact if_neg (by rw [over_]; exact Bool.false_ne_true)
  · simp only [ackExpire, at_, due, if_false]

end Sys2Proof.Laws

/-!
Fabric ports and epochs: how a port goes down, trains and replays, and how the tables of an epoch are exchanged.
-/
namespace Sys2Proof.Laws

open Sys2Proof Sys2Proof.Machine Sys2Proof.Safety

/-! ### Ports -/

theorem tfind_modPort (p : Nat) (f : Port → Port) (b : Block) : tfind (modPort p f b).ft.ports p = some (f (portOf b p)) := tfind_tput_same _ _ _

/-- A port as it stands once its link is down. -/
def portClosed (x : Port) : Port :=
  { x with state := 4, held := true, buf := [], wait := [], tx := 0, rxNext := 0, rxUnacked := 0, rxSkip := false, nak := (0, 0) }

/-- A listed label, by its key in the path tables, goes down. -/
def labelDown (k : Nat) (b : Block) : Block := modLabel (k / 64) (k % 64) (fun x => { x with down := true }) b

/-- The block once the labels of a port that has gone down are down. -/
def portUnlabelled (p : Nat) (b : Block) : Block :=
  let b := fput F.ftPortStatusLlr p 0 (fput F.ftPortStatusLlrAll p 0 (modPort p portClosed b))
  each (portLabels b p) labelDown b

theorem ports_portUnlabelled (p : Nat) (b : Block) : (portUnlabelled p b).ft.ports = (modPort p portClosed b).ft.ports :=
  each_keeps (fun c : Block => c.ft.ports) _ labelDown (fun _ _ _ => rfl) _

theorem regs_portUnlabelled (p : Nat) (b : Block) :
    (portUnlabelled p b).regs = (fput F.ftPortStatusLlr p 0 (fput F.ftPortStatusLlrAll p 0 b)).regs :=
  each_keeps (fun c : Block => c.regs) _ labelDown (fun _ _ _ => rfl) _

theorem portDown_eq {p : Nat} {b : Block} (up : portUp b p = true) (none_ : (portOf b p).wait = []) :
    portDown p b = fhNote (128 + 2 * p) (.port p) none (fbump F.ftPortStatusDownEvents p 1 (portUnlabelled p b)) := by
  simp only [portDown, up, none_, each, Bool.not_true, Bool.false_eq_true, if_false]
  rfl

theorem portDown_up {p : Nat} {b : Block} (up : portUp b p = true) (none_ : (portOf b p).wait = []) (small : p < 2 ^ 32) :
    tfind (portDown p b).ft.ports p = some (portClosed (portOf b p)) ∧
    fget (portDown p b) F.ftPortStatusDownEvents p = satAdd F.ftPortStatusDownEvents.max (fget b F.ftPortStatusDownEvents p) 1 := by
  rw [portDown_eq up none_]
  have note := noteOnly_fhNote_any (128 + 2 * p) (.port p) none (fbump F.ftPortStatusDownEvents p 1 (portUnlabelled p b))
  have labels : fget (portUnlabelled p b) F.ftPortStatusDownEvents p = fget b F.ftPortStatusDownEvents p := by
    have before : fget (portUnlabelled p b) F.ftPortStatusDownEvents p =
        fget (fput F.ftPortStatusLlr p 0 (fput F.ftPortStatusLlrAll p 0 b)) F.ftPortStatusDownEvents p := by
      rw [fget, rget, regs_portUnlabelled]
      rfl
    rw [before, fget_fput_field F.ftPortStatusLlr F.ftPortStatusDownEvents _ _ _ rfl (by decide) (by decide),
      fget_fput_field F.ftPortStatusLlrAll F.ftPortStatusDownEvents _ _ _ rfl (by decide) (by decide)]
  constructor
  · rw [note.ft]
    exact (congrArg (fun t => tfind t p) (ports_portUnlabelled p b)).trans (tfind_modPort p portClosed b)
  · rw [note.fget (f := F.ftPortStatusDownEvents) rfl small, fget_fbump_same _ _ _ _ (by decide), labels]

/-- A port as it stands once it has trained. -/
def portStarted (b : Block) (p : Nat) (x : Port) : Port :=
  { x with state := if (variant b).fabRate == 2 && dict b 0x2101 p == 1 then 1 else 2, upAt := b.now }

theorem portTrained_mode {p : Nat} {b : Block} (here : portHere b p = true) (down : portUp b p = false) (node : fon b F.idNodeValid 0 = true) :
    (∃ x, tfind (portTrained p b).ft.ports p = some x ∧ (x.state = 1 ∨ x.state = 2) ∧ x.upAt = b.now) ∧ (portTrained p b).he = b.he := by
  have ports : (portTrained p b).ft.ports = (modPort p (portStarted b p) b).ft.ports := by
    simp only [portTrained, here, down, node, Bool.not_true, Bool.or_false, Bool.false_eq_true, if_false]
    rfl
  refine ⟨⟨portStarted b p (portOf b p), (congrArg (fun t => tfind t p) ports).trans (tfind_modPort p _ b), ?_, rfl⟩, ?_⟩
  · simp only [portStarted]
    split
    · exact .inl rfl
    · exact .inr rfl
  · simp only [portTrained, here, down, node, Bool.not_true, Bool.or_false, Bool.false_eq_true, if_false]
    rfl

theorem portHeld_eq {p : Nat} {b : Block} (up : portUp b p = true) :
    portHeld p b = if (portOf b p).upAt + dict b 0x2120 6 * 1000000 ≤ b.now then modPort p (fun x => { x with held := false }) b else b := by
  simp only [portHeld, up, Bool.true_and, decide_eq_true_eq]

/-! ### Replay -/

theorem llrAck_drops {p n : Nat} {b : Block} (up : portUp b p = true) (none_ : (portOf b p).wait = []) :
    (∃ x, tfind (llrAck p n b).ft.ports p = some x ∧ x.buf = (portOf b p).buf.filter (fun e => !llrUpTo e.1 n) ∧
      x.nak = (if (portOf b p).buf.any (fun e => llrUpTo e.1 n) then (0, 0) else (portOf b p).nak)) ∧ (llrAck p n b).out = b.out := by
  have mine : ∀ f : Port → Port, portOf (modPort p f b) p = f (portOf b p) := fun f => by
    rw [portOf, tget, tfind_modPort]
  simp only [llrAck, up, llrDrain, mine, none_, each, Bool.not_true, Bool.false_eq_true, if_false]
  exact ⟨⟨_, tfind_modPort p _ _, by rw [mine], by rw [mine]⟩, rfl⟩

theorem out_each_linkEmit (l : List (Nat × LinkFrame)) (b : Block) :
    (each l (fun e b => linkEmit e.2 b) b).out.length = b.out.length + l.length := by
  induction l generalizing b with
  | nil => rfl
  | cons e l ih =>
    have one : (linkEmit e.2 b).out.length = b.out.length + 1 := by cases h : e.2 <;> rfl
    rw [each, ih, one, List.length_cons]
    omega

theorem llrNak_replays {p n : Nat} {b : Block} (up : portUp b p = true) (few : (portOf b p).nak.1 = n → (portOf b p).nak.2 < 7) (small : p < 2 ^ 32) :
    fget (llrNak p n b) F.ftPortStatusReplays p = satAdd F.ftPortStatusReplays.max (fget b F.ftPortStatusReplays p) 1 ∧
    (llrNak p n b).out.length = b.out.length + ((portOf b p).buf.filter (fun e => llrUpTo n e.1)).length ∧ (llrNak p n b).he = b.he := by
  have less : ¬ 8 ≤ (if (portOf b p).nak.1 = n then (portOf b p).nak.2 + 1 else 1) := by
    split
    · have := few ‹_›; omega
    · decide
  simp only [llrNak, up, less, Bool.not_true, Bool.false_eq_true, if_false]
  have sent : ∀ (l : List (Nat × LinkFrame)) (c : Block), SigOnly c (each l (fun e b => linkEmit e.2 b) c) := fun l c =>
    sigOnly_each l _ (fun _ _ => sigOnly_linkEmit _ _) c
  refine ⟨?_, out_each_linkEmit _ _, (sent _ _).he⟩
  rw [(sent _ _).fget (f := F.ftPortStatusReplays) rfl small, fget_fbump_same _ _ _ _ (by decide)]
  rfl

theorem llrNak_last {p n : Nat} {b : Block} (up : portUp b p = true) (same : (portOf b p).nak.1 = n) (seventh : (portOf b p).nak.2 = 7) :
    llrNak p n b = portDown p (modPort p (fun x => { x with nak := (n, 8) }) b) := by
  simp only [llrNak, up, same, seventh, Bool.not_true, Bool.false_eq_true, if_false, if_true, le_refl]

/-! ### Epochs -/

theorem portLlr_field {p : Nat} {f : Fld} (b : Block) (hf : f.reg ≠ .ftPortStatus) (small : p < 2 ^ 32) : fget (portLlr p b) f 0 = fget b f 0 := by
  rw [portLlr, fget_fput_elsewhere _ _ hf small (by decide), fget_fput_elsewhere _ _ hf small (by decide)]

/-- What an epoch switch leaves as it is, of its own register: a later field of that register stays under the signal and
the retirement. -/
theorem epochRetire_field {f : Fld} (b : Block) (hf : f.reg = .ftEpochCtl) (h : f.hi < 64) (apart : f.hi < 61 ∨ 61 < f.lo) :
    fget (epochRetire b) f 0 = fget b f 0 := by
  unfold epochRetire
  split
  · rw [(sigOnly_sgAssert 1862 _).fget (by rw [hf]; rfl) (by decide), fget_fput_field F.ftEpochCtlRetiring f 0 0 b hf h apart.symm]
  · rfl

theorem he_fput (f : Fld) (i v : Nat) (b : Block) : (fput f i v b).he = b.he := rfl

theorem epochSwitch_due {edge : Bool} {b : Block} (pending : fon b F.ftEpochCtlPending 0 = true) (due : (rget b .ftEpochAt 0).toNat ≤ b.now)
    (edge_ : b.ps.sched = none ∨ edge = true) :
    fget (epochSwitch edge b) F.ftEpochCtlPending 0 = 0 ∧ epochNow (epochSwitch edge b) = (epochNow b + 1) % 65536 ∧
    (epochSwitch edge b).he = b.he := by
  have go : (b.ps.sched.isSome && !edge) = false := by
    rcases edge_ with none_ | edge_
    · rw [none_]; rfl
    · rw [edge_, Bool.not_true, Bool.and_false]
  have ports : ∀ (f : Fld) (c : Block), f.reg = .ftEpochCtl →
      fget (each (List.range 24) (fun p b => if portUp b p then portLlr p b else b) c) f 0 = fget c f 0 := fun f c hf => by
    refine each_keeps (fun c : Block => fget c f 0) _ _ (fun p hp d => ?_) c
    have small := List.mem_range.1 hp
    split
    · exact portLlr_field d (by rw [hf]; decide) (by omega)
    · rfl
  have he : ∀ c : Block, (each (List.range 24) (fun p b => if portUp b p then portLlr p b else b) c).he = c.he :=
    each_keeps (fun c : Block => c.he) _ _ fun p _ c => by split <;> rfl
  have late : decide (b.now < (rget b .ftEpochAt 0).toNat) = false := decide_eq_false (by omega)
  simp only [epochSwitch, pending, late, go, Bool.not_true, Bool.or_self, Bool.false_eq_true, if_false]
  refine ⟨?_, ?_, ?_⟩
  · rw [epochRetire_field _ rfl (by decide) (by decide), (sigOnly_sgAssert 1861 _).fget (f := F.ftEpochCtlPending) rfl (by decide),
      fget_fput_field F.ftEpochCtlRetiring F.ftEpochCtlPending _ _ _ rfl (by decide) (by decide), fget_fput_same _ _ _ _ (by decide)]
    rfl
  · rw [epochNow, epochRetire_field _ rfl (by decide) (by decide), (sigOnly_sgAssert 1861 _).fget (f := F.ftEpochCtlEpoch) rfl (by decide),
      fget_fput_field F.ftEpochCtlRetiring F.ftEpochCtlEpoch _ _ _ rfl (by decide) (by decide),
      fget_fput_field F.ftEpochCtlPending F.ftEpochCtlEpoch _ _ _ rfl (by decide) (by decide), ports _ _ rfl]
    exact fget_fput_fits (f := F.ftEpochCtlEpoch) 0 _ (by decide) (Nat.mod_lt (epochNow b + 1) (Nat.two_pow_pos 16))
  · rw [he_epochRetire, (sigOnly_sgAssert 1861 _).he]
    rw [he_fput, he_fput, he]
    rfl

theorem epochSwitch_stays {edge : Bool} {b : Block}
    (stays : fon b F.ftEpochCtlPending 0 = false ∨ b.now < (rget b .ftEpochAt 0).toNat ∨ b.ps.sched.isSome = true ∧ edge = false) :
    epochSwitch edge b = b := by
  simp only [epochSwitch]
  refine if_pos ?_
  rcases stays with idle | early | ⟨runs, inside⟩
  · simp [idle]
  · simp [early]
  · simp [runs, inside]

theorem regApply_ftEpochCtl {w : Agent} {half : Half} {val : BitVec 64} {b : Block} {i : Nat} (names : Names half F.ftEpochCtlSwitch) :
    regApply w .ftEpochCtl i (carry F.ftEpochCtlSwitch 1 val) (halfMask half) b = epochArm b := by
  have switch : F.ftEpochCtlSwitch.on (carry F.ftEpochCtlSwitch 1 val &&& halfMask half) = true := on_carry_named names (by decide) rfl val
  simp only [regApply, switch, if_true]

/-! ### Counters of a port -/

theorem badFrame_counts {p : Nat} {b : Block} (up : portUp b p = true) :
    (badFrame p none b).ft = b.ft ∧
    fget (badFrame p none b) F.ftRxErrorsMisdirected 0 = satAdd F.ftRxErrorsMisdirected.max (fget b F.ftRxErrorsMisdirected 0) 1 := by
  have count := sigOnly_tcCount (p / 2) 0x044 none 1 b
  simp only [badFrame, up, llrRx, Bool.not_true, Bool.false_eq_true, if_false, if_true]
  refine ⟨count.ft, ?_⟩
  rw [fget_fbump_same _ _ _ _ (by decide), count.fget (f := F.ftRxErrorsMisdirected) rfl (by decide)]

theorem fecResult_counts {p good bad : Nat} {b : Block} (here : portHere b p = true) (small : p < 2 ^ 32) :
    (fecResult p good bad b).ft = b.ft ∧
    fget (fecResult p good bad b) F.ftPortFecCorrected p = satAdd F.ftPortFecCorrected.max (fget b F.ftPortFecCorrected p) good ∧
    fget (fecResult p good bad b) F.ftPortFecUncorrected p = satAdd F.ftPortFecUncorrected.max (fget b F.ftPortFecUncorrected p) bad := by
  let counts := fbump F.ftPortFecUncorrected p bad (fbump F.ftPortFecCorrected p good b)
  have note : NoteOnly counts (fecResult p good bad b) := by
    simp only [fecResult, here, Bool.not_true, Bool.false_eq_true, if_false]
    exact noteOnly_ite (.refl _) (noteOnly_fhNote_any _ _ _ _)
  refine ⟨note.ft, ?_, ?_⟩
  · rw [note.fget (f := F.ftPortFecCorrected) rfl small]
    simp only [counts]
    rw [fbump, fget_fput_field F.ftPortFecUncorrected F.ftPortFecCorrected _ _ _ rfl (by decide) (by decide), fget_fbump_same _ _ _ _ (by decide)]
  · rw [note.fget (f := F.ftPortFecUncorrected) rfl small, fget_fbump_same _ _ _ _ (by decide), fbump,
      fget_fput_field F.ftPortFecCorrected F.ftPortFecUncorrected _ _ _ rfl (by decide) (by decide)]

/-- Settles O39: each port command and each epoch command does what its rule says; a switch sets EPOCH and clears PENDING
last, so that neither the exchange of the tables nor the replay modes of the ports touch them. -/
theorem portsReplayAndEpochsChange : Obligations.PortsReplayAndEpochsChange := by
  unfold Obligations.PortsReplayAndEpochsChange
  intro s p n w half val b0 i
  refine ⟨?_, ?_, ?_, ?_, ?_, ?_, ?_, ?_, ?_, ?_, ?_, ?_, ?_, ?_⟩
  · intro up none_ small
    have ⟨at_, events⟩ := portDown_up up none_ small
    exact ⟨portDown p s.blk, _, rfl, at_, rfl, rfl, rfl, rfl, events⟩
  · intro here down node
    have ⟨⟨x, at_, state, since⟩, he⟩ := portTrained_mode here down node
    exact ⟨portTrained p s.blk, x, rfl, at_, state, since, he⟩
  · intro here down
    refine run_eq (f := portRetry p) ?_
    simp only [portRetry, here, down, Bool.not_false, Bool.and_self, if_true]
  · intro up held
    exact ⟨fun passed => run_eq (f := portHeld p) ((portHeld_eq up).trans (if_pos passed)),
      fun early => run_eq (f := portHeld p) (b := s.blk) ((portHeld_eq up).trans (if_neg (Nat.not_le.2 early)))⟩
  · intro up none_
    have ⟨⟨x, at_, buf, nak⟩, out⟩ := llrAck_drops (n := n) up none_
    exact ⟨llrAck p n s.blk, x, rfl, at_, buf, out, nak⟩
  · intro up few small
    exact ⟨llrNak p n s.blk, rfl, llrNak_replays up few small⟩
  · intro up same seventh
    exact run_eq (f := llrNak p n) (llrNak_last up same seventh)
  · intro up owed
    refine ⟨llrTimer p s.blk, rfl, ?_⟩
    simp only [llrTimer, up, owed, decide_false, Bool.not_true, Bool.or_self, Bool.false_eq_true, if_false]
    exact ⟨⟨_, rfl⟩, rfl⟩
  · intro lands names
    have applies := regApply_ftEpochCtl (w := w) (val := val) (b := b0) (i := i) names
    refine ⟨fun busy => exec_write_ignored rfl lands (by decide) rfl (applies.trans ?_), fun free quiet => ?_⟩
    · rcases busy with busy | busy
      · simp [epochArm, busy]
      · simp [epochArm, busy]
    have armed : exec (.epochSwitchArm w half val) s = .next { s with blk := epochSwitch false (fput F.ftEpochCtlPending 0 1 b0) } :=
      exec_write_applies rfl lands (by decide) rfl (applies.trans (by simp [epochArm, free, quiet]))
    have instant : rget (fput F.ftEpochCtlPending 0 1 b0) .ftEpochAt 0 = rget b0 .ftEpochAt 0 := rget_rput_other _ _ _ _ _ _ (by decide)
    refine ⟨fun waits => armed.trans ?_, fun idle due => ?_⟩
    · rw [epochSwitch_stays (.inr ?_)]
      exact waits.symm.imp (fun early => by rw [instant]; exact early) fun runs => ⟨runs, rfl⟩
    · have ⟨pending, epoch, he⟩ := epochSwitch_due (edge := false) (b := fput F.ftEpochCtlPending 0 1 b0)
        (beq_iff_eq.2 (fget_fput_same _ _ _ _ (by decide))) (by rw [instant]; exact due) (.inl idle)
      refine ⟨_, armed, pending, epoch.trans ?_, he⟩
      rw [epochNow, epochNow, fget_fput_field F.ftEpochCtlPending F.ftEpochCtlEpoch _ _ _ rfl (by decide) (by decide)]
  · intro pending runs off
    refine run_settle_eq (f := fun b => epochSwitch (b.ps.start == b.now) b) (b := s.blk) ?_
    exact epochSwitch_stays (.inr (.inr ⟨runs, beq_false_of_ne off⟩))
  · intro pending due edge
    refine ⟨epochSwitch (s.blk.ps.start == s.blk.now) s.blk, rfl, epochSwitch_due pending due (edge.imp id fun same => ?_)⟩
    rw [same, beq_self_eq_true]
  · intro idle
    refine run_settle_eq (f := fun b => epochSwitch (b.ps.start == b.now) b) (b := s.blk) ?_
    exact epochSwitch_stays (.inl idle)
  · intro kind up plain
    refine ⟨badFrame p none s.blk, ?_, badFrame_counts up⟩
    rcases plain with rfl | rfl | rfl | rfl <;> rfl
  · intro here small
    exact ⟨fecResult p n i s.blk, rfl, fecResult_counts here small⟩

end Sys2Proof.Laws

/-!
Registers that raising a fault leaves as they are: every one but those of signals and captures, the stop of the block, and the states and
mailboxes of partitions.
-/
namespace Sys2Proof.Laws

open Sys2Proof Sys2Proof.Machine Sys2Proof.Safety

/-- A register that a raised fault can change (R521, R561 to R566). -/
def raiseReg (r : Reg) : Bool :=
  sigReg r || [Reg.fhSrcCtl, .fhSrcStatus, .fhFirst, .fhFirstTime, .ptPartStatus, .ptMbxCtl, .fhCtl].contains r

/-- `c` has the registers of `b` but for those that a raised fault can change. -/
def RaiseRegs (b c : Block) : Prop := ∀ r i, raiseReg r = false → i < 2 ^ 32 → rget c r i = rget b r i

theorem noteReg_of_raiseReg {r : Reg} (h : raiseReg r = false) (i : Nat) : noteReg r i = false := by
  simp [raiseReg] at h
  simp [noteReg, h]

namespace RaiseRegs

variable {b c d : Block}

theorem refl (b : Block) : RaiseRegs b b := fun _ _ _ _ => rfl

theorem trans (h : RaiseRegs b c) (g : RaiseRegs c d) : RaiseRegs b d := fun r i free hi => (g r i free hi).trans (h r i free hi)

theorem ite {p : Prop} [Decidable p] (hc : RaiseRegs b c) (hd : RaiseRegs b d) : RaiseRegs b (if p then c else d) := by
  split
  · exact hc
  · exact hd

/-- A step that may be taken or not. -/
theorem maybe {p : Prop} [Decidable p] (h : RaiseRegs b c) (step : RaiseRegs c d) : RaiseRegs b (if p then d else c) := .ite (h.trans step) h

theorem each {α : Type} {l : List α} {f : α → Block → Block} (h : ∀ a ∈ l, ∀ b, RaiseRegs b (f a b)) : ∀ b, RaiseRegs b (Machine.each l f b) := by
  induction l with
  | nil => exact refl
  | cons a l ih =>
    have ⟨first, rest⟩ := List.forall_mem_cons.mp h
    exact fun b => (first b).trans (ih rest _)

theorem of_regs (same : c.regs = b.regs) : RaiseRegs b c := fun _ _ _ _ => by rw [rget, same, rget]

theorem of_noteOnly (h : NoteOnly b c) : RaiseRegs b c := fun r i free hi => h.regs r i (noteReg_of_raiseReg free i) hi

theorem of_sigOnly (h : SigOnly b c) : RaiseRegs b c := fun r i free hi => h.regs r i (Bool.or_eq_false_iff.1 free).1 hi

theorem of_fput {f : Fld} {i : Nat} (v : Nat) (b : Block) (told : raiseReg f.reg = true) (hi : i < 2 ^ 32) : RaiseRegs b (fput f i v b) := by
  intro r j free hj
  refine rget_rput_other _ _ _ _ _ _ (regKey_ne ?_ hj hi)
  rintro rfl
  exact absurd told (by simp [free])

theorem fget (h : RaiseRegs b c) {f : Fld} {i : Nat} (free : raiseReg f.reg = false) (hi : i < 2 ^ 32) : Machine.fget c f i = Machine.fget b f i :=
  congrArg (fun w => qbits w f.hi f.lo) (h f.reg i free hi)

end RaiseRegs

theorem raiseRegs_mbxPartEvent {fn : Nat} (h : fn < 2 ^ 32) (b : Block) : RaiseRegs b (mbxPartEvent fn b) :=
  .trans (.of_fput (f := F.ptMbxCtlPartEvent) 1 b rfl h) (.of_noteOnly (noteOnly_sgAssert _ _))

theorem raiseRegs_ptEnter {p : Nat} (small : p < 2 ^ 32) (st : Nat) (b : Block) : RaiseRegs b (ptEnter p st b) := by
  unfold ptEnter
  refine .ite (.refl b) ?_
  dsimp only
  refine .trans ?_ (.each (fun fn mapped => raiseRegs_mbxPartEvent ?_) _)
  · have entered := RaiseRegs.of_fput (f := F.ptPartStatusState) st b rfl small
    have rings : RaiseRegs b (if st = 3 then eachRing p Ring.stop (fput F.ptPartStatusState p st b) else fput F.ptPartStatusState p st b) :=
      .maybe entered (.of_regs rfl)
    exact rings.trans (.of_noteOnly (noteOnly_fhNote_any _ _ _ _))
  · have := partVfs_lt mapped
    omega

theorem raiseRegs_ptStop {p : Nat} (small : p < 2 ^ 32) (b : Block) : RaiseRegs b (ptStop p b) := .ite (raiseRegs_ptEnter small 3 b) (.refl b)

theorem raiseRegs_blockStop (b : Block) : RaiseRegs b (blockStop b) := by
  unfold blockStop
  refine .ite (.refl b) ?_
  exact .trans (.of_sigOnly (sigOnly_dumpTrigger 1 b)) (.of_fput (f := F.fhCtlStopped) 1 _ rfl (by decide))

theorem raiseRegs_cfgPut (fn off : Nat) (v : BitVec 32) (b : Block) : RaiseRegs b (cfgPut fn off v b) := .of_regs rfl

theorem raiseRegs_pcieFatal (s : Nat) (b : Block) : RaiseRegs b (pcieFatal s b) := by
  unfold pcieFatal
  dsimp only
  refine .trans (.each (fun h _ c => ?_) b) (.of_fput (f := F.fhCtlPcieFatal) 1 _ rfl (by decide))
  refine .ite ?_ (.refl c)
  have noted := (raiseRegs_cfgPut (128 * h) 0x104 (cfgGet c (128 * h) 0x104 ||| BitVec.ofNat 32 (2 ^ 22)) c).trans
    (raiseRegs_cfgPut (128 * h) 0x11C (BitVec.ofNat 32 s) _)
  exact .ite (.trans (noted.trans (.ite (raiseRegs_cfgPut _ _ _ _) (.refl _))) (.of_sigOnly (sigOnly_emitTlp _ _ _))) noted

theorem raiseRegs_rungEffects (s rung : Nat) (b : Block) : RaiseRegs b (rungEffects s rung b) := by
  unfold rungEffects
  dsimp only
  have small : fget b F.fhSrcStatusPartition s < 2 ^ 32 := Nat.lt_of_lt_of_le (qbits_lt _ _ _) (by decide)
  exact .maybe (.maybe (.maybe (.maybe (.refl b) (.of_regs rfl)) (raiseRegs_ptStop small _)) (raiseRegs_blockStop _)) (raiseRegs_pcieFatal _ _)

/-- Raising a fault, whatever its rung then does. -/
theorem raiseRegs_fhRaise (s : Nat) (o : Obj) (part : Option Nat) (secondary : Bool) (b : Block) : RaiseRegs b (fhRaise s o part secondary b) := by
  unfold fhRaise
  dsimp only
  have noted := RaiseRegs.of_noteOnly (noteOnly_fhRecord_any s o part secondary b)
  exact .ite (noted.trans (raiseRegs_rungEffects _ _ _)) noted

end Sys2Proof.Laws

/-!
The cipher engines: commands on key slots, the switch of a key, check slots and mask sets.
-/
namespace Sys2Proof.Laws

open Sys2Proof Sys2Proof.Machine Sys2Proof.Safety

/-! ### Key slots (R602 to R609) -/

theorem regApply_ceKeyCmd {w : Agent} {half : Half} {op i : Nat} {val : BitVec 64} {b : Block} (names : Names half F.ceKeyCmdOp) (small : op < 256) :
    regApply w .ceKeyCmd i (carry F.ceKeyCmdOp op val) (halfMask half) b = some (keyWrite op b) := by
  have of : F.ceKeyCmdOp.of (carry F.ceKeyCmdOp op val &&& halfMask half) = op := by
    rw [of_and_halfMask names (by decide), of_carry op val (by decide)]
    exact Nat.mod_eq_of_lt small
  simp only [regApply, of]

theorem exec_keyCommand {c : Instr} {s : State} {w : Agent} {half : Half} {op i : Nat} {val : BitVec 64} {b : Block}
    (h : writeOf c = some (w, .ceKeyCmd, 0, half, carry F.ceKeyCmdOp op val, true)) (lands : Lands s.blk w .ceKeyCmd 0 i b)
    (names : Names half F.ceKeyCmdOp) (small : op < 256) : exec c s = .next { s with blk := keyWrite op b } :=
  exec_write_applies h lands (by decide) rfl (regApply_ceKeyCmd names small)

theorem foldl_range_four (f : Nat → Nat) : (List.range 4).foldl (fun n i => n + f i) 0 = f 0 + f 1 + f 2 + f 3 := by
  simp only [List.range, List.range.loop, List.foldl, Nat.zero_add]

theorem keyHeld_eq (b : Block) : (List.range 4).foldl (fun n i => n + (rget b .ceKeyData i).toNat * 2 ^ (64 * i)) 0 = keyHeld b := by
  rw [foldl_range_four]
  simp only [keyHeld, Nat.reduceMul, pow_zero, mul_one]

/-- What a command of CE_KEY_CMD leaves (R607, R609): its result, its slots, and no key in the registers. -/
theorem keyWrite_leaves (op : Nat) (b : Block) {res : Nat} {c : Block} (small : res < 4)
    (command : keyCommand op (fget b F.ceKeySelSlot 256) (keyHeld b) (fget b F.ceKeySwitchTxPsn 0) (fget b F.ceKeySwitchRxPsn 0) b = (res, c)) :
    fget (keyWrite op b) F.ceKeyStatusResult 0 = res ∧ (keyWrite op b).ce = c.ce ∧ (∀ j, j < 4 → rget (keyWrite op b) .ceKeyData j = 0#64) ∧
    (keyWrite op b).ft = c.ft := by
  have eq : keyWrite op b = fput F.ceKeyStatusResult 0 res (rclearRange .ceKeyData 0 4 c) := by
    rw [keyWrite]
    simp only [keyHeld_eq, command]
  rw [eq]
  refine ⟨fget_fput_fits 0 _ (by decide) (Nat.lt_of_lt_of_le small (by decide)), rfl, fun j hj => ?_, rfl⟩
  have other : rget (fput F.ceKeyStatusResult 0 res (rclearRange .ceKeyData 0 4 c)) .ceKeyData j = rget (rclearRange .ceKeyData 0 4 c) .ceKeyData j :=
    rget_rput_other _ _ _ _ _ _ (regKey_ne (by decide) (by omega) (by decide))
  have cleared : tfind (rclearRange .ceKeyData 0 4 c).regs (regKey .ceKeyData j) = none :=
    (tfind_filter_key c.regs (fun k => !(decide (regKey .ceKeyData 0 ≤ k) && decide (k < regKey .ceKeyData (0 + 4)))) _).trans
      (if_neg (by simp only [regKey]; simp; omega))
  rw [other, rget, cleared]
  rfl

/-! ### The switch of a key (R604) -/

theorem keyCommit_switches {n tx rx key : Nat} {b : Block} {q : Qp} (next : (keySlotOf b n).next = some (key, tx, rx)) (active : (keySlotOf b n).state = 2)
    (at_ : tfind b.ft.qps (keySlotOf b n).qp = some q) (sent : psnBefore (unaOf q) tx = false) (got : psnBefore q.cumNext rx = false)
    (reads : q.reads = []) (rxs : b.ft.rx = []) :
    keyCommit n b = fbump F.ceEventsRekeys 0 1 (modQp (keySlotOf b n).qp (fun q => { q with keySent := psnDist tx q.nextPsn })
      (modKey n (fun k => { k with key := key, next := none, gen := (k.gen + 1) % 65536 }) b)) := by
  simp [keyCommit, next, active, at_, sent, got, reads, rxs]

/-! ### Mask sets (R613) -/

theorem tget_tput_same {α : Type} (d : α) (t : Tbl α) (k : Nat) (v : α) : tget d (tput t k v) k = v := by
  rw [tget, tfind_tput_same]

theorem halfOf_modHalf (k : Nat) (f : EngineHalf → EngineHalf) (b : Block) : halfOf (modHalf k f b) k = f (halfOf b k) :=
  tget_tput_same halfFull b.ce.halves k _

/-- What asking for sets changes of a half and of the queue of the entropy source. -/
theorem maskAsk_asks (k : Nat) (b : Block) :
    (halfOf (maskAsk k b) k).setsA = (halfOf b k).setsA ∧ (halfOf (maskAsk k b) k).setsB = (halfOf b k).setsB ∧
    (enState b ≠ 3 → (halfOf (maskAsk k b) k).asked = true) ∧
    (enState b ≠ 3 → (halfOf b k).asked = false → (maskAsk k b).en.queue = b.en.queue ++ [.mask k]) ∧
    ((halfOf b k).asked = true → (maskAsk k b).en = b.en) := by
  unfold maskAsk
  by_cases asked : (halfOf b k).asked = true
  · rw [if_pos asked]
    exact ⟨rfl, rfl, fun _ => asked, fun _ not => absurd asked (by simp [not]), fun _ => rfl⟩
  · rw [if_neg asked]
    by_cases failed : enState b = 3
    · rw [if_pos failed]
      exact ⟨rfl, rfl, fun not => absurd failed not, fun not => absurd failed not, fun is => absurd is asked⟩
    · rw [if_neg failed]
      have half : halfOf (modEn (fun e => { e with queue := e.queue ++ [.mask k] }) (modHalf k (fun h => { h with asked := true }) b)) k =
        { halfOf b k with asked := true } := halfOf_modHalf k (fun h => { h with asked := true }) b
      rw [half]
      exact ⟨rfl, rfl, fun _ => rfl, fun _ _ => rfl, fun is => absurd is asked⟩

/-- A half with a set of one copy used up. -/
def setUsed (copyB : Bool) (h : EngineHalf) : EngineHalf := if copyB then { h with setsB := h.setsB - 1 } else { h with setsA := h.setsA - 1 }

/-- A set used up of a half that has more than one of that copy. -/
theorem maskExpire_uses {u : CipherHalf} {copyB : Bool} {b : Block} (here : unitHere b u = true)
    (more : 1 < if copyB then (halfOf b (unitKey u)).setsB else (halfOf b (unitKey u)).setsA) :
    maskExpire u copyB b = maskAsk (unitKey u) (modHalf (unitKey u) (setUsed copyB) b) := by
  simp only [maskExpire, here, Bool.not_true, Bool.false_eq_true, if_false]
  rw [if_neg (by omega), if_neg (by omega)]
  cases copyB <;> rfl

theorem maskExpire_none {u : CipherHalf} {b : Block} (none_ : (halfOf b (unitKey u)).setsA = 0) : maskExpire u false b = b := by
  simp [maskExpire, none_]

/-! ### Check slots (R615, R616, R620) -/

theorem checkSlot_good {t : Nat} {tx : Bool} {b : Block} (here : unitHere b (.engine t tx) = true) :
    checkSlot (.engine t tx) true true [] b = each (halfOf b (2 * t + b2n tx)).outs outRelease
      (fbump F.ceEngineStatusChecks t 1 (modHalf (2 * t + b2n tx) (fun h => { h with outs := [] }) b)) := by
  simp [checkSlot, here, outsTake]

/-- Settles O41: a key command leaves what `keyCommand` gives under the result and the cleared registers; an engine that is
flagged releases its results in order, and a half whose sets run low asks once. -/
theorem keySlotsAndCheckSlotsAct : Obligations.KeySlotsAndCheckSlotsAct := by
  refine ⟨fun s w half val b i n => ⟨fun lands names slot => ?_, fun q key tx rx next active at_ sent got reads rxs => ?_, fun none_ => ?_⟩,
    fun s t tx ok bad u => ?_⟩
  · intro tx k done
    subst slot
    have command : ∀ {c : Instr} {op res : Nat} {d : Block} {slots : Tbl KeySlot},
        writeOf c = some (w, .ceKeyCmd, 0, half, carry F.ceKeyCmdOp op val, true) → op < 256 → res < 4 →
        keyCommand op (fget b F.ceKeySelSlot 256) (keyHeld b) tx (fget b F.ceKeySwitchRxPsn 0) b = (res, d) →
        d.ce.slots = slots → d.ft = b.ft → done c res slots := fun writes op res does slots ft => by
      obtain ⟨result, ce, keys, ft'⟩ := keyWrite_leaves _ b res does
      exact ⟨_, exec_keyCommand writes lands names op, result, (congrArg Ce.slots ce).trans slots, keys, ft'.trans ft⟩
    refine ⟨fun absent => ⟨?_, ?_, ?_⟩, fun present => ⟨fun empty => ?_, fun busy => ?_, fun loaded => ?_, fun other => ?_, fun ok => ?_, fun bad => ?_⟩⟩
    · exact command rfl (by decide) (by decide) (if_pos (by rw [absent]; rfl)) rfl rfl
    · exact command rfl (by decide) (by decide) (if_pos (by rw [absent]; rfl)) rfl rfl
    · exact command rfl (by decide) (by decide) (if_pos (by rw [absent]; rfl)) rfl rfl
    · exact command rfl (by decide) (by decide) ((if_neg (by simp [present])).trans (if_pos empty)) rfl rfl
    · exact command rfl (by decide) (by decide) ((if_neg (by simp [present])).trans (if_neg busy)) rfl rfl
    · exact command rfl (by decide) (by decide) ((if_neg (by simp [present])).trans (if_pos loaded)) rfl rfl
    · exact command rfl (by decide) (by decide) ((if_neg (by simp [present])).trans (if_neg other)) rfl rfl
    · exact command rfl (by decide) (by decide) ((if_neg (by simp [present])).trans (if_pos ok)) rfl rfl
    · exact command rfl (by decide) (by decide) ((if_neg (by simp [present])).trans (if_neg (by simp [bad]))) rfl rfl
  · have slot := keySlotOf_modKey_same (b := s.blk) (n := n) (f := fun k => { k with key := key, next := none, gen := (k.gen + 1) % 65536 })
      fun empty => by
        have state : (keySlotOf s.blk n).state = 0 := congrArg KeySlot.state empty
        omega
    refine ⟨_, run_eq (f := keyCommit n) (keyCommit_switches next active at_ sent got reads rxs), ?_, ?_, ?_, ?_⟩
    · exact congrArg KeySlot.key slot
    · exact congrArg KeySlot.next slot
    · exact congrArg KeySlot.gen slot
    · exact fget_fbump_same _ _ _ _ (by decide)
  · refine run_eq (f := keyCommit n) ?_
    simp only [keyCommit, none_]
  · intro k
    refine ⟨fun here => ⟨?_, ?_⟩, fun here => ⟨?_, ?_⟩, fun absent flagged copyB => ⟨?_, ?_⟩, fun here => ?_⟩
    · exact run_settle_eq (f := checkSlot (.engine t tx) true true []) (checkSlot_good here)
    · refine run_settle_eq (f := checkSlot (.engine t tx) false ok bad) ?_
      simp [checkSlot, here]
    · refine run_settle_eq (f := checkSlot (.ide t tx) true ok bad) ?_
      simp [checkSlot, here]
    · refine run_settle_eq (f := checkSlot (.ide t tx) false ok bad) ?_
      simp [checkSlot, here, ideAll]
    · refine run_settle_eq (f := checkSlot u flagged ok bad) ?_
      simp [checkSlot, absent]
    · refine run_settle_eq (f := maskExpire u copyB) ?_
      simp [maskExpire, absent]
    · intro h
      refine ⟨fun more => ?_, fun more => ?_, fun none_ => run_settle_eq (f := maskExpire u false) (maskExpire_none none_)⟩
      · have ⟨setsA, setsB, asked, queue, en⟩ := maskAsk_asks (unitKey u) (modHalf (unitKey u) (setUsed false) s.blk)
        rw [halfOf_modHalf] at setsA setsB queue en
        exact ⟨_, run_settle_eq (f := maskExpire u false) (maskExpire_uses here more), setsA, setsB, asked, queue, en⟩
      · have ⟨setsA, setsB, _⟩ := maskAsk_asks (unitKey u) (modHalf (unitKey u) (setUsed true) s.blk)
        rw [halfOf_modHalf] at setsA setsB
        exact ⟨_, run_settle_eq (f := maskExpire u true) (maskExpire_uses here more), setsB, setsA⟩

end Sys2Proof.Laws

/-!
The entropy source: its states, its tests and the requests that it serves.
-/
namespace Sys2Proof.Laws

open Sys2Proof Sys2Proof.Machine Sys2Proof.Safety

/-! ### The copy that an access reaches -/

theorem at_of_guarded {p q r t : Bool} {x : Where} {i : Nat}
    (h : (if p then .absent else if q then .absent else if r then .absent else if t then .foreign else x) = Where.at_ i) : x = .at_ i := by
  cases p
  · cases q
    · cases r
      · cases t
        · exact h
        · cases h
      · cases h
    · cases h
  · cases h

theorem regPlace_of_at {b : Block} {w : Agent} {r : Reg} {c i : Nat} (place : regIdx b w r c = .at_ i) : regPlace b w r c = .at_ i :=
  at_of_guarded place

/-! ### Its states (R623 to R628) -/

/-- A source that begins its retest, before the IDE halves that stall are told (R625). -/
def retesting (b : Block) : Block := fhNote 229 .none none (fbump F.enStatusRetests 0 1 (fput F.enStatusState 0 2 b))

theorem noteOnly_retesting (b : Block) : NoteOnly (fbump F.enStatusRetests 0 1 (fput F.enStatusState 0 2 b)) (retesting b) :=
  noteOnly_fhNote_any _ _ _ _

theorem enState_retesting (b : Block) : enState (retesting b) = 2 := by
  rw [enState, (noteOnly_retesting b).fget (f := F.enStatusState) rfl (by decide), fbump,
    fget_fput_field F.enStatusRetests F.enStatusState _ _ _ rfl (by decide) (by decide), fget_fput_same _ _ _ _ (by decide)]
  rfl

theorem retests_retesting (b : Block) :
    fget (retesting b) F.enStatusRetests 0 = satAdd F.enStatusRetests.max (fget b F.enStatusRetests 0) 1 := by
  rw [(noteOnly_retesting b).fget (f := F.enStatusRetests) rfl (by decide), fget_fbump_same _ _ _ _ (by decide),
    fget_fput_field F.enStatusState F.enStatusRetests _ _ _ rfl (by decide) (by decide)]

theorem countFail_form (cause : Nat) (b : Block) : ∃ r, countFail cause b = { b with regs := r } := by
  unfold countFail
  split
  · exact ⟨_, rfl⟩
  · split
    · exact ⟨_, rfl⟩
    · exact ⟨b.regs, rfl⟩

theorem healthFail_ready {t : HealthTest} {b : Block} (ready : enState b = 1) (late : ∀ x, b.en.passedAt = some x → x + 10 ^ 9 < b.now) :
    healthFail t b = enRetest (fput F.enStatusCause 0 (HealthTest.cause t) (countFail (HealthTest.cause t) b)) := by
  simp only [healthFail, ready]
  cases passed : b.en.passedAt with
  | none => rfl
  | some x =>
    have passed' : ¬ b.now ≤ x + 10 ^ 9 := Nat.not_le.2 (late x passed)
    simp only [decide_eq_true_eq, if_neg passed']

theorem healthFail_retest {t : HealthTest} {b : Block} (retest : enState b = 2) :
    healthFail t b = enFail (HealthTest.cause t) (countFail (HealthTest.cause t) b) := by
  simp only [healthFail, retest]

theorem enState_enReady (b : Block) : enState (enReady b) = 1 := by
  rw [enState]
  exact fget_fput_fits (f := F.enStatusState) 0 b (by decide) (by decide)

theorem retestDone_pass {b : Block} (retest : enState b = 2) :
    retestDone .pass b = modEn (fun e => { e with passedAt := some b.now }) (enReady b) := by
  simp [retestDone, retest, RetestResult.cause]

/-! ### Its requests (R613, R624) -/

/-- The source once it has taken the request in front. -/
def requestTaken (rest : List EnReq) (b : Block) : Block := modEn (fun e => { e with queue := rest, sinceReseed := e.sinceReseed + 1 }) b

/-- Sixteen words for a tile. -/
def seedsGiven (t : Nat) (b : Block) : Block :=
  modEn (fun e => { e with seeds := tput e.seeds t (tget [] e.seeds t ++ (drawWords 16 b).1) }) (drawWords 16 b).2

theorem drbgServe_seeds {n : Nat} {rest : List EnReq} {b : Block} (ready : enState b = 1) (front : b.en.queue = .seeds n :: rest)
    (few : b.en.sinceReseed + 1 < 2 ^ 16) : drbgServe b = seedsGiven n (requestTaken rest b) := by
  have unseeded : ¬ 2 ^ 16 ≤ b.en.sinceReseed + 1 := by omega
  simp only [drbgServe, front, ready]
  exact if_neg unseeded

/-- A half that is given a set of each copy, and asks no longer (R613). -/
def setsGiven (h : EngineHalf) : EngineHalf :=
  { h with setsA := if h.setsA < 2 then h.setsA + 1 else 2, setsB := if h.setsB < 2 then h.setsB + 1 else 2, asked := false }

/-- A half that has one set of each copy has two then. -/
theorem maskServe_one {k : Nat} {b : Block} (setsA : (halfOf b k).setsA = 1) (setsB : (halfOf b k).setsB = 1) :
    maskServe k b = modHalf k setsGiven b := by
  have given : (halfOf (modHalf k setsGiven b) k) = { halfOf b k with setsA := 2, setsB := 2, asked := false } := by
    rw [halfOf_modHalf, setsGiven, setsA, setsB]
    rfl
  have enough : ((halfOf (modHalf k setsGiven b) k).setsA < 2 || (halfOf (modHalf k setsGiven b) k).setsB < 2) = false := by
    rw [given]
    rfl
  exact if_neg (Bool.eq_false_iff.1 enough)

theorem drbgServe_mask {n : Nat} {rest : List EnReq} {b : Block} (ready : enState b = 1) (front : b.en.queue = .mask n :: rest)
    (few : b.en.sinceReseed + 1 < 2 ^ 16) (keeps : (maskServe n (requestTaken rest b)).en = (requestTaken rest b).en) :
    drbgServe b = maskServe n (requestTaken rest b) := by
  have unseeded : ¬ 2 ^ 16 ≤ (maskServe n (requestTaken rest b)).en.sinceReseed := by
    rw [keeps]
    exact Nat.not_le.2 few
  simp only [drbgServe, front, ready]
  exact if_neg unseeded

/-- Settles O42: each test, retest, restart and request of the source by its state, with the words that it draws left as they come. -/
theorem entropySourceFollowsItsTests : Obligations.EntropySourceFollowsItsTests := by
  unfold Obligations.EntropySourceFollowsItsTests
  intro s w half val b0 i t r
  refine ⟨fun ready late => ?_, fun d => ?_, fun retest => ?_, fun retest => ?_, fun retest failed => ?_, fun retest => ?_, fun other => ⟨?_, ?_⟩,
    fun lands names => ?_, fun ready => ?_, fun other => ⟨?_, ?_⟩, fun n rest ready front few => ?_, fun n rest ready front few setsA setsB => ?_⟩
  · refine ⟨_, run_settle_eq (f := healthFail t) (healthFail_ready ready late), ?_, ?_, ?_⟩
    · exact fget_fput_fits 0 _ (by decide) (by cases t <;> decide)
    · obtain ⟨regs, form⟩ := countFail_form (HealthTest.cause t) s.blk
      rw [form]
      rfl
    · obtain ⟨regs, form⟩ := countFail_form (HealthTest.cause t) s.blk
      rw [form]
      rfl
  · exact ⟨retesting d, rfl, enState_retesting d, retests_retesting d, (noteOnly_retesting d).en⟩
  · exact run_settle_eq (f := healthFail t) (healthFail_retest retest)
  · exact ⟨_, run_settle_eq (f := retestDone .pass) (retestDone_pass retest), enState_enReady s.blk, rfl, rfl, rfl, rfl⟩
  · refine run_settle_eq (f := retestDone r) ?_
    have cause : RetestResult.cause r ≠ 0 := by cases r <;> simp_all [RetestResult.cause]
    simp [retestDone, retest, cause]
  · exact run_settle_eq (f := retestTimeout) (if_pos retest)
  · exact run_settle_eq (f := retestDone r) (if_pos (by simp [other]))
  · exact run_settle_eq (f := retestTimeout) (if_neg other)
  · have stored := wordOnly_storePlain .enCtl i (carry F.enCtlRestart 1 val &&& halfMask half) (halfMask half) b0
    have restart : F.enCtlRestart.on (carry F.enCtlRestart 1 val &&& halfMask half) = true := on_carry_named names (by decide) rfl val
    have state : enState (storePlain .enCtl i (carry F.enCtlRestart 1 val &&& halfMask half) (halfMask half) b0) = enState b0 := by
      have ⟨_, _, _, _, _, _, place⟩ := lands
      cases regPlace_of_at place
      exact congrArg (fun v => qbits v F.enStatusState.hi F.enStatusState.lo) (stored.others .enStatus 0 (regKey_ne (by decide) (by decide) (by decide)))
    refine ⟨_, stored.others, stored.rest, fun failed => ?_, fun other => ?_⟩
    · refine exec_write_applies rfl lands (by decide) rfl ?_
      simp only [regApply, restart, enRestart, state, failed]
      rfl
    · refine exec_write_applies rfl lands (by decide) rfl ?_
      simp only [regApply, restart, enRestart, state, other]
      rfl
  · exact run_eq (f := fun b => if enState b = 1 then reseed b else b) (if_pos ready)
  · exact run_eq (f := fun b => if enState b = 1 then reseed b else b) (b := s.blk) (if_neg other)
  · refine run_settle_eq (f := drbgServe) ?_
    unfold drbgServe
    split
    · rfl
    · exact if_pos (by simp [other])
  · refine ⟨_, run_settle_eq (f := drbgServe) (drbgServe_seeds ready front few), rfl, rfl, ?_⟩
    exact tget_tput_same _ _ _ _
  · have one := maskServe_one (b := requestTaken rest s.blk) setsA setsB
    refine ⟨_, run_settle_eq (f := drbgServe) (drbgServe_mask ready front few (by rw [one]; rfl)), ?_, ?_, ?_, ?_⟩
    all_goals rw [one]
    · rfl
    all_goals rw [halfOf_modHalf]
    · exact (congrArg (fun n => if n < 2 then n + 1 else 2) setsA).trans rfl
    · exact (congrArg (fun n => if n < 2 then n + 1 else 2) setsB).trans rfl
    · rfl

end Sys2Proof.Laws

/-!
Domain time: how Syncs lock it, and how their absence takes it to HOLDOVER and UNLOCKED (R385 to R390).
-/
namespace Sys2Proof.Laws

open Sys2Proof Sys2Proof.Machine Sys2Proof.Safety

/-- `c` is `b` as far as the time, the Syncs and the items are concerned, whatever the time state has become. -/
structure SyncsStand (b c : Block) : Prop where
  now : c.now = b.now
  misses : c.ps.misses = b.ps.misses
  offset : rget c .psOffset 0 = rget b .psOffset 0
  he : c.he = b.he

theorem SyncsStand.refl (b : Block) : SyncsStand b b := ⟨rfl, rfl, rfl, rfl⟩

theorem syncsStand_timeEnter (st : Nat) (b : Block) : SyncsStand b (timeEnter st b) := by
  unfold timeEnter
  split
  · exact .refl b
  · have sig := sigOnly_sgAssert 1858 (fput F.psStatusTimeState 0 st (modPs (fun p => { p with relock := st == 0 && (timeState b == 2 || p.relock) }) b))
    exact ⟨sig.now, (congrArg Ps.misses sig.ps).trans rfl, (sig.regs .psOffset 0 rfl (by decide)).trans
      (rget_rput_other _ _ _ _ _ _ (regKey_ne (by decide) (by decide) (by decide))), sig.he⟩

theorem timeState_timeEnter {st : Nat} (small : st < 4) (b : Block) : timeState (timeEnter st b) = st := by
  unfold timeEnter
  split
  · assumption
  · rw [timeState, (sigOnly_sgAssert 1858 _).fget (f := F.psStatusTimeState) rfl (by decide)]
    exact fget_fput_fits 0 _ (by decide) small

/-- Holdover is entered from LOCKED only (R390). -/
theorem timeHoldover_enters (b : Block) : SyncsStand b (timeHoldover b) ∧
    timeState (timeHoldover b) = (if timeState b = 0 then 1 else timeState b) := by
  unfold timeHoldover
  split
  · have entered := syncsStand_timeEnter 1 b
    have note := noteOnly_fhNote_any 232 .none none (timeEnter 1 b)
    refine ⟨⟨note.now.trans entered.now, (congrArg Ps.misses note.ps).trans entered.misses,
      (note.regs .psOffset 0 rfl (by decide)).trans entered.offset, note.he.trans entered.he⟩, ?_⟩
    rw [timeState, note.fget (f := F.psStatusTimeState) rfl (by decide), ← timeState, timeState_timeEnter (by decide)]
  · exact ⟨.refl b, rfl⟩

/-- The good Syncs in a row once one with this offset has come (R390). -/
def goodSyncs (off : Int) (b : Block) : Nat :=
  if off.natAbs ≤ fget b F.psTimeCtlLimit 0 then satAdd 65535 (fget b F.psOffsetSyncs 0) 1 else 0

/-- The block once a Sync's offset is recorded and the good ones are counted. -/
def syncNoted (time : Nat) (off : Int) (b : Block) : Block :=
  modPs (fun p => { p with misses := 0 })
    (fput F.psOffsetSyncs 0 (goodSyncs off b) (fput F.psOffsetOffset 0 (off % 2 ^ 32).toNat (timeTo time b)))

theorem fget_timeTo {f : Fld} {i : Nat} (time : Nat) (b : Block) (sig : sigReg f.reg = false) (hi : i < 2 ^ 32) :
    fget (timeTo time b) f i = fget b f i := by
  obtain ⟨c, only, later⟩ := timeTo_sigOnly time b
  rw [later]
  exact only.fget sig hi

theorem fget_modPs (g : Ps → Ps) (b : Block) (f : Fld) (i : Nat) : fget (modPs g b) f i = fget b f i := rfl

theorem fget_syncNoted {f : Fld} (time : Nat) (off : Int) (b : Block) (sig : sigReg f.reg = false) (hf : f.reg ≠ .psOffset) :
    fget (syncNoted time off b) f 0 = fget b f 0 := by
  rw [syncNoted, fget_modPs, fget_fput_elsewhere (f := F.psOffsetSyncs) _ _ hf (by decide) (by decide),
    fget_fput_elsewhere (f := F.psOffsetOffset) _ _ hf (by decide) (by decide), fget_timeTo _ _ sig (by decide)]

theorem syncNoted_notes (time : Nat) (off : Int) (b : Block) :
    (syncNoted time off b).now = max b.now time ∧ fget (syncNoted time off b) F.psOffsetOffset 0 = (off % 2 ^ 32).toNat ∧
    fget (syncNoted time off b) F.psOffsetSyncs 0 = goodSyncs off b % 2 ^ 16 ∧ (syncNoted time off b).he = b.he ∧
    ptpDeclared (syncNoted time off b) = ptpDeclared b := by
  have offset : fget (syncNoted time off b) F.psOffsetOffset 0 = (off % 2 ^ 32).toNat :=
    (fget_fput_field F.psOffsetSyncs F.psOffsetOffset 0 _ _ rfl (by decide) (by decide)).trans
      (fget_fput_fits (f := F.psOffsetOffset) 0 _ (by decide) (by simp only [F.psOffsetOffset]; omega))
  refine ⟨?_, offset, fget_fput_same F.psOffsetSyncs 0 _ _ (by decide), ?_, ?_⟩
  all_goals
    obtain ⟨c, only, later⟩ := timeTo_sigOnly time b
    unfold syncNoted
    rw [later]
  · exact max_comm _ _
  · exact only.he
  · have md : c.md = b.md := only.md
    have fuses : c.fuses = b.fuses := only.fuses
    simp only [ptpDeclared, noFabric, variant, dict, modPs, fput, rput, md, fuses]

theorem timeReport_eq (time : Nat) (off : Int) (b : Block) : timeReport time off b =
    if ptpDeclared b = false then timeEnter 3 (syncNoted time off b)
    else if ¬ off.natAbs ≤ fget b F.psTimeCtlLimit 0 then timeHoldover (syncNoted time off b)
    else if timeLimit b F.psTimeCtlRelock ≤ goodSyncs off b then timeEnter 0 (syncNoted time off b) else syncNoted time off b := by
  have limit : fget (fput F.psOffsetOffset 0 (off % 2 ^ 32).toNat (timeTo time b)) F.psTimeCtlLimit 0 = fget b F.psTimeCtlLimit 0 := by
    rw [fget_fput_elsewhere _ _ (by decide) (by decide) (by decide), fget_timeTo _ _ rfl (by decide)]
  have syncs : fget (fput F.psOffsetOffset 0 (off % 2 ^ 32).toNat (timeTo time b)) F.psOffsetSyncs 0 = fget b F.psOffsetSyncs 0 := by
    rw [fget_fput_field F.psOffsetOffset F.psOffsetSyncs _ _ _ rfl (by decide) (by decide), fget_timeTo _ _ rfl (by decide)]
  have declared := (syncNoted_notes time off b).2.2.2.2
  have relock : timeLimit (syncNoted time off b) F.psTimeCtlRelock = timeLimit b F.psTimeCtlRelock := by
    rw [timeLimit, fget_syncNoted _ _ _ rfl (by decide), timeLimit]
  simp only [timeReport, limit, syncs]
  change (if (!ptpDeclared (syncNoted time off b)) = true then timeEnter 3 (syncNoted time off b)
    else if (!decide (off.natAbs ≤ fget b F.psTimeCtlLimit 0)) = true then timeHoldover (syncNoted time off b)
    else if timeLimit (syncNoted time off b) F.psTimeCtlRelock ≤ goodSyncs off b then timeEnter 0 (syncNoted time off b)
    else syncNoted time off b) = _
  simp only [declared, relock, Bool.not_eq_true', decide_eq_false_iff_not]

/-- What a Sync leaves, whatever state it leads to. -/
theorem SyncsStand.notes {time : Nat} {off : Int} {b c : Block} (stands : SyncsStand (syncNoted time off b) c) :
    c.now = max b.now time ∧ c.ps.misses = 0 ∧ fget c F.psOffsetOffset 0 = (off % 2 ^ 32).toNat ∧
    fget c F.psOffsetSyncs 0 = goodSyncs off b % 2 ^ 16 ∧ c.he = b.he := by
  have ⟨now, offset, syncs, he, _⟩ := syncNoted_notes time off b
  exact ⟨stands.now.trans now, stands.misses, (congrArg (fun v => qbits v F.psOffsetOffset.hi F.psOffsetOffset.lo) stands.offset).trans offset,
    (congrArg (fun v => qbits v F.psOffsetSyncs.hi F.psOffsetSyncs.lo) stands.offset).trans syncs, stands.he.trans he⟩

theorem timeReport_state (time : Nat) (off : Int) (b : Block) :
    SyncsStand (syncNoted time off b) (timeReport time off b) ∧ timeState (timeReport time off b) =
      (if ptpDeclared b = false then 3
        else if ¬ off.natAbs ≤ fget b F.psTimeCtlLimit 0 then (if timeState b = 0 then 1 else timeState b)
        else if timeLimit b F.psTimeCtlRelock ≤ goodSyncs off b then 0 else timeState b) := by
  have state : timeState (syncNoted time off b) = timeState b := fget_syncNoted _ _ _ rfl (by decide)
  rw [timeReport_eq]
  split
  · exact ⟨syncsStand_timeEnter 3 _, timeState_timeEnter (by decide) _⟩
  split
  · have ⟨stands, holdover⟩ := timeHoldover_enters (syncNoted time off b)
    exact ⟨stands, holdover.trans (by rw [state])⟩
  split
  · exact ⟨syncsStand_timeEnter 0 _, timeState_timeEnter (by decide) _⟩
  · exact ⟨.refl _, state⟩

theorem timeMiss_state (b : Block) : (timeMiss b).ps.misses = b.ps.misses + 1 ∧ timeState (timeMiss b) =
    (if timeLimit b F.psTimeCtlMiss ≤ b.ps.misses + 1 ∧ timeState b = 0 then 1 else timeState b) := by
  let missed := modPs (fun p => { p with misses := p.misses + 1 }) b
  have ⟨stands, holdover⟩ := timeHoldover_enters missed
  by_cases limit : timeLimit b F.psTimeCtlMiss ≤ b.ps.misses + 1
  · have eq : timeMiss b = timeHoldover missed := if_pos limit
    rw [eq, holdover]
    refine ⟨stands.misses, ?_⟩
    simp only [limit, true_and]
    rfl
  · have eq : timeMiss b = missed := if_neg limit
    rw [eq, if_neg fun both => limit both.1]
    exact ⟨rfl, rfl⟩

/-- Settles O43: a Sync is recorded first, and then leads to the state that its offset and the good ones in a row give. -/
theorem timeStateFollowsTheSyncs : Obligations.TimeStateFollowsTheSyncs := by
  intro s time off good n
  refine ⟨?_, ?_, fun holdover => ⟨run_eq (f := timeUnlock) (if_pos holdover), timeState_timeEnter (by decide) _⟩,
    fun other => run_eq (f := timeUnlock) (b := s.blk) (if_neg other)⟩
  · have ⟨stands, state⟩ := timeReport_state time off s.blk
    obtain ⟨now, misses, offset, syncs, he⟩ := stands.notes
    exact ⟨timeReport time off s.blk, rfl, now, misses, offset, syncs, he, state⟩
  · exact ⟨timeMiss s.blk, rfl, timeMiss_state s.blk⟩

end Sys2Proof.Laws

/-!
The phases of a pitch (R392, R419, R420): each begins from the one before it, not before its instant.
-/
namespace Sys2Proof.Laws

open Sys2Proof Sys2Proof.Machine Sys2Proof.Safety

/-! ### What the passing of time leaves -/

theorem now_timeTo (t : Nat) (b : Block) : (timeTo t b).now = max b.now t := by
  obtain ⟨c, _, later⟩ := timeTo_sigOnly t b
  rw [later]
  exact max_comm _ _

theorem ps_timeTo (t : Nat) (b : Block) : (timeTo t b).ps = b.ps := by
  obtain ⟨c, only, later⟩ := timeTo_sigOnly t b
  rw [later]
  exact only.ps

theorem ft_timeTo (t : Nat) (b : Block) : (timeTo t b).ft = b.ft := by
  obtain ⟨c, only, later⟩ := timeTo_sigOnly t b
  rw [later]
  exact only.ft

theorem he_timeTo (t : Nat) (b : Block) : (timeTo t b).he = b.he := by
  obtain ⟨c, only, later⟩ := timeTo_sigOnly t b
  rw [later]
  exact only.he

theorem md_timeTo (t : Nat) (b : Block) : (timeTo t b).md = b.md := by
  obtain ⟨c, only, later⟩ := timeTo_sigOnly t b
  rw [later]
  exact only.md

theorem fuses_timeTo (t : Nat) (b : Block) : (timeTo t b).fuses = b.fuses := by
  obtain ⟨c, only, later⟩ := timeTo_sigOnly t b
  rw [later]
  exact only.fuses

theorem resendTime_timeTo (t : Nat) (b : Block) : resendTime (timeTo t b) = resendTime b := by
  have least : fMin (timeTo t b) = fMin b := by
    rw [fMin, fMax, fget_timeTo (f := F.ckLimitsFMin) t b rfl (by decide), fget_timeTo (f := F.ckLimitsFMax) t b rfl (by decide), fMin, fMax]
  have variant_ : variant (timeTo t b) = variant b := by rw [variant, fuses_timeTo, variant]
  have dict_ : ∀ i j, dict (timeTo t b) i j = dict b i j := fun i j => by rw [dict, md_timeTo, fuses_timeTo, dict]
  have rate : ropedRate (timeTo t b) = ropedRate b := by simp only [ropedRate, least, variant_, dict_]
  have pending : ropedPending (timeTo t b) = ropedPending b := by rw [ropedPending, ft_timeTo, ropedPending]
  rw [resendTime, rate, pending, resendTime]

/-! ### The phases -/

section

variable {b : Block} {c : Sched} (active : b.ps.sched = some c)

include active

theorem ropedStart_guard (guard : b.ps.phase = 0) :
    ropedStart b = modPs (fun p => { p with phase := 1, relock := false }) (timeTo (b.ps.start + c.guard) b) := by
  simp only [ropedStart, active, guard, if_true]

theorem ropedExtend_roped (roped : b.ps.phase = 1) (first : b.ps.ext = false) (unfinished : ropedDone b c = false) :
    ropedExtend b = slackWindow (modPs (fun p => { p with ext := true })
      (fbump F.psEventsExtended 0 1 (tcCount 6 0x061 none 1 (timeTo (ropedNominal b c) b)))) := by
  simp [ropedExtend, active, roped, first, unfinished]

theorem ropedStop_done (roped : b.ps.phase = 1) (done : ropedDone b c = true) :
    ropedStop b = modPs (fun p => { p with phase := 2, ext := false, ropedEnd := some (timeTo (ropedNominal b c) b).now })
      (timeTo (ropedNominal b c) b) := by
  simp [ropedStop, active, roped, done]

theorem slackStart_free {e : Nat} (free : b.ps.phase = 2) (ended : b.ps.ropedEnd = some e) :
    slackStart b = slackWindow (modPs (fun p => { p with
      phase := 3, slackLen := slackGive c.slack ((timeTo (e + c.free) b).ps.lag + (e - ropedNominal (timeTo (e + c.free) b) c))
        (resendTime (timeTo (e + c.free) b)) }) (timeTo (e + c.free) b)) := by
  simp [slackStart, active, free, ended]

theorem pitchStart_slack {e : Nat} (slack : b.ps.phase = 3) (ended : b.ps.ropedEnd = some e) (stays : swapNext b c = false) :
    pitchStart b = pitchBegin c (b.ps.n + 1) (e + c.free + b.ps.slackLen) b := by
  simp [pitchStart, active, pitchNext, slack, ended, stays]

end

/-! ### The beginning of a pitch -/

/-- The time, and where in the schedule the block stands, whatever its rounds. -/
def ticked (b : Block) : Nat × Ps := (b.now, { b.ps with rounds := [], nextK := [] })

theorem ticked_ensureRound (g c k : Nat) (b : Block) : ticked (ensureRound g c k b) = ticked b := by
  unfold ensureRound
  dsimp only
  split <;> split <;> rfl

theorem ticked_roundsDue (s : Sched) (b : Block) : ticked (roundsDue s b) = ticked b := by
  refine each_keeps ticked _ _ (fun e _ c => ?_) b
  split
  · exact ticked_ensureRound _ _ _ _
  · rfl

theorem ticked_sigOnly {b c : Block} (h : SigOnly b c) : ticked c = ticked b := by rw [ticked, h.now, h.ps, ticked]

theorem ticked_fput (f : Fld) (i v : Nat) (b : Block) : ticked (fput f i v b) = ticked b := rfl

theorem ticked_portLlr (p : Nat) (b : Block) : ticked (portLlr p b) = ticked b := rfl

theorem ticked_pathSwap (b : Block) : ticked (pathSwap b) = ticked b := rfl

theorem ticked_epochRetire (b : Block) : ticked (epochRetire b) = ticked b := by
  unfold epochRetire
  split
  · rw [ticked_sigOnly (sigOnly_sgAssert _ _), ticked_fput]
  · rfl

theorem ticked_epochSwitch (edge : Bool) (b : Block) : ticked (epochSwitch edge b) = ticked b := by
  have ports : ∀ c : Block, ticked (each (List.range 24) (fun p b => if portUp b p then portLlr p b else b) c) = ticked c :=
    each_keeps ticked _ _ fun p _ c => by split <;> rfl
  unfold epochSwitch
  split
  · rfl
  · rw [ticked_epochRetire, ticked_sigOnly (sigOnly_sgAssert _ _), ticked_fput, ticked_fput, ports, ticked_fput, ticked_pathSwap]

/-- Where a pitch begins. -/
theorem ticked_pitchBegin (s : Sched) (n t : Nat) (b : Block) : ticked (pitchBegin s n t b) =
    ticked (modPs (fun p => { p with n := n, start := max b.now t, lag := max b.now t - (s.origin + n * s.len), ropedEnd := none,
                                     ext := false, phase := 0, slackLen := 0 }) (timeTo t b)) := by
  rw [pitchBegin, ticked_roundsDue, ticked_epochSwitch, now_timeTo]

/-- Settles O44: each command does its phase's step where that phase is, and nothing in another. -/
theorem phasesOfAPitchFollowEachOther : Obligations.PhasesOfAPitchFollowEachOther := by
  intro s c active p
  refine ⟨fun guard => ?_, fun other => ?_, fun roped first unfinished => ?_, fun roped done => ?_, fun other => ⟨?_, ?_⟩, fun e free ended => ?_,
    fun e slack ended stays => ?_, fun other => ?_, fun other => ?_⟩
  · refine ⟨_, run_settle_eq (f := ropedStart) (ropedStart_guard active guard), ?_, now_timeTo _ _⟩
    exact congrArg (fun q : Ps => { q with phase := 1, relock := false }) (ps_timeTo _ s.blk)
  · refine run_settle_eq (f := ropedStart) ?_
    simp only [ropedStart, active]
    exact if_neg other
  · have count := sigOnly_tcCount 6 0x061 none 1 (timeTo (ropedNominal s.blk c) s.blk)
    refine ⟨_, run_settle_eq (f := ropedExtend) (ropedExtend_roped active roped first unfinished), ?_, count.now.trans (now_timeTo _ _), ?_⟩
    · exact congrArg (fun q : Ps => { q with ext := true }) (count.ps.trans (ps_timeTo _ s.blk))
    · refine (fget_fbump_same F.psEventsExtended 0 1 _ (by decide)).trans ?_
      rw [count.fget (f := F.psEventsExtended) rfl (by decide), fget_timeTo _ _ rfl (by decide)]
  · refine ⟨_, run_settle_eq (f := ropedStop) (ropedStop_done active roped done), now_timeTo _ _, ?_⟩
    exact congrArg (fun q : Ps => { q with phase := 2, ext := false, ropedEnd := some (timeTo (ropedNominal s.blk c) s.blk).now }) (ps_timeTo _ s.blk)
  · refine run_settle_eq (f := ropedStop) ?_
    simp only [ropedStop, active]
    exact if_pos (by simp [p, other])
  · refine run_settle_eq (f := ropedExtend) ?_
    simp only [ropedExtend, active]
    exact if_pos (by simp [p, other])
  · refine ⟨_, run_settle_eq (f := slackStart) (slackStart_free active free ended), now_timeTo _ _, rfl, ?_, ?_⟩
    · exact (congrArg Ps.n (ps_timeTo (e + c.free) s.blk) :)
    · have nominal : ropedNominal (timeTo (e + c.free) s.blk) c = ropedNominal s.blk c := by rw [ropedNominal, ps_timeTo, ropedNominal]
      change slackGive c.slack ((timeTo (e + c.free) s.blk).ps.lag + (e - ropedNominal (timeTo (e + c.free) s.blk) c))
        (resendTime (timeTo (e + c.free) s.blk)) = _
      rw [nominal, resendTime_timeTo, ps_timeTo]
  · have begun := ticked_pitchBegin c (p.n + 1) (e + c.free + p.slackLen) s.blk
    have now := congrArg Prod.fst begun
    have ps := congrArg Prod.snd begun
    simp only [ticked, modPs, now_timeTo, ps_timeTo, Ps.mk.injEq] at now ps
    obtain ⟨sched, -, -, -, -, -, -, n, start, lag, -, -, phase, -⟩ := ps
    refine ⟨_, run_settle_eq (f := pitchStart) (pitchStart_slack active slack ended stays), now, n, phase, start.trans now.symm, ?_, sched.trans active⟩
    rw [lag, now]
  · refine run_settle_eq (f := pitchStart) ?_
    have waits : pitchNext s.blk c = none := if_neg other
    simp only [pitchStart, active, waits]
  · refine run_settle_eq (f := slackStart) ?_
    simp only [slackStart, active]
    cases s.blk.ps.ropedEnd with
    | none => rfl
    | some e => exact if_pos (bne_iff_ne.2 other)

end Sys2Proof.Laws

/-!
Rounds and schedules: a round that is released, one that is abandoned, and a schedule that is armed, checked and activated.
-/
namespace Sys2Proof.Laws

open Sys2Proof Sys2Proof.Machine Sys2Proof.Safety

/-! ### Rounds (R405, R422) -/

section

variable {b : Block} {card : Nat} {c : Sched} {x : Card} {r : Round} (listed : cardAt b (schedGen b) card = some (c, x))
  (waiting : roundWaiting b card = some r)

include listed waiting

/-- A round released with no fallback to in-order. -/
theorem roundRelease_ready (ready : roundReady b c x r = true) (sends : x.recv = false) :
    roundRelease card b = itemsRelease r.items (modRound r.gen card r.k (fun y => { y with released := some (timeTo (b.ps.start + c.guard + x.offset) b).now })
      (timeTo (b.ps.start + c.guard + x.offset) b)) := by
  simp [roundRelease, listed, waiting, ready, sends]

theorem roundRelease_waits (ready : roundReady b c x r = false) : roundRelease card b = b := by
  simp [roundRelease, listed, waiting, ready]

end

/-- The gate of an item, open. -/
def gateOpen (it : Item) : Item := { it with released := true }

theorem itemsRelease_frame (l : List Nat) (b : Block) : (itemsRelease l b).now = b.now ∧ (itemsRelease l b).ps = b.ps :=
  ⟨each_keeps Block.now l (fun i b => modItem i gateOpen b) (fun _ _ _ => rfl) b,
    each_keeps Block.ps l (fun i b => modItem i gateOpen b) (fun _ _ _ => rfl) b⟩

theorem tfind_itemsRelease (l : List Nat) {n : Nat} {b : Block} {it : Item} (at_ : tfind b.he.items n = some it) :
    tfind (itemsRelease l b).he.items n = some (if n ∈ l then gateOpen it else it) := by
  induction l generalizing b it with
  | nil => simpa [itemsRelease, each] using at_
  | cons i l ih =>
    by_cases same : n = i
    · subst same
      refine (ih (tfind_modItem (f := gateOpen) at_)).trans ?_
      split <;> simp [gateOpen]
    · have other : tfind (modItem i gateOpen b).he.items n = some it := (tfind_tmod_other _ _ same).trans at_
      refine (ih other).trans ?_
      simp [same]

/-- Past the bound of its release: a round of a card that is not settled and not abandoned (R422). -/
def roundLate (b : Block) (card k : Nat) (r : Round) : Bool :=
  r.card == card && r.k == k && !r.settled && !r.abandoned &&
    match cardAt b r.gen card with
    | some (s, c) => abandonAt s c k ≤ b.now
    | none => false

theorem roundAbandon_eq (card k : Nat) (b : Block) : roundAbandon card k b =
    match (b.ps.rounds.find? (fun r => r.gen != schedGen b && roundLate b card k r)).or (b.ps.rounds.find? (roundLate b card k)) with
    | none => b
    | some r => roundAbandonStep 4097 r.gen card k b := rfl

theorem roundAbandon_settled {card k : Nat} {b : Block} (settled : ∀ r, r ∈ b.ps.rounds → r.card = card → r.k = k → r.settled = true) :
    roundAbandon card k b = b := by
  have early : ∀ r, r ∈ b.ps.rounds → roundLate b card k r = false := fun r listed => by
    by_cases named : r.card = card ∧ r.k = k
    · simp [roundLate, settled r listed named.1 named.2]
    · rw [roundLate]
      rcases not_and_or.1 named with other | other <;> simp [other]
  have neither : b.ps.rounds.find? (roundLate b card k) = none := List.find?_eq_none.2 fun r listed => by simp [early r listed]
  have old : b.ps.rounds.find? (fun r => r.gen != schedGen b && roundLate b card k r) = none :=
    List.find?_eq_none.2 fun r listed => by simp [early r listed]
  rw [roundAbandon_eq, neither, old]
  rfl

theorem roundAbandon_late {card k : Nat} {b : Block} {r : Round} {c : Sched} {x : Card} (only : b.ps.rounds = [r]) (card_ : r.card = card)
    (k_ : r.k = k) (open_ : r.settled = false) (live : r.abandoned = false) (listed : cardAt b r.gen card = some (c, x))
    (late : abandonAt c x k ≤ b.now) : roundAbandon card k b = roundAbandonStep 4097 r.gen card k b := by
  subst card_ k_
  have is : roundLate b r.card r.k r = true := by simp [roundLate, open_, live, listed, late]
  rw [roundAbandon_eq, only]
  by_cases old : r.gen = schedGen b
  · simp [old, is]
  · simp [old, is]

/-! ### The check of a schedule (R412, R413, R416) -/

theorem schedError_lt (b : Block) (d : SchedData) (s : Sched) : (schedError b d s).1 < 16 := by
  simp only [schedError]
  split
  · decide
  split
  · exact (by decide : 2 < 16)
  split
  · exact (by decide : 3 < 16)
  split
  · exact (by decide : 4 < 16)
  split
  · exact (by decide : 5 < 16)
  split
  · decide
  split
  · decide
  · decide

/-- The block once the check of a schedule has ended. -/
def checkEnded (b : Block) : Block := modPs (fun p => { p with checking := false }) b

theorem swapChecked_good {data : SchedData} {depot : List Host.Cell} {b : Block} (checking : b.ps.checking = true) :
    let d := schedRead b depot data
    let a := readEvents d.events b
    (schedError a d (shadowSched a d)).1 = 0 →
    swapChecked data depot b = modPs (fun p => { p with staged := some { (shadowSched a d) with origin := swapOrigin a } }) (checkEnded a) := by
  intro d a good
  simp only [swapChecked, checking]
  exact if_pos good

theorem swapChecked_bad {data : SchedData} {depot : List Host.Cell} {b : Block} (checking : b.ps.checking = true) :
    let d := schedRead b depot data
    let a := readEvents d.events b
    let e := schedError a d (shadowSched a d)
    e.1 ≠ 0 → swapChecked data depot b = sgAssert 1860 (fhNote 235 .none none (fput F.psSwapCtlErrCard 0 e.2 (fput F.psSwapCtlErr 0 e.1
      (fput F.psSwapCtlPending 0 0 (checkEnded a))))) := by
  intro d a e bad
  simp only [swapChecked, checking]
  exact if_neg bad

/-! ### The activation of a schedule (R415, R416) -/

theorem foldl_tput_other {α : Type} (f : Nat → Nat) (l : List (Nat × α)) (t : Tbl α) (k : Nat) (h : ∀ e ∈ l, k ≠ f e.1) :
    tfind (l.foldl (fun t e => tput t (f e.1) e.2) t) k = tfind t k := by
  induction l generalizing t with
  | nil => rfl
  | cons e l ih =>
    have ⟨first, rest⟩ := List.forall_mem_cons.mp h
    exact (ih _ rest).trans (tfind_tput_other _ _ _ _ first)

/-- The exchange of the path tables leaves every other register. -/
theorem rget_pathSwap {r : Reg} {i : Nat} (b : Block) (active : r ≠ .ftPathActive) (shadow : r ≠ .ftPathShadow) (hi : i < 2 ^ 32) :
    rget (pathSwap b) r i = rget b r i := by
  have code : regKey r i / 2 ^ 32 = r.code := by simp only [regKey]; omega
  have notActive : r.code ≠ Reg.ftPathActive.code := fun h => active (code_inj h)
  have notShadow : r.code ≠ Reg.ftPathShadow.code := fun h => shadow (code_inj h)
  have find : tfind (pathSwap b).regs (regKey r i) = tfind b.regs (regKey r i) := by
    refine (foldl_tput_other (fun k => (if k / 2 ^ 32 = Reg.ftPathActive.code then Reg.ftPathShadow.code else Reg.ftPathActive.code) * 2 ^ 32 + k % 2 ^ 32)
      _ _ _ fun e _ same => ?_).trans ?_
    · have key := congrArg (fun k => k / 2 ^ 32) same
      simp only [code] at key
      split at key <;> omega
    · refine (tfind_filter_key b.regs (fun k => !(k / 2 ^ 32 == Reg.ftPathActive.code || k / 2 ^ 32 == Reg.ftPathShadow.code)) _).trans (if_pos ?_)
      rw [code]
      simp [notActive, notShadow]
  rw [rget, find, rget]

/-- `c` is `b` as far as the time, the place in the schedule and PS_SWAP_CTL are concerned. -/
structure ScheduleStands (b c : Block) : Prop where
  tick : ticked c = ticked b
  ctl : rget c .psSwapCtl 0 = rget b .psSwapCtl 0

namespace ScheduleStands

variable {b c d : Block}

theorem refl (b : Block) : ScheduleStands b b := ⟨rfl, rfl⟩

theorem trans (h : ScheduleStands b c) (g : ScheduleStands c d) : ScheduleStands b d := ⟨g.tick.trans h.tick, g.ctl.trans h.ctl⟩

theorem of_sigOnly (h : SigOnly b c) : ScheduleStands b c := ⟨ticked_sigOnly h, h.regs .psSwapCtl 0 rfl (by decide)⟩

theorem each {α : Type} {f : α → Block → Block} (h : ∀ a b, ScheduleStands b (f a b)) (l : List α) : ∀ b, ScheduleStands b (Machine.each l f b) := by
  induction l with
  | nil => exact refl
  | cons a l ih => exact fun b => (h a b).trans (ih _)

theorem of_fput {f : Fld} {i : Nat} (v : Nat) (b : Block) (hf : f.reg ≠ .psSwapCtl) (hi : i < 2 ^ 32) : ScheduleStands b (fput f i v b) :=
  ⟨rfl, rget_rput_other _ _ _ _ _ _ (regKey_ne hf.symm (by decide) hi)⟩

end ScheduleStands

theorem scheduleStands_ensureRound (g c k : Nat) (b : Block) : ScheduleStands b (ensureRound g c k b) := by
  refine ⟨ticked_ensureRound g c k b, ?_⟩
  unfold ensureRound
  dsimp only
  split <;> split <;> rfl

theorem scheduleStands_roundsDue (s : Sched) (b : Block) : ScheduleStands b (roundsDue s b) := by
  refine .each (fun e c => ?_) _ b
  split
  · exact scheduleStands_ensureRound _ _ _ _
  · exact .refl c

theorem scheduleStands_epochRetire (b : Block) : ScheduleStands b (epochRetire b) := by
  unfold epochRetire
  split
  · exact .trans (.of_fput (f := F.ftEpochCtlRetiring) 0 b (by decide) (by decide)) (.of_sigOnly (sigOnly_sgAssert _ _))
  · exact .refl b

theorem scheduleStands_epochSwitch (edge : Bool) (b : Block) : ScheduleStands b (epochSwitch edge b) := by
  refine ⟨ticked_epochSwitch edge b, ?_⟩
  have ports : ∀ c : Block, rget (each (List.range 24) (fun p b => if portUp b p then portLlr p b else b) c) .psSwapCtl 0 = rget c .psSwapCtl 0 := by
    refine each_keeps (fun c : Block => rget c .psSwapCtl 0) _ _ fun p hp c => ?_
    have small := List.mem_range.1 hp
    split
    · rw [portLlr, rget_fput_other _ _ _ _ _ _ (regKey_ne (by decide) (by decide) (by omega)),
        rget_fput_other _ _ _ _ _ _ (regKey_ne (by decide) (by decide) (by omega))]
    · rfl
  have ctl : ∀ (f : Fld) (v : Nat) (c : Block), f.reg = .ftEpochCtl → rget (fput f 0 v c) .psSwapCtl 0 = rget c .psSwapCtl 0 := fun f v c hf =>
    rget_fput_other _ _ _ _ _ _ (by rw [hf]; decide)
  unfold epochSwitch
  split
  · rfl
  · rw [(scheduleStands_epochRetire _).ctl, (ScheduleStands.of_sigOnly (sigOnly_sgAssert _ _)).ctl, ctl _ _ _ rfl, ctl _ _ _ rfl, ports, ctl _ _ _ rfl,
      rget_pathSwap _ (by decide) (by decide) (by decide)]

theorem scheduleStands_itemCount (i code n : Nat) (b : Block) : ScheduleStands b (itemCount i code n b) := by
  unfold itemCount
  split
  · exact .refl b
  · unfold countFor
    split
    · split
      · exact .of_sigOnly (sigOnly_tcCount _ _ _ _ _)
      · exact ⟨rfl, rfl⟩
    · exact .of_sigOnly (sigOnly_tcCount _ _ _ _ _)

theorem scheduleStands_specDiscard (i n : Nat) (b : Block) : ScheduleStands b (specDiscard i n b) := by
  unfold specDiscard
  split
  · exact .refl b
  · exact (scheduleStands_itemCount i 0x015 n b).trans (.of_fput (f := F.heSpecDiscardBytes) _ _ (by decide) (by decide))

theorem scheduleStands_itemUnread (i : Nat) (b : Block) : ScheduleStands b (itemUnread i b) := by
  unfold itemUnread
  dsimp only
  split
  · exact ⟨rfl, rfl⟩
  · exact ⟨rfl, rfl⟩

theorem scheduleStands_itemFail (i st aux : Nat) (b : Block) : ScheduleStands b (itemFail i st aux b) := by
  unfold itemFail
  split
  · exact .refl b
  · next it _ =>
    split
    · exact .refl b
    · have spec : ScheduleStands b (if it.committed || dOpcode it.desc = 0x08 then b else specDiscard i it.rd b) := by
        split
        · exact .refl b
        · exact scheduleStands_specDiscard i it.rd b
      exact (spec.trans (scheduleStands_itemUnread i _)).trans ⟨rfl, rfl⟩

theorem scheduleStands_joinRound (i card : Nat) (b : Block) : ScheduleStands b (joinRound i card b) := by
  unfold joinRound
  split
  · exact .refl b
  · dsimp only
    split
    · exact ⟨rfl, rfl⟩
    · split
      · exact ⟨rfl, rfl⟩
      · split <;> split <;> exact ⟨rfl, rfl⟩

theorem scheduleStands_rejoin (i : Nat) (b : Block) : ScheduleStands b (rejoin i b) := by
  unfold rejoin
  split
  · exact .refl b
  · next it _ =>
    have joined := scheduleStands_joinRound i (dCard it.desc - 1) b
    dsimp only
    split
    · split
      · exact joined.trans (.trans (c := modItem i _ _) ⟨rfl, rfl⟩ (scheduleStands_itemFail _ _ _ _))
      · exact joined
    · exact joined

/-- The block once a checked schedule takes the place of the active one, before its first pitch begins. -/
def scheduleSwapped (t : Sched) (g : Nat) (waiting : List Round) (b : Block) : Block :=
  let b := rput .psPitchLenAct 0 (rget b .psPitchLen 0) <| rput .psPhasesAct 0 (rget b .psPhases 0) <|
    rput .psCycleAct 0 (rget b .psCycle 0) b
  let b := fput F.psSwapCtlGen 0 ((g + 1) % 65536) (fput F.psSwapCtlPending 0 0 b)
  let b := modPs (fun p => { p with
    old := p.sched, sched := some t, staged := none, nextK := []
    rounds := p.rounds.filter (fun r => r.released.isSome || (r.abandoned && !r.live.isEmpty && !waiting.any (fun w => w.card == r.card && w.k == r.k && w.gen == r.gen))) }) b
  let b := lossesDue b
  fput F.psSwapCtlRetiring 0 (b2n (b.ps.rounds.any (roundRetires b))) b

theorem fget_lossesDue (b : Block) (f : Fld) (i : Nat) : fget (lossesDue b) f i = fget b f i := rfl

theorem scheduleSwapped_swaps (t : Sched) (waiting : List Round) (b : Block) :
    (scheduleSwapped t (schedGen b) waiting b).ps.sched = some t ∧ (scheduleSwapped t (schedGen b) waiting b).ps.staged = none ∧ (scheduleSwapped t (schedGen b) waiting b).now = b.now ∧
    swapPending (scheduleSwapped t (schedGen b) waiting b) = false ∧ schedGen (scheduleSwapped t (schedGen b) waiting b) = (schedGen b + 1) % 65536 := by
  refine ⟨rfl, rfl, rfl, ?_, ?_⟩
  · rw [swapPending, fon, scheduleSwapped, fget_fput_field F.psSwapCtlRetiring F.psSwapCtlPending _ _ _ rfl (by decide) (by decide), fget_lossesDue,
      fget_modPs, fget_fput_field F.psSwapCtlGen F.psSwapCtlPending _ _ _ rfl (by decide) (by decide), fget_fput_same _ _ _ _ (by decide)]
    rfl
  · rw [schedGen, scheduleSwapped, fget_fput_field F.psSwapCtlRetiring F.psSwapCtlGen _ _ _ rfl (by decide) (by decide), fget_lossesDue, fget_modPs]
    exact fget_fput_fits (f := F.psSwapCtlGen) 0 _ (by decide) (Nat.mod_lt (schedGen b + 1) (Nat.two_pow_pos 16))

/-- Changes of which none changes this block. -/
theorem each_still {α σ : Type} {f : α → σ → σ} {s : σ} (still : ∀ a, f a s = s) (l : List α) : each l f s = s := by
  induction l with
  | nil => rfl
  | cons a l ih => rw [each, still a, ih]

/-- The rounds of the present schedule that have not been released. -/
def roundsWaiting (b : Block) : List Round := b.ps.rounds.filter (fun r => r.gen == schedGen b && r.released.isNone && !r.abandoned)

theorem swapActivate_first {t : Sched} {b : Block} (staged : b.ps.staged = some t) (idle : b.ps.sched = none) :
    swapActivate b = retireCheck (sgAssert 1859 (each (roundsWaiting b) (fun r b => each r.live rejoin b)
      (pitchBegin t 0 t.origin (scheduleSwapped t (schedGen b) (roundsWaiting b) b)))) := by
  have unlisted : ∀ card, cardAt b (schedGen b) card = none := fun card => by simp [cardAt, schedAt, idle]
  have ends : each (roundsWaiting b) (fun r b' => match cardAt b' (schedGen b) r.card with
      | some (_, c) => if c.recv then roundEnd (schedGen b) r.card r.k b' else modRound (schedGen b) r.card r.k (fun x => { x with abandoned := true }) b'
      | none => b') b = b :=
    each_still (fun r => by simp only [unlisted]) _
  simp only [swapActivate, staged, idle]
  exact congrArg (fun d => retireCheck (sgAssert 1859 (each (roundsWaiting b) (fun r b => each r.live rejoin b)
    (pitchBegin t 0 t.origin (scheduleSwapped t (schedGen b) (roundsWaiting b) d))))) ends

/-- A pitch that begins stands where its number and its instant say. -/
theorem pitchBegin_stands (t : Sched) (n at_ : Nat) (b : Block) : ScheduleStands
    (modPs (fun p => { p with n := n, start := max b.now at_, lag := max b.now at_ - (t.origin + n * t.len), ropedEnd := none,
                              ext := false, phase := 0, slackLen := 0 }) (timeTo at_ b)) (pitchBegin t n at_ b) := by
  refine ⟨ticked_pitchBegin t n at_ b, ?_⟩
  rw [pitchBegin, (scheduleStands_roundsDue _ _).ctl, (scheduleStands_epochSwitch _ _).ctl]
  rfl

/-- What the end of a retirement leaves. -/
theorem retireCheck_keeps (b : Block) : (retireCheck b).now = b.now ∧ (retireCheck b).ps.sched = b.ps.sched ∧
    (retireCheck b).ps.staged = b.ps.staged ∧ (retireCheck b).ps.n = b.ps.n ∧ (retireCheck b).ps.phase = b.ps.phase ∧
    swapPending (retireCheck b) = swapPending b ∧ schedGen (retireCheck b) = schedGen b := by
  unfold retireCheck
  split
  · exact ⟨rfl, rfl, rfl, rfl, rfl, rfl, rfl⟩
  · refine ⟨rfl, rfl, rfl, rfl, rfl, ?_, ?_⟩
    · exact congrArg (fun n => n == 1) (fget_fput_field F.psSwapCtlRetiring F.psSwapCtlPending 0 0 b rfl (by decide) (by decide))
    · exact fget_fput_field F.psSwapCtlRetiring F.psSwapCtlGen 0 0 b rfl (by decide) (by decide)

theorem ScheduleStands.ps {b c : Block} (h : ScheduleStands b c) : c.now = b.now ∧ c.ps.sched = b.ps.sched ∧ c.ps.staged = b.ps.staged ∧
    c.ps.n = b.ps.n ∧ c.ps.phase = b.ps.phase ∧ swapPending c = swapPending b ∧ schedGen c = schedGen b := by
  have now := congrArg Prod.fst h.tick
  have ps := congrArg Prod.snd h.tick
  exact ⟨now, (congrArg Ps.sched ps :), (congrArg Ps.staged ps :), (congrArg Ps.n ps :), (congrArg Ps.phase ps :),
    congrArg (fun w => qbits w 62 62 == 1) h.ctl, congrArg (fun w => qbits w 15 0) h.ctl⟩

theorem swapActivate_activates {t : Sched} {b : Block} (staged : b.ps.staged = some t) (idle : b.ps.sched = none) :
    (swapActivate b).ps.sched = some t ∧ (swapActivate b).ps.staged = none ∧ (swapActivate b).ps.n = 0 ∧ (swapActivate b).ps.phase = 0 ∧
    t.origin ≤ (swapActivate b).now ∧ swapPending (swapActivate b) = false ∧ schedGen (swapActivate b) = (schedGen b + 1) % 65536 := by
  rw [swapActivate_first staged idle]
  let swapped := scheduleSwapped t (schedGen b) (roundsWaiting b) b
  have ⟨sched, cleared, _, pending, gen⟩ := scheduleSwapped_swaps t (roundsWaiting b) b
  have ⟨now', sched', staged', n', phase', pending', gen'⟩ := (pitchBegin_stands t 0 t.origin swapped).ps
  have after : ScheduleStands (pitchBegin t 0 t.origin swapped)
      (sgAssert 1859 (each (roundsWaiting b) (fun r b => each r.live rejoin b) (pitchBegin t 0 t.origin swapped))) :=
    (ScheduleStands.each (fun (r : Round) c => ScheduleStands.each scheduleStands_rejoin r.live c) _ _).trans (.of_sigOnly (sigOnly_sgAssert _ _))
  have ⟨now, sched1, staged1, n, phase, pending1, gen1⟩ := after.ps
  have ⟨now2, sched2, staged2, n2, phase2, pending2, gen2⟩ := retireCheck_keeps
    (sgAssert 1859 (each (roundsWaiting b) (fun r b => each r.live rejoin b) (pitchBegin t 0 t.origin swapped)))
  have late : t.origin ≤ (pitchBegin t 0 t.origin swapped).now := by
    rw [now']
    exact (le_max_right swapped.now t.origin).trans_eq (now_timeTo t.origin swapped).symm
  refine ⟨sched2.trans (sched1.trans (sched'.trans ?_)), staged2.trans (staged1.trans (staged'.trans ?_)), n2.trans (n.trans n'),
    phase2.trans (phase.trans phase'), late.trans_eq (now2.trans now).symm, pending2.trans (pending1.trans (pending'.trans ?_)),
    gen2.trans (gen1.trans (gen'.trans ?_))⟩
  · exact (congrArg Ps.sched (ps_timeTo t.origin swapped)).trans sched
  · exact (congrArg Ps.staged (ps_timeTo t.origin swapped)).trans cleared
  · exact (congrArg (fun n => n == 1) (fget_timeTo (f := F.psSwapCtlPending) t.origin swapped rfl (by decide))).trans pending
  · exact (fget_timeTo (f := F.psSwapCtlGen) t.origin swapped rfl (by decide)).trans gen

/-- Settles O45: a ready round is released with its items, a late one abandoned, and a schedule that passed its checks takes the place of
none; after the exchange of the registers no step of the first pitch touches PS_SWAP_CTL. -/
theorem roundsReleaseAndSchedulesSwap : Obligations.RoundsReleaseAndSchedulesSwap := by
  intro s w half val b0 i card k data
  refine ⟨fun c x r listed waiting => ⟨fun ready sends => ?_, fun early => ?_⟩, fun settled => ?_, fun r c x only card_ k_ open_ live listed late => ?_,
    fun lands names => ?_, fun checking => ?_, fun none_ => ?_, fun t staged idle => ?_⟩
  · have ⟨now, ps⟩ := itemsRelease_frame r.items (modRound r.gen card r.k
      (fun y => { y with released := some (timeTo (s.blk.ps.start + c.guard + x.offset) s.blk).now }) (timeTo (s.blk.ps.start + c.guard + x.offset) s.blk))
    refine ⟨_, run_settle_eq (f := roundRelease card) (roundRelease_ready listed waiting ready sends), now.trans (now_timeTo _ _),
      fun y inside named => ?_, fun n it listed at_ => ?_⟩
    · rw [ps] at inside
      obtain ⟨y0, _, rfl⟩ := List.mem_map.1 inside
      by_cases is : roundIs r.gen card r.k y0 = true
      · rw [if_pos is]
        exact congrArg some now.symm
      · rw [if_neg is] at named
        exact absurd named is
    · have at' : tfind (modRound r.gen card r.k (fun y => { y with released := some (timeTo (s.blk.ps.start + c.guard + x.offset) s.blk).now })
          (timeTo (s.blk.ps.start + c.guard + x.offset) s.blk)).he.items n = some it :=
        (congrArg (fun h : He => tfind h.items n) (he_timeTo _ s.blk)).trans at_
      exact (tfind_itemsRelease r.items at').trans (by rw [if_pos listed, gateOpen])
  · exact run_settle_eq (f := roundRelease card) (roundRelease_waits listed waiting early)
  · exact run_settle_eq (f := roundAbandon card k) (roundAbandon_settled settled)
  · exact run_settle_eq (f := roundAbandon card k) (roundAbandon_late only card_ k_ open_ live listed late)
  · have swap : F.psSwapCtlSwap.on (carry F.psSwapCtlSwap 1 val &&& halfMask half) = true := on_carry_named names (by decide) rfl val
    have applies : regApply w .psSwapCtl i (carry F.psSwapCtlSwap 1 val) (halfMask half) b0 = swapArm b0 := by
      simp only [regApply, swap, if_true]
    refine ⟨fun busy => exec_write_ignored rfl lands (by decide) rfl (applies.trans (if_pos ?_)),
      fun pitch idle still => exec_write_applies rfl lands (by decide) rfl (applies.trans (if_neg ?_))⟩
    · rcases busy with busy | busy | busy <;> simp [busy]
    · simp [pitch, idle, still]
  · refine ⟨swapChecked data s.depot s.blk, rfl, ?_, ?_⟩
    · by_cases good : (schedError (readEvents (schedRead s.blk s.depot data).events s.blk) (schedRead s.blk s.depot data)
        (shadowSched (readEvents (schedRead s.blk s.depot data).events s.blk) (schedRead s.blk s.depot data))).1 = 0
      · rw [swapChecked_good checking good]
        rfl
      · rw [swapChecked_bad checking good, (sigOnly_sgAssert _ _).ps, (noteOnly_fhNote_any _ _ _ _).ps]
        rfl
    · intro d a e
      refine ⟨fun good => ?_, fun bad => ?_⟩
      · rw [swapChecked_good checking good]
        exact ⟨rfl, rfl⟩
      · rw [swapChecked_bad checking bad]
        have sig := sigOnly_sgAssert 1860
        have note := noteOnly_fhNote_any 235 .none none
        refine ⟨?_, ?_, ?_⟩
        · rw [(sig _).ps, (note _).ps]
          rfl
        · rw [swapPending, fon, (sig _).fget (f := F.psSwapCtlPending) rfl (by decide), (note _).fget (f := F.psSwapCtlPending) rfl (by decide),
            fget_fput_field F.psSwapCtlErrCard F.psSwapCtlPending _ _ _ rfl (by decide) (by decide),
            fget_fput_field F.psSwapCtlErr F.psSwapCtlPending _ _ _ rfl (by decide) (by decide), fget_fput_same _ _ _ _ (by decide)]
          rfl
        · rw [(sig _).fget (f := F.psSwapCtlErr) rfl (by decide), (note _).fget (f := F.psSwapCtlErr) rfl (by decide),
            fget_fput_field F.psSwapCtlErrCard F.psSwapCtlErr _ _ _ rfl (by decide) (by decide)]
          exact fget_fput_fits (f := F.psSwapCtlErr) 0 _ (by decide) (schedError_lt _ _ _)
  · refine run_settle_eq (f := swapActivate) ?_
    simp only [swapActivate, none_]
  · exact ⟨swapActivate s.blk, rfl, swapActivate_activates staged idle⟩

end Sys2Proof.Laws

/-!
Configuration space: how requests are answered, what a write changes, and DOE Discovery (R430 to R435).
-/
namespace Sys2Proof.Laws

open Sys2Proof Sys2Proof.Machine Sys2Proof.Safety

/-- DOE Discovery of an index that is there (R433). -/
theorem doeAnswer_discovery {i : Nat} (small : i < 3) :
    doeAnswer [1#32, 3#32, BitVec.ofNat 32 i] = [1#32, 3#32, BitVec.ofNat 32 (1 + i * 2 ^ 16 + (i + 1) % 3 * 2 ^ 24)] := by
  have index : bits (BitVec.ofNat 32 i).toNat 7 0 = i := by
    simp only [bits, BitVec.toNat_ofNat]
    omega
  simp only [doeAnswer, index, small, if_true]
  rfl

theorem doeWrite_go {h : Nat} {c : Block} (answers : doeAnswer (tget ([], []) c.hp.doe h).1 ≠ []) :
    (tget ([], []) (doeWrite h 0x3E8 0x80000000#32 c).hp.doe h).2 = doeAnswer (tget ([], []) c.hp.doe h).1 := by
  have put : (doeWrite h 0x3E8 0x80000000#32 c).hp.doe = tset ([], []) c.hp.doe h ([], doeAnswer (tget ([], []) c.hp.doe h).1) := rfl
  rw [put, tget_tset_same _ _ fun empty => answers (congrArg Prod.snd empty)]

/-- A write of a BAR of the PF has no effect but the bits that it changes (R435). -/
theorem cfgEffect_bar {f o : Nat} {mask val : BitVec 32} {b : Block} (pf : f % 128 = 0) (lo : 0x10 ≤ o) (hi : o < 0x28) :
    cfgEffect f o mask val b = cfgPut f o (cfgNew b f o mask val) b := by
  have other : ∀ k, k < 0x10 ∨ 0x28 ≤ k → (o == k) = false := fun k apart => beq_false_of_ne (by omega)
  have mailbox : ¬ 0x3E8 ≤ o := by omega
  simp [cfgEffect, pf, mailbox, other 0x368 (by decide), other 0x370 (by decide), other 0x3C8 (by decide), other 0x3D8 (by decide),
    other 0x44 (by decide), other 0x04 (by decide), other 0x68 (by decide), other 0x3A4 (by decide), other 0x3AC (by decide),
    other (0x3AC + 8) (by decide), other 0x50 (by decide)]

/-- Settles O46: a request is answered by the state of its port and function; only a write that a function takes has an effect. -/
theorem configurationSpaceAnswers : Obligations.ConfigurationSpaceAnswers := by
  intro s h fn off mask val f b
  refine ⟨?_, fun down => ⟨?_, ?_⟩, fun up retry => ⟨?_, ?_⟩, fun up ready absent => ⟨?_, ?_⟩, fun up ready enabled => ⟨?_, fun inside => ?_, fun pf lo hi => ?_⟩⟩
  · intro i l c asked small
    have answer := doeAnswer_discovery small
    have found : doeAnswer (tget ([], []) c.hp.doe h).1 = doeAnswer [1#32, 3#32, BitVec.ofNat 32 i] := congrArg doeAnswer asked
    exact (doeWrite_go (by rw [found, answer]; simp)).trans (found.trans answer)
  · refine run_eq (f := configRead h fn off) ?_
    simp [configRead, down]
  · refine run_settle_eq (f := configWrite h fn off mask val) ?_
    simp [configWrite, down]
  · refine run_eq (f := configRead h fn off) ?_
    simp only [configRead, up, b, f, retry, Bool.not_true, Bool.false_eq_true, if_false, if_true]
  · refine run_settle_eq (f := configWrite h fn off mask val) ?_
    simp only [configWrite, up, b, f, retry, Bool.not_true, Bool.false_eq_true, if_false, if_true]
  · refine run_eq (f := configRead h fn off) ?_
    simp only [configRead, up, b, f, ready, absent, Bool.not_true, Bool.not_false, Bool.false_eq_true, if_false, if_true]
  · refine run_settle_eq (f := configWrite h fn off mask val) ?_
    simp only [configWrite, up, b, f, ready, absent, Bool.not_true, Bool.not_false, Bool.true_or, Bool.false_eq_true, if_false, if_true]
  · intro word
    refine run_eq (f := configRead h fn off) ?_
    simp only [configRead, up, b, f, ready, enabled, Bool.not_true, Bool.false_eq_true, if_false]
    rfl
  · refine run_settle_eq (f := configWrite h fn off mask val) ?_
    have fits : decide (4096 ≤ off / 4 * 4) = false := decide_eq_false (by omega)
    simp only [configWrite, up, b, f, ready, enabled, fits, Bool.not_true, Bool.or_self, Bool.false_eq_true, if_false]
  · exact cfgEffect_bar (by simp [f, pf]) (by omega) (by omega)

end Sys2Proof.Laws

/-!
Bus mastering, power states, BAR sizes and links of a host port (R436, R460 to R469).
-/
namespace Sys2Proof.Laws

open Sys2Proof Sys2Proof.Machine Sys2Proof.Safety

/-! ### BAR sizes (R436) -/

/-- The block with the size of a BAR stored and the address bits below it cleared. -/
def barSized (h : Nat) (vf : Bool) (n : Nat) (b : Block) : Block :=
  let bar := if vf then 0x394 else 0x20
  let b := cfgPut (128 * h) (if vf then 0x3D8 else 0x3C8) (BitVec.ofNat 32 (n * 2 ^ 8)) b
  cfgPut (128 * h) bar (cfgGet b (128 * h) bar &&& BitVec.ofNat 32 (barLow (20 + n)))
    (cfgPut (128 * h) (bar + 4) (cfgGet b (128 * h) (bar + 4) &&& BitVec.ofNat 32 (barHigh (20 + n))) b)

theorem tdiError_unlocked {b : Block} (none_ : b.hp.tdi = []) (fn : Nat) : tdiError fn b = b := by
  have state : tdiOf b fn = 0 := by rw [tdiOf, none_]; rfl
  simp [tdiError, state]

theorem tdi_barSized (h : Nat) (vf : Bool) (n : Nat) (b : Block) : (barSized h vf n b).hp.tdi = b.hp.tdi := rfl

theorem barSize_stores {h n : Nat} {vf : Bool} {b : Block} (up : hostUp b h = true)
    (free : (if vf then cfgBit b (128 * h) 0x368 3 else cfgBit b (128 * h) 0x04 1) = false)
    (offered : if vf then 8 ≤ n ∧ n ≤ 12 else 10 ≤ n ∧ n ≤ 18) (unlocked : b.hp.tdi = []) : barSize h vf n b = barSized h vf n b := by
  have size : (if vf then decide (8 ≤ n) && decide (n ≤ 12) else decide (10 ≤ n) && decide (n ≤ 18)) = true := by
    cases vf <;> simpa using offered
  have still : each (List.range 120) (fun k b => tdiError (128 * h + 1 + k) b) (barSized h vf n b) = barSized h vf n b :=
    each_still (fun k => tdiError_unlocked ((tdi_barSized h vf n b).trans unlocked) _) _
  simp only [barSize, up, free, size, Bool.not_true, Bool.false_eq_true, if_false]
  exact (if_congr Iff.rfl still rfl).trans (ite_self _)

theorem barSize_other {h n : Nat} {vf : Bool} {b : Block} (up : hostUp b h = true)
    (free : (if vf then cfgBit b (128 * h) 0x368 3 else cfgBit b (128 * h) 0x04 1) = false)
    (other : ¬ if vf then 8 ≤ n ∧ n ≤ 12 else 10 ≤ n ∧ n ≤ 18) : barSize h vf n b = b := by
  have size : (if vf then decide (8 ≤ n) && decide (n ≤ 12) else decide (10 ≤ n) && decide (n ≤ 18)) = false := by
    cases vf <;> simpa using other
  simp [barSize, up, free, size]

/-! ### Links (R469) -/

/-- A port whose link has come up, before its functions send what waits. -/
def linkStored (h rate width : Nat) (cx : Bool) (b : Block) : Block :=
  fput F.hpPortStatusLstate h 0 <| fput F.hpPortStatusWidth h width <| fput F.hpPortStatusRate h rate <|
    fput F.hpPortStatusProto h (if cx then 2 else 1) <| fput F.hpPortStatusLinkUp h 1 (modHp (fun p => { p with trained := tput p.trained h width }) b)

theorem linkStored_holds {h rate width : Nat} (cx : Bool) (b : Block) (fast : rate ≤ 6) (wide : width ≤ 16) :
    fget (linkStored h rate width cx b) F.hpPortStatusLinkUp h = 1 ∧ fget (linkStored h rate width cx b) F.hpPortStatusRate h = rate ∧
    fget (linkStored h rate width cx b) F.hpPortStatusWidth h = width ∧
    fget (linkStored h rate width cx b) F.hpPortStatusProto h = if cx then 2 else 1 := by
  refine ⟨?_, ?_, ?_, ?_⟩
  · rw [linkStored, fget_fput_field F.hpPortStatusLstate F.hpPortStatusLinkUp _ _ _ rfl (by decide) (by decide),
      fget_fput_field F.hpPortStatusWidth F.hpPortStatusLinkUp _ _ _ rfl (by decide) (by decide),
      fget_fput_field F.hpPortStatusRate F.hpPortStatusLinkUp _ _ _ rfl (by decide) (by decide),
      fget_fput_field F.hpPortStatusProto F.hpPortStatusLinkUp _ _ _ rfl (by decide) (by decide), fget_fput_same _ _ _ _ (by decide)]
    rfl
  · rw [linkStored, fget_fput_field F.hpPortStatusLstate F.hpPortStatusRate _ _ _ rfl (by decide) (by decide),
      fget_fput_field F.hpPortStatusWidth F.hpPortStatusRate _ _ _ rfl (by decide) (by decide)]
    exact fget_fput_fits (f := F.hpPortStatusRate) h _ (by decide) (lt_of_le_of_lt fast (by decide))
  · rw [linkStored, fget_fput_field F.hpPortStatusLstate F.hpPortStatusWidth _ _ _ rfl (by decide) (by decide)]
    exact fget_fput_fits (f := F.hpPortStatusWidth) h _ (by decide) (lt_of_le_of_lt wide (by decide))
  · rw [linkStored, fget_fput_field F.hpPortStatusLstate F.hpPortStatusProto _ _ _ rfl (by decide) (by decide),
      fget_fput_field F.hpPortStatusWidth F.hpPortStatusProto _ _ _ rfl (by decide) (by decide),
      fget_fput_field F.hpPortStatusRate F.hpPortStatusProto _ _ _ rfl (by decide) (by decide)]
    exact fget_fput_fits (f := F.hpPortStatusProto) h _ (by decide) (by cases cx <;> decide)

theorem linkUp_trains {h rate width : Nat} {cxl : Bool} {b : Block} (present : portPresent b h = true) (away : h ∉ b.hp.perst) (fast : rate ≤ 6) :
    linkUp h rate width cxl b =
      let c := linkStored h rate width (cxl && fon b F.hpPortCtlCxl h && rate == 6) b
      retryFall h (each (portFns c h) (fun fn b => msixFlush fn b) c) := by
  have top : ¬ (if (variant b).hostMax = 2 then 7 else 6) < rate := by split <;> omega
  have trains : (!portPresent b h || b.hp.perst.contains h) = false := by simp [present, away]
  simp only [linkUp, trains, top, Bool.false_eq_true, if_false]
  rfl

/-- The link states of L1, by what the function allows (R463). -/
theorem l1Enter_enters {h : Nat} {b : Block} (up : hostUp b h = true) (allow : fon b F.hpPmCtlL1Allow h = true) (host : cfgBit b (128 * h) 0x70 1 = true)
    (items : b.he.items = []) (wins : b.hp.wins = []) (queue : postQueue b h = []) (awake : fget b F.hpPortStatusLstate h ≤ 1) :
    ∃ v, 2 ≤ v ∧ v ≤ 4 ∧ l1Enter h b = fput F.hpPortStatusLstate h v b := by
  have queue' : tget [] b.hp.queue h = [] := queue
  refine ⟨if cfgBit b (128 * h) 0x348 2 then 4 else if cfgBit b (128 * h) 0x348 3 then 3 else 2, ?_, ?_, ?_⟩
  · split
    · decide
    · split <;> decide
  · split
    · decide
    · split <;> decide
  · simp [l1Enter, up, allow, host, items, wins, queue', awake]

/-- Settles O47: each command of bus mastering, power or link by what its port and function allow. -/
theorem busMasteringAndPowerChange : Obligations.BusMasteringAndPowerChange := by
  intro s h fn n rate width cxl f
  refine ⟨fun enabled => ⟨fun on => ?_, fun off => ?_, ?_⟩, fun absent => ⟨?_, ?_⟩, fun up awake => ?_, fun up asleep => ?_,
    fun vf => ?_, ?_, ?_,
    fun present away fast wide => ?_, fun present => ⟨?_, ?_⟩, fun absent => ⟨?_, ?_⟩⟩
  · refine run_settle_eq (f := bmeClear f) ?_
    simp only [bmeClear, enabled, on, bmeWrite]
    rfl
  · refine run_settle_eq (f := bmeClear f) ?_
    simp only [bmeClear, enabled, off, bmeWrite]
    rfl
  · refine run_settle_eq (f := bmeSet f) ?_
    simp only [bmeSet, enabled, bmeWrite]
    rfl
  · refine run_settle_eq (f := bmeClear f) ?_
    simp [bmeClear, absent]
  · refine run_settle_eq (f := bmeSet f) ?_
    simp [bmeSet, absent]
  · refine run_settle_eq (f := d3Enter h) ?_
    simp [d3Enter, up, awake]
  · refine run_settle_eq (f := d0Enter h) ?_
    simp [d0Enter, up, asleep]
  · intro blocked
    refine ⟨fun down => ?_, fun up is => ?_, fun up free other => ?_, fun up free offered unlocked => ?_⟩
    · refine run_settle_eq (f := barSize h vf n) ?_
      simp [barSize, down]
    · refine run_settle_eq (f := barSize h vf n) ?_
      simp only [barSize, up, Bool.not_true, Bool.false_eq_true, if_false]
      exact if_pos is
    · refine run_settle_eq (f := barSize h vf n) ?_
      exact barSize_other up free other
    · exact run_settle_eq (f := barSize h vf n) (barSize_stores up free offered unlocked)
  · intro up allow host items wins queue awake
    obtain ⟨v, lo, hi, enters⟩ := l1Enter_enters up allow host items wins queue awake
    have state : fget (l1Enter h s.blk) F.hpPortStatusLstate h = v := by
      rw [enters, fget_fput_fits h _ (by decide) (lt_of_le_of_lt hi (by decide))]
    exact ⟨l1Enter h s.blk, rfl, state.symm ▸ lo, state.symm ▸ hi, by rw [enters]; rfl⟩
  · intro up allow rate6 host wide awake
    have narrows : l0pNarrow h s.blk = fput F.hpPortStatusLstate h 1 (fput F.hpPortStatusWidth h (fget s.blk F.hpPortStatusWidth h / 2) s.blk) := by
      simp [l0pNarrow, up, allow, rate6, host, wide, awake]
    refine ⟨l0pNarrow h s.blk, rfl, ?_⟩
    rw [narrows]
    refine ⟨?_, fget_fput_fits h _ (by decide) (by decide), rfl⟩
    have small : fget s.blk F.hpPortStatusWidth h < 2 ^ 5 := qbits_lt _ _ _
    rw [fget_fput_field F.hpPortStatusLstate F.hpPortStatusWidth _ _ _ rfl (by decide) (by decide)]
    exact fget_fput_fits (f := F.hpPortStatusWidth) h _ (by decide) (lt_of_le_of_lt (Nat.div_le_self _ _) small)
  · have ⟨up, rate_, width_, proto⟩ := linkStored_holds (h := h) (cxl && fon s.blk F.hpPortCtlCxl h && rate == 6) s.blk fast wide
    exact ⟨_, run_settle_eq (f := linkUp h rate width cxl) (linkUp_trains present away fast), up, rate_, width_, rfl, proto⟩
  · exact run_eq (f := tlpError h fn) (if_pos present)
  · exact run_eq (f := correctable h) (if_pos present)
  · exact run_eq (f := tlpError h fn) (b := s.blk) (if_neg (by simp [absent]))
  · exact run_eq (f := correctable h) (b := s.blk) (if_neg (by simp [absent]))

end Sys2Proof.Laws

/-!
Resets of functions and of ports (R453 to R457, R467): what they clear, their deadlines, and what link events record.
-/
namespace Sys2Proof.Laws

open Sys2Proof Sys2Proof.Machine Sys2Proof.Safety

/-! ### Messages of a function -/

theorem SigOnly.flr {b c : Block} (h : SigOnly b c) : c.hp.flr = b.hp.flr := (congrArg (fun d : Block => d.hp.flr) h.rest :)

theorem flr_hostWake (h : Nat) (b : Block) : (hostWake h b).hp.flr = b.hp.flr ∧ (hostWake h b).he = b.he := by
  unfold hostWake
  split <;> exact ⟨rfl, rfl⟩

theorem msixSignal_keeps (fn vec : Nat) (b : Block) : (msixSignal fn vec b).hp.flr = b.hp.flr ∧ (msixSignal fn vec b).he = b.he := by
  unfold msixSignal
  split
  · have ⟨flr, he⟩ := flr_hostWake (fn / 128) b
    have sent := sigOnly_emitSignal (fn / 128) (.msix fn vec (rget b .hpMsixAddr (2048 * fn + vec)) (fget b F.hpMsixDataData (2048 * fn + vec))
      (pasidOf b fn)) (pbaSet fn vec false (hostWake (fn / 128) b))
    exact ⟨sent.flr.trans flr, sent.he.trans he⟩
  · exact ⟨rfl, rfl⟩

theorem msixFlush_keeps (fn : Nat) (b : Block) : (msixFlush fn b).hp.flr = b.hp.flr ∧ (msixFlush fn b).he = b.he := by
  constructor
  · refine eachN_keeps (fun c : Block => c.hp.flr) _ _ (fun v _ c => ?_) b
    split
    · exact (msixSignal_keeps fn v c).1
    · rfl
  · refine eachN_keeps (fun c : Block => c.he) _ _ (fun v _ c => ?_) b
    split
    · exact (msixSignal_keeps fn v c).2
    · rfl

/-! ### Resets of functions (R453 to R456) -/

theorem retryFall_keeps (h : Nat) (b : Block) : (retryFall h b).hp.flr = b.hp.flr ∧ (retryFall h b).hp.perst = b.hp.perst ∧
    (retryFall h b).regs = b.regs ∧ (retryFall h b).he = b.he := by
  unfold retryFall
  split <;> exact ⟨rfl, rfl, rfl, rfl⟩

theorem flrDrop_ends (f : Nat) (b : Block) : flrActive (flrDrop f b) f = false ∧ (flrDrop f b).he = b.he := by
  have ⟨flr, he⟩ := msixFlush_keeps f (retryFall (f / 128) (modHp (fun h => { h with flr := srem f h.flr }) b))
  have ⟨flr', _, _, he'⟩ := retryFall_keeps (f / 128) (modHp (fun h => { h with flr := srem f h.flr }) b)
  refine ⟨?_, he.trans he'⟩
  have gone : (flrDrop f b).hp.flr = srem f b.hp.flr := flr.trans flr'
  simp [flrActive, gone, not_mem_srem]

theorem sgHold_keeps {β : Type} (g : Block → β) (held : ∀ s b, g { sgSetMask s true (sgSetPending s false (sgSetCount s 0 b)) with sgServing := srem s b.sgServing } = g b)
    (fn : Nat) (b : Block) : g (sgHold fn b) = g b := by
  refine eachN_keeps g _ _ (fun s _ c => ?_) b
  dsimp only
  split
  · exact held s c
  · rfl

/-- The block once the registers and the configuration of a function are cleared, before its sources are held (R453). -/
def fnWiped (fn : Nat) (b : Block) : Block :=
  let b := modHp (fun h =>
    { h with cfg := h.cfg.filter (fun e => e.1 / 1024 != fn || cfgSticky fn (e.1 % 1024)),
             windows := h.windows.filter (fun e => e.1 / 64 != fn), tdi := tdel h.tdi fn, flr := sins fn h.flr,
             doe := if fn % 128 = 0 then tdel h.doe (fn / 128) else h.doe,
             wins := h.wins.map (fun e => if e.2.fn = fn then (e.1, { e.2 with old := true }) else e) }) b
  let b := rclearRange .hpWinBase (64 * fn) 64 (rclearRange .hpWinLen (64 * fn) 64 (rclearRange .hpWinCtl (64 * fn) 64 b))
  let b := rclear .hpFnPasid fn b
  rclearRange .hpMsixAddr (2048 * fn) 2048 (rclearRange .hpMsixData (2048 * fn) 2048 (rclearRange .hpPba (32 * fn) 32 b))

theorem fnClear_eq (fn : Nat) (b : Block) : fnClear fn b = sgHold fn (fnWiped fn b) := rfl

@[simp] theorem rclearRange_he (r : Reg) (lo n : Nat) (b : Block) : (rclearRange r lo n b).he = b.he := rfl

@[simp] theorem rclearRange_hp (r : Reg) (lo n : Nat) (b : Block) : (rclearRange r lo n b).hp = b.hp := rfl

@[simp] theorem rclearRange_txns (r : Reg) (lo n : Nat) (b : Block) : (rclearRange r lo n b).txns = b.txns := rfl

theorem he_fnWiped (fn : Nat) (b : Block) : (fnWiped fn b).he = b.he := by simp [fnWiped]

theorem txns_fnWiped (fn : Nat) (b : Block) : (fnWiped fn b).txns = b.txns := by simp [fnWiped]

theorem fnClear_clears (f : Nat) (b : Block) :
    flrActive (fnClear f b) f = true ∧ (∀ w, w < 64 → tfind (fnClear f b).hp.windows (64 * f + w) = none) ∧
    (fnClear f b).he = b.he ∧ (fnClear f b).txns = b.txns := by
  have flr : (sgHold f (fnWiped f b)).hp.flr = (fnWiped f b).hp.flr := sgHold_keeps (fun c => c.hp.flr) (fun _ _ => rfl) f (fnWiped f b)
  have windows : (sgHold f (fnWiped f b)).hp.windows = (fnWiped f b).hp.windows := sgHold_keeps (fun c => c.hp.windows) (fun _ _ => rfl) f (fnWiped f b)
  have he : (sgHold f (fnWiped f b)).he = (fnWiped f b).he := sgHold_keeps (fun c => c.he) (fun _ _ => rfl) f (fnWiped f b)
  have txns : (sgHold f (fnWiped f b)).txns = (fnWiped f b).txns := sgHold_keeps (fun c => c.txns) (fun _ _ => rfl) f (fnWiped f b)
  rw [fnClear_eq]
  refine ⟨?_, fun w small => ?_, he.trans (he_fnWiped f b), txns.trans (txns_fnWiped f b)⟩
  · rw [flrActive, flr, List.contains_iff_mem]
    simp [fnWiped, mem_sins]
  · have mine : (64 * f + w) / 64 = f := by omega
    rw [windows]
    simp only [fnWiped, rclearRange_hp, rclear_hp, modHp_hp]
    exact (tfind_filter_key b.hp.windows (fun k => k / 64 != f) _).trans (if_neg (by simp [mine]))

/-! ### Links that are lost (R457, R467) -/

theorem linkLost_fields {proto : Nat} (small : proto < 8) (h : Nat) (b : Block) :
    fget (linkLost h proto b) F.hpPortStatusLinkUp h = 0 ∧ fget (linkLost h proto b) F.hpPortStatusProto h = proto ∧
    fget (linkLost h proto b) F.hpPortStatusDlDowns h = fget b F.hpPortStatusDlDowns h := by
  refine ⟨?_, ?_, ?_⟩
  · rw [linkLost, fget_fput_field F.hpPortStatusLstate F.hpPortStatusLinkUp _ _ _ rfl (by decide) (by decide),
      fget_fput_field F.hpPortStatusWidth F.hpPortStatusLinkUp _ _ _ rfl (by decide) (by decide),
      fget_fput_field F.hpPortStatusRate F.hpPortStatusLinkUp _ _ _ rfl (by decide) (by decide),
      fget_fput_field F.hpPortStatusProto F.hpPortStatusLinkUp _ _ _ rfl (by decide) (by decide), fget_fput_same _ _ _ _ (by decide)]
    rfl
  · rw [linkLost, fget_fput_field F.hpPortStatusLstate F.hpPortStatusProto _ _ _ rfl (by decide) (by decide),
      fget_fput_field F.hpPortStatusWidth F.hpPortStatusProto _ _ _ rfl (by decide) (by decide),
      fget_fput_field F.hpPortStatusRate F.hpPortStatusProto _ _ _ rfl (by decide) (by decide)]
    exact fget_fput_fits (f := F.hpPortStatusProto) h _ (by decide) small
  · rw [linkLost, fget_fput_field F.hpPortStatusLstate F.hpPortStatusDlDowns _ _ _ rfl (by decide) (by decide),
      fget_fput_field F.hpPortStatusWidth F.hpPortStatusDlDowns _ _ _ rfl (by decide) (by decide),
      fget_fput_field F.hpPortStatusRate F.hpPortStatusDlDowns _ _ _ rfl (by decide) (by decide),
      fget_fput_field F.hpPortStatusProto F.hpPortStatusDlDowns _ _ _ rfl (by decide) (by decide),
      fget_fput_field F.hpPortStatusLinkUp F.hpPortStatusDlDowns _ _ _ rfl (by decide) (by decide)]
    rfl

/-- A port whose PERST# is asserted, with its link down. -/
def perstHeld (h : Nat) (b : Block) : Block := modHp (fun p => { p with perst := sins h p.perst }) (linkLost h 3 b)

theorem he_perstHeld (h : Nat) (b : Block) : (perstHeld h b).he = b.he := by simp [perstHeld, linkLost]

theorem fget_modHp (g : Hp → Hp) (b : Block) (f : Fld) (i : Nat) : fget (modHp g b) f i = fget b f i := rfl

theorem perstHeld_holds (h : Nat) (b : Block) : h ∈ (perstHeld h b).hp.perst ∧ fget (perstHeld h b) F.hpPortStatusLinkUp h = 0 ∧
    fget (perstHeld h b) F.hpPortStatusProto h = 3 := by
  have ⟨up, proto, _⟩ := linkLost_fields (by decide : 3 < 8) h b
  refine ⟨mem_sins.2 (.inl rfl), ?_, ?_⟩
  · rw [perstHeld, fget_modHp, up]
  · rw [perstHeld, fget_modHp, proto]

/-- A port whose data link has gone down, before it is told and reset (R467). -/
def dlLost (h : Nat) (b : Block) : Block := fbump F.hpPortStatusDlDowns h 1 (fput F.hpPortStatusRemoved h 1 (linkLost h 4 b))

theorem dlLost_holds (h : Nat) (b : Block) : fget (dlLost h b) F.hpPortStatusRemoved h = 1 ∧ fget (dlLost h b) F.hpPortStatusLinkUp h = 0 ∧
    fget (dlLost h b) F.hpPortStatusProto h = 4 ∧
    fget (dlLost h b) F.hpPortStatusDlDowns h = satAdd F.hpPortStatusDlDowns.max (fget b F.hpPortStatusDlDowns h) 1 := by
  have ⟨up, proto, downs⟩ := linkLost_fields (by decide : 4 < 8) h b
  refine ⟨?_, ?_, ?_, ?_⟩
  · rw [dlLost, fbump, fget_fput_field F.hpPortStatusDlDowns F.hpPortStatusRemoved _ _ _ rfl (by decide) (by decide), fget_fput_same _ _ _ _ (by decide)]
    rfl
  · rw [dlLost, fbump, fget_fput_field F.hpPortStatusDlDowns F.hpPortStatusLinkUp _ _ _ rfl (by decide) (by decide),
      fget_fput_field F.hpPortStatusRemoved F.hpPortStatusLinkUp _ _ _ rfl (by decide) (by decide), up]
  · rw [dlLost, fbump, fget_fput_field F.hpPortStatusDlDowns F.hpPortStatusProto _ _ _ rfl (by decide) (by decide),
      fget_fput_field F.hpPortStatusRemoved F.hpPortStatusProto _ _ _ rfl (by decide) (by decide), proto]
  · rw [dlLost, fget_fbump_same _ _ _ _ (by decide), fget_fput_field F.hpPortStatusRemoved F.hpPortStatusDlDowns _ _ _ rfl (by decide) (by decide), downs]

/-- Settles O48: each reset by what its function or port is; the deadlines act while the reset of the function lasts. -/
theorem functionAndPortResetsTakePlace : Obligations.FunctionAndPortResetsTakePlace := by
  intro s h fn f
  refine ⟨fun enabled => ?_, fun absent => ?_, fnClear_clears f s.blk, fun active => ⟨?_, ?_⟩, fun c => flrDrop_ends f c, fun ended => ?_,
    fun present => ⟨fun en n => ?_, ?_, ?_, ?_, ?_, fun up => ?_⟩, fun down => ?_, ?_⟩
  · refine run_settle_eq (f := flrTake f) ?_
    simp [flrTake, enabled]
  · refine run_settle_eq (f := flrTake f) ?_
    simp [flrTake, absent]
  · exact run_settle_eq (f := flrSource f) (if_pos active)
  · exact run_settle_eq (f := fun b => flrBound f (settle (flrEnd f b))) (congrArg (fun c => flrBound f (settle c)) (if_pos active))
  · exact run_settle_eq (f := flrSource f) (if_neg (by simp [ended]))
  · refine run_settle_eq (f := vfDisable h en n) ?_
    simp [vfDisable, present]
  · exact run_settle_eq (f := hotReset h) (if_pos present)
  · refine ⟨modHp (fun p => { p with retry := sins h p.retry }) s.blk, rfl, ?_, rfl⟩
    rw [cfgRetry, List.contains_iff_mem]
    exact mem_sins.2 (.inl rfl)
  · refine ⟨perstHeld h s.blk, fun port => run_settle_eq (f := perstDown h) ?_, perstHeld_holds h s.blk⟩
    rw [perstDown, present, port]
    rfl
  · have ⟨held, up, proto⟩ := perstHeld_holds h (blockReset s.blk)
    refine ⟨perstHeld h (blockReset s.blk), fun block => run_settle_eq (f := perstDown h) ?_, held, up, proto, he_perstHeld h _⟩
    rw [perstDown, present, block]
    rfl
  · refine ⟨dlLost h s.blk, run_settle_eq (f := dlDown h) ?_, dlLost_holds h s.blk⟩
    simp only [dlDown, present, up]
    rfl
  · refine run_settle_eq (f := dlDown h) ?_
    simp [dlDown, down]
  · have ⟨_, perst, regs, he⟩ := retryFall_keeps h (modHp (fun p => { p with perst := srem h p.perst }) s.blk)
    refine ⟨perstUp h s.blk, rfl, ?_, regs, he⟩
    have same : (perstUp h s.blk).hp.perst = srem h s.blk.hp.perst := perst
    rw [same]
    exact not_mem_srem _ _

end Sys2Proof.Laws

/-!
IDE streams and TDIs of a host port (R473, R474, R619).
-/
namespace Sys2Proof.Laws

open Sys2Proof Sys2Proof.Machine Sys2Proof.Safety

theorem ideSlot_lt {stream sub dir set : Nat} (hstream : stream < 5) (hsub : sub < 3) (hdir : dir < 2) (hset : set < 2) :
    ideSlot stream sub dir set < 60 := by
  simp only [ideSlot]
  omega

/-- A stream that has become insecure, before it is told and its functions are cut (R473). -/
def streamMarked (h stream : Nat) (b : Block) : Block :=
  aerSet h 0x104 28 (modHp (fun p => { p with insecure := sins (8 * h + stream) p.insecure }) b)

theorem ideInsecure_marks {h stream : Nat} {b : Block} (cipher : (variant b).cipher = true) (present : portPresent b h = true) (small : stream < 5)
    (secure : 8 * h + stream ∉ b.hp.insecure) : ideInsecure h stream b =
      each ((portFns (fhRaise (32 * h + 36) (.port h) none false (streamMarked h stream b)) h).filter
        (fun fn => ideBound (fhRaise (32 * h + 36) (.port h) none false (streamMarked h stream b)) fn stream))
        (fun fn b => hostCut fn 0x020 b) (fhRaise (32 * h + 36) (.port h) none false (streamMarked h stream b)) := by
  have inside : ¬ 4 < stream := by omega
  have takes : (!portPresent b h || !(variant b).cipher || decide (4 < stream) || b.hp.insecure.contains (8 * h + stream)) = false := by
    simp [cipher, present, inside, secure]
  simp only [ideInsecure, takes, Bool.false_eq_true, if_false]
  rfl

/-- Settles O50: under a session each key command does its step; a stream becomes insecure once, and a TDI moves from the state it is in. -/
theorem ideStreamsAndTdiStatesChange : Obligations.IdeStreamsAndTdiStatesChange := by
  intro s h n stream sub dir set vf key
  refine ⟨fun cipher present hstream hsub hdir hset => ?_, ⟨?_, ?_, ?_⟩, ?_⟩
  · intro slot
    have small : slot < 60 := ideSlot_lt hstream hsub hdir hset
    refine ⟨⟨ideKeyProg h slot key true s.blk, rfl, ?_⟩, fun keyed => ⟨ideGo h stream sub dir set true s.blk, rfl, ?_⟩, fun empty => ?_,
      fun used => ⟨ideStop h stream sub dir set true s.blk, rfl, ?_⟩, fun secure => ?_, fun insecure => ?_⟩
    · have prog : ideKeyProg h slot key true s.blk = modCe (fun c => { c with ideKeys := tput c.ideKeys (64 * h + slot) key }) s.blk := by
        simp [ideKeyProg, cipher, present, small]
      rw [prog]
      exact ⟨tfind_tput_same _ _ _, fun k other => tfind_tput_other _ _ _ _ other, rfl⟩
    · have go : ideGo h stream sub dir set true s.blk = modHp (fun p => { p with insecure := srem (8 * h + stream) p.insecure })
          (modCe (fun c => { c with ideSet := tput c.ideSet (32 * h + 6 * stream + 2 * sub + dir) set }) s.blk) := by
        have keyed' : (tfind s.blk.ce.ideKeys (64 * h + ideSlot stream sub dir set)).isSome = true := keyed
        simp [ideGo, cipher, present, hstream, hsub, hdir, hset, keyed']
      rw [go]
      exact ⟨tfind_tput_same _ _ _, not_mem_srem _ _, rfl⟩
    · refine run_eq (f := ideGo h stream sub dir set true) ?_
      have empty' : tfind s.blk.ce.ideKeys (64 * h + ideSlot stream sub dir set) = none := empty
      simp [ideGo, empty']
    · have stop : ideStop h stream sub dir set true s.blk =
          modCe (fun c => { c with ideSet := tdel c.ideSet (32 * h + 6 * stream + 2 * sub + dir) }) s.blk := by
        simp [ideStop, cipher, present, used]
      rw [stop]
      exact ⟨rfl, rfl⟩
    · exact ⟨_, run_settle_eq (f := ideInsecure h stream) (ideInsecure_marks cipher present hstream secure), streamMarked h stream s.blk, rfl,
        mem_sins.2 (.inl rfl), rfl⟩
    · refine run_settle_eq (f := ideInsecure h stream) ?_
      simp [ideInsecure, insecure]
  · exact run_eq (f := ideKeyProg h n key false) (b := s.blk) rfl
  · exact run_eq (f := ideGo h stream sub dir set false) (b := s.blk) rfl
  · exact run_eq (f := ideStop h stream sub dir set false) (b := s.blk) rfl
  · intro f
    refine ⟨fun enabled cipher vf_ => ⟨fun free => ⟨tdiRequest f false s.blk, rfl, ?_⟩, fun locked => ⟨tdiRequest f true s.blk, rfl, ?_⟩, fun busy => ?_⟩,
      ⟨tdiStop f s.blk, rfl, rfl, rfl⟩⟩
    · have lock : tdiRequest f false s.blk = modHp (fun h => { h with tdi := tput h.tdi f 1 }) s.blk := by
        simp [tdiRequest, enabled, cipher, vf_, free]
      rw [lock]
      exact ⟨tget_tput_same 0 _ f 1, rfl⟩
    · have start : tdiRequest f true s.blk = modHp (fun h => { h with tdi := tput h.tdi f 2 }) s.blk := by
        simp [tdiRequest, enabled, cipher, vf_, locked]
      rw [start]
      exact ⟨tget_tput_same 0 _ f 2, rfl⟩
    · refine run_eq (f := tdiRequest f false) ?_
      simp [tdiRequest, busy]

end Sys2Proof.Laws

/-!
Commands on partitions (R494 to R518): what refuses them, and the state in which each leaves its partition.
-/
namespace Sys2Proof.Laws

open Sys2Proof Sys2Proof.Machine Sys2Proof.Safety

/-! ### The registers that the end of an item leaves -/

/-- A register that the end of an item can change: what signals change, and the count of discarded bytes. -/
def endReg (r : Reg) : Bool := sigReg r || r == F.heSpecDiscardBytes.reg

/-- `c` has the registers of `b` but for those that the end of an item can change. -/
structure EndRegs (b c : Block) : Prop where
  regs : ∀ r i, endReg r = false → i < 2 ^ 32 → rget c r i = rget b r i

namespace EndRegs

variable {b c d : Block}

theorem refl (b : Block) : EndRegs b b := ⟨fun _ _ _ _ => rfl⟩

theorem trans (h : EndRegs b c) (g : EndRegs c d) : EndRegs b d := ⟨fun r i free hi => (g.regs r i free hi).trans (h.regs r i free hi)⟩

theorem of_regs (same : c.regs = b.regs) : EndRegs b c := ⟨fun _ _ _ _ => by rw [rget, same, rget]⟩

theorem of_sigOnly (h : SigOnly b c) : EndRegs b c := ⟨fun r i free hi => h.regs r i (Bool.or_eq_false_iff.1 free).1 hi⟩

theorem ite {p : Prop} [Decidable p] (hc : EndRegs b c) (hd : EndRegs b d) : EndRegs b (if p then c else d) := by
  split
  · exact hc
  · exact hd

theorem each {α : Type} {f : α → Block → Block} (h : ∀ a b, EndRegs b (f a b)) (l : List α) : ∀ b, EndRegs b (Machine.each l f b) := by
  induction l with
  | nil => exact refl
  | cons a l ih => exact fun b => (h a b).trans (ih _)

theorem fget (h : EndRegs b c) {f : Fld} {i : Nat} (free : endReg f.reg = false) (hi : i < 2 ^ 32) : Machine.fget c f i = Machine.fget b f i :=
  congrArg (fun w => qbits w f.hi f.lo) (h.regs f.reg i free hi)

end EndRegs

theorem endRegs_itemCount (i code n : Nat) (b : Block) : EndRegs b (itemCount i code n b) := by
  unfold itemCount
  split
  · exact .refl b
  · unfold countFor
    split
    · exact .ite (.of_sigOnly (sigOnly_tcCount _ _ _ _ _)) (.of_regs rfl)
    · exact .of_sigOnly (sigOnly_tcCount _ _ _ _ _)

theorem endRegs_specDiscard (i n : Nat) (b : Block) : EndRegs b (specDiscard i n b) := by
  unfold specDiscard
  refine .ite (.refl b) ((endRegs_itemCount i 0x015 n b).trans ⟨fun r j free hj => rget_rput_other _ _ _ _ _ _ (regKey_ne ?_ hj (by decide))⟩)
  rintro rfl
  exact absurd free (by decide)

theorem endRegs_itemUnread (i : Nat) (b : Block) : EndRegs b (itemUnread i b) := by
  unfold itemUnread
  dsimp only
  split
  · exact .of_regs rfl
  · exact .of_regs rfl

theorem endRegs_itemFail (i st aux : Nat) (b : Block) : EndRegs b (itemFail i st aux b) := by
  unfold itemFail
  split
  · exact .refl b
  · next it _ =>
    refine .ite (.refl b) ?_
    have spec : EndRegs b (if it.committed || dOpcode it.desc = 0x08 then b else specDiscard i it.rd b) := .ite (.refl b) (endRegs_specDiscard i it.rd b)
    exact (spec.trans (endRegs_itemUnread i _)).trans (.of_regs rfl)

theorem endRegs_itemLate (i st aux : Nat) (b : Block) : EndRegs b (itemLate i st aux b) := by
  unfold itemLate
  split
  · exact .refl b
  · exact .ite (.refl b) (.of_regs rfl)

theorem endRegs_undoEarly (i : Nat) (b : Block) : EndRegs b (undoEarly i b) := by
  unfold undoEarly
  split
  · refine .ite ?_ (.refl b)
    unfold undo
    split
    · exact .refl b
    · refine .ite (.refl b) ?_
      exact (endRegs_itemUnread i b).trans (.trans (c := modItem i _ _) (.of_regs rfl) (endRegs_specDiscard i _ _))
  · exact .refl b

theorem endRegs_itemEarly (i st : Nat) (b : Block) : EndRegs b (itemEarly i st b) := by
  unfold itemEarly
  split
  · exact .refl b
  · refine .ite (.refl b) ((endRegs_undoEarly i b).trans (.ite (.ite (.refl _) ?_) (endRegs_itemFail _ _ _ _)))
    exact .trans (c := modItem i _ _) (.of_regs rfl) (endRegs_itemLate _ _ _ _)

theorem endRegs_cmdEnds {f : Nat → Nat → Block → Block} (ends : ∀ i st b, EndRegs b (f i st b)) (i st : Nat) (b : Block) : EndRegs b (cmdEnds f i st b) := by
  unfold cmdEnds
  split
  · exact .refl b
  · exact .ite ((ends i st b).trans (.of_regs rfl)) (ends i st b)

/-! ### A command of PT_CMD (R494) -/

/-- The number of an operation in PT_CMD. -/
def opCode (op : PtOp) : Nat :=
  match op with
  | .bind => 1
  | .rebind => 2
  | .park => 3
  | .adopt => 4
  | .reset => 5
  | .release => 6
  | .recompose => 7

theorem ptOpOf_eq {n : Nat} {op : PtOp} (h : ptOpOf n = some op) : n = opCode op := by
  unfold ptOpOf at h
  split at h <;> cases h <;> rfl

theorem ptOpOf_opCode (op : PtOp) : ptOpOf (opCode op) = some op := by cases op <;> rfl

theorem writeOf_ptCommandOf (op : PtOp) (w : Agent) (half : Half) (val : BitVec 64) :
    writeOf (ptCommandOf op w half val) = some (w, .ptCmd, 0, half, carry F.ptCmdOp (opCode op) val, true) := by cases op <;> rfl

theorem op_of_written {half : Half} (names : Names half F.ptCmdOp) (op : PtOp) (val : BitVec 64) :
    ptOpOf (qbits (carry F.ptCmdOp (opCode op) val &&& halfMask half) 63 56) = some op := by
  have code : F.ptCmdOp.of (carry F.ptCmdOp (opCode op) val &&& halfMask half) = opCode op := by
    rw [of_and_halfMask names (by decide), of_carry _ _ (by decide)]
    cases op <;> rfl
  exact (congrArg ptOpOf code).trans (ptOpOf_opCode op)

theorem bankOf_lt_of_lands {b0 b : Block} {w : Agent} {r : Reg} {k i : Nat} (lands : Lands b0 w r k i b) : bankOf w < 2 ^ 32 := by
  obtain ⟨_, reach, _⟩ := lands
  exact bankOf_lt reach

/-- The block once a command has begun to run in its bank. -/
def commandStarted (n : Nat) (b : Block) : Block := fput F.ptCmdStatusBusy n 1 (ptResult n 0 b)

/-- What an accepted command on one partition does. -/
def ptAccepted (n : Nat) (op : PtOp) (p : Nat) (scrub : Bool) (b : Block) : Block :=
  let force := fon b F.idProtFrameForceScrub 0
  let vfs := stagedVfs b n
  let req := stagedReq b n
  let ok := ptResult n 0 b
  match op with
  | .bind => ptEnter p 1 (rebindTo p vfs req ok)
  | .adopt =>
    let b := modPt (fun t => { t with lost := tdel t.lost p, since := tdel t.since p }) (rebindTo p vfs req ok)
    let b := modSq (fun q => { q with cqs := q.cqs.map (fun e =>
      if e.1 / 4096 = p && e.2.orphan == 4 then (e.1, { e.2 with orphan := 5 }) else e) }) b
    ptEnter p (boundOr b p) b
  | .rebind =>
    let stay := vfs ++ (req.filterMap id).filter (fun fn => fn % 128 == 0)
    let leaving := (bindingFns b p).filter (fun fn => !stay.contains fn)
    let c : PtCmd := ⟨.rebind, some n, scrub || force, vfs, req, [], 0, 0, [], leaving, []⟩
    if scrub || force then resetBegin p c (commandStarted n b) else quiesce p c (commandStarted n b)
  | .park => quiesce p ⟨.park, some n, false, [], [], [], 0, 0, [], bindingFns b p, []⟩ (commandStarted n b)
  | _ => resetBegin p ⟨op, some n, scrub || force, [], [], [], 0, 0, [], [], []⟩ (commandStarted n b)

section

variable {w : Agent} {op : PtOp} {p : Nat} {word : BitVec 64} {b : Block} (names : ptOpOf (qbits word 63 56) = some op) (part : p = qbits word 51 48)

theorem ptCommand_busy (busy : fon b F.ptCmdStatusBusy (bankOf w) = true) : ptCommand w word b = none := by
  simp [ptCommand, busy]

include names part

theorem ptCommand_absent (single : op ≠ .recompose) (absent : partPresent b p = false) : ptCommand w word b = none := by
  subst part
  simp [ptCommand, names, single, absent]

theorem ptCommand_taken (single : op ≠ .recompose) (taken : ptTaken b p = true) : ptCommand w word b = none := by
  subst part
  simp only [ptCommand, names]
  split
  · rfl
  · cases op <;> simp_all

variable (idle : fon b F.ptCmdStatusBusy (bankOf w) = false) (single : op ≠ .recompose) (present : partPresent b p = true) (free : ptTaken b p = false)

include idle single present free

theorem ptCommand_refused (refused : ptRefusal b w op p (word.getLsbD 0) (fget b F.ptCmdArgArg (bankOf w)) ≠ 0) : ptCommand w word b =
    some (ptResult (bankOf w) (ptRefusal b w op p (word.getLsbD 0) (fget b F.ptCmdArgArg (bankOf w))) b) := by
  subst part
  simp only [ptCommand, names, idle, present, free]
  cases op <;> simp_all

theorem ptCommand_accepted (accepted : ptRefusal b w op p (word.getLsbD 0) (fget b F.ptCmdArgArg (bankOf w)) = 0) :
    ptCommand w word b = some (ptAccepted (bankOf w) op p (word.getLsbD 0) b) := by
  subst part
  have taken : (fon b F.ptCmdStatusBusy (bankOf w) || (some op != some .recompose && !partPresent b (qbits word 51 48))) = false := by simp [idle, present]
  have ok : (ptRefusal b w op (qbits word 51 48) (word.getLsbD 0) (fget b F.ptCmdArgArg (bankOf w)) != 0) = false := by
    rw [accepted]
    rfl
  simp only [ptCommand, names, taken, Bool.false_eq_true, if_false]
  cases op with
  | recompose => exact absurd rfl single
  | _ =>
    simp only [free, ok, Bool.false_eq_true, if_false]
    rfl

end

/-! ### What an accepted command leaves (R496, R503, R505, R510, R511, R518) -/

theorem busy_commandStarted {n : Nat} (b : Block) : fget (commandStarted n b) F.ptCmdStatusBusy n = 1 :=
  fget_fput_fits (f := F.ptCmdStatusBusy) n _ (by decide) (by decide)

theorem endRegs_ringsDrain (test : Nat → Ring → Bool) (b : Block) : EndRegs b (ringsDrain test b) := .of_regs rfl

/-- A partition that quiesces: its state, and every register that neither that nor the end of an item changes. -/
theorem quiesce_holds {p : Nat} (hp : p < 16) (c : PtCmd) (b : Block) : partState (quiesce p c b) p = 2 ∧
    ∀ (f : Fld) (i : Nat), raiseReg f.reg = false → endReg f.reg = false → i < 2 ^ 32 → fget (quiesce p c b) f i = fget b f i := by
  have after : EndRegs (ptEnter p 2 (ptStart p c b)) (quiesce p c b) :=
    (endRegs_ringsDrain _ _).trans (.each (fun i d => endRegs_cmdEnds endRegs_itemEarly i 0x023 d) _ _)
  refine ⟨?_, fun f i raise free hi => ?_⟩
  · exact (after.fget (f := F.ptPartStatusState) rfl (by omega)).trans (partState_ptEnter hp (by decide) _)
  · exact (after.fget free hi).trans ((raiseRegs_ptEnter (by omega) 2 _).fget raise hi)

theorem fget_resetBegin {p : Nat} (hp : p < 16) (c : PtCmd) (b : Block) {f : Fld} {i : Nat} (raise : raiseReg f.reg = false) (hi : i < 2 ^ 32) :
    fget (resetBegin p c b) f i = fget b f i := (raiseRegs_ptEnter (by omega) 5 _).fget raise hi

/-- A partition of which another enters a state keeps its own. -/
theorem partState_ptEnter_other {p q : Nat} (hp : p < 16) (hq : q < 16) (other : p ≠ q) (b : Block) : partState (ptEnter q 2 b) p = partState b p := by
  by_cases same : partState b q = 2
  · rw [ptEnter, if_pos same]
  · have kept := (tellOnly_ptEnter hq same).regs .ptPartStatus p rfl (by decide) (by omega)
    refine (congrArg (fun v => qbits v 63 61) kept).trans ?_
    exact fget_fput_reg F.ptPartStatusState F.ptPartStatusState q p 2 b (regKey_copy_ne other)

/-- Partitions that quiesce together stay so while the others follow. -/
theorem partState_each_quiesce {p : Nat} (hp : p < 16) (l : List Nat) (small : ∀ q ∈ l, q < 16) : ∀ b,
    partState b p = 2 ∨ p ∈ l → partState (each l (fun p b => ptEnter p 2 b) b) p = 2 := by
  induction l with
  | nil => exact fun b h => h.resolve_right List.not_mem_nil
  | cons q l ih =>
    intro b h
    refine ih (fun r mem => small r (List.mem_cons_of_mem _ mem)) _ ?_
    by_cases at_ : p = q
    · exact .inl (at_ ▸ partState_ptEnter hp (by decide) b)
    · refine h.imp (fun st => (partState_ptEnter_other hp (small q List.mem_cons_self) at_ b).trans st) (fun mem => ?_)
      exact (List.mem_cons.1 mem).resolve_left at_

theorem pt_each_quiesce (l : List Nat) (small : ∀ q ∈ l, q < 16) : ∀ b, (each l (fun p b => ptEnter p 2 b) b).pt = b.pt := by
  induction l with
  | nil => exact fun _ => rfl
  | cons q l ih => exact fun b => (ih (fun r mem => small r (List.mem_cons_of_mem _ mem)) _).trans (pt_ptEnter (small q List.mem_cons_self) 2 b)

theorem raiseRegs_each_quiesce (l : List Nat) (small : ∀ q ∈ l, q < 16) : ∀ b, RaiseRegs b (each l (fun p b => ptEnter p 2 b) b) := by
  induction l with
  | nil => exact .refl
  | cons q l ih =>
    intro b
    have head := small q List.mem_cons_self
    exact (raiseRegs_ptEnter (by omega) 2 b).trans (ih (fun r mem => small r (List.mem_cons_of_mem _ mem)) _)

/-- The partitions of a RECOMPOSE once it has been accepted. -/
def recomposed (n : Nat) (mask : List Nat) (b : Block) : Block :=
  each mask (fun p b => ptEnter p 2 b) (ptStart (mask.headD 0)
    ⟨.recompose, some n, false, [], [], stagedCarve b n mask, 0, 0, mask.map (fun p => (p, partState b p)), [], []⟩ (commandStarted n b))

section

variable {w : Agent} {word : BitVec 64} {b : Block} {mask : List Nat} (names : ptOpOf (qbits word 63 56) = some .recompose)
  (idle : fon b F.ptCmdStatusBusy (bankOf w) = false) (chosen : mask = (List.range 16).filter (fun p => bit (fget b F.ptCmdArgArg (bankOf w)) p))
  (free : mask.any (ptTaken b) = false)

include names idle chosen free

theorem ptCommand_recompose_refused (refused : recomposeRefusal b w (word.getLsbD 0) mask ≠ 0 ∨ mask = []) :
    ptCommand w word b = some (ptResult (bankOf w) (recomposeRefusal b w (word.getLsbD 0) mask) b) := by
  have bad : (recomposeRefusal b w (word.getLsbD 0) mask != 0 || mask.isEmpty) = true := by
    rw [Bool.or_eq_true, bne_iff_ne, List.isEmpty_iff]
    exact refused
  subst chosen
  have one : (some PtOp.recompose != some PtOp.recompose) = false := rfl
  simp only [ptCommand, names, idle, one, Bool.false_and, Bool.false_or, Bool.false_eq_true, if_false, free, bad, if_true]

theorem ptCommand_recompose_accepted (accepted : recomposeRefusal b w (word.getLsbD 0) mask = 0) (some_ : mask ≠ []) :
    ptCommand w word b = some (recomposed (bankOf w) mask b) := by
  have good : (recomposeRefusal b w (word.getLsbD 0) mask != 0 || mask.isEmpty) = false := by
    rw [accepted, Bool.or_eq_false_iff, List.isEmpty_eq_false_iff]
    exact ⟨rfl, some_⟩
  subst chosen
  have one : (some PtOp.recompose != some PtOp.recompose) = false := rfl
  simp only [ptCommand, names, idle, one, Bool.false_and, Bool.false_or, Bool.false_eq_true, if_false, free, good]
  rfl

end

/-- A partition on which nothing is refused is the agent's, and so present (R5). -/
theorem partPresent_of_accepted {b : Block} {w : Agent} {op : PtOp} {p : Nat} {scrub : Bool} {arg : Nat}
    (accepted : ptRefusal b w op p scrub arg = 0) : partPresent b p = true := by
  by_contra absent
  have foreign : owns b w p = false := by simp [owns, absent]
  simp [ptRefusal, codeOf, foreign] at accepted

/-- A partition that takes up work again is STOPPED while it is MALFORMED, and BOUND else. -/
theorem partState_ptEnter_boundOr {p : Nat} (hp : p < 16) (b : Block) :
    partState (ptEnter p (boundOr b p) b) p = (if fon (ptEnter p (boundOr b p) b) F.sqMalformedValid p then 3 else 1) := by
  have kept := (raiseRegs_ptEnter (p := p) (by omega) (boundOr b p) b).fget (f := F.sqMalformedValid) (i := p) rfl (by omega)
  rw [partState_ptEnter hp (by unfold boundOr; split <;> decide), fon, kept]
  rfl

/-- What an accepted command on one partition leaves. -/
theorem ptAccepted_leaves {n p : Nat} (hp : p < 16) (hn : n < 2 ^ 32) (op : PtOp) (scrub : Bool) (b : Block) :
    (op = .adopt → partState (ptAccepted n op p scrub b) p = (if fon (ptAccepted n op p scrub b) F.sqMalformedValid p then 3 else 1)) ∧
    (op = .rebind → (scrub = true ∨ fon b F.idProtFrameForceScrub 0 = true) → partState (ptAccepted n op p scrub b) p = 5) ∧
    (op = .rebind → scrub = false → fon b F.idProtFrameForceScrub 0 = false → partState (ptAccepted n op p scrub b) p = 2) ∧
    (op = .park → partState (ptAccepted n op p scrub b) p = 2) ∧
    (op = .reset ∨ op = .release → partState (ptAccepted n op p scrub b) p = 5 ∧ ∃ c, tfind (ptAccepted n op p scrub b).pt.cmds p = some c ∧
      c.op = op ∧ c.scrub = (scrub || fon b F.idProtFrameForceScrub 0)) ∧
    (op ≠ .recompose → op ≠ .bind → op ≠ .adopt → fget (ptAccepted n op p scrub b) F.ptCmdStatusBusy n = 1) := by
  have runs := fun c => (fget_resetBegin hp c (commandStarted n b) (f := F.ptCmdStatusBusy) rfl hn).trans (busy_commandStarted b)
  have waits := fun c => ((quiesce_holds hp c (commandStarted n b)).2 F.ptCmdStatusBusy n rfl rfl hn).trans (busy_commandStarted b)
  refine ⟨?_, ?_, ?_, ?_, ?_, fun multiple bound adopted => ?_⟩
  · rintro rfl
    exact partState_ptEnter_boundOr hp _
  · rintro rfl scrubs
    have resets : (scrub || fon b F.idProtFrameForceScrub 0) = true := by rwa [Bool.or_eq_true]
    simp only [ptAccepted, resets, if_true]
    exact partState_resetBegin hp _ _
  · rintro rfl rfl free
    simp only [ptAccepted, free, Bool.or_false, Bool.false_eq_true, if_false]
    exact (quiesce_holds hp _ _).1
  · rintro rfl
    exact (quiesce_holds hp _ _).1
  · rintro (rfl | rfl)
    · exact ⟨partState_resetBegin hp _ _, _, cmd_resetBegin hp _ _, rfl, rfl⟩
    · exact ⟨partState_resetBegin hp _ _, _, cmd_resetBegin hp _ _, rfl, rfl⟩
  · cases op with
    | recompose => exact absurd rfl multiple
    | bind => exact absurd rfl bound
    | adopt => exact absurd rfl adopted
    | rebind =>
      simp only [ptAccepted]
      split
      · exact runs _
      · exact waits _
    | park => exact waits _
    | reset => exact runs _
    | release => exact runs _

/-- Settles O51: what is refused is stored or counted; what is accepted is followed to the state that its partition enters. -/
theorem partitionCommandsRunOrAreRefused : Obligations.PartitionCommandsRunOrAreRefused := by
  intro s w half val word b p op code n force arg
  refine ⟨fun lands busy => ?_, fun issues names single => ?_, fun mask issues mask_ free => ?_⟩
  · exact exec_write_ignored_settles (writeOf_ptCommandOf op w half val) lands (by decide) rfl (ptCommand_busy busy)
  · obtain ⟨lands, named, rfl, part, idle⟩ := issues
    obtain rfl := ptOpOf_eq names
    have hp : p < 16 := part ▸ qbits_lt _ 51 48
    have written := op_of_written named op val
    have writes := writeOf_ptCommandOf op w half val
    refine ⟨fun taken => ?_, fun absent => ?_, fun present free refused => ?_, fun free accepted => ?_⟩
    · exact exec_write_ignored_settles writes lands (by decide) rfl (ptCommand_taken written part single taken)
    · exact exec_write_ignored_settles writes lands (by decide) rfl (ptCommand_absent written part single absent)
    · exact exec_write_settles writes lands (by decide) rfl (ptCommand_refused written part idle single present free refused)
    · have present := partPresent_of_accepted accepted
      obtain ⟨adopt, scrubs, quiesces, park, resets, busy⟩ := ptAccepted_leaves hp (bankOf_lt_of_lands lands) op _ b
      refine ⟨_, exec_write_settles writes lands (by decide) rfl (ptCommand_accepted written part idle single present free accepted), ?_, adopt, scrubs,
        quiesces, park, resets, busy single⟩
      rintro rfl
      exact ⟨partState_ptEnter hp (by decide) _, rfl⟩
  · obtain ⟨lands, named, rfl, part, idle⟩ := issues
    have written := op_of_written named .recompose val
    have writes := writeOf_ptCommandOf .recompose w half val
    refine ⟨fun refused => ?_, fun accepted some_ => ?_⟩
    · exact exec_write_settles writes lands (by decide) rfl (ptCommand_recompose_refused written idle mask_ free refused)
    · have small : ∀ q ∈ mask, q < 16 := fun q mem => List.mem_range.1 (List.mem_of_mem_filter (mask_ ▸ mem))
      refine ⟨_, exec_write_settles writes lands (by decide) rfl (ptCommand_recompose_accepted written idle mask_ free accepted some_), fun q mem => ?_, ?_, ?_⟩
      · exact partState_each_quiesce (small q mem) mask small _ (.inr mem)
      · exact ((raiseRegs_each_quiesce mask small _).fget rfl (bankOf_lt_of_lands lands)).trans (busy_commandStarted b)
      · exact ⟨_, (congrArg (fun t => tfind t.cmds (mask.headD 0)) (pt_each_quiesce mask small _)).trans (tfind_tput_same _ _ _), rfl, rfl⟩

end Sys2Proof.Laws

/-!
The ends of partition commands (R503, R510, R511, R514), grants (R72, R74) and mailboxes (R520).
-/
namespace Sys2Proof.Laws

open Sys2Proof Sys2Proof.Machine Sys2Proof.Safety

/-! ### A command ends -/

/-- The end of a command leaves each register that comes before PT_CMD_STATUS. -/
theorem rget_ptDone {r : Reg} {i : Nat} (before : r.code < Reg.ptCmdStatus.code) (hi : i < 2 ^ 32) (k : Nat) (b : Block) :
    rget (ptDone k b) r i = rget b r i := by
  have other : ∀ n, regKey r i ≠ regKey .ptCmdStatus n := by
    intro n
    unfold regKey
    omega
  unfold ptDone
  split
  · rfl
  · dsimp only
    split
    · rfl
    · next n _ =>
      have kept := fun (f : Fld) (hf : f.reg = .ptCmdStatus) v d => rget_fput_other f r n i v d (hf ▸ other n)
      rw [kept _ rfl, kept _ rfl, kept _ rfl, kept _ rfl]
      rfl

theorem partState_ptDone {p : Nat} (hp : p < 16) (k : Nat) (b : Block) : partState (ptDone k b) p = partState b p :=
  congrArg (fun v => qbits v 63 61) (rget_ptDone (r := .ptPartStatus) (by decide) (by omega) k b)

theorem lossAfter_stayed {p : Nat} {gone : List Nat} (stayed : p ∉ gone) (b : Block) : lossAfter p gone b = b := by
  simp [lossAfter, stayed]

/-- The last stage of a reset leaves the partition without a host after RELEASE, and where the host was lost meanwhile (R510, R511, R480). -/
theorem partState_resetEnd {p : Nat} (hp : p < 16) {c : PtCmd} {b : Block} (runs : tfind b.pt.cmds p = some c) :
    (c.op = .reset ∨ c.op = .rebind → partState (resetEnd p b) p = (if p ∈ c.gone then 0 else 1)) ∧
      (c.op = .release → partState (resetEnd p b) p = 0) := by
  have enters : ∀ st d, st < 8 → partState (ptDone p (ptEnter p st d)) p = st := fun st d small =>
    (partState_ptDone hp _ _).trans (partState_ptEnter hp small d)
  by_cases lost : p ∈ c.gone
  · have ends : partState (resetEnd p b) p = 0 := by
      simp only [resetEnd, runs, List.contains_iff_mem.2 lost, if_true]
      exact enters 0 _ (by decide)
    exact ⟨fun _ => by rw [if_pos lost, ends], fun _ => ends⟩
  · have kept : c.gone.contains p = false := by simp [lost]
    rw [if_neg lost]
    refine ⟨?_, fun op => ?_⟩
    · rintro (op | op)
      · simp only [resetEnd, runs, kept, op, Bool.false_eq_true, if_false]
        exact enters 1 _ (by decide)
      · simp only [resetEnd, runs, kept, op, Bool.false_eq_true, if_false]
        exact enters 1 _ (by decide)
    · simp only [resetEnd, runs, kept, op, Bool.false_eq_true, if_false]
      exact enters 0 _ (by decide)

/-! ### A move ends (R514) -/

/-- Two places with one key and one reset value hold the same word. -/
theorem rget_of_key {r q : Reg} {i j : Nat} (key : regKey r i = regKey q j) (reset : regReset r i = regReset q j) (b : Block) :
    rget b r i = rget b q j := by
  rw [rget, rget, key, reset]

/-- The fields of PT_CARVE share no bit with the state of a partition, even one that is not there. -/
theorem carve_fput_state {f : Fld} {e : Nat} (reg : f.reg = .ptCarve) (below : f.hi < 61) (p st : Nat) (b : Block) :
    fget (fput F.ptPartStatusState p st b) f e = fget b f e := by
  by_cases key : regKey .ptCarve e = regKey .ptPartStatus p
  · have word := fun d => rget_of_key key rfl d
    rw [fget, fget, reg, word, word]
    refine (congrArg (fun v => qbits v f.hi f.lo) (rget_rput_same .ptPartStatus p _ b)).trans ?_
    exact qbits_qset_other _ _ _ _ _ _ (by omega) (.inr below)
  · exact fget_fput_reg _ _ _ _ _ _ (reg ▸ key)

/-- A field of PT_CARVE is kept where any partition enters any state. -/
theorem carve_ptEnter {f : Fld} {e : Nat} (he : e < 16) (reg : f.reg = .ptCarve) (below : f.hi < 61) (p st : Nat) (b : Block) :
    fget (ptEnter p st b) f e = fget b f e := by
  have noted : ∀ d, fget (fhNote (256 + 16 * p + 13) .none (some p) d) f e = fget d f e := fun d =>
    RaiseRegs.fget (.of_noteOnly (noteOnly_fhNote_any _ _ _ _)) (by rw [reg]; rfl) (by omega)
  have told : ∀ l : List Nat, (∀ fn ∈ l, fn < 256) → ∀ d, fget (each l mbxPartEvent d) f e = fget d f e := fun l small d =>
    RaiseRegs.fget (.each (fun fn mapped => raiseRegs_mbxPartEvent (by have := small fn mapped; omega)) d) (by rw [reg]; rfl) (by omega)
  unfold ptEnter
  split
  · rfl
  · dsimp only
    rw [told _ (fun fn mapped => partVfs_lt mapped), noted]
    split
    · exact carve_fput_state reg below p st b
    · exact carve_fput_state reg below p st b

/-- RECOMPOSE_MOVE_DONE of one carve-out, with no host lost meanwhile, stores it. -/
theorem recomposeEnd_stores {b : Block} {k e data qps : Nat} {c : PtCmd} (moves : moving b = some (k, c)) (stayed : c.gone = []) (carve : c.carve = [(e, data, qps)])
    (he : e < 16) : fget (recomposeEnd b) F.ptCarveData64k e = data % 2 ^ 12 ∧ fget (recomposeEnd b) F.ptCarveQpShare e = qps % 2 ^ 20 := by
  have losses : ∀ (l : List (Nat × Nat)) d, each l (fun m b => lossAfter m.1 c.gone b) d = d := fun l d =>
    each_keeps id l _ (fun m _ d => lossAfter_stayed (by rw [stayed]; exact List.not_mem_nil) d) d
  have kept : ∀ f : Fld, f.reg = .ptCarve → f.hi < 61 →
      fget (recomposeEnd b) f e = fget (fput F.ptCarveQpShare e qps (fput F.ptCarveData64k e data b)) f e := by
    intro f reg below
    simp only [recomposeEnd, moves, losses, carve]
    have done : ∀ d, fget (ptDone k d) f e = fget d f e := fun d =>
      congrArg (fun v => qbits v f.hi f.lo) (rget_ptDone (r := f.reg) (by rw [reg]; decide) (by omega) k d)
    rw [done]
    exact each_keeps (fun d => fget d f e) _ _ (fun m _ d => carve_ptEnter he reg below _ _ d) _
  rw [kept _ rfl (by decide), kept _ rfl (by decide)]
  refine ⟨?_, fget_fput_same F.ptCarveQpShare e qps _ (by decide)⟩
  rw [fget_fput_field F.ptCarveQpShare F.ptCarveData64k e qps _ rfl (by decide) (by decide)]
  exact fget_fput_same F.ptCarveData64k e data b (by decide)

/-! ### Grants (R72, R74) -/

/-- A write of a register without W1C bits leaves its written word. -/
theorem rget_storePlain_written {r : Reg} (stores : r.bitsOf (· == .w1c) = 0#64) (i : Nat) (val mask : BitVec 64) (b : Block) :
    rget (storePlain r i (val &&& mask) mask b) r i = written b r i val mask := by
  apply BitVec.eq_of_getLsbD_eq
  intro n hn
  rw [getLsbD_storePlain _ _ _ _ _ hn, stores, written]
  simp only [BitVec.getLsbD_and, BitVec.getLsbD_or, BitVec.getLsbD_not, BitVec.getLsbD_zero, Bool.false_and, Bool.false_eq_true, if_false, hn, decide_true, Bool.true_and]
  cases (r.bitsOf (· == .rw)).getLsbD n <;> cases mask.getLsbD n <;> simp

/-! ### Mailboxes (R520) -/

/-- A field of which a write stores and clears no bit is kept. -/
theorem fget_storePlain_kept {f : Fld} (h : f.hi < 64) (fixed : fmask f.hi f.lo &&& (f.reg.bitsOf (· == .rw) ||| f.reg.bitsOf (· == .w1c)) = 0#64)
    (i : Nat) (val mask : BitVec 64) (b : Block) : fget (storePlain f.reg i val mask b) f i = fget b f i := by
  refine of_congr (f := f) (fun n lo hi => ?_)
  have bit := congrArg (fun w : BitVec 64 => w.getLsbD n) fixed
  simp only [BitVec.getLsbD_and, BitVec.getLsbD_or, BitVec.getLsbD_zero, (getLsbD_fmask_iff h).2 ⟨lo, hi⟩, Bool.true_and, Bool.or_eq_false_iff] at bit
  rw [getLsbD_storePlain _ _ _ _ _ (by omega)]
  simp only [BitVec.getLsbD_and, bit, Bool.false_and, Bool.false_eq_true, if_false]

theorem each_append {σ α : Type} (f : α → σ → σ) (l m : List α) : ∀ b, each (l ++ m) f b = each m f (each l f b) := by
  induction l with
  | nil => exact fun _ => rfl
  | cons a l ih => exact fun b => ih (f a b)

/-- Copy quadword `k` of what mailbox `s` sends to its peer. -/
def mbxCopyOne (s k : Nat) (b : Block) : Block := rput .ptMbxRecv (8 * mbxPeer s + k) (rget b .ptMbxSend (8 * s + k)) b

theorem rget_mbxCopied {s : Nat} (hs : s < 512) (n : Nat) (small : n ≤ 8) (b : Block) :
    (∀ k, k < n → rget (eachN n (mbxCopyOne s) b) .ptMbxRecv (8 * mbxPeer s + k) = rget b .ptMbxSend (8 * s + k)) ∧
      ∀ k, k < 8 → rget (eachN n (mbxCopyOne s) b) .ptMbxSend (8 * s + k) = rget b .ptMbxSend (8 * s + k) := by
  have peer : mbxPeer s < 512 := by unfold mbxPeer; split <;> omega
  induction n with
  | zero => exact ⟨fun k hk => absurd hk (Nat.not_lt_zero k), fun k _ => rfl⟩
  | succ n ih =>
    obtain ⟨copied, kept⟩ := ih (by omega)
    have last : eachN (n + 1) (mbxCopyOne s) b = mbxCopyOne s n (eachN n (mbxCopyOne s) b) := by
      unfold eachN
      rw [List.range_succ, each_append]
      rfl
    rw [last]
    refine ⟨fun k hk => ?_, fun k hk => ?_⟩
    · by_cases new : k = n
      · rw [new]
        exact (rget_rput_same _ _ _ _).trans (kept n (by omega))
      · exact (rget_rput_other _ _ _ _ _ _ (regKey_copy_ne (by omega))).trans (copied k (by omega))
    · exact (rget_rput_other _ _ _ _ _ _ (regKey_ne (by decide) (by omega) (by omega))).trans (kept k hk)

/-- The mailbox that a SEND fills: its eight quadwords copied (R520). -/
def mbxCopied (s : Nat) (b : Block) : Block := eachN 8 (mbxCopyOne s) b

theorem mbxSend_sends {s : Nat} (hs : s < 512) {b : Block} (free : fon b F.ptMbxCtlPending s = false) :
    (∀ k, k < 8 → rget (mbxSend s b) .ptMbxRecv (8 * mbxPeer s + k) = rget b .ptMbxSend (8 * s + k)) ∧
      fget (mbxSend s b) F.ptMbxCtlFull (mbxPeer s) = 1 ∧ fget (mbxSend s b) F.ptMbxCtlPending s = 1 := by
  have apart : mbxPeer s ≠ s := by unfold mbxPeer; split <;> omega
  have peer : mbxPeer s < 512 := by unfold mbxPeer; split <;> omega
  have sends : mbxSend s b = sgAssert (mbxSource (mbxPeer s)) (fput F.ptMbxCtlFull (mbxPeer s) 1 (fput F.ptMbxCtlPending s 1 (mbxCopied s b))) := by
    rw [mbxSend, if_neg (by simp [free])]
    rfl
  have told := sigOnly_sgAssert (mbxSource (mbxPeer s)) (fput F.ptMbxCtlFull (mbxPeer s) 1 (fput F.ptMbxCtlPending s 1 (mbxCopied s b)))
  rw [sends]
  refine ⟨fun k hk => ?_, ?_, ?_⟩
  · rw [told.regs .ptMbxRecv _ rfl (by omega)]
    exact (rget_fput_other _ _ _ _ _ _ (regKey_ne (by decide) (by omega) (by omega))).trans
      ((rget_fput_other _ _ _ _ _ _ (regKey_ne (by decide) (by omega) (by omega))).trans ((rget_mbxCopied hs 8 (Nat.le_refl 8) b).1 k hk))
  · rw [told.fget rfl (by omega)]
    exact fget_fput_fits _ _ (by decide) (by decide)
  · rw [told.fget rfl (by omega), fget_fput_reg F.ptMbxCtlFull F.ptMbxCtlPending _ _ _ _ (regKey_copy_ne apart.symm)]
    exact fget_fput_fits _ _ (by decide) (by decide)

theorem mbxAck_acks {s : Nat} (hs : s < 512) {b : Block} (full : fon b F.ptMbxCtlFull s = true) :
    fget (mbxAck s b) F.ptMbxCtlFull s = 0 ∧ fget (mbxAck s b) F.ptMbxCtlPending (mbxPeer s) = 0 := by
  have apart : mbxPeer s ≠ s := by unfold mbxPeer; split <;> omega
  have peer : mbxPeer s < 512 := by unfold mbxPeer; split <;> omega
  have told := sigOnly_sgAssert (mbxSource (mbxPeer s)) (fput F.ptMbxCtlFull s 0 (fput F.ptMbxCtlPending (mbxPeer s) 0 b))
  rw [mbxAck, if_pos full, told.fget rfl (by omega), told.fget rfl (by omega)]
  refine ⟨fget_fput_fits _ _ (by decide) (by decide), ?_⟩
  rw [fget_fput_reg F.ptMbxCtlFull F.ptMbxCtlPending _ _ _ _ (regKey_copy_ne apart)]
  exact fget_fput_fits _ _ (by decide) (by decide)

/-- A SEND while PENDING is counted, and no quadword moves (R520). -/
theorem ignored_mbxSend {s : Nat} (hs : s < 512) {b : Block} (pending : fon b F.ptMbxCtlPending s = true) (w : Agent) :
    fget (ignored .pt w none (mbxSend s b)) F.ptMbxCtlIgnored s = satAdd F.ptMbxCtlIgnored.max (fget b F.ptMbxCtlIgnored s) 1 ∧
      ∀ i, i < 2 ^ 32 → rget (ignored .pt w none (mbxSend s b)) .ptMbxRecv i = rget b .ptMbxRecv i := by
  have counts : mbxSend s b = fbump F.ptMbxCtlIgnored s 1 b := if_pos pending
  have unit : UnitId.pt.row < 2 ^ 32 := by decide
  have kept : ∀ r i, noteReg r i = false → r ≠ .idIgnored → i < 2 ^ 32 → rget (ignored .pt w none (mbxSend s b)) r i = rget (mbxSend s b) r i := by
    intro r i quiet other hi
    have counted : rget (ignoredCounted .pt w (mbxSend s b)) r i = rget (mbxSend s b) r i := rget_fput_other _ _ _ _ _ _ (regKey_ne other hi unit)
    rcases ignored_form .pt w none (mbxSend s b) with same | ⟨p, _, noted⟩
    · rw [same, counted]
    · rw [noted, (noteOnly_fhNote_any _ _ _ _).regs r i quiet hi, counted]
  refine ⟨?_, fun i hi => ?_⟩
  · rw [← fget_fbump_same F.ptMbxCtlIgnored s 1 b (by decide), ← counts]
    exact congrArg (fun v => qbits v 15 0) (kept .ptMbxCtl s rfl (by decide) (by omega))
  · rw [kept .ptMbxRecv i rfl (by decide) hi, counts]
    exact rget_fput_other _ _ _ _ _ _ (regKey_ne (by decide) hi (by omega))

/-- A write of PT_MBX_CTL that neither acknowledges nor sends changes PENDING, FULL and IGNORED nowhere, and no quadword. -/
theorem mbxStored_keeps {s : Nat} (hs : s < 512) (val mask : BitVec 64) (b : Block) :
    fon (storePlain .ptMbxCtl s val mask b) F.ptMbxCtlPending s = fon b F.ptMbxCtlPending s ∧
      fon (storePlain .ptMbxCtl s val mask b) F.ptMbxCtlFull s = fon b F.ptMbxCtlFull s ∧
      fget (storePlain .ptMbxCtl s val mask b) F.ptMbxCtlIgnored s = fget b F.ptMbxCtlIgnored s ∧
      ∀ r i, r ≠ .ptMbxCtl → i < 2 ^ 32 → rget (storePlain .ptMbxCtl s val mask b) r i = rget b r i := by
  refine ⟨congrArg (· == 1) ?_, congrArg (· == 1) ?_, ?_, fun r i other hi => ?_⟩
  · exact fget_storePlain_kept (f := F.ptMbxCtlPending) (by decide) (by decide) s val mask b
  · exact fget_storePlain_kept (f := F.ptMbxCtlFull) (by decide) (by decide) s val mask b
  · exact fget_storePlain_kept (f := F.ptMbxCtlIgnored) (by decide) (by decide) s val mask b
  · exact (wordOnly_storePlain _ _ _ _ _).others r i (regKey_ne other hi (by omega))

section

variable {w : Agent} {s : Nat} {val mask : BitVec 64} {b : Block}

theorem mbxWrite_sends (sends : F.ptMbxCtlSend.on val = true) (acks : F.ptMbxCtlAck.on val = false)
    (free : fon (storePlain .ptMbxCtl s val mask b) F.ptMbxCtlPending s = false) :
    mbxWrite w s val mask b = mbxSend s (storePlain .ptMbxCtl s val mask b) := by
  simp [mbxWrite, sends, acks, free]

theorem mbxWrite_ignores (sends : F.ptMbxCtlSend.on val = true) (acks : F.ptMbxCtlAck.on val = false)
    (pending : fon (storePlain .ptMbxCtl s val mask b) F.ptMbxCtlPending s = true) :
    mbxWrite w s val mask b = ignored .pt w none (mbxSend s (storePlain .ptMbxCtl s val mask b)) := by
  simp [mbxWrite, sends, acks, pending]

theorem mbxWrite_acks (sends : F.ptMbxCtlSend.on val = false) (acks : F.ptMbxCtlAck.on val = true) :
    mbxWrite w s val mask b = mbxAck s (storePlain .ptMbxCtl s val mask b) := by
  simp [mbxWrite, sends, acks]

end

/-- A one-bit field that the access names, and that what is written leaves at 0, is not on. -/
theorem off_carry {half : Half} {f g : Fld} {val : BitVec 64} (names : Names half g) (h : g.hi < 64) (apart : f.hi < g.lo ∨ g.hi < f.lo) (zero : g.of val = 0) :
    g.on (carry f 1 val &&& halfMask half) = false := by
  rw [Fld.on, of_and_halfMask names h, of_carry_other 1 val h apart, zero]
  rfl

/-- Settles O52: each deadline and hand-over is its function, of which the states and registers are followed; the mailbox writes by their bits. -/
theorem partitionDeadlinesAndMailboxes : Obligations.PartitionDeadlinesAndMailboxes := by
  intro s p hp
  refine ⟨fun other st => ?_, fun resetting => ⟨?_, ?_, fun c runs => ?_⟩, fun c runs quiet => ⟨fun op => ?_, fun point op stayed => ?_, fun point op => ?_, fun early => ?_⟩,
    fun other => ⟨?_, ?_⟩, fun k c moves => ?_, fun w half val b i g lands hi => ?_, fun w half val b i lands send ack hi noAck noSend => ⟨fun free => ?_, fun pending => ?_, fun full => ?_⟩⟩
  · have kept : ¬(st = .final ∧ scrubs s.blk p) := by simp [scrubs, other]
    have none : resetStage p st s.blk = s.blk := if_pos (by simp [other])
    have depot : (if st = .final ∧ scrubs s.blk p then depotCut p 0 s.depot else s.depot) = s.depot := if_neg kept
    exact (congrArg (fun d => run (fun b => settle (resetStage p st b)) { s with depot := d }) depot).trans (run_settle_eq (f := resetStage p st) none)
  · exact run_settle_eq (f := resetStage p .uncommitted) (by simp [resetStage, resetting])
  · exact run_settle_eq (f := resetStage p .committed) (by simp [resetStage, resetting])
  · have ends : resetStage p .final s.blk = resetEnd p s.blk := by simp [resetStage, resetting]
    obtain ⟨stays, leaves⟩ := partState_resetEnd hp runs
    exact ⟨_, _, rfl, by rwa [ends], by rwa [ends]⟩
  · exact rfl
  · refine run_settle_eq (f := handover p) ?_
    simp only [handover, runs, quiet, point, op]
    exact lossAfter_stayed stayed _
  · refine run_settle_eq (f := handover p) ?_
    simp only [handover, runs, quiet, point, op] <;> rfl
  · refine run_settle_eq (f := handover p) ?_
    simp [handover, runs, early]
  · refine run_settle_eq (f := belayEnd p) ?_
    unfold belayEnd
    split
    · rfl
    · simp [other]
  · refine run_settle_eq (f := handover p) ?_
    unfold handover
    split
    · rfl
    · simp [other]
  · refine ⟨_, rfl, fun stayed bank e carve he => ?_⟩
    exact recomposeEnd_stores moves stayed carve he
  · refine ⟨_, exec_write_applies rfl lands (by decide) rfl rfl, ?_, ?_⟩
    · exact rget_storePlain_written rfl i val (halfMask half) b
    · have others := (wordOnly_storePlain .ptGrantCtl i (val &&& halfMask half) (halfMask half) b).others
      have base := others .ptGrantBase i (regKey_ne (by decide) hi hi)
      have limit := others .ptGrantLimit i (regKey_ne (by decide) hi hi)
      exact (tfind_tput_same _ _ _).trans (congrArg some (Prod.ext (congrArg (fun v => qbits v F.ptGrantBaseBase.hi F.ptGrantBaseBase.lo) base)
        (congrArg (fun v => qbits v F.ptGrantLimitLimit.hi F.ptGrantLimitLimit.lo) limit)))
  · obtain ⟨pends, fulls, counts, others⟩ := mbxStored_keeps hi (carry F.ptMbxCtlSend 1 val &&& halfMask half) (halfMask half) b
    obtain ⟨copied, filled, waits⟩ := mbxSend_sends hi (pends.trans free)
    have sends : F.ptMbxCtlSend.on (carry F.ptMbxCtlSend 1 val &&& halfMask half) = true := on_carry_named send (by decide) rfl val
    have acks : F.ptMbxCtlAck.on (carry F.ptMbxCtlSend 1 val &&& halfMask half) = false := off_carry ack (by decide) (by decide) noAck
    refine ⟨_, exec_write_applies rfl lands (by decide) rfl (congrArg some (mbxWrite_sends sends acks (pends.trans free))), fun k hk => ?_, filled, waits⟩
    rw [copied k hk, others .ptMbxSend _ (by decide) (by omega)]
  · obtain ⟨pends, fulls, counts, others⟩ := mbxStored_keeps hi (carry F.ptMbxCtlSend 1 val &&& halfMask half) (halfMask half) b
    obtain ⟨counted, kept⟩ := ignored_mbxSend hi (pends.trans pending) w
    have sends : F.ptMbxCtlSend.on (carry F.ptMbxCtlSend 1 val &&& halfMask half) = true := on_carry_named send (by decide) rfl val
    have acks : F.ptMbxCtlAck.on (carry F.ptMbxCtlSend 1 val &&& halfMask half) = false := off_carry ack (by decide) (by decide) noAck
    have peer : mbxPeer i < 512 := by unfold mbxPeer; split <;> omega
    refine ⟨_, exec_write_applies rfl lands (by decide) rfl (congrArg some (mbxWrite_ignores sends acks (pends.trans pending))), ?_, fun k hk => ?_⟩
    · rw [counted, counts]
    · rw [kept _ (by omega), others .ptMbxRecv _ (by decide) (by omega)]
  · obtain ⟨pends, fulls, counts, others⟩ := mbxStored_keeps hi (carry F.ptMbxCtlAck 1 val &&& halfMask half) (halfMask half) b
    obtain ⟨emptied, freed⟩ := mbxAck_acks hi (fulls.trans full)
    have acks : F.ptMbxCtlAck.on (carry F.ptMbxCtlAck 1 val &&& halfMask half) = true := on_carry_named ack (by decide) rfl val
    have sends : F.ptMbxCtlSend.on (carry F.ptMbxCtlAck 1 val &&& halfMask half) = false := off_carry send (by decide) (by decide) noSend
    exact ⟨_, exec_write_applies rfl lands (by decide) rfl (congrArg some (mbxWrite_acks sends acks)), emptied, freed⟩

end Sys2Proof.Laws

/-!
Coherence requests (R529 to R543): what the home does with a request of an agent.
-/
namespace Sys2Proof.Laws

open Sys2Proof Sys2Proof.Machine Sys2Proof.Safety

/-! ### Lines, copies and messages -/

theorem lineAt_lineSet {l : CcLine} (listed : l ≠ lineIdle) (line : Nat) (b : Block) : lineAt (lineSet line l b) line = l :=
  tget_tset_same (d := lineIdle) b.cc.lines line listed

theorem busy_listed {l : CcLine} {t : CcOpen} (busy : l.busy = some t) : l ≠ lineIdle := by
  rintro rfl
  cases busy

theorem owned_listed {l : CcLine} {o : Nat} (owned : l.owner = some o) : l ≠ lineIdle := by
  rintro rfl
  cases owned

theorem copyAt_copySet (line tile : Nat) (c : CcCopy) (b : Block) : copyAt (copySet line tile c b) line tile = some c := tfind_tput_same _ _ _

/-- Invalidations go out to each of a list of caches. -/
def ccInvs (line : Nat) (invs : List Nat) (b : Block) : Block := each invs (fun t b => ccSend line t .inv b) b

theorem lineAt_ccInvs (line : Nat) (invs : List Nat) (b : Block) : lineAt (ccInvs line invs b) line = lineAt b line :=
  each_keeps (fun b => lineAt b line) invs (fun t b => ccSend line t .inv b) (fun _ _ _ => rfl) b

theorem mem_msgs_ccInvs {m : Nat × Nat × CcMsg} (line : Nat) (invs : List Nat) : ∀ b : Block, m ∈ b.cc.msgs → m ∈ (ccInvs line invs b).cc.msgs := by
  induction invs with
  | nil => exact fun _ h => h
  | cons t invs ih => exact fun b h => ih (ccSend line t .inv b) (List.mem_append_left _ h)

/-! ### A transaction opens (R537) -/

/-- A transaction that waits for its forward stays open. -/
theorem ccOpen_waits (line agent : Nat) (r : CcReq) (o : Nat) (m : CcMsg) (invs : List Nat) (b : Block) :
    (lineAt (ccOpen line agent r (some (o, m)) invs b) line).busy = some ⟨r, agent, invs, some o⟩ ∧
      (line, o, m) ∈ (ccOpen line agent r (some (o, m)) invs b).cc.msgs := by
  let l : CcLine := { lineAt b line with busy := some ⟨r, agent, invs, some o⟩ }
  have at_ : lineAt (ccInvs line invs (ccSend line o m (lineSet line l b))) line = l :=
    (lineAt_ccInvs _ _ _).trans (lineAt_lineSet (l := l) (busy_listed rfl) line b)
  have waits : ccFinish line (ccInvs line invs (ccSend line o m (lineSet line l b))) = ccInvs line invs (ccSend line o m (lineSet line l b)) := by
    simp [ccFinish, at_, l]
  have opened : ccOpen line agent r (some (o, m)) invs b = ccInvs line invs (ccSend line o m (lineSet line l b)) := waits
  rw [opened, at_]
  exact ⟨rfl, mem_msgs_ccInvs _ _ _ (List.mem_append_right _ (List.mem_singleton.2 rfl))⟩

/-- A transaction that has nothing to wait for ends at once. -/
theorem ccOpen_ends (line agent : Nat) (r : CcReq) (b : Block) :
    ccOpen line agent r none [] b = ccFinish line (lineSet line { lineAt b line with busy := some ⟨r, agent, [], none⟩ } b) := rfl

/-! ### A request is taken (R532, R533) -/

/-- A cache has issued a request, and its home has taken it. -/
def ccTaken (line tile : Nat) (st : CcState) (b : Block) : Block :=
  modCc (fun c => { c with
    nacks := tdel c.nacks (ccKey line tile)
    copies := tmod (tput c.copies (ccKey line tile) (copyIn st)) (ccKey line tile) (fun x => { x with accepted := true, retryAt := none }) }) b

theorem copyAt_ccTaken (line tile : Nat) (st : CcState) (b : Block) : copyAt (ccTaken line tile st b) line tile = some { copyIn st with accepted := true } := by
  refine (tfind_tmod_same _ _ _).trans ?_
  rw [tfind_tput_same]
  rfl

theorem ccAccept_free {line agent : Nat} {b : Block} (free : (lineAt b line).reserved = none) : ccAccept line agent b = modCc (fun c => { c with
    nacks := tdel c.nacks (ccKey line agent)
    copies := tmod c.copies (ccKey line agent) (fun x => { x with accepted := true, retryAt := none }) }) b := by
  simp [ccAccept, free]

section

variable {line agent : Nat} {r : CcReq} {b : Block} (sound : (lineAt b line).poisoned = false)

include sound

/-- A request for a line that is free is served. -/
theorem ccArrive_serves (idle : (lineAt b line).busy = none) (free : (lineAt b line).reserved = none) (room : r.caches = true → ownerTableFull b line = false) :
    ccArrive line agent r b = ccServe line agent r (ccAccept line agent b) := by
  have fits : (r.caches && ownerTableFull b line) = false := by
    cases caches : r.caches
    · rfl
    · exact room caches
  simp [ccArrive, sound, idle, free, fits]

/-- A request for a line that is busy or kept for another is answered with Nack. -/
theorem ccArrive_nacks {other : Nat} (apart : other ≠ agent) (taken : (lineAt b line).busy.isSome = true ∨ (lineAt b line).reserved = some other) :
    ccArrive line agent r b = ccNack line agent b := by
  have refused : ((lineAt b line).busy.isSome || ((lineAt b line).reserved.isSome && (lineAt b line).reserved != some agent) || (r.caches && ownerTableFull b line)) = true := by
    rcases taken with busy | kept
    · rw [busy]
      rfl
    · simp [kept, apart]
  simp only [ccArrive, sound, refused, Bool.false_eq_true, if_false, if_true]

end

/-- A line that has an owner or a sharer has its entry of the owner table (R530). -/
theorem ownerTableFull_cached {line : Nat} {b : Block} (cached : (lineAt b line).cached = true) : ownerTableFull b line = false := by
  simp [ownerTableFull, cached]

theorem sharedLine_cached {l : CcLine} {t : Nat} (sole : l.sharers = [t]) : l.cached = true := by
  simp [CcLine.cached, sole]

theorem ownedLine_cached {l : CcLine} {o : Nat} (owned : l.owner = some o) : l.cached = true := by
  simp [CcLine.cached, owned]

section

variable {line tile : Nat} {r : CcReq} {b : Block} (small : tile < 12) (sound : linePoisoned b (line % 4) (line / 4) = false)

include small sound

/-- A cache issues a request that its copy allows, where there is room for a new line. -/
theorem ccRequest_issues {st : CcState} (enter : ccEnter b line tile r = some st) (room : r.caches = true → copyAt b line tile = none → cacheRoom b line tile = true) :
    ccRequest line tile r b = ccArrive line tile r (copySet line tile (copyIn st) b) := by
  have goes : (r.caches && (copyAt b line tile).isNone && decide (tile < 12) && !linePoisoned b (line % 4) (line / 4) && !cacheRoom b line tile) = false := by
    cases caches : r.caches
    · rfl
    · cases at_ : copyAt b line tile
      · simp [room caches at_]
      · rfl
  have runs : ¬(12 ≤ tile ∨ linePoisoned b (line % 4) (line / 4) = true) := by
    rw [sound]
    simpa using small
  simp only [ccRequest, goes, enter, ccIssue, Bool.false_eq_true, if_false, if_neg runs]

/-- Such a request of a free line is served. -/
theorem ccRequest_serves {st : CcState} (enter : ccEnter b line tile r = some st) (room : r.caches = true → copyAt b line tile = none → cacheRoom b line tile = true)
    (clean : (lineAt b line).poisoned = false) (idle : (lineAt b line).busy = none) (free : (lineAt b line).reserved = none)
    (fits : r.caches = true → ownerTableFull b line = false) : ccRequest line tile r b = ccServe line tile r (ccTaken line tile st b) := by
  rw [ccRequest_issues small sound enter room]
  have served := ccArrive_serves (line := line) (agent := tile) (r := r) (b := copySet line tile (copyIn st) b) clean idle free fits
  rw [served, ccAccept_free (b := copySet line tile (copyIn st) b) free]
  rfl

/-- A request for a new line of a cache without room waits (R541). -/
theorem ccRequest_waits (caches : r.caches = true) (new : copyAt b line tile = none) (allowed : (ccEnter b line tile r).isNone = false) (full : cacheRoom b line tile = false) :
    ccRequest line tile r b = if b.cc.waiting.any (fun w => w.1 == line && w.2.1 == tile) = true then b
      else ccRoom (modCc (fun c => { c with waiting := c.waiting ++ [(line, tile, r)] }) b) := by
  have goes : (r.caches && (copyAt b line tile).isNone && decide (tile < 12) && !linePoisoned b (line % 4) (line / 4) && !cacheRoom b line tile) = true := by
    simp [caches, new, small, sound, full]
  simp only [ccRequest, goes, allowed, Bool.or_false, if_true]

end

/-! ### What a copy allows (R532) -/

section

variable {line tile : Nat} {b : Block} {x : Option CcState} (at_ : (copyAt b line tile).map (·.st) = x)

include at_

theorem ccEnter_new (new : x = none) : ccEnter b line tile .getS = some .isD ∧ ccEnter b line tile .getM = some .imD := by
  subst new
  simp only [ccEnter, at_, and_self]

/-- Each request that a copy allows, by its state. -/
theorem ccEnter_allows (r : CcReq) : ccEnter b line tile r = none ∨ (r = .getS ∧ x = none) ∨ (r = .getM ∧ x = none) ∨ (r = .upgrade ∧ (x = some .s ∨ x = some .o)) ∨
    (r = .putM ∧ x = some .m) ∨ (r = .putO ∧ x = some .o) ∨ (r = .putE ∧ x = some .e) := by
  simp only [ccEnter, at_]
  split <;> simp

theorem ccEnter_held (held : x ≠ none) : ccEnter b line tile .getS = none ∧ ccEnter b line tile .getM = none :=
  ⟨(ccEnter_allows at_ .getS).resolve_right (by simp [held]), (ccEnter_allows at_ .getM).resolve_right (by simp [held])⟩

theorem ccEnter_upgrade_none (notS : x ≠ some .s) (notO : x ≠ some .o) : ccEnter b line tile .upgrade = none :=
  (ccEnter_allows at_ .upgrade).resolve_right (by simp [notS, notO])

theorem ccEnter_putM_none (notM : x ≠ some .m) : ccEnter b line tile .putM = none := (ccEnter_allows at_ .putM).resolve_right (by simp [notM])

theorem ccEnter_putO_none (notO : x ≠ some .o) : ccEnter b line tile .putO = none := (ccEnter_allows at_ .putO).resolve_right (by simp [notO])

theorem ccEnter_putE_none (notE : x ≠ some .e) : ccEnter b line tile .putE = none := (ccEnter_allows at_ .putE).resolve_right (by simp [notE])

theorem ccEnter_s (held : x = some .s) : ccEnter b line tile .upgrade = some .smD := by
  subst held
  simp only [ccEnter, at_]

theorem ccEnter_m (held : x = some .m) : ccEnter b line tile .putM = some .miA := by
  subst held
  simp only [ccEnter, at_]

theorem ccEnter_o (held : x = some .o) : ccEnter b line tile .putO = some .oiA := by
  subst held
  simp only [ccEnter, at_]

theorem ccEnter_e (held : x = some .e) : ccEnter b line tile .putE = some .eiA := by
  subst held
  simp only [ccEnter, at_]

end

/-- A request that the copy does not allow is none. -/
theorem ccRequest_refused {line tile : Nat} {r : CcReq} {b : Block} (refused : ccEnter b line tile r = none) : ccRequest line tile r b = b := by
  unfold ccRequest
  rw [refused]
  simp [ccIssue]

/-! ### What the home serves (R537, R538, R540, R543) -/

section

variable {line agent : Nat} {b : Block}

theorem ccServe_getS_idle (idle : lineAt b line = lineIdle) :
    ccServe line agent .getS b = ccSend line agent (.data true) (lineSet line ⟨some agent, [], none, none, false⟩ b) := by
  simp only [ccServe, idle]
  rfl

/-- A line that is in no cache goes to the requester of ownership, with data from the depot. -/
theorem ccServe_getM_idle (idle : lineAt b line = lineIdle) :
    lineAt (ccServe line agent .getM b) line = ⟨some agent, [], none, none, false⟩ ∧ (ccServe line agent .getM b).cc.copies = b.cc.copies ∧
      (ccServe line agent .getM b).cc.msgs = b.cc.msgs ++ [(line, agent, .data false)] ++ [(line, agent, .grant)] := by
  have opens : ccServe line agent .getM b = ccOpen line agent .getM none [] b := by
    simp only [ccServe, idle]
    rfl
  have at_ := lineAt_lineSet (l := { lineAt b line with busy := some ⟨.getM, agent, [], none⟩ }) (busy_listed rfl) line b
  have serves : ccServe line agent .getM b = ccSend line agent .grant (ccSend line agent (.data false)
      (lineSet line ⟨some agent, [], none, none, false⟩ (lineSet line { lineAt b line with busy := some ⟨.getM, agent, [], none⟩ } b))) := by
    rw [opens, ccOpen_ends, ccFinish, at_, idle]
    rfl
  rw [serves]
  exact ⟨lineAt_lineSet (l := ⟨some agent, [], none, none, false⟩) (owned_listed rfl) line _, rfl, rfl⟩

/-- The only sharer of a line that nobody owns becomes its owner without data (R538). -/
theorem ccServe_upgrade_sole (sole : (lineAt b line).sharers = [agent]) (unowned : (lineAt b line).owner = none) (clean : (lineAt b line).poisoned = false)
    (free : (lineAt b line).reserved = none) :
    lineAt (ccServe line agent .upgrade b) line = ⟨some agent, [], none, none, false⟩ ∧ (ccServe line agent .upgrade b).cc.copies = b.cc.copies ∧
      (ccServe line agent .upgrade b).cc.msgs = b.cc.msgs ++ [(line, agent, .grant)] := by
  have opens : ccServe line agent .upgrade b = ccOpen line agent .upgrade none [] b := by
    simp [ccServe, unowned, sole]
  have at_ := lineAt_lineSet (l := { lineAt b line with busy := some ⟨.upgrade, agent, [], none⟩ }) (busy_listed rfl) line b
  have serves : ccServe line agent .upgrade b = ccSend line agent .grant
      (lineSet line ⟨some agent, [], none, none, false⟩ (lineSet line { lineAt b line with busy := some ⟨.upgrade, agent, [], none⟩ } b)) := by
    rw [opens, ccOpen_ends, ccFinish, at_, clean, free, unowned]
    rfl
  rw [serves]
  exact ⟨lineAt_lineSet (l := ⟨some agent, [], none, none, false⟩) (owned_listed rfl) line _, rfl, rfl⟩

theorem ccServe_ncRead_unowned (unowned : (lineAt b line).owner = none) : ccServe line agent .ncRead b = ccSend line agent (.data false) b := by
  simp only [ccServe, unowned]

/-- The write of a non-caching agent to a line in no cache ends at once, with the offer to the hint tile (R543). -/
theorem ccServe_ncWrite_idle (idle : lineAt b line = lineIdle) (hint : Option Nat) :
    ∃ d, ccServe line agent (.ncWrite hint) b = hint.elim d (fun h => ccPush line h d) ∧ d.regs = b.regs ∧
      d.cc.copies = b.cc.copies ∧ d.cc.msgs = b.cc.msgs := by
  have opens : ccServe line agent (.ncWrite hint) b = ccOpen line agent (.ncWrite hint) none [] b := by
    simp only [ccServe, idle]
    rfl
  have at_ := lineAt_lineSet (l := { lineAt b line with busy := some ⟨.ncWrite hint, agent, [], none⟩ }) (busy_listed rfl) line b
  refine ⟨modCc (fun c => { c with ncs := tdel c.ncs (ccKey line agent) }) (lineSet line { lineAt b line with owner := none, sharers := [], busy := none }
    (lineSet line { lineAt b line with busy := some ⟨.ncWrite hint, agent, [], none⟩ } b)), ?_, rfl, rfl, rfl⟩
  rw [opens, ccOpen_ends, ccFinish, at_]
  cases hint with
  | none => rfl
  | some h => rfl

/-- A hint tile with room takes the line in E. -/
theorem ccPush_takes {tile : Nat} (small : tile < 12) (enabled : fon b F.ccCtlPushEn 0 = true) (other : lineOfQp line = false) (new : copyAt b line tile = none)
    (room : cacheRoom b line tile = true) : (lineAt (ccPush line tile b) line).owner = some tile ∧ copyAt (ccPush line tile b) line tile = some (copyIn .e) := by
  have pushes : ccPush line tile b = copySet line tile (copyIn .e) (lineSet line { lineAt b line with owner := some tile, sharers := [] } b) := by
    simp [ccPush, enabled, new, ownerTableFull, other, room, Nat.not_le.2 small]
  rw [pushes]
  exact ⟨congrArg CcLine.owner (lineAt_lineSet (l := { lineAt b line with owner := some tile, sharers := [] }) (owned_listed rfl) line b), copyAt_copySet _ _ _ _⟩

section

variable {other : Nat} (owned : (lineAt b line).owner = some other)

include owned

theorem ccServe_ncWrite_owned (hint : Option Nat) : ccServe line agent (.ncWrite hint) b =
    ccOpen line agent (.ncWrite hint) (some (other, .fwdRecall)) ((lineAt b line).sharers.filter (· != other)) b := by
  have sharers : (lineAt b line).sharers.filter (fun t => some t != some other) = (lineAt b line).sharers.filter (· != other) :=
    List.filter_congr (fun t _ => by simp [bne])
  simp only [ccServe, owned, sharers]
  rfl

variable (apart : other ≠ agent)

include apart

theorem ccServe_getS_owned : ccServe line agent .getS b = ccOpen line agent .getS (some (other, .fwdGetS agent)) [] b := by
  simp only [ccServe, owned, apart, if_false]

theorem ccServe_getM_owned : ccServe line agent .getM b = ccOpen line agent .getM (some (other, .fwdGetM agent))
    (((lineAt b line).sharers.filter (· != agent)).filter (· != other)) b := by
  have sharers : ((lineAt b line).sharers.filter (· != agent)).filter (fun t => some t != some other) =
      ((lineAt b line).sharers.filter (· != agent)).filter (· != other) := List.filter_congr (fun t _ => by simp [bne])
  simp only [ccServe, owned, apart, if_false, sharers]
  rfl

theorem ccServe_put_stale : ccServe line agent .putM b = ccSend line agent (.putAck true) b := by
  simp [ccServe, owned, apart]

end

section

variable (owned : (lineAt b line).owner = some agent)

include owned

/-- The owner that writes a line back is granted it (R540). -/
theorem ccServe_putM_owner : ccServe line agent .putM b = ccSend line agent .wbGrant (lineSet line { lineAt b line with busy := some ⟨.putM, agent, [], some agent⟩ } b) := by
  simp [ccServe, owned]

theorem ccServe_putO_owner : ccServe line agent .putO b = ccSend line agent .wbGrant (lineSet line { lineAt b line with busy := some ⟨.putO, agent, [], some agent⟩ } b) := by
  simp [ccServe, owned]

theorem ccServe_putE_owner : ccServe line agent .putE b = ccSend line agent (.putAck false) (lineSet line { lineAt b line with owner := none } b) := by
  simp [ccServe, owned]

end

/-- A Nack is sent and counted, of the request and of the block (R533, R542). -/
theorem ccNack_counts (line agent : Nat) (b : Block) : (line, agent, .nack) ∈ (ccNack line agent b).cc.msgs ∧
    tget 0 (ccNack line agent b).cc.nacks (ccKey line agent) = tget 0 b.cc.nacks (ccKey line agent) + 1 ∧
    fget (ccNack line agent b) F.ccEventsNacks 0 = satAdd F.ccEventsNacks.max (fget b F.ccEventsNacks 0) 1 := by
  let n := tget 0 b.cc.nacks (ccKey line agent) + 1
  let sent := ccSend line agent .nack (fbump F.ccEventsNacks 0 1 (modCc (fun c => { c with nacks := tput c.nacks (ccKey line agent) n }) b))
  let told := tcCount (lineTile sent line) 0x050 (linePart sent line) 1 sent
  have counts : SigOnly sent told := sigOnly_tcCount _ _ _ _ _
  have form : ccNack line agent b = told ∨
      ccNack line agent b = fbump F.ccEventsReserved 0 1 (lineSet line { lineAt b line with reserved := some agent } told) := (ite_eq_or_eq _ _ _).symm
  have sends : (line, agent, .nack) ∈ told.cc.msgs := by
    rw [counts.cc]
    exact List.mem_append_right _ (List.mem_singleton.2 rfl)
  have numbers : tget 0 told.cc.nacks (ccKey line agent) = n := by
    rw [counts.cc]
    exact tget_tput_same 0 b.cc.nacks (ccKey line agent) n
  have nacks : fget told F.ccEventsNacks 0 = satAdd F.ccEventsNacks.max (fget b F.ccEventsNacks 0) 1 :=
    (counts.fget rfl (by decide)).trans (fget_fbump_same F.ccEventsNacks 0 1 (modCc (fun c => { c with nacks := tput c.nacks (ccKey line agent) n }) b) (by decide))
  rcases form with same | kept
  · rw [same]
    exact ⟨sends, numbers, nacks⟩
  · rw [kept]
    exact ⟨sends, numbers, (fget_fput_field F.ccEventsReserved F.ccEventsNacks 0 _ _ rfl (by decide) (by decide)).trans nacks⟩

end

/-! ### Room in a cache (R540, R541) -/

theorem keys_tmod {α : Type} (t : Tbl α) (k : Nat) (f : α → α) : (tmod t k f).map (·.1) = t.map (·.1) := by
  induction t with
  | nil => rfl
  | cons e t ih =>
    obtain ⟨j, v⟩ := e
    by_cases h : j = k
    · simp [tmod, h]
    · simp [tmod, h, ih]

/-- Room depends on which lines a cache holds, not on their states. -/
theorem cacheRoom_of_keys {b c : Block} (same : c.cc.copies.map (·.1) = b.cc.copies.map (·.1)) (line tile : Nat) : cacheRoom c line tile = cacheRoom b line tile := by
  have counts : ∀ p : Nat → Bool, c.cc.copies.countP (fun e => p e.1) = b.cc.copies.countP (fun e => p e.1) := fun p => by
    have counted := congrArg (List.countP p) same
    rwa [List.countP_map, List.countP_map] at counted
  have held := counts (fun k => k % 16 == tile)
  have qps := counts (fun k => lineOfQp (k / 16) && k % 16 == tile)
  simp only [cacheRoom, List.countP_filter, ← List.countP_eq_length_filter, held, qps]

/-- A request waits for room. -/
def ccWaits (line tile : Nat) (r : CcReq) (b : Block) : Block := modCc (fun c => { c with waiting := c.waiting ++ [(line, tile, r)] }) b

section

variable {line tile : Nat} {r : CcReq} {b : Block} (none_ : b.cc.waiting = [])

include none_

theorem ccRoom_waits : ccRoom (ccWaits line tile r b) = loop 64 ccRoomStep (ccWaits line tile r b) := by
  have waiting : (ccWaits line tile r b).cc.waiting = [(line, tile, r)] := congrArg (· ++ [(line, tile, r)]) none_
  exact if_neg (by simp [waiting])

variable (full : cacheRoom b line tile = false)

include full

/-- What the only request that waits can do: let a line give way. -/
theorem ccRoomStep_waits : ccRoomStep (ccWaits line tile r b) =
    if ccEvicting b tile = true then none else (ccVictim b line tile).map (fun v => ccEvict v.1 tile v.2 (ccWaits line tile r b)) := by
  have waiting : (ccWaits line tile r b).cc.waiting = [(line, tile, r)] := congrArg (· ++ [(line, tile, r)]) none_
  have room : cacheRoom (ccWaits line tile r b) line tile = false := full
  have evicting : ccEvicting (ccWaits line tile r b) tile = ccEvicting b tile := rfl
  have victim : ccVictim (ccWaits line tile r b) line tile = ccVictim b line tile := rfl
  simp only [ccRoomStep, waiting, List.findSome?_cons, List.findSome?_nil, room, evicting, victim, Bool.false_eq_true, if_false]
  split
  · next found => exact found.symm
  · next found => exact found.symm

theorem ccRoom_stays (stays : ccEvicting b tile = true ∨ ccVictim b line tile = none) : ccRoom (ccWaits line tile r b) = ccWaits line tile r b := by
  have step : ccRoomStep (ccWaits line tile r b) = none := by
    rw [ccRoomStep_waits none_ full]
    rcases stays with evicting | nothing
    · exact if_pos evicting
    · rw [nothing]
      exact ite_self _
  rw [ccRoom_waits none_]
  simp only [loop, step]

theorem ccRoom_evicts {v : Nat × CcState} (quiet : ccEvicting b tile = false) (victim : ccVictim b line tile = some v) :
    ccRoom (ccWaits line tile r b) = loop 63 ccRoomStep (ccEvict v.1 tile v.2 (ccWaits line tile r b)) := by
  have step : ccRoomStep (ccWaits line tile r b) = some (ccEvict v.1 tile v.2 (ccWaits line tile r b)) := by
    rw [ccRoomStep_waits none_ full, quiet, victim]
    rfl
  rw [ccRoom_waits none_]
  simp only [loop, step]

end

/-! ### Requests of agents that do not cache (R529) -/

/-- A request of a non-caching agent for a free line is served. -/
theorem ccNcRequest_serves {line agent : Nat} {r : CcReq} {b : Block} (plain : r.caches = false) (low : 12 ≤ agent) (high : agent < 16)
    (sound : linePoisoned b (line % 4) (line / 4) = false) (first : tfind b.cc.ncs (ccKey line agent) = none) (clean : (lineAt b line).poisoned = false)
    (idle : (lineAt b line).busy = none) (free : (lineAt b line).reserved = none) : ∃ d, ccNcRequest line agent r b = ccServe line agent r d ∧
      d.cc.lines = b.cc.lines ∧ d.cc.msgs = b.cc.msgs ∧ d.regs = b.regs ∧
      d.cc.copies = tmod b.cc.copies (ccKey line agent) (fun x => { x with accepted := true, retryAt := none }) := by
  have runs : ¬(agent < 12 ∨ 16 ≤ agent ∨ (tfind b.cc.ncs (ccKey line agent)).isSome = true ∨ linePoisoned b (line % 4) (line / 4) = true) := by
    simp [first, sound]
    omega
  let begun := modCc (fun c => { c with ncs := tput c.ncs (ccKey line agent) ⟨r, none⟩ }) b
  have served : ccArrive line agent r begun = ccServe line agent r (ccAccept line agent begun) :=
    ccArrive_serves clean idle free (fun caches => absurd caches (by simp [plain]))
  refine ⟨ccAccept line agent begun, (if_neg runs).trans served, ?_⟩
  rw [ccAccept_free (b := begun) free]
  exact ⟨rfl, rfl, rfl, rfl⟩

/-- Settles O54: each request by the state of its copy and of its line, as the home serves it or answers with Nack. -/
theorem coherenceRequestsAreServedOrNacked : Obligations.CoherenceRequestsAreServedOrNacked := by
  intro s line tile other agent hint small hother apart low high l at_ room waits sound clean first
  refine ⟨fun held => ⟨?_, ?_⟩, fun new full => ⟨fun waiting => ⟨?_, ?_⟩, fun newly => ⟨?_, ?_, fun quiet => ⟨fun stays r => ?_, fun calm v r victim => ?_⟩⟩⟩,
    fun notS notO => ?_, fun notM => ?_, fun notO => ?_, fun notE => ?_, fun idle fits => ⟨fun new has => ⟨?_, ?_⟩, ?_, ?_, fun enabled obj new has => ?_⟩,
    fun owned quiet free => ⟨fun new has => ⟨?_, ?_⟩, ?_, fun held => ?_⟩, fun held unowned sole quiet free => ?_, fun owned quiet free => ⟨fun held => ?_, fun held => ?_, fun held => ?_⟩,
    fun taken new has => ?_⟩
  · exact run_eq (f := ccRequest line tile .getS) (ccRequest_refused (ccEnter_held rfl held).1)
  · exact run_eq (f := ccRequest line tile .getM) (ccRequest_refused (ccEnter_held rfl held).2)
  · exact run_eq (f := ccRequest line tile .getS) ((ccRequest_waits small sound rfl (Option.map_eq_none_iff.1 new) (by rw [(ccEnter_new rfl new).1]; rfl) full).trans (if_pos waiting))
  · exact run_eq (f := ccRequest line tile .getM) ((ccRequest_waits small sound rfl (Option.map_eq_none_iff.1 new) (by rw [(ccEnter_new rfl new).2]; rfl) full).trans (if_pos waiting))
  · exact run_eq (f := ccRequest line tile .getS) ((ccRequest_waits small sound rfl (Option.map_eq_none_iff.1 new) (by rw [(ccEnter_new rfl new).1]; rfl) full).trans
      (if_neg (Bool.eq_false_iff.1 newly)))
  · exact run_eq (f := ccRequest line tile .getM) ((ccRequest_waits small sound rfl (Option.map_eq_none_iff.1 new) (by rw [(ccEnter_new rfl new).2]; rfl) full).trans
      (if_neg (Bool.eq_false_iff.1 newly)))
  · exact ccRoom_stays quiet full stays
  · exact ⟨63, ccRoom_evicts quiet full calm victim⟩
  · exact run_eq (f := ccRequest line tile .upgrade) (ccRequest_refused (ccEnter_upgrade_none rfl notS notO))
  · exact run_eq (f := ccRequest line tile .putM) (ccRequest_refused (ccEnter_putM_none rfl notM))
  · exact run_eq (f := ccRequest line tile .putO) (ccRequest_refused (ccEnter_putO_none rfl notO))
  · exact run_eq (f := ccRequest line tile .putE) (ccRequest_refused (ccEnter_putE_none rfl notE))
  · have idle' : lineAt (ccTaken line tile .isD s.blk) line = lineIdle := idle
    have served := ccRequest_serves small sound (r := .getS) (ccEnter_new rfl new).1 (fun _ _ => has) clean (congrArg CcLine.busy idle) (congrArg CcLine.reserved idle) (fun _ => fits)
    refine ⟨_, run_eq (f := ccRequest line tile .getS) (served.trans (ccServe_getS_idle idle')), lineAt_lineSet (l := ⟨some tile, [], none, none, false⟩) (owned_listed rfl) line _, ?_, rfl⟩
    exact congrArg (Option.map CcCopy.st) (copyAt_ccTaken line tile .isD s.blk)
  · have served := ccRequest_serves small sound (r := .getM) (ccEnter_new rfl new).2 (fun _ _ => has) clean (congrArg CcLine.busy idle) (congrArg CcLine.reserved idle) (fun _ => fits)
    obtain ⟨owner, copies, msgs⟩ := ccServe_getM_idle (line := line) (agent := tile) (b := ccTaken line tile .imD s.blk) idle
    refine ⟨_, run_eq (f := ccRequest line tile .getM) served, owner, ?_, msgs⟩
    rw [copyAt, copies]
    exact congrArg (Option.map CcCopy.st) (copyAt_ccTaken line tile .imD s.blk)
  · obtain ⟨d, served, lines, msgs, _, _⟩ := ccNcRequest_serves (r := .ncRead) rfl low high sound first clean (congrArg CcLine.busy idle) (congrArg CcLine.reserved idle)
    have unowned : (lineAt d line).owner = none := by rw [lineAt, lines]; exact congrArg CcLine.owner idle
    refine ⟨_, run_eq (f := ccNcRequest line agent .ncRead) (served.trans (ccServe_ncRead_unowned unowned)), lines, ?_⟩
    exact congrArg (· ++ [(line, agent, .data false)]) msgs
  · obtain ⟨d, served, lines, msgs, _, _⟩ := ccNcRequest_serves (r := .ncWrite none) rfl low high sound first clean (congrArg CcLine.busy idle) (congrArg CcLine.reserved idle)
    have at_ : lineAt d line = lineIdle := by rw [lineAt, lines]; exact idle
    obtain ⟨e, ends, _, _, sent⟩ := ccServe_ncWrite_idle (agent := agent) at_ none
    exact ⟨_, run_eq (f := ccNcRequest line agent (.ncWrite none)) (served.trans ends), sent.trans msgs⟩
  · obtain ⟨d, served, lines, _, regs, copies⟩ := ccNcRequest_serves (r := .ncWrite (some tile)) rfl low high sound first clean (congrArg CcLine.busy idle) (congrArg CcLine.reserved idle)
    have at_ : lineAt d line = lineIdle := by rw [lineAt, lines]; exact idle
    obtain ⟨e, ends, kept, same, _⟩ := ccServe_ncWrite_idle (agent := agent) at_ (some tile)
    have on : fon e F.ccCtlPushEn 0 = true := by rw [fon, fget, rget, kept, regs]; exact enabled
    have other_ : ccKey line tile ≠ ccKey line agent := by unfold ccKey; omega
    have none_ : copyAt e line tile = none := by rw [copyAt, same, copies, tfind_tmod_other _ _ other_]; exact new
    have free : cacheRoom e line tile = true := (cacheRoom_of_keys (by rw [same, copies, keys_tmod]) line tile).trans has
    obtain ⟨owner, copy⟩ := ccPush_takes small on obj none_ free
    exact ⟨_, run_eq (f := ccNcRequest line agent (.ncWrite (some tile))) (served.trans ends), owner, copy⟩
  · have cached : ownerTableFull s.blk line = false := ownerTableFull_cached (ownedLine_cached owned)
    have served := ccRequest_serves small sound (r := .getS) (ccEnter_new rfl new).1 (fun _ _ => has) clean quiet free (fun _ => cached)
    obtain ⟨busy, sent⟩ := ccOpen_waits line tile .getS other (.fwdGetS tile) [] (ccTaken line tile .isD s.blk)
    exact ⟨_, run_eq (f := ccRequest line tile .getS) (served.trans (ccServe_getS_owned owned apart)), busy, sent⟩
  · have cached : ownerTableFull s.blk line = false := ownerTableFull_cached (ownedLine_cached owned)
    have served := ccRequest_serves small sound (r := .getM) (ccEnter_new rfl new).2 (fun _ _ => has) clean quiet free (fun _ => cached)
    obtain ⟨busy, sent⟩ := ccOpen_waits line tile .getM other (.fwdGetM tile) ((l.sharers.filter (· != tile)).filter (· != other)) (ccTaken line tile .imD s.blk)
    exact ⟨_, run_eq (f := ccRequest line tile .getM) (served.trans (ccServe_getM_owned owned apart)), sent, busy⟩
  · obtain ⟨d, served, lines, _, _, _⟩ := ccNcRequest_serves (r := .ncWrite hint) rfl low high sound first clean quiet free
    have at_ : lineAt d line = l := by rw [lineAt, lines]; rfl
    obtain ⟨busy, sent⟩ := ccOpen_waits line agent (.ncWrite hint) other .fwdRecall (l.sharers.filter (· != other)) d
    exact ⟨_, run_eq (f := ccNcRequest line agent (.ncWrite hint)) (served.trans (at_ ▸ ccServe_ncWrite_owned (at_ ▸ owned) hint)), sent, busy⟩
  · have served := ccRequest_serves small sound (r := .putM) (ccEnter_m rfl held) (fun caches => absurd caches (by decide)) clean quiet free (fun caches => absurd caches (by decide))
    exact ⟨_, run_eq (f := ccRequest line tile .putM) (served.trans (ccServe_put_stale owned apart)), List.mem_append_right _ (List.mem_singleton.2 rfl)⟩
  · have here : (copyAt s.blk line tile).isSome = true := by
      obtain ⟨c, at_, _⟩ := Option.map_eq_some_iff.1 held
      rw [at_]
      rfl
    have cached : ownerTableFull s.blk line = false := ownerTableFull_cached (sharedLine_cached sole)
    have served := ccRequest_serves small sound (r := .upgrade) (ccEnter_s rfl held) (fun _ new => absurd here (by simp [new])) clean quiet free (fun _ => cached)
    obtain ⟨owner, copies, msgs⟩ := ccServe_upgrade_sole (line := line) (agent := tile) (b := ccTaken line tile .smD s.blk) sole unowned clean free
    refine ⟨_, run_eq (f := ccRequest line tile .upgrade) served, owner, ?_, msgs⟩
    rw [copyAt, copies]
    exact congrArg (Option.map CcCopy.st) (copyAt_ccTaken line tile .smD s.blk)
  · have served := ccRequest_serves small sound (r := .putM) (ccEnter_m rfl held) (fun caches => absurd caches (by decide)) clean quiet free (fun caches => absurd caches (by decide))
    refine ⟨_, run_eq (f := ccRequest line tile .putM) (served.trans (ccServe_putM_owner owned)), ?_, ?_, List.mem_append_right _ (List.mem_singleton.2 rfl)⟩
    · exact congrArg (Option.map CcCopy.st) (copyAt_ccTaken line tile .miA s.blk)
    · exact congrArg CcLine.busy (lineAt_lineSet (l := { l with busy := some ⟨.putM, tile, [], some tile⟩ }) (busy_listed rfl) line _)
  · have served := ccRequest_serves small sound (r := .putO) (ccEnter_o rfl held) (fun caches => absurd caches (by decide)) clean quiet free (fun caches => absurd caches (by decide))
    refine ⟨_, run_eq (f := ccRequest line tile .putO) (served.trans (ccServe_putO_owner owned)), ?_, ?_, List.mem_append_right _ (List.mem_singleton.2 rfl)⟩
    · exact congrArg (Option.map CcCopy.st) (copyAt_ccTaken line tile .oiA s.blk)
    · exact congrArg CcLine.busy (lineAt_lineSet (l := { l with busy := some ⟨.putO, tile, [], some tile⟩ }) (busy_listed rfl) line _)
  · have served := ccRequest_serves small sound (r := .putE) (ccEnter_e rfl held) (fun caches => absurd caches (by decide)) clean quiet free (fun caches => absurd caches (by decide))
    refine ⟨_, run_eq (f := ccRequest line tile .putE) (served.trans (ccServe_putE_owner owned)), ?_, rfl⟩
    exact congrArg (Option.map CcCopy.st) (copyAt_ccTaken line tile .eiA s.blk)
  · have issued := ccRequest_issues small sound (r := .getS) (ccEnter_new rfl new).1 (fun _ _ => has)
    have refused : ccArrive line tile .getS (copySet line tile (copyIn .isD) s.blk) = ccNack line tile (copySet line tile (copyIn .isD) s.blk) :=
      ccArrive_nacks clean apart taken
    exact ⟨_, run_eq (f := ccRequest line tile .getS) (issued.trans refused), ccNack_counts line tile (copySet line tile (copyIn .isD) s.blk)⟩

end Sys2Proof.Laws

/-!
Coherence messages (R537 to R545): what each does when it is delivered, and the timeout of a home.
-/
namespace Sys2Proof.Laws

open Sys2Proof Sys2Proof.Machine Sys2Proof.Safety

/-! ### Delivery (R534, R541) -/

section

variable {line tile : Nat} {p : CcMsg → Bool} {f : CcMsg → Block → Block} {b : Block}

theorem ccDeliver_none (absent : ccFind b line tile p = none) : ccDeliver line tile p f b = b := by
  simp only [ccDeliver, absent]

theorem ccDeliver_some {m : CcMsg} (flight : ccFind b line tile p = some m) : ccDeliver line tile p f b = ccRoom (f m (ccTake line tile m b)) := by
  simp only [ccDeliver, flight]

end

/-! ### Forwards at a cache (R537, R539) -/

section

variable {line tile : Nat} {c : CcCopy} {b : Block} (at_ : copyAt b line tile = some c) (sound : linePoisoned b (line % 4) (line / 4) = false)

include at_ sound

/-- A copy that awaits its data holds the forward. -/
theorem ccForward_held (holds : c.holds = true) (m : CcMsg) : ccForward line tile m b = copySet line tile { c with held := c.held ++ [m] } b := by
  simp only [ccForward, at_, sound, holds, Bool.false_eq_true, if_false, if_true]

theorem ccForward_getS_m {agent : Nat} (st : c.st = .m) : ccForward line tile (.fwdGetS agent) b =
    ccSend line agent (.data false) (ccSend line tile (.fwdDone true true) (copySet line tile { c with st := .o } b)) := by
  simp only [ccForward, at_, sound, CcCopy.holds, st, CcState.afterGetS]
  simp
  rfl

theorem ccForward_getS_e {agent : Nat} (small : agent < 12) (st : c.st = .e) : ccForward line tile (.fwdGetS agent) b =
    ccSend line agent (.data false) (ccSend line tile (.fwdDone false true) (copySet line tile { c with st := .s } b)) := by
  simp [ccForward, at_, sound, CcCopy.holds, st, CcState.afterGetS, small, Nat.not_le.2 small]

variable (st : c.st = .m ∨ c.st = .e ∨ c.st = .o)

include st

theorem ccForward_getM (agent : Nat) : ccForward line tile (.fwdGetM agent) b =
    ccSend line agent (.data false) (ccSend line tile (.fwdDone false false) (copyDrop line tile b)) := by
  rcases st with st | st | st <;> simp [ccForward, at_, sound, CcCopy.holds, st]

theorem ccForward_recall : ccForward line tile .fwdRecall b = ccSend line tile (.fwdDone false false) (copyDrop line tile b) := by
  rcases st with st | st | st <;> simp [ccForward, at_, sound, CcCopy.holds, st]

end

theorem ccForward_inv {line tile : Nat} {c : CcCopy} {b : Block} (at_ : copyAt b line tile = some c) (sound : linePoisoned b (line % 4) (line / 4) = false)
    (st : c.st = .s) : ccForward line tile .inv b = ccSend line tile .invAck (copyDrop line tile b) := by
  simp [ccForward, at_, sound, CcCopy.holds, st]

theorem ccForward_inv_absent {line tile : Nat} {b : Block} (at_ : copyAt b line tile = none) : ccForward line tile .inv b = ccSend line tile .invAck b := by
  simp [ccForward, at_]

/-- A copy that held no forward takes its new state. -/
theorem ccHeld_none {line tile : Nat} {c : CcCopy} (held : c.held = []) (b : Block) : ccHeld line tile c b = copySet line tile (copyIn c.st) b := by
  simp [ccHeld, held, each]

/-! ### Responses at the home (R537, R540) -/

/-- A transaction that still awaits something stays open. -/
theorem ccFinish_waits {line : Nat} {b : Block} {t : CcOpen} (busy : (lineAt b line).busy = some t) (awaits : t.acks ≠ [] ∨ t.fwd.isSome = true) :
    ccFinish line b = b := by
  have open_ : (t.acks != [] || t.fwd.isSome) = true := by
    rw [Bool.or_eq_true, bne_iff_ne]
    exact awaits
  simp only [ccFinish, busy, open_, if_true]

section

variable {line : Nat} {b : Block} {t : CcOpen} (busy : (lineAt b line).busy = some t) (acks : t.acks = []) (fwd : t.fwd = none)

include busy acks fwd

theorem ccFinish_getM (req : t.req = .getM) (unowned : (lineAt b line).owner = none) : ccFinish line b =
    ccSend line t.agent .grant (ccSend line t.agent (.data false) (lineSet line { lineAt b line with owner := some t.agent, sharers := [], busy := none } b)) := by
  simp [ccFinish, busy, acks, fwd, req, unowned]

theorem ccFinish_getS (req : t.req = .getS) : ccFinish line b = lineSet line { lineAt b line with busy := none } b := by
  simp [ccFinish, busy, acks, fwd, req]

theorem ccFinish_put (req : t.req = .putM ∨ t.req = .putO) : ccFinish line b = lineSet line { lineAt b line with owner := none, busy := none } b := by
  rcases req with req | req <;> simp [ccFinish, busy, acks, fwd, req]

end

theorem sharers_listed {l : CcLine} (shared : l.sharers ≠ []) : l ≠ lineIdle := by
  rintro rfl
  exact shared rfl

theorem mem_sins_self (x : Nat) (l : List Nat) : sins x l ≠ [] := fun none => absurd (mem_sins.2 (.inl rfl) : x ∈ sins x l) (by simp [none])

section

variable {line tile : Nat} {b : Block} {t : CcOpen} (busy : (lineAt b line).busy = some t)

include busy

/-- An acknowledged invalidation is awaited no more, and the transaction goes on where others are. -/
theorem invAck_waits (flight : ccFind b line tile (· == .invAck) = some .invAck) (more : srem tile t.acks ≠ []) : ∃ d, ccInvAck line tile b = ccRoom d ∧
    lineAt d line = { lineAt b line with sharers := srem tile (lineAt b line).sharers, busy := some { t with acks := srem tile t.acks } } := by
  let l : CcLine := { lineAt b line with sharers := srem tile (lineAt b line).sharers, busy := some { t with acks := srem tile t.acks } }
  have at_ := lineAt_lineSet (l := l) (busy_listed rfl) line (ccTake line tile .invAck b)
  have busy' : (lineAt (ccTake line tile .invAck b) line).busy = some t := busy
  refine ⟨lineSet line l (ccTake line tile .invAck b), (ccDeliver_some flight).trans (congrArg ccRoom ?_), at_⟩
  simp only [busy']
  exact ccFinish_waits (b := lineSet line l (ccTake line tile .invAck b)) (t := { t with acks := srem tile t.acks }) (congrArg CcLine.busy at_) (.inl more)

/-- The last acknowledgement ends a GETM that the depot answers: the requester owns the line, and receives data and Grant. -/
theorem invAck_ends (flight : ccFind b line tile (· == .invAck) = some .invAck) (last : srem tile t.acks = []) (fwd : t.fwd = none) (req : t.req = .getM)
    (unowned : (lineAt b line).owner = none) : ∃ d, ccInvAck line tile b = ccRoom d ∧
      lineAt d line = { lineAt b line with owner := some t.agent, sharers := [], busy := none } ∧
      (line, t.agent, .data false) ∈ d.cc.msgs ∧ (line, t.agent, .grant) ∈ d.cc.msgs := by
  let l : CcLine := { lineAt b line with sharers := srem tile (lineAt b line).sharers, busy := some { t with acks := srem tile t.acks } }
  have at_ := lineAt_lineSet (l := l) (busy_listed rfl) line (ccTake line tile .invAck b)
  have busy' : (lineAt (ccTake line tile .invAck b) line).busy = some t := busy
  have ends := ccFinish_getM (b := lineSet line l (ccTake line tile .invAck b)) (t := { t with acks := srem tile t.acks }) (congrArg CcLine.busy at_) last fwd req ((congrArg CcLine.owner at_).trans unowned)
  rw [at_] at ends
  refine ⟨ccSend line t.agent .grant (ccSend line t.agent (.data false) (lineSet line { l with owner := some t.agent, sharers := [], busy := none }
    (lineSet line l (ccTake line tile .invAck b)))), (ccDeliver_some flight).trans (congrArg ccRoom ?_),
    lineAt_lineSet (l := { l with owner := some t.agent, sharers := [], busy := none }) (owned_listed rfl) line _, ?_, ?_⟩
  · simp only [busy']
    exact ends
  · exact List.mem_append_left _ (List.mem_append_right _ (List.mem_singleton.2 rfl))
  · exact List.mem_append_right _ (List.mem_singleton.2 rfl)

/-- The forward of a GETS is done: the requester has a copy, and the owner stays as it says. -/
theorem fwdDone_ends {own keeps : Bool} (flight : ccFind b line tile CcMsg.isFwdDone = some (.fwdDone own keeps)) (fwd : t.fwd = some tile) (acks : t.acks = [])
    (req : t.req = .getS) : ∃ d, ccFwdDone line tile b = ccRoom d ∧ (lineAt d line).busy = none ∧
      (lineAt d line).owner = (if own then (lineAt b line).owner else none) ∧
      (lineAt d line).sharers = sins t.agent (if keeps && !own then sins tile (lineAt b line).sharers else (lineAt b line).sharers) := by
  let l : CcLine := { lineAt b line with
    owner := if own then (lineAt b line).owner else none
    sharers := sins t.agent (if keeps && !own then sins tile (lineAt b line).sharers else (lineAt b line).sharers)
    busy := some { t with fwd := none } }
  have at_ := lineAt_lineSet (l := l) (busy_listed rfl) line (ccTake line tile (.fwdDone own keeps) b)
  have busy' : (lineAt (ccTake line tile (.fwdDone own keeps) b) line).busy = some t := busy
  have ends := ccFinish_getS (b := lineSet line l (ccTake line tile (.fwdDone own keeps) b)) (t := { t with fwd := none }) (congrArg CcLine.busy at_) acks rfl req
  rw [at_] at ends
  have ended := lineAt_lineSet (l := { l with busy := none }) (sharers_listed (mem_sins_self _ _)) line (lineSet line l (ccTake line tile (.fwdDone own keeps) b))
  refine ⟨lineSet line { l with busy := none } (lineSet line l (ccTake line tile (.fwdDone own keeps) b)), (ccDeliver_some flight).trans (congrArg ccRoom ?_), ?_, ?_, ?_⟩
  · have awaited : (t.fwd != some tile) = false := by simp [fwd]
    have gets : (t.req == CcReq.getS) = true := by simp [req]
    have plain : (t.req == CcReq.getM || t.req == CcReq.upgrade) = false := by simp [req]
    simp only [busy', awaited, gets, plain, Bool.or_false, Bool.false_eq_true, if_false, if_true]
    exact ends
  · rw [ended]
  · rw [ended]
  · rw [ended]

/-- The data of an eviction ends it. -/
theorem wbData_ends (flight : ccFind b line tile (· == .wbData) = some .wbData) (fwd : t.fwd = some tile) (acks : t.acks = []) (req : t.req = .putM ∨ t.req = .putO)
    (shared : (lineAt b line).sharers ≠ []) : ∃ d, ccWbData line tile b = ccRoom d ∧ lineAt d line = { lineAt b line with owner := none, busy := none } := by
  let l : CcLine := { lineAt b line with busy := some { t with fwd := none } }
  have at_ := lineAt_lineSet (l := l) (busy_listed rfl) line (ccTake line tile .wbData b)
  have busy' : (lineAt (ccTake line tile .wbData b) line).busy = some t := busy
  have ends := ccFinish_put (b := lineSet line l (ccTake line tile .wbData b)) (t := { t with fwd := none }) (congrArg CcLine.busy at_) acks rfl req
  rw [at_] at ends
  refine ⟨lineSet line { l with owner := none, busy := none } (lineSet line l (ccTake line tile .wbData b)),
    (ccDeliver_some flight).trans (congrArg ccRoom ?_), lineAt_lineSet (l := { l with owner := none, busy := none }) (sharers_listed shared) line
    (lineSet line l (ccTake line tile .wbData b))⟩
  simp only [busy', fwd, if_true]
  exact ends

end

/-! ### Nacks and retries (R542) -/

theorem nacked_waits {line tile : Nat} {c : CcCopy} {b : Block} (at_ : copyAt b line tile = some c) (flight : ccFind b line tile (· == .nack) = some .nack) :
    ∃ d, ccNacked line tile b = ccRoom d ∧ copyAt d line tile = some { c with retryAt := some (b.now + ccBackoff b (tget 1 b.cc.nacks (ccKey line tile))) } := by
  refine ⟨_, ccDeliver_some flight, (tfind_tmod_same _ _ _).trans ?_⟩
  exact congrArg (Option.map fun x => { x with retryAt := some (b.now + ccBackoff b (tget 1 b.cc.nacks (ccKey line tile))) }) at_

section

variable {line tile : Nat} {c : CcCopy} {b : Block} (at_ : copyAt b line tile = some c)

include at_

theorem ccRetry_issues {t : Nat} {r : CcReq} (due : c.retryAt = some t) (request : c.st.request = some r) :
    ccRetry line tile b = ccArrive line tile r (copySet line tile { c with retryAt := none } (timeTo t b)) := by
  have at' : tfind b.cc.copies (ccKey line tile) = some c := at_
  simp only [ccRetry, at', due, request]

theorem ccRetry_none (none_ : c.retryAt = none) : ccRetry line tile b = b := by
  have at' : tfind b.cc.copies (ccKey line tile) = some c := at_
  simp only [ccRetry, at', none_]

end

/-! ### Grant and data (R532, R536) -/

section

variable {line tile : Nat} {c : CcCopy} {b : Block} (at_ : copyAt b line tile = some c)

include at_

theorem ccGrant_awaits (flight : ccFind b line tile (· == .grant) = some .grant) (st : c.st = .imD) (early : c.data = false) :
    ccGrant line tile b = ccRoom (copySet line tile { c with grant := true } (ccTake line tile .grant b)) := by
  have at' : copyAt (ccTake line tile .grant b) line tile = some c := at_
  refine (ccDeliver_some flight).trans (congrArg ccRoom ?_)
  simp [at', st, early]

theorem ccGrant_ends (flight : ccFind b line tile (· == .grant) = some .grant) (come : c.data = true) (held : c.held = []) :
    ccGrant line tile b = ccRoom (copySet line tile (copyIn .m) (ccTake line tile .grant b)) := by
  have at' : copyAt (ccTake line tile .grant b) line tile = some c := at_
  refine (ccDeliver_some flight).trans (congrArg ccRoom ?_)
  simp only [at', come, Bool.not_true, Bool.false_eq_true, and_false, if_false]
  exact ccHeld_none (c := { c with st := .m, data := true }) held _

variable {x : Bool} (small : tile < 12) (flight : ccFind b line tile (· == .data x) = some (.data x))

include small flight

theorem ccData_isD (st : c.st = .isD) (held : c.held = []) :
    ccData line tile x b = ccRoom (copySet line tile (copyIn (if x then .e else .s)) (ccTake line tile (.data x) b)) := by
  have at' : copyAt (ccTake line tile (.data x) b) line tile = some c := at_
  refine (ccDeliver_some flight).trans (congrArg ccRoom ?_)
  simp only [Nat.not_le.2 small, if_false, at', st]
  exact ccHeld_none (c := { c with st := if x then .e else .s }) held _

theorem ccData_awaits (st : c.st = .imD) (early : c.grant = false) :
    ccData line tile x b = ccRoom (copySet line tile { c with data := true } (ccTake line tile (.data x) b)) := by
  have at' : copyAt (ccTake line tile (.data x) b) line tile = some c := at_
  refine (ccDeliver_some flight).trans (congrArg ccRoom ?_)
  simp only [Nat.not_le.2 small, if_false, at', st, early, Bool.false_eq_true]

theorem ccData_ends (st : c.st = .imD) (granted : c.grant = true) (held : c.held = []) :
    ccData line tile x b = ccRoom (copySet line tile (copyIn .m) (ccTake line tile (.data x) b)) := by
  have at' : copyAt (ccTake line tile (.data x) b) line tile = some c := at_
  refine (ccDeliver_some flight).trans (congrArg ccRoom ?_)
  simp only [Nat.not_le.2 small, if_false, at', st, granted, if_true]
  exact ccHeld_none (c := { c with st := .m, grant := true }) held _

end

/-! ### A home times out (R544, R545, R556) -/

theorem homeTimeout_none {line : Nat} {b : Block} (idle : (lineAt b line).busy = none) : homeTimeout line b = b := by
  simp only [homeTimeout, idle]

section

variable {line : Nat} {b : Block} {t : CcOpen} (busy : (lineAt b line).busy = some t)

include busy

theorem homeTimeout_still (still : t.acks = [] ∧ t.fwd = none ∨ t.req = .putM ∨ t.req = .putO) : homeTimeout line b = b := by
  simp only [homeTimeout, busy]
  exact if_pos (by simpa using still)

theorem homeTimeout_poisons (awaits : ¬(t.acks = [] ∧ t.fwd = none)) (notM : t.req ≠ .putM) (notO : t.req ≠ .putO) :
    homeTimeout line b = ccRoom (linePoison line false b) := by
  simp only [homeTimeout, busy]
  exact if_neg (by simpa [notM, notO] using awaits)

end

/-- A cache is told that a line is poisoned: its copy is invalidated. -/
def poisonTold (line t : Nat) (b : Block) : Block := ccSend line t .inv (copySet line t (copyIn .s) b)

/-- The caches that may hold a copy of a line. -/
def holders (line : Nat) (b : Block) : List Nat :=
  (List.range 12).filter (fun t => (lineAt b line).owner == some t || (lineAt b line).sharers.contains t || (copyAt b line t).isSome)

/-- A line that is poisoned, with every copy invalidated, before the partition captures it. -/
def poisonedLine (line : Nat) (b : Block) : Block :=
  each (holders line b) (poisonTold line) (lineSet line { lineIdle with poisoned := true } (fbump F.ccEventsTimeouts 0 1 (lineForget line b)))

theorem linePoison_mirror {line : Nat} (mirror : line % 4 = 3) (b : Block) :
    linePoison line false b = partFault (line / 4 / 2 ^ 51 / 4096) 2 .none (poisonCapture (line / 4 / 2 ^ 51 / 4096) line false (poisonedLine line b)) := by
  have part : ∀ d, linePart d line = some (line / 4 / 2 ^ 51 / 4096) := fun d => by simp only [linePart, mirror]
  have object : lineObj line = .none := by simp only [lineObj, mirror]
  have items : ∀ d, lineItems d line = [] := fun d => by simp only [lineItems, mirror]
  have other : ¬line % 4 = 0 := by omega
  simp only [linePoison, part, object, items, if_neg other]
  rfl

/-- A copy that is left once a line has been poisoned is one that was invalidated. -/
theorem poisonTold_each (line k : Nat) (l : List Nat) : ∀ b,
    (copyAt b line k = none ∨ copyAt b line k = some (copyIn .s) ∧ (line, k, .inv) ∈ b.cc.msgs) →
      copyAt (each l (poisonTold line) b) line k = none ∨
        copyAt (each l (poisonTold line) b) line k = some (copyIn .s) ∧ (line, k, .inv) ∈ (each l (poisonTold line) b).cc.msgs := by
  induction l with
  | nil => exact fun _ h => h
  | cons t l ih =>
    intro b h
    refine ih _ ?_
    by_cases same : k = t
    · rw [same]
      exact .inr ⟨copyAt_copySet line t (copyIn .s) b, List.mem_append_right _ (List.mem_singleton.2 rfl)⟩
    · have far : ccKey line k ≠ ccKey line t := by unfold ccKey; omega
      have kept : copyAt (poisonTold line t b) line k = copyAt b line k := tfind_tput_other _ _ _ _ far
      rw [kept]
      exact h.imp id (fun held => ⟨held.1, List.mem_append_left _ held.2⟩)

theorem regs_poisonedLine (line : Nat) (b : Block) : (poisonedLine line b).regs = (fbump F.ccEventsTimeouts 0 1 (lineForget line b)).regs :=
  each_keeps Block.regs (holders line b) (poisonTold line) (fun _ _ _ => rfl) _

theorem lineAt_poisonedLine (line : Nat) (b : Block) : lineAt (poisonedLine line b) line = { lineIdle with poisoned := true } :=
  (each_keeps (fun d => lineAt d line) (holders line b) (poisonTold line) (fun _ _ _ => rfl) _).trans (lineAt_lineSet (by decide) line _)

theorem copyAt_poisonedLine {line k : Nat} (small : k < 12) (b : Block) (held : copyAt (poisonedLine line b) line k ≠ none) :
    copyAt (poisonedLine line b) line k = some (copyIn .s) ∧ (line, k, .inv) ∈ (poisonedLine line b).cc.msgs := by
  have at_ : ccKey line k / 16 = line := by unfold ccKey; omega
  have forgotten : copyAt (lineSet line { lineIdle with poisoned := true } (fbump F.ccEventsTimeouts 0 1 (lineForget line b))) line k = none := by
    refine (tfind_filter_key b.cc.copies (fun k => k / 16 != line) (ccKey line k)).trans (if_neg ?_)
    simp [at_]
  exact (poisonTold_each line k (holders line b) _ (.inl forgotten)).resolve_left held

section

variable {p line : Nat} {b : Block}

/-- The first poisoned line of a partition is captured (R556). -/
theorem poisonCapture_first (free : fon b F.ccPoisonValid p = false) : fon (poisonCapture p line false b) F.ccPoisonValid p = true ∧
    fget (poisonCapture p line false b) F.ccPoisonKind p = line % 4 ∧ fget (poisonCapture p line false b) F.ccPoisonCause p = 0 ∧
    fget (poisonCapture p line false b) F.ccPoisonCount p = 1 := by
  rw [poisonCapture, if_neg (Bool.eq_false_iff.1 free), fon]
  have below : ∀ f : Fld, f.reg = .ccPoison → f.hi < 64 → 23 < f.lo → ∀ d, fget (fput F.ccPoisonObject p (lineObject line) d) f p = fget d f p :=
    fun f reg top above d => fget_fput_field F.ccPoisonObject f p _ d reg top (.inl above)
  rw [below _ rfl (by decide) (by decide), below _ rfl (by decide) (by decide), below _ rfl (by decide) (by decide), below _ rfl (by decide) (by decide)]
  refine ⟨?_, ?_, ?_, fget_fput_fits p _ (by decide) (by decide)⟩
  · rw [fget_fput_field F.ccPoisonCount F.ccPoisonValid _ _ _ rfl (by decide) (by decide), fget_fput_field F.ccPoisonCause F.ccPoisonValid _ _ _ rfl (by decide) (by decide),
      fget_fput_field F.ccPoisonKind F.ccPoisonValid _ _ _ rfl (by decide) (by decide), fget_fput_fits (f := F.ccPoisonValid) _ _ (by decide) (by decide)]
    rfl
  · rw [fget_fput_field F.ccPoisonCount F.ccPoisonKind _ _ _ rfl (by decide) (by decide), fget_fput_field F.ccPoisonCause F.ccPoisonKind _ _ _ rfl (by decide) (by decide)]
    exact fget_fput_fits p _ (by decide) (by show line % 4 < 8; omega)
  · rw [fget_fput_field F.ccPoisonCount F.ccPoisonCause _ _ _ rfl (by decide) (by decide)]
    exact fget_fput_fits p _ (by decide) (by decide)

theorem poisonCapture_more (taken : fon b F.ccPoisonValid p = true) :
    fget (poisonCapture p line false b) F.ccPoisonCount p = satAdd F.ccPoisonCount.max (fget b F.ccPoisonCount p) 1 := by
  rw [poisonCapture, if_pos taken]
  exact fget_fbump_same _ _ _ _ (by decide)

theorem poisonCapture_rest (hp : p < 16) (q : Reg) (i : Nat) (other : q ≠ .ccPoison) (hi : i < 2 ^ 32) : rget (poisonCapture p line false b) q i = rget b q i := by
  have kept := fun (f : Fld) (hf : f.reg = .ccPoison) v d => rget_fput_other f q p i v d (regKey_ne (hf ▸ other) hi (by omega))
  unfold poisonCapture
  split
  · exact kept F.ccPoisonCount rfl _ _
  · rw [kept F.ccPoisonObject rfl, kept F.ccPoisonCount rfl, kept F.ccPoisonCause rfl, kept F.ccPoisonKind rfl, kept F.ccPoisonValid rfl]

theorem cc_poisonCapture (p line : Nat) (b : Block) : (poisonCapture p line false b).cc = b.cc := by
  unfold poisonCapture
  split <;> rfl

end

/-- The capture of a translation-mirror line that is poisoned, of partition `p` (R544, R545, R556). -/
theorem poisonCapture_mirror {p line : Nat} (hp : p < 16) (mirror : line % 4 = 3) (b : Block) : let c := poisonCapture p line false (poisonedLine line b)
    lineAt c line = { lineIdle with poisoned := true } ∧
      fget c F.ccEventsTimeouts 0 = satAdd F.ccEventsTimeouts.max (fget b F.ccEventsTimeouts 0) 1 ∧
      (∀ k, copyAt c line k ≠ none → k < 12 → copyAt c line k = some (copyIn .s) ∧ (line, k, .inv) ∈ c.cc.msgs) ∧
      (fon b F.ccPoisonValid p = false → fon c F.ccPoisonValid p = true ∧ fget c F.ccPoisonKind p = 3 ∧
        fget c F.ccPoisonCause p = 0 ∧ fget c F.ccPoisonCount p = 1) ∧
      (fon b F.ccPoisonValid p = true → fget c F.ccPoisonCount p = satAdd F.ccPoisonCount.max (fget b F.ccPoisonCount p) 1) := by
  intro c
  have cc : c.cc = (poisonedLine line b).cc := cc_poisonCapture p line _
  have told : ∀ (f : Fld), fget (poisonedLine line b) f = fget (fbump F.ccEventsTimeouts 0 1 (lineForget line b)) f := fun f => by
    funext i
    rw [fget, fget, rget, rget, regs_poisonedLine]
  have kept : ∀ f : Fld, f.reg = .ccPoison → fget (poisonedLine line b) f p = fget b f p := fun f reg => by
    rw [told]
    exact fget_fput_elsewhere (f := F.ccEventsTimeouts) (g := f) (i := 0) _ (lineForget line b) (by rw [reg]; decide) (by decide) (by omega)
  refine ⟨?_, ?_, fun k held small => ?_, fun free => ?_, fun taken => ?_⟩
  · rw [lineAt, cc]
    exact lineAt_poisonedLine line b
  · have rest := poisonCapture_rest (line := line) (b := poisonedLine line b) hp .ccEvents 0 (by decide) (by decide)
    refine (congrArg (fun v => qbits v F.ccEventsTimeouts.hi F.ccEventsTimeouts.lo) rest).trans ?_
    exact (congrFun (told F.ccEventsTimeouts) 0).trans (fget_fbump_same F.ccEventsTimeouts 0 1 (lineForget line b) (by decide))
  · have copy : copyAt c line k = copyAt (poisonedLine line b) line k := by rw [copyAt, cc, copyAt]
    rw [copy] at held ⊢
    rw [cc]
    exact copyAt_poisonedLine small b held
  · rw [← mirror]
    exact poisonCapture_first ((congrArg (· == 1) (kept F.ccPoisonValid rfl)).trans free)
  · rw [← kept F.ccPoisonCount rfl]
    exact poisonCapture_more ((congrArg (· == 1) (kept F.ccPoisonValid rfl)).trans taken)

/-- Settles O55: each delivery by the copy or the transaction that it meets, and the timeout by what the line awaits. -/
theorem coherenceMessagesAreDelivered : Obligations.CoherenceMessagesAreDelivered := by
  refine ⟨fun s line tile a small smallA => ?_, fun s line => ⟨fun idle => ?_, fun t busy => ⟨fun still => ?_, fun awaits notM notO => ⟨?_, fun p mirror part hp => ?_⟩⟩⟩⟩
  · intro l taken
    refine ⟨fun b quiet => if_pos quiet, fun absent => ?_, fun absent => ?_, fun absent => ?_, fun absent => ?_, fun m absent => ⟨?_, ?_, ?_, ?_, ?_, ?_, ?_, ?_⟩,
      fun c at_ sound => ⟨fun flight => ⟨fun st => ?_, fun st => ?_, fun st accepted => ?_⟩, fun flight st => ?_, fun flight st => ?_, fun flight st => ?_, fun flight => ?_,
        fun t r due request => ?_, fun none_ => ?_, fun flight => ⟨fun st early => ?_, fun come held => ?_⟩,
        fun x flight => ⟨fun st held => ?_, fun st early => ?_, fun st granted held => ?_⟩⟩, fun at_ flight => ?_, fun flight => ?_, fun x flight => ?_,
      fun t busy => ⟨fun flight => ⟨fun more => ?_, fun last fwd req unowned => ?_⟩, fun own keeps flight fwd acks req => ?_, fun flight fwd acks req shared => ?_⟩⟩
    · exact run_eq (f := ccForwardIn line tile CcMsg.isFwdGetS) (ccDeliver_none absent)
    · exact run_eq (f := ccForwardIn line tile CcMsg.isFwdGetM) (ccDeliver_none absent)
    · exact run_eq (f := ccFwdDone line tile) (ccDeliver_none absent)
    · exact run_eq (f := ccPutAck line tile) (ccDeliver_none absent)
    · rintro rfl
      exact run_eq (f := ccForwardIn line tile (· == .fwdRecall)) (ccDeliver_none absent)
    · rintro rfl
      exact run_eq (f := ccForwardIn line tile (· == .inv)) (ccDeliver_none absent)
    · rintro rfl
      exact run_eq (f := ccInvAck line tile) (ccDeliver_none absent)
    · rintro rfl
      exact run_eq (f := ccNacked line tile) (ccDeliver_none absent)
    · rintro rfl
      exact run_eq (f := ccWbGrant line tile) (ccDeliver_none absent)
    · rintro rfl
      exact run_eq (f := ccGrant line tile) (ccDeliver_none absent)
    · rintro rfl
      exact run_eq (f := ccWbData line tile) (ccDeliver_none absent)
    · rintro x rfl
      exact run_eq (f := ccData line tile x) (ccDeliver_none absent)
    · exact run_eq (f := ccForwardIn line tile CcMsg.isFwdGetS) ((ccDeliver_some flight).trans (congrArg ccRoom (ccForward_getS_m (b := taken (.fwdGetS a)) at_ sound st)))
    · exact run_eq (f := ccForwardIn line tile CcMsg.isFwdGetS) ((ccDeliver_some flight).trans (congrArg ccRoom (ccForward_getS_e (b := taken (.fwdGetS a)) at_ sound smallA st)))
    · have holds : c.holds = true := by simp [CcCopy.holds, accepted, st]
      exact run_eq (f := ccForwardIn line tile CcMsg.isFwdGetS) ((ccDeliver_some flight).trans (congrArg ccRoom (ccForward_held (b := taken (.fwdGetS a)) at_ sound holds _)))
    · exact run_eq (f := ccForwardIn line tile CcMsg.isFwdGetM) ((ccDeliver_some flight).trans (congrArg ccRoom (ccForward_getM (b := taken (.fwdGetM a)) at_ sound st a)))
    · exact run_eq (f := ccForwardIn line tile (· == .fwdRecall)) ((ccDeliver_some flight).trans (congrArg ccRoom (ccForward_recall (b := taken .fwdRecall) at_ sound st)))
    · exact run_eq (f := ccForwardIn line tile (· == .inv)) ((ccDeliver_some flight).trans (congrArg ccRoom (ccForward_inv (b := taken .inv) at_ sound st)))
    · obtain ⟨d, nacked, waits⟩ := nacked_waits at_ flight
      exact ⟨d, run_eq (f := ccNacked line tile) nacked, waits⟩
    · exact run_eq (f := ccRetry line tile) (ccRetry_issues at_ due request)
    · exact run_eq (f := ccRetry line tile) (ccRetry_none at_ none_)
    · exact run_eq (f := ccGrant line tile) (ccGrant_awaits at_ flight st early)
    · exact run_eq (f := ccGrant line tile) (ccGrant_ends at_ flight come held)
    · exact run_eq (f := ccData line tile x) (ccData_isD at_ small flight st held)
    · exact run_eq (f := ccData line tile x) (ccData_awaits at_ small flight st early)
    · exact run_eq (f := ccData line tile x) (ccData_ends at_ small flight st granted held)
    · exact run_eq (f := ccForwardIn line tile (· == .inv)) ((ccDeliver_some flight).trans (congrArg ccRoom (ccForward_inv_absent (b := taken .inv) at_)))
    · exact run_eq (f := ccWbGrant line tile) (ccDeliver_some flight)
    · exact run_eq (f := ccPutAck line tile) (ccDeliver_some flight)
    · obtain ⟨d, acked, at_⟩ := invAck_waits busy flight more
      exact ⟨d, run_eq (f := ccInvAck line tile) acked, at_⟩
    · obtain ⟨d, acked, at_, data, grant⟩ := invAck_ends busy flight last fwd req unowned
      exact ⟨d, run_eq (f := ccInvAck line tile) acked, at_, data, grant⟩
    · obtain ⟨d, done, idle, owner, sharers⟩ := fwdDone_ends busy flight fwd acks req
      exact ⟨d, run_eq (f := ccFwdDone line tile) done, idle, owner, sharers⟩
    · obtain ⟨d, done, at_⟩ := wbData_ends busy flight fwd acks req shared
      exact ⟨d, run_eq (f := ccWbData line tile) done, at_⟩
  · exact run_settle_eq (f := homeTimeout line) (homeTimeout_none idle)
  · exact run_settle_eq (f := homeTimeout line) (homeTimeout_still busy still)
  · exact run_settle_eq (f := homeTimeout line) (homeTimeout_poisons busy awaits notM notO)
  · have poisons := linePoison_mirror mirror s.blk
    rw [← part] at poisons
    exact ⟨_, run_settle_eq (f := homeTimeout line) ((homeTimeout_poisons busy awaits notM notO).trans (congrArg ccRoom poisons)), poisonCapture_mirror hp mirror s.blk⟩

end Sys2Proof.Laws

/-!
Interrupt sources (R580 to R594): completes, configurations, masks, pending bits, software triggers and the sweep.
-/
namespace Sys2Proof.Laws

open Sys2Proof Sys2Proof.Machine Sys2Proof.Safety

/-! ### Completes (R584) -/

theorem not_inService_removed (n : Nat) (b : Block) : sgInService { b with sgServing := srem n b.sgServing } n = false := by
  simp [sgInService, srem]

/-- A POLL source that the agent may configure is cleared. -/
theorem sgComplete_poll {w : Agent} {n : Nat} {b : Block} (hn : n < 2048) (poll : (sgTarget b n).1 = 19) (may : sgMay b w n = true) (free : sgFixed n = false)
    (t fn : Nat) : sgPendingBit (sgComplete w t fn n b) n = false ∧ sgCount (sgComplete w t fn n b) n = 0 ∧ sgInService (sgComplete w t fn n b) n = false := by
  have clears : sgComplete w t fn n b = { sgSetCount n 0 (sgSetPending n false b) with sgServing := srem n (sgSetCount n 0 (sgSetPending n false b)).sgServing } :=
    if_pos ⟨poll, may, by rw [free]; rfl⟩
  rw [clears]
  refine ⟨?_, sgCount_setCount_same n 0 _, not_inService_removed n _⟩
  exact (sgPendingBit_setCount hn hn 0 _).trans (sgPendingBit_setPending_same n false b)

section

variable {w : Agent} {t fn n : Nat} {b : Block} (other : ¬((sgTarget b n).1 = 19 ∧ sgMay b w n = true ∧ sgFixed n = false))

include other

theorem not_poll : ¬((sgTarget b n).1 = 19 ∧ sgMay b w n = true ∧ (!sgFixed n) = true) := fun ⟨poll, may, free⟩ => other ⟨poll, may, by simpa using free⟩

theorem sgComplete_ends (serves : sgInService b n = true) (aims : sgAims b n t fn = true) :
    sgComplete w t fn n b = sgNewly b [n] { b with sgServing := srem n b.sgServing } :=
  (if_neg (not_poll other)).trans (if_pos (by rw [serves, aims]; rfl))

theorem sgComplete_ignored (idle : sgInService b n = false) : sgComplete w t fn n b = ignored .sg w none b :=
  (if_neg (not_poll other)).trans (if_neg (by simp [idle]))

end

/-- A source whose service ends is signalled again where it is pending and not masked. -/
theorem sgNewly_ended {n : Nat} {b : Block} (serves : sgInService b n = true) : sgNewly b [n] { b with sgServing := srem n b.sgServing } =
    if sgPendingBit b n = true ∧ sgMaskBit b n = false then sgSignal n { b with sgServing := srem n b.sgServing } else { b with sgServing := srem n b.sgServing } := by
  have before : sgEligible b n = false := not_eligible_of_inService serves
  have after : sgEligible { b with sgServing := srem n b.sgServing } n = (sgPendingBit b n && !sgMaskBit b n) := by
    rw [sgEligible, not_inService_removed]
    exact Bool.and_true _
  simp only [sgNewly, each, before, after]
  cases sgPendingBit b n <;> cases sgMaskBit b n <;> rfl

/-! ### Configurations (R580, R591) -/

/-- What a write would leave of SG_SRC_CFG. -/
def srcWritten (src : Nat) (val mask : BitVec 64) (b : Block) : BitVec 64 := (rget b .sgSrcCfg src &&& ~~~mask) ||| (val &&& mask)

theorem sgConfig_refused {w : Agent} {src : Nat} {val mask : BitVec 64} {b : Block} (refused : sgFixed src = true ∨ sgMaskBit b src = false ∨ sgInService b src = true ∨
      sgAbsent b (srcWritten src val mask b) = true ∨ (∃ h v p, w = .vf h v ∧ sgPart src = some p ∧ sgVfTarget b p (srcWritten src val mask b) = false)) :
    sgConfig w src val mask b = ignored .sg w none b := by
  refine if_pos ?_
  rcases refused with fixed | unmasked | serves | absent | ⟨h, v, p, rfl, part, foreign⟩
  · simp [fixed]
  · simp [unmasked]
  · simp [serves]
  · have gone : sgAbsent b ((rget b .sgSrcCfg src &&& ~~~mask) ||| (val &&& mask)) = true := absent
    simp [gone]
  · have foreign' : sgVfTarget b p ((rget b .sgSrcCfg src &&& ~~~mask) ||| (val &&& mask)) = false := foreign
    simp [part, foreign']

theorem sgConfig_taken {w : Agent} {src : Nat} {val mask : BitVec 64} {b : Block} (free : sgFixed src = false) (masked : sgMaskBit b src = true)
    (idle : sgInService b src = false) (may : sgMay b w src = true) (there : sgAbsent b (srcWritten src val mask b) = false)
    (mine : ∀ h v p, w = .vf h v → sgPart src = some p → sgVfTarget b p (srcWritten src val mask b) = true) (present : ∀ p, sgPart src = some p → partPresent b p = true) :
    sgConfig w src val mask b = rput .sgSrcCfg src (srcWritten src val mask b &&& 0xFF00007F000007FF#64) b := by
  have there' : sgAbsent b ((rget b .sgSrcCfg src &&& ~~~mask) ||| (val &&& mask)) = false := there
  refine if_neg ?_
  cases part : sgPart src with
  | none => cases w <;> simp [free, masked, idle, may, there']
  | some p =>
    have here := present p part
    cases w with
    | vf h v =>
      have mine' : sgVfTarget b p ((rget b .sgSrcCfg src &&& ~~~mask) ||| (val &&& mask)) = true := mine h v p rfl part
      simp [free, masked, idle, may, there', here, mine']
    | pf h => simp [free, masked, idle, may, there', here]
    | mgmt => simp [free, masked, idle, may, there', here]

theorem and_self_mask (val mask : BitVec 64) : val &&& mask &&& mask = val &&& mask := by rw [BitVec.and_assoc, BitVec.and_self]

/-- The place of a configuration: of a partition's source where the agent has the partition. -/
theorem regPlace_srcCfg {b : Block} {w : Agent} {src i : Nat} (place : regPlace b w .sgSrcCfg src = .at_ i) :
    (∃ p, sgPart src = some p ∧ whereOwn b w p src = .at_ i) ∨ sgPart src = none ∧ i = src := by
  have at_ : (match w, sgPart src with | .vf _ _, none => Where.foreign | _, some p => whereOwn b w p src | _, none => .at_ src) = .at_ i := place
  cases part : sgPart src with
  | some p =>
    refine .inl ⟨p, rfl, ?_⟩
    rw [part] at at_
    cases w <;> exact at_
  | none =>
    rw [part] at at_
    cases w <;> cases at_
    · exact .inr ⟨rfl, rfl⟩
    · exact .inr ⟨rfl, rfl⟩

/-- A configuration that lands is that of the source named, of a partition that is there. -/
theorem srcCfg_place {b : Block} {w : Agent} {src i : Nat} (place : regIdx b w .sgSrcCfg src = .at_ i) : i = src ∧ ∀ p, sgPart src = some p → partPresent b p = true := by
  rcases regPlace_srcCfg (regPlace_of_at place) with ⟨q, part, own⟩ | ⟨part, rfl⟩
  · unfold whereOwn at own
    split at own
    · next owned =>
      refine ⟨by cases own; rfl, fun p h => ?_⟩
      obtain rfl : q = p := Option.some.inj (part.symm.trans h)
      unfold owns at owned
      exact (Bool.and_eq_true_iff.1 owned).1
    · cases own
  · exact ⟨rfl, fun p h => absurd (part.symm.trans h) (by simp)⟩

/-! ### Words of mask and pending bits (R581, R586, R588) -/

theorem getLsbD_wordFold (p : Nat → Bool) (k : Nat) {n : Nat} (hn : n < 64) (l : List Nat) : ∀ m : BitVec 64,
    (l.foldl (fun m i => if p (64 * k + i) then m ||| (1#64 <<< i) else m) m).getLsbD n = (m.getLsbD n || (l.contains n && p (64 * k + n))) := by
  induction l with
  | nil => simp
  | cons i l ih =>
    intro m
    rw [List.foldl_cons, ih]
    by_cases same : n = i
    · subst same
      cases set : p (64 * k + n) <;> simp [hn]
    · have bit : (1#64 <<< i).getLsbD n = false := by
        simp [BitVec.getLsbD_shiftLeft]
        omega
      cases set : p (64 * k + i) <;> simp [bit, same]

theorem getLsbD_wordMask (p : Nat → Bool) (k : Nat) {n : Nat} (hn : n < 64) : (wordMask p k).getLsbD n = p (64 * k + n) := by
  have listed : (List.range 64).contains n = true := List.contains_iff_mem.2 (List.mem_range.2 hn)
  rw [wordMask, getLsbD_wordFold p k hn, listed]
  simp

/-- What the management core leaves of a word of sources: the bits that it names, but for those of functions under reset. -/
def wordWritten (r : Reg) (k : Nat) (val mask : BitVec 64) (b : Block) : BitVec 64 :=
  let take := wordMask (sgMayBit b .mgmt) k &&& wordMask (fun s => !sgHeld b s) k &&& mask
  (rget b r k &&& ~~~take) ||| (val &&& mask &&& take)

theorem getLsbD_mayMask (k : Nat) (b : Block) {n : Nat} (hn : n < 64) : (wordMask (sgMayBit b .mgmt) k).getLsbD n = true := by
  rw [getLsbD_wordMask _ _ hn]
  rfl

theorem getLsbD_wordWritten (r : Reg) (k : Nat) (val mask : BitVec 64) (b : Block) {n : Nat} (hn : n < 64) :
    (wordWritten r k val mask b).getLsbD n = if mask.getLsbD n && !sgHeld b (64 * k + n) then val.getLsbD n else (rget b r k).getLsbD n := by
  simp only [wordWritten, BitVec.getLsbD_or, BitVec.getLsbD_and, BitVec.getLsbD_not, hn, getLsbD_mayMask k b hn, getLsbD_wordMask _ _ hn, decide_true, Bool.true_and]
  cases mask.getLsbD n <;> cases sgHeld b (64 * k + n) <;> simp

theorem sgWordWrite_mgmt (r : Reg) (k : Nat) (val mask : BitVec 64) (b : Block) : sgWordWrite r .mgmt k (val &&& mask) mask b =
    sgNewly b ((List.range 64).map (64 * k + ·)) (rput r k (wordWritten r k val mask b) b) := by
  have may : wordMask (sgMayBit b .mgmt) k ≠ 0#64 := fun zero => by
    have bit := getLsbD_mayMask k b (n := 0) (by decide)
    rw [zero] at bit
    exact absurd bit (by decide)
  have all : ~~~wordMask (sgMayBit b .mgmt) k = 0#64 := by
    apply BitVec.eq_of_getLsbD_eq
    intro n hn
    simp [hn, getLsbD_mayMask k b hn]
  have right : (rget b r k ^^^ (val &&& mask)) &&& mask &&& ~~~wordMask (sgMayBit b .mgmt) k &&& wordMask (fun s => !sgHeld b s) k = 0#64 := by
    rw [all, BitVec.and_zero, BitVec.zero_and]
  simp only [sgWordWrite, if_neg may, right, if_true]
  rfl

theorem sgWordWrite_foreign {r : Reg} {w : Agent} {k : Nat} {b : Block} (none_ : ∀ n, n < 64 → sgMayBit b w (64 * k + n) = false) (val mask : BitVec 64) :
    sgWordWrite r w k val mask b = ignored .sg w none b := by
  refine if_pos (BitVec.eq_of_getLsbD_eq fun n hn => ?_)
  rw [getLsbD_wordMask _ _ hn, none_ n hn]
  exact (BitVec.getLsbD_zero).symm

/-- A word of mask or pending bits is its own copy. -/
theorem sgWord_place {b : Block} {w : Agent} {r : Reg} {k i : Nat} (word : r = .sgMask ∨ r = .sgPending) (place : regIdx b w r k = .at_ i) : i = k := by
  have at_ : (if k < 16 then whereOwn b w k k else .at_ k) = Where.at_ i := by
    rcases word with rfl | rfl
    · exact regPlace_of_at place
    · exact regPlace_of_at place
  unfold whereOwn at at_
  split at at_
  · split at at_ <;> cases at_
    rfl
  · cases at_
    rfl

/-- The management core's write of a word lands at that word, where its partition is present. -/
theorem sgWord_lands {b : Block} {r : Reg} {k : Nat} (word : r = .sgMask ∨ r = .sgPending) (hk : k < 32) (present : k < 16 → partPresent b k = true) :
    Lands b .mgmt r k k (letGo .mgmt b) := by
  have place : (if k < 16 then whereOwn (letGo .mgmt b) .mgmt k k else .at_ k) = Where.at_ k := by
    split
    · next own =>
      have here : owns (letGo .mgmt b) .mgmt k = true := by
        unfold owns
        rw [show partPresent (letGo .mgmt b) k = true from present own]
        rfl
      exact if_pos here
    · rfl
  rcases word with rfl | rfl
  · exact ⟨.inl rfl, rfl, rfl, hk, rfl, rfl, place⟩
  · exact ⟨.inl rfl, rfl, rfl, hk, rfl, rfl, place⟩

/-! ### Assertion of a source that is polled (R582) -/

theorem sgAssert_poll {n : Nat} {b : Block} (kind : n < 1863 ∨ 1984 ≤ n) (hn : n < 2048) (poll : (sgTarget b n).1 = 19) :
    sgAssert n b = sgSetCount n (satAdd 255 (sgCount b n) 1) (sgSetPending n true b) := by
  obtain ⟨fn, vec, target⟩ : ∃ fn vec, sgTarget b n = (19, fn, vec) := ⟨_, _, Prod.ext poll rfl⟩
  have real : ((1863 ≤ n && n < 1984) || 2048 ≤ n) = false := by
    simp only [Bool.or_eq_false_iff, Bool.and_eq_false_iff, decide_eq_false_iff_not]
    omega
  simp only [sgAssert, sgAct, target, real]
  simp [sgToFn]

/-! ### The sweep (R582) -/

theorem mem_sgCountList {b : Block} {n : Nat} : n ∈ sgCountList b ↔ n < 2048 ∧ sgCount b n ≠ 0 := by
  have word : ∀ j, n ∈ (if rget b .sgCount j = 0#64 then [] else ((List.range 8).map (8 * j + ·)).filter (fun s => sgCount b s != 0)) ↔
      j = n / 8 ∧ sgCount b n ≠ 0 := by
    intro j
    split
    · next zero =>
      refine ⟨fun h => absurd h List.not_mem_nil, ?_⟩
      rintro ⟨rfl, counted⟩
      refine absurd ?_ counted
      rw [sgCount, zero]
      simp [qbits, bits]
    · simp only [List.mem_filter, List.mem_map, List.mem_range, bne_iff_ne]
      refine and_congr_left fun _ => ⟨?_, ?_⟩
      · rintro ⟨i, hi, rfl⟩
        omega
      · rintro rfl
        exact ⟨n % 8, Nat.mod_lt _ (by decide), by omega⟩
  unfold sgCountList
  rw [List.mem_flatMap]
  simp only [word, List.mem_range]
  constructor
  · rintro ⟨j, hj, rfl, counted⟩
    exact ⟨by omega, counted⟩
  · rintro ⟨hn, counted⟩
    exact ⟨n / 8, by omega, rfl, counted⟩

/-- The pending bit of each of a list of sources is set. -/
def allPending (l : List Nat) (b : Block) : Block := each l (fun s b => sgSetPending s true b) b

theorem rest_allPending (l : List Nat) : ∀ b, { allPending l b with regs := b.regs } = b := by
  induction l with
  | nil => exact fun _ => rfl
  | cons s l ih =>
    intro b
    have rest := ih (sgSetPending s true b)
    have regs : { allPending l (sgSetPending s true b) with regs := b.regs } = { ({ allPending l (sgSetPending s true b) with regs := (sgSetPending s true b).regs } : Block) with regs := b.regs } := rfl
    refine Eq.trans regs ?_
    rw [rest]
    rfl

theorem sgPendingBit_allPending (n : Nat) (l : List Nat) : ∀ b, sgPendingBit (allPending l b) n = (sgPendingBit b n || l.contains n) := by
  induction l with
  | nil => simp [allPending, each]
  | cons s l ih =>
    intro b
    refine (ih (sgSetPending s true b)).trans ?_
    by_cases same : n = s
    · subst same
      rw [sgPendingBit_setPending_same]
      simp
    · rw [sgPendingBit_setPending_other same]
      simp [same]

/-! ### The obligation -/

/-- A complete that lands is that of the target that it names. -/
theorem interruptComplete_lands {s : State} {w : Agent} {reg : Option Nat} {half : Half} {val : BitVec 64} {t fn i k : Nat} {b : Block} (acts : ActsFor w reg t fn)
    (lands : Lands s.blk w (if reg.isSome then Reg.sgCompleteT else .sgComplete) k i b) (named : k = reg.getD 0) (low : half ≠ .hi) :
    exec (.interruptComplete w reg half val) s = .next { s with blk := sgComplete w t fn (F.sgCompleteSource.of val) b } := by
  cases reg with
  | none =>
    obtain ⟨host, target⟩ := acts
    have names : Names half F.sgCompleteSource := names_lo (by decide) low
    subst named
    refine exec_write_applies (r := .sgComplete) rfl lands (by decide) rfl ?_
    have source := of_and_halfMask names (by decide) val
    simp only [regApply, source]
    rw [← target]
  | some c =>
    obtain ⟨rfl, _, rfl, rfl⟩ := acts
    have names : Names half F.sgCompleteTSource := names_lo (by decide) low
    subst named
    have ⟨_, _, _, _, _, _, place⟩ := lands
    cases regPlace_of_at (r := .sgCompleteT) place
    refine exec_write_applies (r := .sgCompleteT) rfl lands (by decide) rfl ?_
    have source : F.sgCompleteTSource.of (val &&& halfMask half) = F.sgCompleteSource.of val := of_and_halfMask names (by decide) val
    simp only [regApply, source]

/-- Settles O57: each register write by the branch of its register that it takes, and the sweep by the list of sources with a count. -/
theorem sourcesAreConfiguredCompletedAndSwept : Obligations.SourcesAreConfiguredCompletedAndSwept := by
  refine ⟨?_, ?_, ?_, ?_, ?_, ?_⟩
  · intro s w reg half val t fn i k b acts r n lands named low
    refine ⟨fun poll may free => ?_, fun other => ⟨?_, fun idle => ?_⟩⟩
    · exact ⟨_, interruptComplete_lands acts lands named low, sgComplete_poll (Nat.mod_lt _ (Nat.two_pow_pos 11)) poll may free t fn⟩
    · intro serves aims c
      refine ⟨fun pending unmasked => ?_, fun still => ?_⟩
      · have ends := (sgComplete_ends other serves aims).trans ((sgNewly_ended serves).trans (if_pos ⟨pending, unmasked⟩))
        exact (interruptComplete_lands acts lands named low).trans (congrArg (fun d => Host.Outcome.next { s with blk := d }) ends)
      · have quiet : ¬(sgPendingBit b n = true ∧ sgMaskBit b n = false) := by
          rintro ⟨pending, unmasked⟩
          rcases still with off | masked
          · exact absurd (pending.symm.trans off) (by decide)
          · exact absurd (masked.symm.trans unmasked) (by decide)
        have ends := (sgComplete_ends other serves aims).trans ((sgNewly_ended serves).trans (if_neg quiet))
        exact (interruptComplete_lands acts lands named low).trans (congrArg (fun d => Host.Outcome.next { s with blk := d }) ends)
    · exact sgComplete_ignored other idle ▸ interruptComplete_lands acts lands named low
  · intro s w src i half val b lands new
    refine ⟨fun refused => ?_, fun free masked idle may there mine => ?_⟩
    · have ⟨_, _, _, _, _, _, place⟩ := lands
      obtain ⟨rfl, _⟩ := srcCfg_place place
      refine exec_write_applies rfl lands (by decide) rfl (congrArg some (sgConfig_refused ?_))
      rw [srcWritten, and_self_mask]
      exact refused
    · have ⟨_, _, _, _, _, _, place⟩ := lands
      obtain ⟨rfl, present⟩ := srcCfg_place place
      have same : srcWritten i (val &&& halfMask half) (halfMask half) b = new := by rw [srcWritten, and_self_mask]
      have taken := sgConfig_taken (val := val &&& halfMask half) (mask := halfMask half) free masked idle may (same ▸ there) (same ▸ mine) present
      rw [same] at taken
      exact exec_write_applies rfl lands (by decide) rfl (congrArg some taken)
  · intro s k half val hk present
    refine ⟨?_, fun w i b lands none_ => ?_, fun w i b lands none_ => ?_⟩
    · intro r word b
      have lands := sgWord_lands word hk present
      refine ⟨rput r k (wordWritten r k val (halfMask half) b) b, rfl, ?_, fun n hn => ?_, fun q j other => rget_rput_other _ _ _ _ _ _ other⟩
      · rcases word with rfl | rfl
        · exact exec_write_applies (c := .maskWrite .mgmt k half val) rfl lands (by decide) rfl (congrArg some (sgWordWrite_mgmt .sgMask k val (halfMask half) b))
        · exact exec_write_applies (c := .pendingWrite .mgmt k half val) rfl lands (by decide) rfl (congrArg some (sgWordWrite_mgmt .sgPending k val (halfMask half) b))
      · rw [rget_rput_same]
        exact getLsbD_wordWritten r k val (halfMask half) b hn
    · have ⟨_, _, _, _, _, _, place⟩ := lands
      obtain rfl := sgWord_place (.inl rfl) place
      exact exec_write_applies rfl lands (by decide) rfl (congrArg some (sgWordWrite_foreign none_ _ _))
    · have ⟨_, _, _, _, _, _, place⟩ := lands
      obtain rfl := sgWord_place (.inr rfl) place
      exact exec_write_applies rfl lands (by decide) rfl (congrArg some (sgWordWrite_foreign none_ _ _))
  · intro s w half val i b lands low n
    refine ⟨fun software => ?_, fun other => ?_⟩
    · have source : F.sgSwTriggerSource.of (val &&& halfMask half) = n := of_and_halfMask (names_lo (by decide) low) (by decide) val
      have below : n < 2048 := Nat.mod_lt _ (Nat.two_pow_pos 11)
      refine exec_write_applies rfl lands (by decide) rfl ?_
      simp only [regApply, source]
      exact congrArg some (if_pos ⟨software, below⟩)
    · have source : F.sgSwTriggerSource.of (val &&& halfMask half) = n := of_and_halfMask (names_lo (by decide) low) (by decide) val
      refine exec_write_applies rfl lands (by decide) rfl ?_
      simp only [regApply, source]
      exact congrArg some (if_neg (by omega))
  · intro n b kind hn poll
    have few : satAdd 255 (sgCount b n) 1 < 256 := by unfold satAdd; split <;> omega
    rw [sgAssert_poll kind hn poll]
    refine ⟨(sgPendingBit_setCount hn hn _ _).trans (sgPendingBit_setPending_same n true b), ?_⟩
    exact (sgCount_setCount_same n _ _).trans (Nat.mod_eq_of_lt few)
  · intro s
    let l := (sgCountList s.blk).filter (fun n => !sgInService s.blk n)
    have listed : ∀ n, n ∈ l ↔ n < 2048 ∧ sgCount s.blk n ≠ 0 ∧ sgInService s.blk n = false := fun n => by
      rw [List.mem_filter, mem_sgCountList, Bool.not_eq_true', and_assoc]
    refine ⟨l, allPending l s.blk, run_eq (f := sgRepend) rfl, rest_allPending l s.blk, listed, fun n hn => ?_⟩
    rw [sgPendingBit_allPending]
    refine congrArg (sgPendingBit s.blk n || ·) (Bool.eq_iff_iff.2 ?_)
    rw [List.contains_iff_mem, listed, Bool.and_eq_true, bne_iff_ne, Bool.not_eq_true']
    exact ⟨fun h => h.2, fun h => ⟨hn, h⟩⟩

end Sys2Proof.Laws

/-!
FAULT_EXIT on a table of registers that lists one register twice.
-/
namespace Sys2Proof.Laws

open Sys2Proof Sys2Proof.Machine Sys2Proof.Safety

/-- A block whose table of registers lists FH_SRC_STATUS of source 0 twice. No run makes one, but the statement is about every block. -/
def twiceListed : Block := { State.reset.blk with regs := [(regKey .fhSrcStatus 0, 1#64), (regKey .fhSrcStatus 0, 1#64)] }

theorem faultExit_lands : Lands twiceListed .mgmt .fhSrcStatus 0 0 (letGo .mgmt twiceListed) :=
  ⟨.inl rfl, rfl, rfl, by decide, rfl, rfl, rfl⟩

/-- The exit takes one of the two away, and a read then finds the other. -/
theorem faultExit_leaves : rget (fhExit .mgmt 0 (carry F.fhSrcStatusCaptured 1 0#64 &&& halfMask .full) (letGo .mgmt twiceListed)) .fhSrcStatus 0 = 1#64 := by
  decide

/-- Refutes O58: FAULT_EXIT removes one entry of the register table, so where a block lists FH_SRC_STATUS of source 0 twice, the register
does not read zero after it. -/
theorem not_faultsAreCapturedEscalateAndExit : ¬ Obligations.FaultsAreCapturedEscalateAndExit := by
  intro h
  obtain ⟨-, -, -, -, exit⟩ := h
  let s : State := { State.reset with blk := twiceListed }
  obtain ⟨c, run, cleared, -⟩ := (exit s .mgmt 0 0 .full 0#64 (letGo .mgmt twiceListed) faultExit_lands).1 (by simp) (by decide)
  have exits := exec_write_applies (c := .faultExit .mgmt 0 .full 0#64) (s := s) rfl faultExit_lands (by decide) rfl rfl
  have same : fhExit .mgmt 0 (carry F.fhSrcStatusCaptured 1 0#64 &&& halfMask .full) (letGo .mgmt twiceListed) = c := by
    have next := exits.symm.trans run
    injection next with state
    exact congrArg State.blk state
  rw [← same, faultExit_leaves] at cleared
  exact absurd cleared (by decide)

end Sys2Proof.Laws

/-!
The parameter dictionary (R632 to R645) and the SPDM responder (R646 to R651).
-/
namespace Sys2Proof.Laws

open Sys2Proof Sys2Proof.Machine Sys2Proof.Safety

/-! ### A dictionary request is served (R639) -/

/-- A request that its binding may not send changes nothing (R640). -/
theorem dictRequest_unheard {bnd : Binding} {q : DictReq} {b : Block} (unheard : (q.session.isSome && (sessionOf b bnd q.session).isNone ||
    !bindingUp b bnd (sessionOf b bnd q.session)) = true) (op : Nat) (ok : Bool) : dictRequest bnd op q ok b = b := if_pos unheard

/-- The answer to a request that is heard is that of the responder. -/
theorem dictRequest_heard {bnd : Binding} {q : DictReq} {b c : Block} {op idx sub code : Nat} {ok : Bool} {v : List (BitVec 8)}
    (session : q.session.isSome = false ∨ (sessionOf b bnd q.session).isSome = true) (up : bindingUp b bnd (sessionOf b bnd q.session) = true)
    (served : dictServe bnd (sessionOf b bnd q.session) op q ok b = (⟨code, idx, sub, v⟩, c)) :
    dictRequest bnd op q ok b = emit (.dict bnd q.session op q.seq idx sub code v) c := by
  have heard : ¬(q.session.isSome && (sessionOf b bnd q.session).isNone || !bindingUp b bnd (sessionOf b bnd q.session)) = true := by
    rw [up]
    rcases session with none_ | some_
    · simp [none_]
    · simp [Option.isNone_iff_eq_none, Option.isSome_iff_ne_none.1 some_]
  simp only [dictRequest, if_neg heard, served]

section

variable {bnd : Binding} {ses : Option Session} {q : DictReq} {b : Block} {ok : Bool}

theorem dictServe_early (early : started b = false) (op : Nat) : dictServe bnd ses op q ok b = (⟨mdBusy, q.index, q.sub, []⟩, b) := by
  simp [dictServe, early]

variable (up : started b = true) (runs : stopped b = false)

include up runs

theorem dictServe_next_none (last : dictNext (variant b) q.index q.sub = none) : dictServe bnd ses 5 q ok b = (⟨mdNoEntry, q.index, q.sub, []⟩, b) := by
  simp [dictServe, up, runs, last]

theorem dictServe_next {i k : Nat} {e : Entry} (next : dictNext (variant b) q.index q.sub = some (i, k)) (entry : dictEntry (variant b) i k = some e) :
    dictServe bnd ses 5 q ok b = (⟨mdOk, i, k, leBytes 2 i ++ [BitVec.ofNat 8 k, BitVec.ofNat 8 (e.ty.code + 16 * e.right.code)]⟩, b) := by
  simp [dictServe, up, runs, next, entry]

theorem dictServe_none {op : Nat} (least : 0 < op) (most : op < 5) (absent : dictEntry (variant b) q.index q.sub = none) :
    dictServe bnd ses op q ok b = (⟨mdNoEntry, q.index, q.sub, []⟩, b) := by
  have known : ¬(op = 0 ∨ 5 < op) := by omega
  have other : ¬op = 5 := by omega
  simp [dictServe, up, runs, known, other, absent]

variable {e : Entry} (entry : dictEntry (variant b) q.index q.sub = some e) (reach : entryReach b bnd q.index q.sub = true)

include entry reach

theorem dictServe_get (readable : e.right ≠ .ws) :
    dictServe bnd ses 1 q ok b = (⟨mdOk, q.index, q.sub, leBytes e.ty.size (liveValue b ses q.index q.sub e)⟩, b) := by
  simp [dictServe, up, runs, entry, reach, readable]

theorem dictServe_get_hidden (hidden : e.right = .ws) : dictServe bnd ses 1 q ok b = (⟨mdNoAccess, q.index, q.sub, []⟩, b) := by
  simp [dictServe, up, runs, entry, reach, hidden]

/-- SET, by what the check of its value says. -/
theorem dictServe_set : dictServe bnd ses 2 q ok b =
    if setCheck bnd ses q.index q.sub q.value e = mdReadOnly ∨ setCheck bnd ses q.index q.sub q.value e = mdNotSecure
    then (⟨setCheck bnd ses q.index q.sub q.value e, q.index, q.sub, []⟩, b)
    else if q.count ≠ e.ty.size then (⟨mdBadLength, q.index, q.sub, []⟩, b)
    else if setCheck bnd ses q.index q.sub q.value e ≠ mdOk then (⟨setCheck bnd ses q.index q.sub q.value e, q.index, q.sub, []⟩, b)
    else if e.cls = .b then (⟨mdOk, q.index, q.sub, leBytes e.ty.size q.value⟩, storePut q.index q.sub q.value b)
    else (liveSet ses q.index q.sub q.value e b).elim (⟨mdNotIdle, q.index, q.sub, []⟩, b)
      (fun c => (⟨mdOk, q.index, q.sub, leBytes e.ty.size (if e.right = .ws then q.value else liveValue c ses q.index q.sub e)⟩, c)) := by
  have stored : storedValue (storePut q.index q.sub q.value b) q.index q.sub e = q.value := tget_tput_same _ _ _ _
  have known : ¬((2 : Nat) = 0 ∨ 5 < 2) := by decide
  simp only [dictServe, up, runs, entry, reach, stored, known, Bool.not_true, Bool.false_and, Bool.or_false, Bool.false_eq_true, if_false, apply_ite (leBytes e.ty.size)]
  cases liveSet ses q.index q.sub q.value e b <;> rfl

/-- DEFAULT of an entry of class B, by what the check of its default says. -/
theorem dictServe_default (class_ : e.cls = .b ∨ setCheck bnd ses q.index q.sub e.dflt e ≠ mdOk) : dictServe bnd ses 4 q ok b =
    if setCheck bnd ses q.index q.sub e.dflt e ≠ mdOk then (⟨setCheck bnd ses q.index q.sub e.dflt e, q.index, q.sub, []⟩, b)
    else (⟨mdOk, q.index, q.sub, leBytes e.ty.size (liveValue (storePut q.index q.sub e.dflt b) ses q.index q.sub e)⟩, storePut q.index q.sub e.dflt b) := by
  by_cases bad : setCheck bnd ses q.index q.sub e.dflt e ≠ mdOk
  · rw [if_pos bad]
    simp [dictServe, up, runs, entry, reach, bad]
  · rw [if_neg bad]
    have stored := class_.resolve_right bad
    simp [dictServe, up, runs, entry, reach, not_not.1 bad, stored]

theorem dictServe_store_fixed (fixed : e.cls = .f ∨ e.cls = .v) : dictServe bnd ses 3 q ok b = (⟨mdReadOnly, q.index, q.sub, []⟩, b) := by
  simp [dictServe, up, runs, entry, reach, fixed]

theorem dictServe_store (class_ : e.cls = .s) : dictServe bnd ses 3 q ok b = if ok = true
    then (⟨mdOk, q.index, q.sub, []⟩, storePut q.index q.sub (liveValue b ses q.index q.sub e) b) else (⟨mdStoreFailed, q.index, q.sub, []⟩, b) := by
  cases ok <;> simp [dictServe, up, runs, entry, reach, class_]

end

/-! ### The check of a value (R639, R641) -/

section

variable {bnd : Binding} {ses : Option Session} {idx sub v : Nat} {e : Entry}

theorem setCheck_readOnly (fixed : e.right = .ro ∨ e.cls = .f) : setCheck bnd ses idx sub v e = mdReadOnly := if_pos fixed

variable (changes : e.right ≠ .ro) (class_ : e.cls ≠ .f)

include changes class_

theorem setCheck_notSecure (open_ : e.right.permits bnd ses.isSome = false) : setCheck bnd ses idx sub v e = mdNotSecure := by
  simp [setCheck, changes, class_, open_]

theorem setCheck_value (secure : e.right.permits bnd ses.isSome = true) : setCheck bnd ses idx sub v e = if valueOk idx sub e v then mdOk else mdBadValue := by
  cases valid : valueOk idx sub e v <;> simp [setCheck, changes, class_, secure, valid]

end

/-! ### What SET and DEFAULT answer (R639, R641, R642) -/

section

variable {bnd : Binding} {ses : Option Session} {q : DictReq} {b : Block} {ok : Bool} {e : Entry} (up : started b = true) (runs : stopped b = false)
  (entry : dictEntry (variant b) q.index q.sub = some e) (reach : entryReach b bnd q.index q.sub = true)

include up runs entry reach

theorem dictServe_set_readOnly (fixed : e.right = .ro ∨ e.cls = .f) : dictServe bnd ses 2 q ok b = (⟨mdReadOnly, q.index, q.sub, []⟩, b) := by
  rw [dictServe_set up runs entry reach, setCheck_readOnly fixed]
  exact if_pos (.inl rfl)

theorem dictServe_default_readOnly (fixed : e.right = .ro ∨ e.cls = .f) : dictServe bnd ses 4 q ok b = (⟨mdReadOnly, q.index, q.sub, []⟩, b) := by
  have check := setCheck_readOnly (bnd := bnd) (ses := ses) (idx := q.index) (sub := q.sub) (v := e.dflt) fixed
  rw [dictServe_default up runs entry reach (.inr (by rw [check]; decide)), check]
  exact if_pos (by decide)

variable (changes : e.right ≠ .ro) (notF : e.cls ≠ .f)

include changes notF

theorem dictServe_set_notSecure (open_ : e.right.permits bnd ses.isSome = false) : dictServe bnd ses 2 q ok b = (⟨mdNotSecure, q.index, q.sub, []⟩, b) := by
  rw [dictServe_set up runs entry reach, setCheck_notSecure changes notF open_]
  exact if_pos (.inr rfl)

variable (secure : e.right.permits bnd ses.isSome = true)

include secure

/-- SET of an entry that may change, over a binding that may change it, by its length and its value. -/
theorem dictServe_set_checked : dictServe bnd ses 2 q ok b =
    if q.count ≠ e.ty.size then (⟨mdBadLength, q.index, q.sub, []⟩, b)
    else if valueOk q.index q.sub e q.value = false then (⟨mdBadValue, q.index, q.sub, []⟩, b)
    else if e.cls = .b then (⟨mdOk, q.index, q.sub, leBytes e.ty.size q.value⟩, storePut q.index q.sub q.value b)
    else (liveSet ses q.index q.sub q.value e b).elim (⟨mdNotIdle, q.index, q.sub, []⟩, b)
      (fun c => (⟨mdOk, q.index, q.sub, leBytes e.ty.size (if e.right = .ws then q.value else liveValue c ses q.index q.sub e)⟩, c)) := by
  rw [dictServe_set up runs entry reach, setCheck_value changes notF secure]
  cases valueOk q.index q.sub e q.value with
  | true => exact if_neg (by decide)
  | false => exact if_neg (by decide)

theorem dictServe_default_stored (class_ : e.cls = .b) (valid : valueOk q.index q.sub e e.dflt = true) : dictServe bnd ses 4 q ok b =
    (⟨mdOk, q.index, q.sub, leBytes e.ty.size (liveValue (storePut q.index q.sub e.dflt b) ses q.index q.sub e)⟩, storePut q.index q.sub e.dflt b) := by
  rw [dictServe_default up runs entry reach (.inl class_), setCheck_value changes notF secure, valid]
  exact if_neg (by decide)

section

variable (length : q.count = e.ty.size)

include length

theorem dictServe_set_badValue (bad : valueOk q.index q.sub e q.value = false) : dictServe bnd ses 2 q ok b = (⟨mdBadValue, q.index, q.sub, []⟩, b) := by
  rw [dictServe_set_checked up runs entry reach changes notF secure, if_neg (not_not.2 length), if_pos bad]

variable (good : valueOk q.index q.sub e q.value = true)

include good

theorem dictServe_set_stored (class_ : e.cls = .b) :
    dictServe bnd ses 2 q ok b = (⟨mdOk, q.index, q.sub, leBytes e.ty.size q.value⟩, storePut q.index q.sub q.value b) := by
  rw [dictServe_set_checked up runs entry reach changes notF secure, if_neg (not_not.2 length), if_neg (by simp [good]), if_pos class_]

/-- SET of a live value. -/
theorem dictServe_set_live (notB : e.cls ≠ .b) : dictServe bnd ses 2 q ok b = (liveSet ses q.index q.sub q.value e b).elim (⟨mdNotIdle, q.index, q.sub, []⟩, b)
    (fun c => (⟨mdOk, q.index, q.sub, leBytes e.ty.size (if e.right = .ws then q.value else liveValue c ses q.index q.sub e)⟩, c)) := by
  rw [dictServe_set_checked up runs entry reach changes notF secure, if_neg (not_not.2 length), if_neg (by simp [good]), if_neg notB]

end

end

/-! ### MD_SEND (R645) -/

/-- A request that a PF sends by its mailbox is served in the same step. -/
theorem exec_mdSend {s : State} {w : Agent} {half : Half} {val : BitVec 64} {ok : Bool} {i : Nat} {b : Block} (lands : Lands s.blk w .mdCtl 0 i b) :
    exec (.mdSend w half val ok) s = .next { s with blk := mdCtlWrite (bankOf w) (carry F.mdCtlSend 1 val &&& halfMask half) ok b } := by
  obtain ⟨unheld, reach, seen, there, arrives, takes, _⟩ := lands
  have write := exec_writeOf (c := .mdSend w half val ok) (s := s) rfl
  rw [write, regWriteFrom_unheld unheld, regNamed_seen seen there, writeTake_reach reach]
  have takes' : stopTakes (letGo w (accessArrive w false s.blk)) w .mdCtl = true := arrives ▸ takes
  have taken : regTake settle w .mdCtl 0 (halfMask half) (carry F.mdCtlSend 1 val) ok (accessArrive w false s.blk) =
      mdCtlWrite (bankOf w) (carry F.mdCtlSend 1 val &&& halfMask half) ok (letGo w (accessArrive w false s.blk)) := by
    simp [regTake, takes']
  rw [taken, arrives]

theorem done_mdServe (h : Nat) (ok : Bool) (b : Block) : fget (mdServe h ok b) F.mdCtlDone (128 * h) = 1 := fget_fput_fits (f := F.mdCtlDone) _ _ (by decide) (by decide)

/-! ### The SPDM responder (R646 to R651) -/

theorem spdmDo_up {bnd : Binding} {b : Block} (up : spdmUp b bnd = true) (f : Block → Block) : spdmDo bnd f b = f b := if_pos up

theorem spdmDo_down {bnd : Binding} {b : Block} (down : spdmUp b bnd = false) (f : Block → Block) : spdmDo bnd f b = b := if_neg (Bool.eq_false_iff.1 down)

/-- A request that needs random words waits for the DRBG, and one while the source has failed is answered with an error (R624, R650). -/
theorem spdmAsk_waits {bnd : Binding} {b : Block} (works : enState b ≠ 3) (a : SpdmAsk) :
    spdmAsk bnd a b = askMove (modEn (fun e => { e with asks := e.asks ++ [(bnd, a)] }) b) := if_neg works

theorem spdmAsk_failed {bnd : Binding} {b : Block} (failed : enState b = 3) (a : SpdmAsk) :
    spdmAsk bnd a b = spdmReply bnd (.error 5) (fbump F.enCountsUnavailable 0 1 b) := if_pos failed

section

variable {bnd : Binding} {session : Nat} {b : Block} (up : spdmUp b bnd = true) {opened : Bool}

include up

theorem inSession_here (here : sessionHere b bnd session opened = true) (f : Block → Block) : inSession bnd session opened f b = f b :=
  (spdmDo_up up _).trans (if_pos here)

theorem inSession_none (none_ : sessionHere b bnd session opened = false) (f : Block → Block) : inSession bnd session opened f b = spdmReply bnd (.error 2) b :=
  (spdmDo_up up _).trans (if_neg (Bool.eq_false_iff.1 none_))

end

/-- FINISH opens the sessions of a number. -/
def sessionOpened (session : Nat) (b : Block) : Block :=
  modMd (fun m => { m with sessions := m.sessions.map (fun x => if x.id = session then { x with open_ := true } else x) }) b

theorem sessionHere_opened {bnd : Binding} {session : Nat} {b : Block} (here : sessionHere b bnd session false = true) :
    sessionHere (sessionOpened session b) bnd session true = true := by
  simp only [sessionHere, List.any_eq_true] at here ⊢
  obtain ⟨x, mem, same⟩ := here
  simp only [Bool.and_eq_true, beq_iff_eq] at same
  obtain ⟨⟨id, bind⟩, _⟩ := same
  refine ⟨{ x with open_ := true }, List.mem_map.2 ⟨x, mem, if_pos id⟩, ?_⟩
  simp [id, bind]

/-- END_SESSION removes them. -/
def sessionEnded (session : Nat) (b : Block) : Block := modMd (fun m => { m with sessions := m.sessions.filter (fun x => x.id != session) }) b

theorem sessionHere_ended (bnd : Binding) (session : Nat) (b : Block) : sessionHere (sessionEnded session b) bnd session false = false := by
  refine List.any_eq_false.2 fun x mem => ?_
  have gone := (List.mem_filter.1 mem).2
  simp only [bne_iff_ne] at gone
  simp [gone]

/-- Settles O59: each dictionary request by what the responder checks first, each SPDM request by its binding, its session and the state of the entropy source. -/
theorem managementRequestsAreAnswered : Obligations.ManagementRequestsAreAnswered := by
  refine ⟨?_, ?_⟩
  · intro s bnd q ok ses say
    refine ⟨fun unheard => ⟨?_, ?_, ?_, ?_, ?_⟩, fun session up => ⟨fun early => ⟨?_, ?_, ?_, ?_, ?_⟩, fun up' runs => ⟨fun none_ => ⟨?_, ?_, ?_, ?_⟩, fun last => ?_, fun i k e next entry => ?_,
      fun e entry reach => ⟨fun readable => ?_, fun hidden => ?_, fun fixed => ⟨?_, ?_⟩, fun changes notF => ⟨fun open_ => ?_, fun secure => ⟨fun length => ?_, fun length bad => ?_, fun class_ length good => ?_, fun class_ good => ?_⟩⟩,
        fun secure changes class_ length good => ⟨fun busy => ?_, fun c set => ?_⟩, fun fixed => ?_, fun class_ => ⟨?_, ?_⟩⟩⟩⟩, fun h half val i b hh lands high done => ⟨?_, done_mdServe h ok b⟩, fun session op up => ?_⟩
    · exact run_eq (f := dictRequest bnd 1 q true) (dictRequest_unheard unheard 1 true)
    · exact run_eq (f := dictRequest bnd 2 q true) (dictRequest_unheard unheard 2 true)
    · exact run_eq (f := dictRequest bnd 3 q ok) (dictRequest_unheard unheard 3 ok)
    · exact run_eq (f := dictRequest bnd 4 q true) (dictRequest_unheard unheard 4 true)
    · exact run_eq (f := dictRequest bnd 5 q true) (dictRequest_unheard unheard 5 true)
    · exact run_eq (f := dictRequest bnd 1 q true) (dictRequest_heard session up (dictServe_early early 1))
    · exact run_eq (f := dictRequest bnd 2 q true) (dictRequest_heard session up (dictServe_early early 2))
    · exact run_eq (f := dictRequest bnd 3 q ok) (dictRequest_heard session up (dictServe_early early 3))
    · exact run_eq (f := dictRequest bnd 4 q true) (dictRequest_heard session up (dictServe_early early 4))
    · exact run_eq (f := dictRequest bnd 5 q true) (dictRequest_heard session up (dictServe_early early 5))
    · exact run_eq (f := dictRequest bnd 1 q true) (dictRequest_heard session up (dictServe_none up' runs (by decide) (by decide) none_))
    · exact run_eq (f := dictRequest bnd 2 q true) (dictRequest_heard session up (dictServe_none up' runs (by decide) (by decide) none_))
    · exact run_eq (f := dictRequest bnd 3 q ok) (dictRequest_heard session up (dictServe_none up' runs (by decide) (by decide) none_))
    · exact run_eq (f := dictRequest bnd 4 q true) (dictRequest_heard session up (dictServe_none up' runs (by decide) (by decide) none_))
    · exact run_eq (f := dictRequest bnd 5 q true) (dictRequest_heard session up (dictServe_next_none up' runs last))
    · exact run_eq (f := dictRequest bnd 5 q true) (dictRequest_heard session up (dictServe_next up' runs next entry))
    · exact run_eq (f := dictRequest bnd 1 q true) (dictRequest_heard session up (dictServe_get up' runs entry reach readable))
    · exact run_eq (f := dictRequest bnd 1 q true) (dictRequest_heard session up (dictServe_get_hidden up' runs entry reach hidden))
    · exact run_eq (f := dictRequest bnd 2 q true) (dictRequest_heard session up (dictServe_set_readOnly up' runs entry reach fixed))
    · exact run_eq (f := dictRequest bnd 4 q true) (dictRequest_heard session up (dictServe_default_readOnly up' runs entry reach fixed))
    · exact run_eq (f := dictRequest bnd 2 q true) (dictRequest_heard session up (dictServe_set_notSecure up' runs entry reach changes notF open_))
    · exact run_eq (f := dictRequest bnd 2 q true) (dictRequest_heard session up ((dictServe_set_checked up' runs entry reach changes notF secure).trans (if_pos length)))
    · exact run_eq (f := dictRequest bnd 2 q true) (dictRequest_heard session up (dictServe_set_badValue up' runs entry reach changes notF secure length bad))
    · exact run_eq (f := dictRequest bnd 2 q true) (dictRequest_heard session up (dictServe_set_stored up' runs entry reach changes notF secure length good class_))
    · exact run_eq (f := dictRequest bnd 4 q true) (dictRequest_heard session up (dictServe_default_stored up' runs entry reach changes notF secure class_ good))
    · have notF : e.cls ≠ .f := by rcases class_ with h | h <;> rw [h] <;> decide
      have notB : e.cls ≠ .b := by rcases class_ with h | h <;> rw [h] <;> decide
      have live := dictServe_set_live (ok := true) up' runs entry reach changes notF secure length good notB
      rw [busy] at live
      exact run_eq (f := dictRequest bnd 2 q true) (dictRequest_heard session up live)
    · have notF : e.cls ≠ .f := by rcases class_ with h | h <;> rw [h] <;> decide
      have notB : e.cls ≠ .b := by rcases class_ with h | h <;> rw [h] <;> decide
      have live := dictServe_set_live (ok := true) up' runs entry reach changes notF secure length good notB
      rw [set] at live
      exact run_eq (f := dictRequest bnd 2 q true) (dictRequest_heard session up live)
    · exact run_eq (f := dictRequest bnd 3 q ok) (dictRequest_heard session up (dictServe_store_fixed up' runs entry reach fixed))
    · exact run_eq (f := dictRequest bnd 3 q false) (dictRequest_heard session up ((dictServe_store up' runs entry reach class_).trans (if_neg Bool.false_ne_true)))
    · exact run_eq (f := dictRequest bnd 3 q true) (dictRequest_heard session up ((dictServe_store up' runs entry reach class_).trans (if_pos rfl)))
    · have names : Names half F.mdCtlSend := names_hi (by decide) high
      have sends : F.mdCtlSend.on (carry F.mdCtlSend 1 val &&& halfMask half) = true := on_carry_named names (by decide) rfl val
      have keeps : F.mdCtlDone.on (carry F.mdCtlSend 1 val &&& halfMask half) = false := off_carry (names_hi (by decide) high) (by decide) (by decide) done
      have served : mdCtlWrite (bankOf (.pf h)) (carry F.mdCtlSend 1 val &&& halfMask half) ok b = mdServe h ok b := by
        have bank : bankOf (.pf h) / 128 = h := by simp [bankOf]
        simp only [mdCtlWrite, sends, keeps, bank, Bool.false_eq_true, if_false, if_true]
      rw [exec_mdSend lands, served]
    · exact run_eq (f := spdmDo bnd (dictRequest bnd op { q with session := some session } ok)) (spdmDo_up up _)
  · intro s bnd q slot index session op signed ok say room ask failed
    refine ⟨fun down c listed => ?_, fun up => ⟨?_, ?_, ?_, ?_, ?_, fun other => ⟨?_, ?_⟩, fun works => ?_, fun fails => ?_, fun none_ => ?_, fun l list => ⟨?_, fun works => ?_⟩, fun full => ?_, fun few works => ?_,
      fun here => ?_, fun absent => ?_, fun here => ⟨?_, ?_, ?_⟩, fun absent => ⟨?_, ?_, ?_⟩⟩⟩
    · have still : ∀ f : Block → Block, run (spdmDo bnd f) s = .next s := fun f => run_eq (f := spdmDo bnd f) (spdmDo_down down f)
      simp only [List.mem_cons, List.not_mem_nil, or_false] at listed
      rcases listed with rfl | rfl | rfl | rfl | rfl | rfl | rfl | rfl | rfl | rfl | rfl | rfl | rfl <;> exact still _
    · exact run_eq (f := spdmSay bnd (fun _ => .version)) (spdmDo_up up _)
    · exact run_eq (f := spdmSay bnd (fun _ => .capabilities)) (spdmDo_up up _)
    · exact run_eq (f := spdmSay bnd (fun _ => .algorithms)) (spdmDo_up up _)
    · exact run_eq (f := spdmSay bnd (fun _ => .digests (Config.sha384 Config.certificateChain))) (spdmDo_up up _)
    · exact run_eq (f := spdmSay bnd (fun _ => if 0 = 0 then .certificate Config.certificateChain else .error 1)) (spdmDo_up up _)
    · refine run_eq (f := spdmSay bnd (fun _ => if slot = 0 then .certificate Config.certificateChain else .error 1)) ((spdmDo_up up _).trans ?_)
      rw [if_neg other]
      rfl
    · exact run_eq (f := spdmDo bnd (fun b => if slot = 0 then spdmAsk bnd (.challenge slot) b else spdmReply bnd (.error 1) b)) ((spdmDo_up up _).trans (if_neg other))
    · exact run_eq (f := spdmDo bnd (fun b => if 0 = 0 then spdmAsk bnd (.challenge 0) b else spdmReply bnd (.error 1) b)) ((spdmDo_up up _).trans (spdmAsk_waits works _))
    · exact run_eq (f := spdmDo bnd (fun b => if 0 = 0 then spdmAsk bnd (.challenge 0) b else spdmReply bnd (.error 1) b)) ((spdmDo_up up _).trans (spdmAsk_failed fails _))
    · refine run_eq (f := spdmDo bnd (measureAsk bnd index signed)) ((spdmDo_up up _).trans ?_)
      simp only [measureAsk, none_]
      rfl
    · refine run_eq (f := spdmDo bnd (measureAsk bnd index false)) ((spdmDo_up up _).trans ?_)
      simp only [measureAsk, list]
      rfl
    · refine run_eq (f := spdmDo bnd (measureAsk bnd index true)) ((spdmDo_up up _).trans ?_)
      simp only [measureAsk, list, if_true]
      exact spdmAsk_waits works _
    · exact run_eq (f := spdmDo bnd (fun b => if 4 ≤ sessionsHeld b bnd then spdmReply bnd (.error 3) b else spdmAsk bnd .keyExchange b)) ((spdmDo_up up _).trans (if_pos full))
    · exact run_eq (f := spdmDo bnd (fun b => if 4 ≤ sessionsHeld b bnd then spdmReply bnd (.error 3) b else spdmAsk bnd .keyExchange b))
        ((spdmDo_up up _).trans ((if_neg (Nat.not_le.2 few)).trans (spdmAsk_waits works _)))
    · exact ⟨sessionOpened session s.blk, run_eq (f := inSession bnd session false (fun b => spdmReply bnd (.finish session) (sessionOpened session b))) (inSession_here up here _),
        sessionHere_opened here⟩
    · exact run_eq (f := inSession bnd session false (fun b => spdmReply bnd (.finish session) (sessionOpened session b))) (inSession_none up absent _)
    · exact run_eq (f := inSession bnd session true (spdmReply bnd (.heartbeatAck session))) (inSession_here up here _)
    · exact run_eq (f := inSession bnd session true (spdmReply bnd (.keyUpdateAck session))) (inSession_here up here _)
    · exact ⟨sessionEnded session s.blk, run_eq (f := inSession bnd session true (fun b => spdmReply bnd (.endSessionAck session) (sessionEnded session b))) (inSession_here up here _),
        sessionHere_ended bnd session s.blk⟩
    · exact run_eq (f := inSession bnd session true (spdmReply bnd (.heartbeatAck session))) (inSession_none up absent _)
    · exact run_eq (f := inSession bnd session true (spdmReply bnd (.keyUpdateAck session))) (inSession_none up absent _)
    · exact run_eq (f := inSession bnd session true (fun b => spdmReply bnd (.endSessionAck session) (sessionEnded session b))) (inSession_none up absent _)

end Sys2Proof.Laws

/-!
DIGEST_CLEAR on a table of registers that lists one register twice.
-/
namespace Sys2Proof.Laws

open Sys2Proof Sys2Proof.Machine Sys2Proof.Safety

/-- A block whose table of registers lists TC_DIG_ACC of the first digest twice. No run makes one, but the statement is about every block. -/
def twiceDigested : Block := { State.reset.blk with regs := [(regKey .tcDigAcc 0, 1#64), (regKey .tcDigAcc 0, 1#64)] }

theorem digestClear_lands : Lands twiceDigested .mgmt .tcDigCfg 0 0 (letGo .mgmt twiceDigested) :=
  ⟨.inl rfl, rfl, rfl, by decide, rfl, rfl, by decide⟩

/-- What the write leaves, by its register. -/
def digestCleared : Block := rclear .tcDigAcc 0 (fput F.tcDigCfgCount 0 0 (fput F.tcDigCfgFailed 0 0
  (storePlain .tcDigCfg 0 (carry F.tcDigCfgClear 1 0#64 &&& halfMask .full) (halfMask .full) (letGo .mgmt twiceDigested))))

theorem digestClear_applies : regApply .mgmt .tcDigCfg 0 (carry F.tcDigCfgClear 1 0#64) (halfMask .full) (letGo .mgmt twiceDigested) = some digestCleared :=
  congrArg some (if_pos (by decide))

/-- The clear takes one of the two away, and a read then finds the other. -/
theorem digestClear_leaves : rget digestCleared .tcDigAcc 0 = 1#64 := by
  decide

/-- Refutes O60: DIGEST_CLEAR removes one entry of the register table, so where a block lists TC_DIG_ACC of a digest twice, the accumulator
does not read zero after it. -/
theorem not_traceFreezeAndDumpCommandsAct : ¬ Obligations.TraceFreezeAndDumpCommandsAct := by
  intro h
  obtain ⟨-, -, writes, -⟩ := h
  let s : State := { State.reset with blk := twiceDigested }
  obtain ⟨-, -, clear, -⟩ := writes s .mgmt .full 0#64 0 (letGo .mgmt twiceDigested)
  obtain ⟨c, run, cleared, -⟩ := clear digestClear_lands (names_hi (by decide) (by decide)) (by decide)
  have clears := exec_write_applies (c := .digestClear .mgmt .full 0#64) (s := s) rfl digestClear_lands (by decide) rfl digestClear_applies
  have same : digestCleared = c := by
    have next := clears.symm.trans run
    injection next with state
    exact congrArg State.blk state
  rw [← same, digestClear_leaves] at cleared
  exact absurd cleared (by decide)

end Sys2Proof.Laws

/-!
What waits in the receive queue of host port 0 is taken first when work goes on. A write of the management core path that waits there may
name any key of the register store, so it can bring registers back to what a block holds: a block that differs from another in registers
alone can go on as that other does.
-/
namespace Sys2Proof.Laws

open Sys2Proof Sys2Proof.Machine Sys2Proof.Safety

/-! ### Puts of a table -/

theorem tput_tput {α : Type} (t : Tbl α) (k : Nat) (v w : α) : tput (tput t k w) k v = tput t k v := by
  induction t with
  | nil => simp [tput]
  | cons e t ih =>
    obtain ⟨j, x⟩ := e
    by_cases below : k < j
    · simp [tput, below]
    · by_cases same : j = k
      · simp [tput, same]
      · simp [tput, below, same, ih]

theorem tput_comm {α : Type} (t : Tbl α) {j k : Nat} (v w : α) (other : j ≠ k) : tput (tput t j w) k v = tput (tput t k v) j w := by
  induction t with
  | nil =>
    rcases Nat.lt_or_gt_of_ne other with lt | gt
    · simp [tput, lt, Nat.not_lt.mpr lt.le, other]
    · simp [tput, gt, Nat.not_lt.mpr gt.le, other.symm]
  | cons e t ih =>
    obtain ⟨i, x⟩ := e
    grind [tput]

/-- The entry of a key stands where a put finds it. Only an entry behind a greater key does not, and no run makes a table with one. -/
def Stands (t : Tbl (BitVec 64)) (k : Nat) : Prop := tput t k (tget 0#64 t k) = t


theorem Stands.tput_same (t : Tbl (BitVec 64)) (k : Nat) (v : BitVec 64) : Stands (tput t k v) k := by
  rw [Stands, tget, tfind_tput_same, tput_tput]

theorem Stands.tput {t : Tbl (BitVec 64)} {k : Nat} (h : Stands t k) (j : Nat) (v : BitVec 64) : Stands (tput t j v) k := by
  by_cases same : k = j
  · rw [same]
    exact .tput_same t j v
  · have left : tget 0#64 (Machine.tput t j v) k = tget 0#64 t k := by rw [tget, tget, tfind_tput_other _ _ _ _ same]
    rw [Stands, left, tput_comm _ _ _ (Ne.symm same), h]

/-- Bring the keys of `l` to what `u` has there. -/
def restored (u : Tbl (BitVec 64)) (l : List Nat) (t : Tbl (BitVec 64)) : Tbl (BitVec 64) := l.foldl (fun t k => tput t k (tget 0#64 u k)) t

theorem restored_self {u : Tbl (BitVec 64)} {l : List Nat} (stand : ∀ k ∈ l, Stands u k) : restored u l u = u := by
  induction l with
  | nil => rfl
  | cons k l ih =>
    have ⟨first, rest⟩ := List.forall_mem_cons.mp stand
    exact (congrArg (restored u l) first).trans (ih rest)

theorem restored_tput (u : Tbl (BitVec 64)) {l : List Nat} {k : Nat} (listed : k ∈ l) (v : BitVec 64) (t : Tbl (BitVec 64)) :
    restored u l (tput t k v) = restored u l t := by
  induction l generalizing t with
  | nil => cases listed
  | cons j l ih =>
    by_cases same : k = j
    · subst same
      exact congrArg (restored u l) (tput_tput t k _ v)
    · have later : k ∈ l := (List.mem_cons.mp listed).resolve_left same
      exact (congrArg (restored u l) (tput_comm t _ v same)).trans (ih later _)

/-! ### Taking what waits -/

/-- What `b` is with another queue. -/
def queued (q : Tbl (List Posted)) (b : Block) : Block := modHp (fun p => { p with queue := q }) b

/-- Requests that fit, taken in turn, lead from each block of one kind to one of another, whatever is queued. -/
inductive Serves : (Block → Prop) → List Posted → (Block → Prop) → Prop
  | nil {P Q : Block → Prop} (reached : ∀ b, P b → Q b) : Serves P [] Q
  | cons {P R Q : Block → Prop} {x : Posted} {l : List Posted} (fits : ∀ b, postFits b 0 x = true)
      (takes : ∀ b q, P b → R (postTake x (queued q b)) ∧ (postTake x (queued q b)).hp.queue = q) (rest : Serves R l Q) : Serves P (x :: l) Q

theorem Serves.of_imp {P Q R : Block → Prop} {l : List Posted} (h : Serves P l Q) (imp : ∀ b, R b → P b) : Serves R l Q := by
  cases h with
  | nil reached => exact .nil (fun b holds => reached b (imp b holds))
  | cons fits takes rest => exact .cons fits (fun b q holds => takes b q (imp b holds)) rest

theorem Serves.append {P R Q : Block → Prop} {l m : List Posted} (h : Serves P l R) (g : Serves R m Q) : Serves P (l ++ m) Q := by
  induction h with
  | nil reached => exact g.of_imp reached
  | cons fits takes _ ih => exact .cons fits takes (ih g)

/-- The queues once what stands before `l` at port 0 has been taken. -/
def leftOver (l : List Posted) (q : Tbl (List Posted)) : Tbl (List Posted) := if l = [] then q else (0, l) :: q

theorem tset_head (l w : List Posted) (q : Tbl (List Posted)) : tset [] ((0, w) :: q) 0 l = leftOver l q := by
  by_cases none_ : l = [] <;> simp [tset, leftOver, none_, tdel, tput]

/-- Requests that stand at the head of port 0's queue are taken, and the rest follow. -/
theorem postRun_serves {P Q : Block → Prop} {l : List Posted} (serves : Serves P l Q) (r : List Posted) (q : Tbl (List Posted)) {b : Block} {w : List Posted}
    (some_ : l ≠ []) (holds : P b) (head : b.hp.queue = (0, w) :: q) :
    ∃ c, Q c ∧ c.hp.queue = leftOver r q ∧ postRun 0 (l ++ r) b = postRun 0 r c := by
  induction serves generalizing b w with
  | nil _ => exact absurd rfl some_
  | @cons P R Q x l fits takes rest ih =>
    have first : (modHp (fun p => { p with queue := tset [] p.queue 0 (l ++ r) }) b) = queued (leftOver (l ++ r) q) b := by
      have := tset_head (l ++ r) w q
      simp only [modHp, queued, head, this]
    obtain ⟨taken, queue⟩ := takes b (leftOver (l ++ r) q) holds
    have step : postRun 0 (x :: l ++ r) b = postRun 0 (l ++ r) (postTake x (queued (leftOver (l ++ r) q) b)) := by
      rw [List.cons_append, postRun, if_pos (fits b), first]
    by_cases last : l = []
    · subst last
      cases rest with
      | nil reached => exact ⟨_, reached _ taken, queue, step⟩
    · have more : leftOver (l ++ r) q = (0, l ++ r) :: q := if_neg (by simp [last])
      obtain ⟨c, reached, left, run⟩ := ih last taken (queue.trans more)
      exact ⟨c, reached, left, step.trans run⟩

theorem postQueue_one_head (w : List Posted) (q : Tbl (List Posted)) (b : Block) : postQueue (queued ((0, w) :: q) b) 1 = tget [] q 1 := by
  simp [postQueue, queued, tget, tfind]

/-- The queues that read as `q` does at port 1, and at port 0 come to what `q` does once `l` is left there. -/
theorem exists_leftOver (l : List Posted) (q : Tbl (List Posted)) : ∃ p, leftOver l p = tset [] q 0 l ∧ tget [] p 1 = tget [] q 1 := by
  by_cases none_ : l = []
  · refine ⟨tdel q 0, by simp [leftOver, tset, none_], ?_⟩
    rw [tget, tget, tfind_tdel_other _ _ _ (by decide)]
  · have headed : ∃ p, tput q 0 l = (0, l) :: p := by
      cases q with
      | nil => exact ⟨[], rfl⟩
      | cons e q =>
        by_cases zero : e.1 = 0
        · exact ⟨q, by simp [tput, zero]⟩
        · exact ⟨e :: q, by simp [tput, Nat.pos_of_ne_zero zero]⟩
    obtain ⟨p, put⟩ := headed
    refine ⟨p, by simp [leftOver, tset, none_, put], ?_⟩
    have found : tfind (tput q 0 l) 1 = tfind q 1 := tfind_tput_other _ _ _ _ (by decide)
    rw [put] at found
    rw [tget, tget, ← found]
    rfl

theorem settle_of_posts {a y : Block} (one : postQueue a 1 = postQueue y 1)
    (zero : postRun 0 (postQueue a 0) a = postRun 0 (postQueue y 0) y) : settle a = settle y := by
  have posts : postAll a = postAll y := by rw [postAll, postAll, one, zero]
  have once : settleOnce a = settleOnce y := by rw [settleOnce, settleOnce, posts]
  rw [settle, settle, once]

/-- A request at the head of port 0's queue that does not fit keeps all that waits. -/
theorem postRun_stuck {x : Posted} {l : List Posted} {b : Block} (stuck : postFits b 0 x = false) : postRun 0 (x :: l) b = b := by
  simp [postRun, stuck]

theorem postRun_fits {x : Posted} {l : List Posted} {b : Block} (fits : postFits b 0 x = true) :
    postRun 0 (x :: l) b = postRun 0 l (postTake x (queued (tset [] b.hp.queue 0 l) b)) := by
  rw [postRun, if_pos fits]
  rfl

/-- Requests that lead to `y` whatever is queued may stand before what `y` has waiting: work then goes on as it does from `y`. -/
theorem settle_served {P : Block → Prop} {l : List Posted} {y : Block} (some_ : l ≠ []) (serves : Serves P l (fun c => ∃ q, c = queued q y)) :
    ∃ q, ∀ b, P (queued q b) → settle (queued q b) = settle y := by
  have still : postRun 0 (postQueue y 0) y = y → ∃ q, ∀ b, P (queued q b) → settle (queued q b) = settle y := fun still => by
    refine ⟨(0, l) :: y.hp.queue, fun b holds => settle_of_posts (postQueue_one_head l _ b) ?_⟩
    obtain ⟨c, ⟨q, rfl⟩, left, run⟩ := postRun_serves serves [] y.hp.queue some_ holds rfl
    have back : q = y.hp.queue := left
    have all : postQueue (queued ((0, l) :: y.hp.queue) b) 0 = l ++ [] := by simp [postQueue, queued, tget, tfind]
    rw [all, run, still, back]
    rfl
  cases waits : postQueue y 0 with
  | nil => exact still (by rw [waits]; rfl)
  | cons x r =>
    cases fits : postFits y 0 x with
    | false => exact still (by rw [waits]; exact postRun_stuck fits)
    | true =>
      obtain ⟨p, same, one⟩ := exists_leftOver r y.hp.queue
      refine ⟨(0, l ++ x :: r) :: p, fun b holds => settle_of_posts ((postQueue_one_head _ p b).trans one) ?_⟩
      obtain ⟨c, ⟨q, rfl⟩, left, run⟩ := postRun_serves serves (x :: r) p some_ holds rfl
      have head : q = (0, x :: r) :: p := left
      have all : postQueue (queued ((0, l ++ x :: r) :: p) b) 0 = l ++ x :: r := by simp [postQueue, queued, tget, tfind]
      have fits' : postFits (queued q y) 0 x = true := fits
      have next : queued (tset [] (queued q y).hp.queue 0 r) (queued q y) = queued (tset [] y.hp.queue 0 r) y := by
        have table : tset [] (queued q y).hp.queue 0 r = tset [] y.hp.queue 0 r := by
          rw [← same, ← tset_head r (x :: r) p, ← head]
          rfl
        rw [table]
        rfl
      rw [all, run, waits, postRun_fits fits', postRun_fits fits, next]

/-! ### Registers brought back by writes that wait -/

/-- A write of the management core path at the key `k`: FT_XPORT holds every bit that is written, and a copy of it that lies
beyond its registers reaches any later key. -/
def poke (k : Nat) (v : BitVec 64) : Posted := .write .mgmt (some (.ftXport, k - regKey .ftXport 0)) .full v true

/-- A write of the management core path that waits and takes effect. -/
theorem postTake_mgmt {r : Reg} {c i : Nat} {half : Half} {val : BitVec 64} {b b' : Block} (md : r ≠ .mdCtl)
    (place : regIdx (letGo .mgmt b) .mgmt r c = .at_ i) (applies : regApply .mgmt r i val (halfMask half) (letGo .mgmt b) = some b') :
    postTake (.write .mgmt (some (r, c)) half val true) b = b' := by
  have stored : regStore .mgmt r c val (halfMask half) (letGo .mgmt b) = b' := regStore_at place applies
  simp [postTake, writeTake, regTake, md, stored]

theorem full_val (v w : BitVec 64) : (w &&& ~~~halfMask .full) ||| ((v &&& halfMask .full) &&& halfMask .full) = v := by
  rw [show halfMask .full = BitVec.allOnes 64 from rfl]
  simp only [BitVec.not_allOnes, BitVec.and_zero, BitVec.and_allOnes, BitVec.zero_or]

theorem place_ftXport (c : Nat) (b : Block) : regIdx b .mgmt .ftXport c = .at_ c := rfl

theorem postTake_poke {k : Nat} (high : regKey .ftXport 0 ≤ k) (v : BitVec 64) (b : Block) :
    postTake (poke k v) b = { letGo .mgmt b with regs := tput b.regs k v } := by
  have key : regKey .ftXport (k - regKey .ftXport 0) = k := by
    simp only [regKey] at high ⊢
    omega
  have all : Reg.bitsOf .ftXport (· == .rw) &&& halfMask .full = halfMask .full := by decide
  have none_ : Reg.bitsOf .ftXport (· == .w1c) &&& halfMask .full &&& (v &&& halfMask .full) = 0#64 := by
    rw [show Reg.bitsOf .ftXport (· == .w1c) = 0#64 by decide]
    simp
  refine postTake_mgmt (by decide) (place_ftXport _ _) ?_
  have word := full_val v (rget (letGo .mgmt b) .ftXport (k - regKey .ftXport 0))
  simp only [regApply, storePlain, if_pos none_, storeBits, all, word, rput, key]
  rfl

/-- The halves of `h` under `n` words that the management core path has read in part: each of its writes lets one go. -/
def spare (n : Nat) (h : Tbl (Nat × Half × BitVec 64)) : Tbl (Nat × Half × BitVec 64) := List.replicate n (256, 0, .full, 0#64) ++ h

theorem tdel_spare (n : Nat) (h : Tbl (Nat × Half × BitVec 64)) : tdel (spare (n + 1) h) 256 = spare n h := by
  simp [spare, List.replicate_succ, tdel]

/-- A block that differs from `y` in its registers, its messages, `n` spare halves and what is queued. -/
def Differs (y : Block) (n : Nat) (b : Block) : Prop :=
  b = { y with regs := b.regs, out := b.out, halves := spare n y.halves, hp := { y.hp with queue := b.hp.queue } }

theorem Differs.queued {y b : Block} {n : Nat} (h : Differs y n b) (q : Tbl (List Posted)) : Differs y n (queued q b) := by
  rw [h]
  rfl

/-- A request that lets a spare half go, and changes registers and messages alone. -/
theorem Differs.changes {y b : Block} {n : Nat} (h : Differs y (n + 1) b) (t : Tbl (BitVec 64)) (o : List Msg) :
    Differs y n { letGo .mgmt b with regs := t, out := o } := by
  have halves : tdel b.halves 256 = spare n y.halves := by
    rw [h]
    exact tdel_spare n y.halves
  have hp : b.hp = { y.hp with queue := b.hp.queue } := congrArg Block.hp h
  rw [Differs, letGo, bankOf, halves]
  generalize b.hp.queue = q at hp
  rw [h]
  simp only [hp]

/-- The registers of the keys `l` are brought back in turn. -/
theorem serves_restored {y : Block} {l : List Nat} (high : ∀ k ∈ l, regKey .ftXport 0 ≤ k) :
    Serves (fun b => Differs y l.length b ∧ b.out = y.out ∧ restored y.regs l b.regs = y.regs) (l.map (fun k => poke k (tget 0#64 y.regs k)))
      (fun c => ∃ q, c = queued q y) := by
  induction l with
  | nil =>
    refine .nil fun b ⟨differs, out, same⟩ => ⟨b.hp.queue, ?_⟩
    have regs : b.regs = y.regs := same
    rw [differs, out, regs]
    rfl
  | cons k l ih =>
    have ⟨first, rest⟩ := List.forall_mem_cons.mp high
    refine .cons (fun _ => rfl) (fun b q ⟨differs, out, same⟩ => ?_) (ih rest)
    rw [postTake_poke first]
    exact ⟨⟨(differs.queued q).changes _ _, out, same⟩, rfl⟩

/-- A block that differs from `y` in registers that stand there, with spare halves, can go on as `y` does: the writes that bring its registers
back wait in the queue. -/
theorem settle_restored (y : Block) {l : List Nat} (some_ : l ≠ []) (high : ∀ k ∈ l, regKey .ftXport 0 ≤ k) :
    ∃ q, ∀ t, restored y.regs l t = y.regs →
      settle { y with regs := t, halves := spare l.length y.halves, hp := { y.hp with queue := q } } = settle y := by
  obtain ⟨q, goes⟩ := settle_served (by simpa using some_) (serves_restored high)
  exact ⟨q, fun t same => goes { y with regs := t, halves := spare l.length y.halves } ⟨rfl, rfl, same⟩⟩

end Sys2Proof.Laws

/-!
The messages of a trace counter that wraps, and how they can be sent again. Sending one needs a pending bit to be written, and changes registers
that stand in the register store from the first time that it was sent.
-/
namespace Sys2Proof.Laws

open Sys2Proof Sys2Proof.Machine Sys2Proof.Safety

/-! ### Blocks that signal alike -/

/-- Is the link of a port not in a power state from which a message wakes it? -/
def Awake (b : Block) (h : Nat) : Prop := ¬(2 ≤ fget b F.hpPortStatusLstate h ∧ fget b F.hpPortStatusLstate h ≤ 4)

/-- The keys of the counters of a tile. -/
def counterKeys (b : Block) (tile : Nat) : List Nat := tkeys (fun k _ => k / 2 ^ 32 == Reg.code .tcCntCfg && k % 2 ^ 32 / 512 == tile) b.regs

/-- The registers that the counting of a discarded frame can change: those that a signal can, and the counts of discarded frames. -/
def tallyReg (r : Reg) : Bool := sigReg r || r == .ftRxErrors

/-- `c` signals a source as `b` does: it differs in registers of `tallyReg`, in the messages sent, the trace unit, the halves and the
queue; no link has gone to sleep and no freeze has ended. -/
structure Alike (b c : Block) : Prop where
  regs : ∀ r i, tallyReg r = false → i < 2 ^ 32 → rget c r i = rget b r i
  rest : c = { b with regs := c.regs, out := c.out, tc := c.tc, halves := c.halves, hp := { b.hp with queue := c.hp.queue } }
  link : ∀ h, h < 2 ^ 32 → fon c F.hpPortStatusLinkUp h = fon b F.hpPortStatusLinkUp h
  awake : ∀ h, h < 2 ^ 32 → Awake b h → Awake c h
  frozen : fon b F.tcFreezeFrozen 0 = true → fon c F.tcFreezeFrozen 0 = true
  keys : ∀ tile, counterKeys c tile = counterKeys b tile

theorem Alike.refl (b : Block) : Alike b b := ⟨fun _ _ _ _ => rfl, rfl, fun _ _ => rfl, fun _ _ h => h, fun h => h, fun _ => rfl⟩

theorem Alike.trans {b c d : Block} (h : Alike b c) (g : Alike c d) : Alike b d where
  regs r i free hi := (g.regs r i free hi).trans (h.regs r i free hi)
  rest := by
    have rest := g.rest
    rw [h.rest] at rest
    exact rest
  link i hi := (g.link i hi).trans (h.link i hi)
  awake i hi up := g.awake i hi (h.awake i hi up)
  frozen held := g.frozen (h.frozen held)
  keys tile := (g.keys tile).trans (h.keys tile)

section
variable {b c : Block} (h : Alike b c)
include h

theorem Alike.fget {f : Fld} {i : Nat} (free : tallyReg f.reg = false) (hi : i < 2 ^ 32) : Machine.fget c f i = Machine.fget b f i :=
  congrArg (fun w => qbits w f.hi f.lo) (h.regs f.reg i free hi)

theorem Alike.fon {f : Fld} {i : Nat} (free : tallyReg f.reg = false) (hi : i < 2 ^ 32) : Machine.fon c f i = Machine.fon b f i :=
  congrArg (· == 1) (h.fget free hi)

theorem Alike.flr : c.hp.flr = b.hp.flr := by rw [h.rest]

theorem Alike.serving : c.sgServing = b.sgServing := by rw [h.rest]

theorem Alike.target {s : Nat} (hs : s < 2 ^ 32) : sgTarget c s = sgTarget b s := by
  simp only [sgTarget, h.fget (f := F.sgSrcCfgTarget) rfl hs, h.fget (f := F.sgSrcCfgVector) rfl hs, h.fget (f := F.sgSrcCfgFunction) rfl hs]

theorem Alike.mask {s : Nat} (hs : s < 2 ^ 32) : sgMaskBit c s = sgMaskBit b s := by
  rw [sgMaskBit, sgMaskBit, h.regs .sgMask (s / 64) rfl (by omega)]

theorem Alike.held {s : Nat} (hs : s < 2 ^ 32) : sgHeld c s = sgHeld b s := by
  simp only [sgHeld, flrActive, h.target hs, h.flr]

theorem Alike.matches_ (k event : Nat) (part : Option Nat) : counterMatches c (k % 2 ^ 32) event part = counterMatches b (k % 2 ^ 32) event part := by
  have small : k % 2 ^ 32 < 2 ^ 32 := Nat.mod_lt _ (by decide)
  have on : ∀ f : Fld, tallyReg f.reg = false → Machine.fon c f (k % 2 ^ 32) = Machine.fon b f (k % 2 ^ 32) := fun f free => h.fon free small
  have get : ∀ f : Fld, tallyReg f.reg = false → Machine.fget c f (k % 2 ^ 32) = Machine.fget b f (k % 2 ^ 32) := fun f free => h.fget free small
  simp only [counterMatches, on F.tcCntOwnValid rfl, on F.tcCntCfgFilter rfl, on F.tcCntCfgEnable rfl, get F.tcCntOwnPartition rfl,
    get F.tcCntCfgPartition rfl, get F.tcCntCfgEvent rfl]

theorem Alike.msixOpen {fn vec : Nat} (small : 2048 * fn + vec < 2 ^ 32) : Machine.msixOpen c fn vec = Machine.msixOpen b fn vec := by
  have mask := h.fon (f := F.hpMsixDataMask) rfl small
  have link := h.link (fn / 128) (by omega)
  have rest : Machine.msixOpen c fn vec = (bit (msixCtl b fn).toNat 31 && !bit (msixCtl b fn).toNat 30 && !(Machine.fon c F.hpMsixDataMask (2048 * fn + vec))
    && (bmeOn b fn && !inD3 b (fn / 128) && tget 0 b.hp.tdi fn != 3 && !ideOff b fn && Machine.fon c F.hpPortStatusLinkUp (fn / 128))) := by
    rw [h.rest]
    rfl
  rw [rest, mask, link]
  rfl

theorem Alike.pasid {fn : Nat} (small : fn < 2 ^ 32) : pasidOf c fn = pasidOf b fn := by
  have rest : pasidOf c fn = (if pasidOn b fn && Machine.fon c F.hpFnPasidValid fn then
      some (Machine.fget c F.hpFnPasidPasid fn, Machine.fon c F.hpFnPasidPriv fn) else none) := by
    rw [h.rest]
    rfl
  rw [rest, h.fon (f := F.hpFnPasidValid) rfl small, h.fget (f := F.hpFnPasidPasid) rfl small, h.fon (f := F.hpFnPasidPriv) rfl small]
  rfl

end

/-! ### What a signal stirs -/

theorem tkeys_tput_other {α : Type} {p : Nat → α → Bool} (t : Tbl α) {k : Nat} (v : α) (no : ∀ x, p k x = false) : tkeys p (tput t k v) = tkeys p t := by
  induction t with
  | nil => simp [tkeys, tput, no]
  | cons e t ih =>
    obtain ⟨j, x⟩ := e
    simp only [tkeys] at ih
    by_cases below : k < j
    · simp [tkeys, tput, below, no]
    · by_cases same : j = k
      · subst same
        simp [tkeys, tput, no]
      · cases keep : p j x <;> simp [tkeys, tput, below, same, keep, ih]

/-- The keys that the sending of a message changes: pending bits and counts, the PBA, and the values of counters. -/
def stirs (k : Nat) : Bool := [Reg.sgPending, .sgCount, .hpPba, .tcCntVal].any (fun r => k / 2 ^ 32 == r.code)

/-- Puts at keys of `K` that a message stirs. -/
inductive Stirred (K : Nat → Prop) (u : Tbl (BitVec 64)) : Tbl (BitVec 64) → Prop
  | refl : Stirred K u u
  | put {t : Tbl (BitVec 64)} (h : Stirred K u t) {k : Nat} (v : BitVec 64) (hk : K k) (hs : stirs k = true) : Stirred K u (tput t k v)

namespace Stirred
variable {K L : Nat → Prop} {u t w : Tbl (BitVec 64)}

theorem trans (h : Stirred K u t) (g : Stirred K t w) : Stirred K u w := by
  induction g with
  | refl => exact h
  | put _ v hk hs ih => exact .put ih v hk hs

theorem mono (h : Stirred K u t) (imp : ∀ k, K k → L k) : Stirred L u t := by
  induction h with
  | refl => exact .refl
  | put _ v hk hs ih => exact .put ih v (imp _ hk) hs

theorem stands (h : Stirred K u t) {k : Nat} (s : Stands u k) : Stands t k := by
  induction h with
  | refl => exact s
  | put _ v hk hs ih => exact ih.tput _ v

theorem restored_eq (h : Stirred K u t) {l : List Nat} (listed : ∀ k, K k → stirs k = true → k ∈ l) (stand : ∀ k ∈ l, Stands u k) : restored u l t = u := by
  induction h with
  | refl => exact restored_self stand
  | put _ v hk hs ih => exact (restored_tput u (listed _ hk hs) v _).trans ih

theorem tfind_eq (h : Stirred K u t) {k : Nat} (calm : stirs k = false) : tfind t k = tfind u k := by
  induction h with
  | refl => rfl
  | @put t _ j v hk hs ih =>
    have other : k ≠ j := fun same => by rw [same, hs] at calm; cases calm
    exact (tfind_tput_other t j k v other).trans ih

theorem tfind_other (h : Stirred K u t) {k : Nat} (other : ∀ j, K j → j ≠ k) : tfind t k = tfind u k := by
  induction h with
  | refl => rfl
  | @put t _ j v hk _ ih => exact (tfind_tput_other t j k v (other j hk).symm).trans ih

theorem tkeys_eq (h : Stirred K u t) {p : Nat → BitVec 64 → Bool} (calm : ∀ k v, p k v = true → stirs k = false) : tkeys p t = tkeys p u := by
  induction h with
  | refl => rfl
  | @put t _ j v hk hs ih =>
    have no : ∀ x, p j x = false := fun x => by
      cases yes : p j x with
      | false => rfl
      | true => exact absurd (calm j x yes) (by simp [hs])
    exact (tkeys_tput_other t v no).trans ih

end Stirred

theorem regKey_div (r : Reg) {i : Nat} (hi : i < 2 ^ 32) : regKey r i / 2 ^ 32 = r.code := by
  simp only [regKey]
  omega

theorem stirs_regKey (r : Reg) {i : Nat} (hi : i < 2 ^ 32) : stirs (regKey r i) = (r == .sgPending || r == .sgCount || r == .hpPba || r == .tcCntVal) := by
  rw [stirs, regKey_div r hi]
  cases r <;> rfl

/-- Registers that a message stirs are read by no condition of a signal. -/
theorem Stirred.alike {K : Nat → Prop} {b : Block} {t : Tbl (BitVec 64)} (h : Stirred K b.regs t) (o : List Msg) : Alike b { b with regs := t, out := o } := by
  have read : ∀ (r : Reg) i, (r == .sgPending || r == .sgCount || r == .hpPba || r == .tcCntVal) = false → i < 2 ^ 32 →
      rget { b with regs := t, out := o } r i = rget b r i := fun r i free hi => by
    simp only [rget, h.tfind_eq ((stirs_regKey r hi).trans free)]
  have field : ∀ (f : Fld) i, (f.reg == .sgPending || f.reg == .sgCount || f.reg == .hpPba || f.reg == .tcCntVal) = false → i < 2 ^ 32 →
      fget { b with regs := t, out := o } f i = fget b f i := fun f i free hi => congrArg (fun w => qbits w f.hi f.lo) (read f.reg i free hi)
  refine ⟨fun r i free hi => read r i ?_ hi, rfl, fun i hi => congrArg (· == 1) (field _ i rfl hi), fun i hi up => ?_, fun frozen => ?_, fun tile => h.tkeys_eq ?_⟩
  · revert free
    cases r <;> decide
  · rwa [Awake, field F.hpPortStatusLstate i rfl hi]
  · rwa [fon, field F.tcFreezeFrozen 0 rfl (by decide)]
  · intro k v cfg
    have code : k / 2 ^ 32 = Reg.code .tcCntCfg := by
      have := (Bool.and_eq_true_iff.mp cfg).1
      simpa using this
    rw [stirs, code]
    rfl

/-! ### Sending a message -/

/-- Each counter that counts a message sent at a host port is one of `K`, unless the block is frozen. -/
def Counting (K : Nat → Prop) (b : Block) (h : Nat) : Prop :=
  fon b F.tcFreezeFrozen 0 = true ∨ ∀ k ∈ counterKeys b (portTile h), counterMatches b (k % 2 ^ 32) 0x070 none = true → K (regKey .tcCntVal (k % 2 ^ 32))

theorem Counting.alike {K L : Nat → Prop} {b c : Block} (a : Alike b c) (imp : ∀ k, K k → L k) {h : Nat} (counting : Counting K b h) : Counting L c h := by
  rcases counting with frozen | keys
  · exact .inl (a.frozen frozen)
  · refine .inr fun k listed counts => imp _ (keys k ?_ ?_)
    · rwa [a.keys] at listed
    · rwa [a.matches_] at counts

/-- What a counter of messages does with one. -/
def counterTick (k : Nat) (b : Block) : Block :=
  let c := k % 2 ^ 32
  if counterMatches b c 0x070 none then
    let v := fget b F.tcCntValCount c + 1
    fput F.tcCntValCount c v (if v < 2 ^ 48 then b else fput F.tcCntValOvf c 1 b)
  else b

theorem emitSignal_eq (h : Nat) (m : Msg) (b : Block) : emitSignal h m b =
    if fon b F.tcFreezeFrozen 0 then emit m b else each (counterKeys b (portTile h)) counterTick (emit m b) := rfl

/-- Counters tick at their own values alone, which then stand. -/
theorem each_ticks (l : List Nat) : ∀ b : Block, ∃ t, each l counterTick b = { b with regs := t } ∧
    Stirred (fun κ => ∃ k ∈ l, counterMatches b (k % 2 ^ 32) 0x070 none = true ∧ κ = regKey .tcCntVal (k % 2 ^ 32)) b.regs t ∧
    ∀ k ∈ l, counterMatches b (k % 2 ^ 32) 0x070 none = true → Stands t (regKey .tcCntVal (k % 2 ^ 32)) := by
  induction l with
  | nil => exact fun b => ⟨b.regs, rfl, .refl, fun k none_ => absurd none_ (by simp)⟩
  | cons k l ih =>
    intro b
    have small : k % 2 ^ 32 < 2 ^ 32 := Nat.mod_lt _ (by decide)
    have stir : stirs (regKey .tcCntVal (k % 2 ^ 32)) = true := stirs_regKey _ small
    have tick : ∃ t, counterTick k b = { b with regs := t } ∧
        Stirred (fun κ => counterMatches b (k % 2 ^ 32) 0x070 none = true ∧ κ = regKey .tcCntVal (k % 2 ^ 32)) b.regs t ∧
        (counterMatches b (k % 2 ^ 32) 0x070 none = true → Stands t (regKey .tcCntVal (k % 2 ^ 32))) := by
      cases counts : counterMatches b (k % 2 ^ 32) 0x070 none with
      | false => exact ⟨b.regs, if_neg (by rw [counts]; decide), .refl, fun no => by cases no⟩
      | true =>
        by_cases wraps : fget b F.tcCntValCount (k % 2 ^ 32) + 1 < 2 ^ 48
        · refine ⟨_, by simp only [counterTick, counts, if_true, if_pos wraps]; rfl, .put .refl _ ⟨rfl, rfl⟩ stir, fun _ => .tput_same _ _ _⟩
        · refine ⟨_, by simp only [counterTick, counts, if_true, if_neg wraps]; rfl, .put (.put .refl _ ⟨rfl, rfl⟩ stir) _ ⟨rfl, rfl⟩ stir, fun _ => .tput_same _ _ _⟩
    obtain ⟨t, first, stirred, stands⟩ := tick
    obtain ⟨w, rest, more, all⟩ := ih { b with regs := t }
    have same : ∀ j, counterMatches { b with regs := t } (j % 2 ^ 32) 0x070 none = counterMatches b (j % 2 ^ 32) 0x070 none := fun j =>
      (stirred.alike b.out).matches_ j _ _
    refine ⟨w, by rw [each, first, rest], ?_, ?_⟩
    · refine (stirred.mono ?_).trans (more.mono ?_)
      · exact fun κ ⟨counts, at_⟩ => ⟨k, by simp, counts, at_⟩
      · exact fun κ ⟨j, listed, counts, at_⟩ => ⟨j, by simp [listed], (same j).symm.trans counts, at_⟩
    · intro j listed counts
      rcases List.mem_cons.mp listed with rfl | later
      · exact more.stands (stands counts)
      · exact all j later ((same j).trans counts)

/-- A message of a signal goes out; its counters stir, and stand then. -/
theorem emitSignal_stirs (h : Nat) (m : Msg) (b : Block) : ∃ t, emitSignal h m b = { b with regs := t, out := m :: b.out } ∧
    (∀ K, Counting K b h → Stirred K b.regs t) ∧ Counting (Stands t) (emitSignal h m b) h := by
  cases frozen : fon b F.tcFreezeFrozen 0 with
  | true =>
    have same : emitSignal h m b = emit m b := by rw [emitSignal_eq, frozen, if_pos rfl]
    refine ⟨b.regs, same, fun K _ => .refl, .inl ?_⟩
    rw [same]
    exact frozen
  | false =>
    obtain ⟨t, ticks, stirred, stands⟩ := each_ticks (counterKeys b (portTile h)) (emit m b)
    have same : emitSignal h m b = { b with regs := t, out := m :: b.out } := by rw [emitSignal_eq, frozen]; exact ticks
    refine ⟨t, same, fun K counting => stirred.mono ?_, .inr ?_⟩
    · rintro κ ⟨k, listed, counts, rfl⟩
      exact (counting.resolve_left (by simp [frozen])) k listed counts
    · have alike : Alike b { b with regs := t, out := m :: b.out } := Stirred.alike (b := b) stirred (m :: b.out)
      rw [same]
      intro k listed counts
      rw [alike.keys] at listed
      rw [alike.matches_] at counts
      exact stands k listed counts

/-! ### Sources that send when they become pending -/

/-- What source `n` sends for its target where it signals, with the keys of the registers that it then changes in `K`. -/
inductive Sends (K : Nat → Prop) (b : Block) (n : Nat) : Nat × Nat × Nat → Msg → Prop
  | irq {t fn vec : Nat} (own : t < 10 ∨ t = 16) : Sends K b n (t, fn, vec) (.irq t)
  | error {h fn vec : Nat} (port : h < 2) (counting : Counting K b h) (count : K (regKey .sgCount (n / 8))) : Sends K b n (14 + h, fn, vec) (.pcieError h 0)
  | msix {t fn vec : Nat} (toFn : sgToFn t = true) (free : flrActive b fn = false) (opened : msixOpen b fn vec = true) (awake : Awake b (fn / 128))
      (counting : Counting K b (fn / 128)) (pba : K (regKey .hpPba (32 * fn + vec / 64))) :
      Sends K b n (t, fn, vec) (.msix fn vec (rget b .hpMsixAddr (2048 * fn + vec)) (fget b F.hpMsixDataData (2048 * fn + vec)) (pasidOf b fn))

/-- A source of a trace counter or of a freeze that sends `s.2` when it becomes pending. -/
structure Fires (K : Nat → Prop) (b : Block) (s : Nat × Msg) : Prop where
  source : 1810 ≤ s.1 ∧ s.1 ≤ 1822
  mask : sgMaskBit b s.1 = false
  serving : sgInService b s.1 = false
  pending : K (regKey .sgPending (s.1 / 64))
  sends : Sends K b s.1 (sgTarget b s.1) s.2

/-- A function and a vector that the registers have room for. -/
def Roomy (x : Nat × Nat × Nat) : Prop := x.2.1 < 2 ^ 13 ∧ x.2.2 < 2 ^ 12

theorem roomy_ite {p : Prop} [Decidable p] {x y : Nat × Nat × Nat} (hx : Roomy x) (hy : Roomy y) : Roomy (if p then x else y) := by
  split
  · exact hx
  · exact hy

theorem sgTarget_bounds {n : Nat} (b : Block) (hn : n < 2048) : Roomy (sgTarget b n) := by
  have hv : fget b F.sgSrcCfgVector n < 2 ^ 11 := qbits_lt _ _ _
  have hf : fget b F.sgSrcCfgFunction n < 2 ^ 7 := qbits_lt _ _ _
  have ofVf : (if fget b F.sgSrcCfgVector n < 63 then fget b F.sgSrcCfgVector n else 63) < 2 ^ 12 := by split <;> omega
  have ofFn : ∀ t fn vec, fn < 2 ^ 13 → vec < 2 ^ 12 → Roomy (t, fn, vec) := fun _ _ _ hfn hvec => ⟨hfn, hvec⟩
  unfold sgTarget
  refine roomy_ite (ofFn _ _ _ (by omega) (by omega)) (roomy_ite (ofFn _ _ _ (by omega) (by omega)) ?_)
  refine roomy_ite (ofFn _ _ _ (by omega) (by omega)) (roomy_ite (ofFn _ _ _ (by omega) (by omega)) ?_)
  refine roomy_ite (ofFn _ _ _ (by omega) (by omega)) (roomy_ite (ofFn _ _ _ (by omega) (by omega)) ?_)
  refine roomy_ite (ofFn _ _ _ (by omega) (by omega)) (roomy_ite (ofFn _ _ _ (by omega) ofVf) ?_)
  exact roomy_ite (ofFn _ _ _ (by omega) ofVf) (ofFn _ _ _ (by omega) (by omega))

theorem Sends.alike {K L : Nat → Prop} {b c : Block} (a : Alike b c) (imp : ∀ k, K k → L k) {n : Nat} {x : Nat × Nat × Nat} {m : Msg}
    (small : Roomy x) (h : Sends K b n x m) : Sends L c n x m := by
  cases h with
  | irq own => exact .irq own
  | error port counting count => exact .error port (counting.alike a imp) (imp _ count)
  | @msix t fn vec toFn free opened awake counting pba =>
    have here : 2048 * fn + vec < 2 ^ 32 := by
      have ⟨hfn, hvec⟩ := small
      dsimp only at hfn hvec
      omega
    rw [← a.regs .hpMsixAddr _ rfl here, ← a.fget (f := F.hpMsixDataData) rfl here, ← a.pasid (fn := fn) (by omega)]
    refine .msix toFn ?_ ((a.msixOpen here).trans opened) (a.awake _ (by omega) awake) (counting.alike a imp) (imp _ pba)
    rw [flrActive, a.flr]
    exact free

theorem Fires.alike {K L : Nat → Prop} {b c : Block} (a : Alike b c) (imp : ∀ k, K k → L k) {s : Nat × Msg} (h : Fires K b s) : Fires L c s := by
  have small : s.1 < 2 ^ 32 := by have := h.source; omega
  refine ⟨h.source, (a.mask small).trans h.mask, ?_, imp _ h.pending, ?_⟩
  · rw [sgInService, a.serving]
    exact h.serving
  · rw [a.target small]
    exact h.sends.alike a imp (sgTarget_bounds b (by have := h.source; omega))

theorem Fires.free {K : Nat → Prop} {b : Block} {s : Nat × Msg} (h : Fires K b s) : sgHeld b s.1 = false := by
  obtain ⟨-, -, -, -, sends⟩ := h
  obtain ⟨σ, msg⟩ := s
  dsimp only at *
  rw [sgHeld]
  generalize sgTarget b σ = x at sends
  cases sends with
  | irq own => rcases own with low | rfl <;> simp [sgToFn]; omega
  | error port _ _ => simp [sgToFn]; omega
  | msix _ free => simp [free]

/-- Puts at the values of counters leave the pending bits. -/
theorem pending_of_ticks {b c : Block} (h : Stirred (fun k => k / 2 ^ 32 = Reg.tcCntVal.code) b.regs c.regs) {n : Nat} (hn : n < 2048) :
    sgPendingBit c n = sgPendingBit b n := by
  have code : regKey .sgPending (n / 64) / 2 ^ 32 = Reg.sgPending.code := regKey_div _ (by omega)
  have found : tfind c.regs (regKey .sgPending (n / 64)) = tfind b.regs (regKey .sgPending (n / 64)) :=
    h.tfind_other fun k ticks same => by rw [same, code] at ticks; exact absurd ticks (by decide)
  simp only [sgPendingBit, rget, found]

theorem counting_any (b : Block) (h : Nat) : Counting (fun k => k / 2 ^ 32 = Reg.tcCntVal.code) b h :=
  .inr fun _ _ _ => regKey_div _ (Nat.mod_lt _ (by decide))

theorem emitSignal_pending (h : Nat) (m : Msg) (b : Block) {n : Nat} (hn : n < 2048) : sgPendingBit (emitSignal h m b) n = sgPendingBit b n := by
  obtain ⟨t, same, stirred, -⟩ := emitSignal_stirs h m b
  have stir : Stirred (fun k => k / 2 ^ 32 = Reg.tcCntVal.code) b.regs (emitSignal h m b).regs := by
    rw [same]
    exact stirred _ (counting_any b h)
  exact pending_of_ticks stir hn

theorem sgToFn_own {t : Nat} (own : t < 10 ∨ t = 16) : sgToFn t = false := by
  rcases own with low | rfl <;> simp [sgToFn]
  omega

theorem sgToFn_error {p : Nat} (port : p < 2) : sgToFn (14 + p) = false := by
  simp [sgToFn]
  omega

theorem sgSignal_irq {n t fn vec : Nat} {b : Block} (target : sgTarget b n = (t, fn, vec)) (own : t < 10 ∨ t = 16) : sgSignal n b = emit (.irq t) b := by
  have mine : (decide (t < 10) || t == 16) = true := by simpa using own
  simp only [sgSignal, target, sgToFn_own own, mine, if_true, Bool.false_eq_true, if_false]

/-- The error message of a source that is no fault's has the lowest severity. -/
theorem sgSignal_error {n p fn vec : Nat} {b : Block} (target : sgTarget b n = (14 + p, fn, vec)) (port : p < 2) (source : 1536 ≤ n) :
    sgSignal n b = sgSetCount n 0 (sgSetPending n false (emitSignal p (.pcieError p 0) b)) := by
  have notOwn : (decide (14 + p < 10) || 14 + p == 16) = false := by
    simp
    omega
  have err : (14 + p == 14 || 14 + p == 15) = true := by
    simp
    omega
  have benign : (decide (1024 ≤ n) && decide (n < 1536) && decide (2 ≤ fget b F.fhSrcStatusClass (n - 1024))) = false := by
    simp
    omega
  have less : 14 + p - 14 = p := by omega
  have send : errorSend p 0 b = emitSignal p (.pcieError p 0) b := rfl
  simp only [sgSignal, target, sgToFn_error port, notOwn, err, benign, less, send, Bool.false_eq_true, if_false, if_true]

theorem sgSignal_msix {n t fn vec : Nat} {b : Block} (target : sgTarget b n = (t, fn, vec)) (toFn : sgToFn t = true) (free : flrActive b fn = false) :
    sgSignal n b = msixSignal fn vec b := by
  simp only [sgSignal, target, toFn, free, Bool.false_eq_true, if_false, if_true]

theorem msixSignal_awake {fn vec : Nat} {b : Block} (opened : msixOpen b fn vec = true) (awake : Awake b (fn / 128)) : msixSignal fn vec b =
    emitSignal (fn / 128) (.msix fn vec (rget b .hpMsixAddr (2048 * fn + vec)) (fget b F.hpMsixDataData (2048 * fn + vec)) (pasidOf b fn)) (pbaSet fn vec false b) := by
  have wake : hostWake (fn / 128) b = b := if_neg awake
  rw [msixSignal, if_pos opened, wake]

/-- A source that fires sends its message, changes registers of `K` that a message stirs, and no other source's pending bit. -/
theorem sgSignal_fires {K : Nat → Prop} {b : Block} {s : Nat × Msg} (h : Fires K b s) : ∃ t, sgSignal s.1 b = { b with regs := t, out := s.2 :: b.out } ∧
    Stirred K b.regs t ∧ ∀ n, n < 2048 → n ≠ s.1 → sgPendingBit (sgSignal s.1 b) n = sgPendingBit b n := by
  obtain ⟨⟨low, high⟩, -, -, pending, sends⟩ := h
  obtain ⟨σ, msg⟩ := s
  dsimp only at *
  have small : σ < 2048 := by omega
  have bounds := sgTarget_bounds b small
  generalize target : sgTarget b σ = x at sends bounds
  cases sends with
  | irq own => exact ⟨b.regs, sgSignal_irq target own, .refl, fun _ _ _ => by rw [sgSignal_irq target own]; rfl⟩
  | @error p fn vec port counting count =>
    obtain ⟨t, sent, stirred, -⟩ := emitSignal_stirs p (.pcieError p 0) b
    have pend : stirs (regKey .sgPending (σ / 64)) = true := stirs_regKey _ (by omega)
    have cnt : stirs (regKey .sgCount (σ / 8)) = true := stirs_regKey _ (by omega)
    have signal := sgSignal_error target port (by omega)
    refine ⟨(sgSignal σ b).regs, ?_, ?_, fun n hn other => ?_⟩
    · rw [signal, sent]
      rfl
    · rw [signal, sent]
      exact .put (.put (stirred K counting) _ pending pend) _ count cnt
    · rw [signal, sgPendingBit_setCount small hn, sgPendingBit_setPending_other other, emitSignal_pending _ _ _ hn]
  | @msix t fn vec toFn free opened awake counting pba =>
    have near : 32 * fn + vec / 64 < 2 ^ 32 := by
      have ⟨hfn, hvec⟩ := bounds
      dsimp only at hfn hvec
      omega
    have cleared : Stirred K b.regs (pbaSet fn vec false b).regs := .put .refl _ pba (stirs_regKey _ near)
    have alike : Alike b (pbaSet fn vec false b) := cleared.alike b.out
    have signal := (sgSignal_msix target toFn free).trans (msixSignal_awake opened awake)
    rw [signal]
    obtain ⟨t', sent, stirred, -⟩ := emitSignal_stirs (fn / 128) (.msix fn vec (rget b .hpMsixAddr (2048 * fn + vec)) (fget b F.hpMsixDataData (2048 * fn + vec))
      (pasidOf b fn)) (pbaSet fn vec false b)
    refine ⟨t', sent, cleared.trans (stirred K (counting.alike alike (fun _ h => h))), fun n hn _ => ?_⟩
    rw [emitSignal_pending _ _ _ hn, sgPendingBit, pbaSet, rget_rput_other _ _ _ _ _ _ (regKey_ne (by decide) (by omega) near), sgPendingBit]

end Sys2Proof.Laws

/-!
Messages that are sent again by writes that wait: a block that has sent some goes on as one would that has sent none of them, and whose
receive queue holds the writes that make their sources pending.
-/
namespace Sys2Proof.Laws

open Sys2Proof Sys2Proof.Machine Sys2Proof.Safety

/-! ### A write that makes one source pending -/

theorem each_stays {α : Type} {f : α → Block → Block} {b : Block} : ∀ {l : List α}, (∀ a ∈ l, f a b = b) → each l f b = b
  | [], _ => rfl
  | a :: l, keeps => by
    have ⟨first, rest⟩ := List.forall_mem_cons.mp keeps
    rw [each, first, each_stays rest]

/-- Of changes made in turn one alone has an effect. -/
theorem each_once {α : Type} {f : α → Block → Block} {a : α} {b : Block} : ∀ {l : List α}, l.Nodup → a ∈ l → (∀ x ∈ l, x ≠ a → f x b = b) →
    (∀ x ∈ l, x ≠ a → f x (f a b) = f a b) → each l f b = f a b
  | [], _, listed, _, _ => by cases listed
  | x :: l, once, listed, before, after => by
    have ⟨fresh, rest⟩ := List.nodup_cons.mp once
    have ⟨_, later⟩ := List.forall_mem_cons.mp after
    rw [each]
    by_cases same : x = a
    · subst same
      exact each_stays fun y hy => later y hy fun same => fresh (same ▸ hy)
    · have ⟨first, others⟩ := List.forall_mem_cons.mp before
      rw [first same]
      exact each_once rest ((List.mem_cons.mp listed).resolve_left (Ne.symm same)) others later

/-- Where one source becomes eligible, and its signal makes no other eligible, it alone signals. -/
theorem sgNewly_once {old b : Block} {n : Nat} {l : List Nat} (once : l.Nodup) (listed : n ∈ l) (was : sgEligible old n = false) (is : sgEligible b n = true)
    (before : ∀ m ∈ l, m ≠ n → sgEligible b m = sgEligible old m) (after : ∀ m ∈ l, m ≠ n → sgEligible (sgSignal n b) m = sgEligible old m) :
    sgNewly old l b = sgSignal n b := by
  let f : Nat → Block → Block := fun s b => if !sgEligible old s && sgEligible b s then sgSignal s b else b
  have own : f n b = sgSignal n b := if_pos (by simp [was, is])
  have still : ∀ m c, sgEligible c m = sgEligible old m → f m c = c := fun m c same => if_neg (by simp [same])
  refine (each_once (f := f) once listed (fun m hm other => still m b (before m hm other)) (fun m hm other => ?_)).trans own
  rw [own]
  exact still m _ (after m hm other)

/-- The bit of source `n` in its word. -/
def sourceBit (n : Nat) : BitVec 64 := 1#64 <<< (n % 64)

theorem getLsbD_sourceBit (n : Nat) {i : Nat} (hi : i < 64) : (sourceBit n).getLsbD i = decide (i = n % 64) := by
  rw [sourceBit, BitVec.getLsbD_shiftLeft, BitVec.getLsbD_one]
  by_cases same : i = n % 64
  · simp [same]
    omega
  · simp [same, hi]
    omega

theorem getLsbD_full {i : Nat} (hi : i < 64) : (halfMask .full).getLsbD i = true := by
  rw [show halfMask .full = BitVec.allOnes 64 from rfl, BitVec.getLsbD_allOnes]
  simp [hi]

/-- The writes that take the pending bit of source `n` away, in a word `w`, and set it. -/
def resounds (w : BitVec 64) (n : Nat) : List Posted :=
  [poke (regKey .sgPending (n / 64)) (w &&& ~~~sourceBit n), .write .mgmt (some (.sgPending, n / 64)) .full (w ||| sourceBit n) true]

theorem place_sgPending {k : Nat} (shared : 16 ≤ k) (b : Block) : regIdx b .mgmt .sgPending k = .at_ k := by
  have above : ¬k < 16 := by omega
  have place : regIdx b .mgmt .sgPending k = if k < 16 then whereOwn b .mgmt k k else .at_ k := rfl
  rw [place, if_neg above]

theorem eligible_alike {b c : Block} (a : Alike b c) {n : Nat} (hn : n < 2048) (same : sgPendingBit c n = sgPendingBit b n) : sgEligible c n = sgEligible b n := by
  rw [sgEligible, sgEligible, same, a.mask (by omega), sgInService, sgInService, a.serving]

/-- The write that sets the pending bit of source `n` alone signals it. -/
theorem postTake_pends {n : Nat} {w : BitVec 64} {b : Block} {K : Nat → Prop} {m : Msg} (fires : Fires K (letGo .mgmt b) (n, m))
    (word : rget b .sgPending (n / 64) = w &&& ~~~sourceBit n) :
    postTake (.write .mgmt (some (.sgPending, n / 64)) .full (w ||| sourceBit n) true) b =
      sgSignal n (rput .sgPending (n / 64) (w ||| sourceBit n) (letGo .mgmt b)) := by
  obtain ⟨⟨low, high⟩, mask, serving, -, -⟩ := id fires
  dsimp only at low high mask serving
  have shared : n / 64 = 28 := by omega
  have old : rget (letGo .mgmt b) .sgPending (n / 64) = w &&& ~~~sourceBit n := word
  have new : wordWritten .sgPending (n / 64) (w ||| sourceBit n) (halfMask .full) (letGo .mgmt b) = w ||| sourceBit n := by
    apply BitVec.eq_of_getLsbD_eq
    intro i hi
    rw [getLsbD_wordWritten _ _ _ _ _ hi, getLsbD_full hi, old]
    by_cases own : 64 * (n / 64) + i = n
    · have free : sgHeld (letGo .mgmt b) n = false := fires.free
      rw [own, free]
      rfl
    · have other : ¬i = n % 64 := by omega
      have bit : (sourceBit n).getLsbD i = false := by simp [getLsbD_sourceBit n hi, other]
      simp only [BitVec.getLsbD_or, BitVec.getLsbD_and, BitVec.getLsbD_not, bit, hi, decide_true, Bool.not_false, Bool.and_true, Bool.or_false, ite_self]
  refine postTake_mgmt (by decide) (place_sgPending (by omega) _) (congrArg some ((sgWordWrite_mgmt _ _ _ _ _).trans ?_))
  rw [new]
  generalize letGo .mgmt b = x at fires old mask serving
  let c := rput .sgPending (n / 64) (w ||| sourceBit n) x
  have pend : Stirred K x.regs c.regs := .put .refl _ fires.pending (stirs_regKey _ (by omega))
  have alike : Alike x c := pend.alike x.out
  obtain ⟨t, sent, stirred, others⟩ := sgSignal_fires (fires.alike alike (fun _ h => h))
  have signalled : Alike c (sgSignal n c) := by
    rw [sent]
    exact stirred.alike _
  have bitOf : ∀ i, i < 64 → sgPendingBit x (64 * (n / 64) + i) = (w &&& ~~~sourceBit n).getLsbD i ∧
      sgPendingBit c (64 * (n / 64) + i) = (w ||| sourceBit n).getLsbD i := fun i hi => by
    have row : (64 * (n / 64) + i) / 64 = n / 64 := by omega
    have col : (64 * (n / 64) + i) % 64 = i := by omega
    exact ⟨by rw [sgPendingBit, row, col, old], by rw [sgPendingBit, row, col, rget_rput_same]⟩
  have col : n % 64 < 64 := Nat.mod_lt _ (by decide)
  have own : 64 * (n / 64) + n % 64 = n := by omega
  have quiet : ∀ i, i < 64 → i ≠ n % 64 → sgPendingBit c (64 * (n / 64) + i) = sgPendingBit x (64 * (n / 64) + i) := fun i hi other => by
    have bit : (sourceBit n).getLsbD i = false := by simp [getLsbD_sourceBit n hi, other]
    rw [(bitOf i hi).1, (bitOf i hi).2]
    simp only [BitVec.getLsbD_or, BitVec.getLsbD_and, BitVec.getLsbD_not, bit, hi, decide_true, Bool.not_false, Bool.and_true, Bool.or_false]
  have place : ∀ k ∈ (List.range 64).map (64 * (n / 64) + ·), k ≠ n → ∃ i, i < 64 ∧ i ≠ n % 64 ∧ k = 64 * (n / 64) + i := fun k listed other => by
    obtain ⟨i, hi, rfl⟩ := List.mem_map.mp listed
    exact ⟨i, List.mem_range.mp hi, fun same => other (by rw [same, own]), rfl⟩
  refine sgNewly_once (List.nodup_range.map (fun i j same => by simpa using same)) (List.mem_map.mpr ⟨n % 64, List.mem_range.mpr col, own⟩) ?_ ?_ ?_ ?_
  · have clear := (bitOf _ col).1
    rw [own] at clear
    rw [sgEligible, clear]
    simp [getLsbD_sourceBit n col]
  · have set := (bitOf _ col).2
    rw [own] at set
    rw [sgEligible, set, alike.mask (by omega), mask, sgInService, alike.serving]
    have unserved : x.sgServing.contains n = false := serving
    rw [unserved]
    simp [getLsbD_sourceBit n col]
  · intro k listed other
    obtain ⟨i, hi, apart, rfl⟩ := place k listed other
    exact eligible_alike alike (by omega) (quiet i hi apart)
  · intro k listed other
    obtain ⟨i, hi, apart, rfl⟩ := place k listed other
    exact (eligible_alike signalled (by omega) (others _ (by omega) other)).trans (eligible_alike alike (by omega) (quiet i hi apart))

/-! ### Messages sent again -/

/-- A block that differs from `y` at most where `K` lets a message stir its registers. -/
def Near (K : Nat → Prop) (y : Block) (n : Nat) (b : Block) : Prop := Differs y n b ∧ Stirred K y.regs b.regs

theorem Near.alike {K : Nat → Prop} {y b : Block} {n : Nat} (h : Near K y n b) : Alike y b := by
  have ⟨differs, stirred⟩ := h
  have a := stirred.alike b.out
  exact ⟨a.regs, by rw [differs], a.link, a.awake, a.frozen, a.keys⟩

theorem rget_tput_same (t : Tbl (BitVec 64)) {r : Reg} {i : Nat} (v : BitVec 64) (b : Block) : rget { b with regs := tput t (regKey r i) v } r i = v := by
  simp only [rget, tfind_tput_same]

/-- The two writes send what the source sends. -/
theorem serves_resounds {K : Nat → Prop} {y : Block} {s : Nat × Msg} (fires : Fires K y s) (n : Nat) (o : List Msg) :
    Serves (fun b => Near K y (n + 2) b ∧ b.out = o) (resounds (rget y .sgPending (s.1 / 64)) s.1) (fun b => Near K y n b ∧ b.out = s.2 :: o) := by
  obtain ⟨low, high⟩ := fires.source
  have key : stirs (regKey .sgPending (s.1 / 64)) = true := stirs_regKey _ (by omega)
  have far : regKey .ftXport 0 ≤ regKey .sgPending (s.1 / 64) := by
    simp only [regKey, Reg.code]
    omega
  let w := rget y .sgPending (s.1 / 64)
  refine .cons (R := fun b => (Near K y (n + 1) b ∧ b.out = o) ∧ rget b .sgPending (s.1 / 64) = w &&& ~~~sourceBit s.1) (fun _ => rfl) ?_ ?_
  · intro b q ⟨⟨differs, stirred⟩, out⟩
    rw [postTake_poke far]
    have near : Near K y (n + 1) { letGo .mgmt (queued q b) with regs := tput b.regs (regKey .sgPending (s.1 / 64)) (w &&& ~~~sourceBit s.1) } :=
      ⟨(differs.queued q).changes _ _, stirred.put _ fires.pending key⟩
    refine ⟨⟨⟨near, out⟩, ?_⟩, rfl⟩
    exact rget_tput_same b.regs _ _
  · refine .cons (fun _ => rfl) ?_ (.nil fun _ h => h)
    intro b q ⟨⟨⟨differs, stirred⟩, out⟩, word⟩
    have let_ : Near K y n (letGo .mgmt (queued q b)) := ⟨(differs.queued q).changes _ _, stirred⟩
    have put : Near K y n (rput .sgPending (s.1 / 64) (w ||| sourceBit s.1) (letGo .mgmt (queued q b))) :=
      ⟨(differs.queued q).changes _ _, stirred.put _ fires.pending key⟩
    obtain ⟨t, sent, more, -⟩ := sgSignal_fires (fires.alike put.alike (fun _ h => h))
    rw [postTake_pends (m := s.2) (fires.alike let_.alike (fun _ h => h)) word, sent]
    exact ⟨⟨⟨(differs.queued q).changes _ _, put.2.trans more⟩, congrArg (s.2 :: ·) out⟩, rfl⟩

/-- The writes that send in turn what the sources of `l` send, the last one first in `l`. -/
def resoundings (y : Block) : List (Nat × Msg) → List Posted
  | [] => []
  | s :: l => resoundings y l ++ resounds (rget y .sgPending (s.1 / 64)) s.1

theorem serves_resoundings {K : Nat → Prop} {y : Block} {l : List (Nat × Msg)} (fires : ∀ s ∈ l, Fires K y s) (o : List Msg) : ∀ n,
    Serves (fun b => Near K y (n + 2 * l.length) b ∧ b.out = o) (resoundings y l) (fun b => Near K y n b ∧ b.out = l.map (·.2) ++ o) := by
  induction l with
  | nil => exact fun n => .nil fun b h => h
  | cons s l ih =>
    intro n
    have ⟨first, rest⟩ := List.forall_mem_cons.mp fires
    have count : n + 2 * (s :: l).length = n + 2 + 2 * l.length := by
      rw [List.length_cons]
      omega
    rw [count]
    exact (ih rest (n + 2)).append (serves_resounds first n _)

/-- The keys at which a message can stir the registers of `b` and a put brings them back. -/
def stirredKeys (b : Block) : List Nat := (b.regs.map (·.1)).filter (fun k => stirs k && decide (tput b.regs k (tget 0#64 b.regs k) = b.regs))

theorem mem_of_tput {t : Tbl (BitVec 64)} {k : Nat} {v : BitVec 64} : (k, v) ∈ tput t k v := by
  induction t with
  | nil => simp [tput]
  | cons e t ih =>
    obtain ⟨j, x⟩ := e
    by_cases below : k < j
    · simp [tput, below]
    · by_cases same : j = k
      · simp [tput, same]
      · simp [tput, below, same, ih]

theorem mem_stirredKeys {b : Block} {k : Nat} : k ∈ stirredKeys b ↔ Stands b.regs k ∧ stirs k = true := by
  refine ⟨fun h => ?_, fun ⟨stands, stir⟩ => ?_⟩
  · have ⟨_, both⟩ := List.mem_filter.mp h
    have ⟨stir, stands⟩ := Bool.and_eq_true_iff.mp both
    exact ⟨of_decide_eq_true (p := tput b.regs k (tget 0#64 b.regs k) = b.regs) stands, stir⟩
  · have listed : (k, tget 0#64 b.regs k) ∈ b.regs := by
      have := mem_of_tput (t := b.regs) (k := k) (v := tget 0#64 b.regs k)
      rwa [stands] at this
    exact List.mem_filter.mpr ⟨List.mem_map.mpr ⟨_, listed, rfl⟩, by simp [stir]; exact stands⟩

/-- A block whose last messages are what sources send goes on as one that has not sent them, with the same registers, whose receive queue sends
them. -/
theorem settle_resounded (y : Block) {l : List (Nat × Msg)} (fires : ∀ s ∈ l, Fires (Stands y.regs) y s) {o : List Msg} (out : y.out = l.map (·.2) ++ o) :
    ∃ b, settle b = settle y ∧ ∃ h q, b = { y with out := o, halves := h, hp := { y.hp with queue := q } } := by
  cases l with
  | nil => exact ⟨y, rfl, y.halves, y.hp.queue, by rw [← show y.out = o from out]⟩
  | cons s l =>
    let keys := stirredKeys y
    have high : ∀ k ∈ keys, regKey .ftXport 0 ≤ k := fun k listed => by
      have ⟨_, stir⟩ := mem_stirredKeys.mp listed
      simp only [stirs, List.any_cons, List.any_nil, Bool.or_false, Bool.or_eq_true, beq_iff_eq] at stir
      simp only [regKey]
      rcases stir with h | h | h | h <;> simp only [Reg.code] at h ⊢ <;> omega
    have sends := serves_resoundings fires o keys.length
    have brings : Serves (fun b => Near (Stands y.regs) y keys.length b ∧ b.out = (s :: l).map (·.2) ++ o) (keys.map (fun k => poke k (tget 0#64 y.regs k)))
        (fun c => ∃ q, c = queued q y) := by
      refine (serves_restored high).of_imp fun b ⟨⟨differs, stirred⟩, sent⟩ => ⟨differs, sent.trans out.symm, stirred.restored_eq ?_ ?_⟩
      · exact fun k stands stir => mem_stirredKeys.mpr ⟨stands, stir⟩
      · exact fun k listed => (mem_stirredKeys.mp listed).1
    have some_ : resoundings y (s :: l) ++ keys.map (fun k => poke k (tget 0#64 y.regs k)) ≠ [] := by simp [resoundings, resounds]
    obtain ⟨q, goes⟩ := settle_served some_ (sends.append brings)
    let b : Block := { y with out := o, halves := spare (keys.length + 2 * (s :: l).length) y.halves, hp := { y.hp with queue := q } }
    exact ⟨b, goes b ⟨⟨rfl, .refl⟩, rfl⟩, _, q, rfl⟩

end Sys2Proof.Laws

/-!
What the counting of an event tells: each message that a wrapping counter sends, or the freeze that it brings, comes of a source that would send it
again.
-/
namespace Sys2Proof.Laws

open Sys2Proof Sys2Proof.Machine Sys2Proof.Safety

/-- `c` signals as `b` does, keeps what stands in its register store, and has sent messages of sources that would send them again. -/
structure Tells (b c : Block) : Prop where
  alike : Alike b c
  stands : ∀ k, Stands b.regs k → Stands c.regs k
  said : ∃ l : List (Nat × Msg), c.out = l.map (·.2) ++ b.out ∧ ∀ s ∈ l, Fires (Stands c.regs) c s

theorem Tells.quiet {b c : Block} (alike : Alike b c) (stands : ∀ k, Stands b.regs k → Stands c.regs k) (out : c.out = b.out) : Tells b c :=
  ⟨alike, stands, [], out, fun _ h => by cases h⟩

theorem Tells.refl (b : Block) : Tells b b := .quiet (.refl b) (fun _ h => h) rfl

theorem Tells.trans {b c d : Block} (h : Tells b c) (g : Tells c d) : Tells b d := by
  obtain ⟨alike, stands, l, out, fires⟩ := h
  obtain ⟨alike', stands', m, out', fires'⟩ := g
  refine ⟨alike.trans alike', fun k s => stands' k (stands k s), m ++ l, by rw [out', out, List.map_append, List.append_assoc], fun s listed => ?_⟩
  rcases List.mem_append.mp listed with new | old
  · exact fires' s new
  · exact (fires s old).alike alike' stands'

theorem Tells.ite {p : Prop} [Decidable p] {b c d : Block} (hc : Tells b c) (hd : Tells b d) : Tells b (if p then c else d) := by
  split
  · exact hc
  · exact hd

theorem Tells.each {α : Type} {f : α → Block → Block} : ∀ {l : List α}, (∀ a ∈ l, ∀ b, Tells b (f a b)) → ∀ b, Tells b (Machine.each l f b)
  | [], _, b => .refl b
  | a :: l, h, b => by
    have ⟨first, rest⟩ := List.forall_mem_cons.mp h
    exact (first b).trans (Tells.each rest _)

/-! ### Changes that tell nothing -/

theorem tells_rput {r : Reg} {i : Nat} (v : BitVec 64) {b : Block} (sig : tallyReg r = true) (port : r ≠ .hpPortStatus) (hi : i < 2 ^ 32)
    (frozen : fon b F.tcFreezeFrozen 0 = true → fon (rput r i v b) F.tcFreezeFrozen 0 = true) : Tells b (rput r i v b) := by
  have link : ∀ (f : Fld) j, f.reg = .hpPortStatus → j < 2 ^ 32 → fget (rput r i v b) f j = fget b f j := fun f j at_ hj => by
    rw [fget, fget, at_, rget_rput_other _ _ _ _ _ _ (regKey_ne (Ne.symm port) hj hi)]
  refine .quiet ⟨fun q j free hj => rget_rput_other _ _ _ _ _ _ (regKey_ne (fun same => ?_) hj hi), rfl, fun j hj => congrArg (· == 1) (link _ j rfl hj), fun j hj up => ?_, frozen, fun tile => ?_⟩
    (fun k s => s.tput _ v) rfl
  · rw [same, sig] at free
    cases free
  · rwa [Awake, link _ j rfl hj]
  · have other : r.code ≠ Reg.tcCntCfg.code := fun same => by
      rw [code_inj same] at sig
      cases sig
    refine tkeys_tput_other _ v fun _ => ?_
    rw [regKey_div r hi, beq_eq_false_iff_ne.mpr other, Bool.false_and]

theorem tells_signal {r : Reg} {i : Nat} (v : BitVec 64) (b : Block) (sig : tallyReg r = true) (port : r ≠ .hpPortStatus) (freeze : r ≠ .tcFreeze)
    (hi : i < 2 ^ 32) : Tells b (rput r i v b) := by
  refine tells_rput v sig port hi fun frozen => ?_
  have same : rget (rput r i v b) .tcFreeze 0 = rget b .tcFreeze 0 := rget_rput_other _ _ _ _ _ _ (regKey_ne (Ne.symm freeze) (by decide) hi)
  exact (congrArg (fun w => qbits w F.tcFreezeFrozen.hi F.tcFreezeFrozen.lo == 1) same).trans frozen

theorem tells_field (f : Fld) {i : Nat} (v : Nat) (b : Block) (sig : tallyReg f.reg = true) (port : f.reg ≠ .hpPortStatus) (freeze : f.reg ≠ .tcFreeze)
    (hi : i < 2 ^ 32) : Tells b (fput f i v b) := tells_signal _ b sig port freeze hi

theorem tells_freezeField {f : Fld} (v : Nat) (b : Block) (at_ : f.reg = .tcFreeze) (apart : f.hi < F.tcFreezeFrozen.lo ∨ F.tcFreezeFrozen.hi < f.lo) :
    Tells b (fput f 0 v b) := by
  refine tells_rput _ (by rw [at_]; rfl) (by rw [at_]; decide) (by decide) fun frozen => ?_
  have same : fget (fput f 0 v b) F.tcFreezeFrozen 0 = fget b F.tcFreezeFrozen 0 := fget_fput_field _ _ _ _ _ at_.symm (by decide) apart
  exact (congrArg (· == 1) same).trans frozen

theorem tells_frozen (b : Block) : Tells b (fput F.tcFreezeFrozen 0 1 b) := by
  refine tells_rput _ rfl (by decide) (by decide) fun _ => ?_
  have same : fget (fput F.tcFreezeFrozen 0 1 b) F.tcFreezeFrozen 0 = 1 := fget_fput_fits 0 b (by decide) (by decide)
  exact congrArg (· == 1) same

theorem tells_tc (t : Tc) (b : Block) : Tells b { b with tc := t } :=
  .quiet ⟨fun _ _ _ _ => rfl, rfl, fun _ _ => rfl, fun _ _ h => h, fun h => h, fun _ => rfl⟩ (fun _ h => h) rfl

theorem tells_dumpBegin (reason : Nat) {slot : Nat} (b : Block) (hs : slot < 2 ^ 32) : Tells b (dumpBegin reason slot b) := by
  have field : ∀ (f : Fld) v c, f.reg = .tcDumpStatus → Tells c (fput f slot v c) := fun f v c at_ =>
    tells_field f v c (by rw [at_]; rfl) (by rw [at_]; decide) (by rw [at_]; decide) hs
  exact (tells_tc _ b).trans <| (field F.tcDumpStatusValid _ _ rfl).trans <| (field F.tcDumpStatusComplete _ _ rfl).trans <|
    (field F.tcDumpStatusReason _ _ rfl).trans <| (field F.tcDumpStatusGen _ _ rfl).trans <|
    tells_field F.tcDumpCtlBusy _ _ rfl (by decide) (by decide) (by decide)

theorem tells_dumpRefused (b : Block) : Tells b (dumpRefused b) :=
  (tells_field F.idIgnoredCount _ b rfl (by decide) (by decide) (by decide)).trans (tells_field F.tcDumpCtlIgnored _ _ rfl (by decide) (by decide) (by decide))

theorem tells_setPending {n : Nat} (on : Bool) (b : Block) (hn : n < 2048) : Tells b (sgSetPending n on b) :=
  tells_signal _ b rfl (by decide) (by decide) (by omega)

theorem tells_setCount {n : Nat} (v : Nat) (b : Block) (hn : n < 2048) : Tells b (sgSetCount n v b) :=
  tells_signal _ b rfl (by decide) (by decide) (by omega)

/-- A port whose link is awake, or wakes, is awake. -/
theorem tells_hostWake {h : Nat} (b : Block) (hh : h < 2 ^ 32) : Tells b (hostWake h b) ∧ Awake (hostWake h b) h := by
  by_cases asleep : 2 ≤ fget b F.hpPortStatusLstate h ∧ fget b F.hpPortStatusLstate h ≤ 4
  · let v := if fget b F.hpPortStatusWidth h < tget 16 b.hp.trained h then 1 else 0
    have low : v < 2 := by
      dsimp only [v]
      split <;> decide
    have wakes : hostWake h b = fput F.hpPortStatusLstate h v b := if_pos asleep
    have state : fget (fput F.hpPortStatusLstate h v b) F.hpPortStatusLstate h = v := fget_fput_fits h b (by decide) (by dsimp only [F.hpPortStatusLstate]; omega)
    have up : Awake (fput F.hpPortStatusLstate h v b) h := by
      rw [Awake, state]
      omega
    rw [wakes]
    have others : ∀ r j, tallyReg r = false → j < 2 ^ 32 → rget (fput F.hpPortStatusLstate h v b) r j = rget b r j := fun r j free hj =>
      rget_fput_other _ _ _ _ _ _ (regKey_ne (fun same => by rw [same] at free; cases free) hj hh)
    refine ⟨.quiet ⟨others, rfl, fun j hj => ?_, fun j hj awake => ?_, fun frozen => ?_, fun tile => ?_⟩ (fun k s => s.tput _ _) rfl, up⟩
    · by_cases same : j = h
      · subst same
        exact congrArg (· == 1) (fget_fput_field _ _ _ _ _ rfl (by decide) (by decide))
      · exact congrArg (· == 1) (fget_fput_reg _ _ _ _ _ _ (regKey_copy_ne same))
    · by_cases same : j = h
      · exact same ▸ up
      · rwa [Awake, fget_fput_reg _ _ _ _ _ _ (regKey_copy_ne same)]
    · rwa [fon, fget_fput_elsewhere _ _ (by decide) hh (by decide)]
    · refine tkeys_tput_other _ _ fun _ => ?_
      rw [regKey_div _ hh]
      rfl
  · rw [hostWake, if_neg asleep]
    exact ⟨.refl b, asleep⟩

/-! ### Messages -/

theorem Tells.sent {b c : Block} {s : Nat × Msg} (alike : Alike b c) (stands : ∀ k, Stands b.regs k → Stands c.regs k) (out : c.out = s.2 :: b.out)
    (fires : Fires (Stands c.regs) c s) : Tells b c :=
  ⟨alike, stands, [s], out, fun _ listed => by rw [List.mem_singleton.mp listed]; exact fires⟩

/-- A message of a signal: what stood before stands, the counters stand, and the block signals as before. -/
theorem emitSignal_tells (h : Nat) (m : Msg) (b : Block) : Alike b (emitSignal h m b) ∧ (∀ k, Stands b.regs k → Stands (emitSignal h m b).regs k) ∧
    (emitSignal h m b).out = m :: b.out ∧ Counting (Stands (emitSignal h m b).regs) (emitSignal h m b) h := by
  obtain ⟨t, sent, stirred, counting⟩ := emitSignal_stirs h m b
  have ticks := stirred _ (counting_any b h)
  have regs : (emitSignal h m b).regs = t := by rw [sent]
  refine ⟨by rw [sent]; exact ticks.alike _, fun k s => ?_, by rw [sent], by rw [regs]; exact counting⟩
  rw [regs]
  exact ticks.stands s

/-- The conditions of a source that has just become eligible, in a block whose pending bits of its word stand. -/
structure Ready (b : Block) (n : Nat) : Prop where
  source : 1810 ≤ n ∧ n ≤ 1822
  mask : sgMaskBit b n = false
  serving : sgInService b n = false
  pending : Stands b.regs (regKey .sgPending (n / 64))

theorem Ready.alike {b c : Block} (a : Alike b c) (stands : ∀ k, Stands b.regs k → Stands c.regs k) {n : Nat} (h : Ready b n) : Ready c n := by
  have ⟨⟨low, high⟩, mask, serving, pending⟩ := h
  refine ⟨⟨low, high⟩, (a.mask (by omega)).trans mask, ?_, stands _ pending⟩
  rw [sgInService, a.serving]
  exact serving

theorem Ready.fires {b : Block} {n : Nat} {x : Nat × Nat × Nat} {m : Msg} (h : Ready b n) (target : sgTarget b n = x) (sends : Sends (Stands b.regs) b n x m) :
    Fires (Stands b.regs) b (n, m) :=
  ⟨h.source, h.mask, h.serving, h.pending, by rw [target]; exact sends⟩

theorem tells_irq {b : Block} {n t fn vec : Nat} (ready : Ready b n) (target : sgTarget b n = (t, fn, vec)) (own : t < 10 ∨ t = 16) :
    Tells b (emit (.irq t) b) := by
  have alike : Alike b (emit (.irq t) b) := (Stirred.refl (K := fun _ => True)).alike _
  have stands : ∀ k, Stands b.regs k → Stands (emit (.irq t) b).regs k := fun _ h => h
  have same : sgTarget (emit (.irq t) b) n = (t, fn, vec) := target
  exact .sent (s := (n, .irq t)) alike stands rfl ((ready.alike alike stands).fires same (.irq own))

theorem tells_errorSend {b : Block} {n p fn vec : Nat} (ready : Ready b n) (target : sgTarget b n = (14 + p, fn, vec)) (port : p < 2) :
    Tells b (sgSetCount n 0 (sgSetPending n false (errorSend p 0 b))) := by
  have ⟨low, high⟩ := ready.source
  have small : n < 2048 := by omega
  obtain ⟨alike, stands, out, counting⟩ := emitSignal_tells p (.pcieError p 0) b
  let c := sgSetCount n 0 (sgSetPending n false (emitSignal p (.pcieError p 0) b))
  have after : Tells (emitSignal p (.pcieError p 0) b) c := (tells_setPending false _ small).trans (tells_setCount 0 _ small)
  have whole : Alike b c := alike.trans after.alike
  have keeps : ∀ k, Stands b.regs k → Stands c.regs k := fun k s => after.stands k (stands k s)
  have same : sgTarget c n = (14 + p, fn, vec) := (whole.target (by omega)).trans target
  have sends : Sends (Stands c.regs) c n (14 + p, fn, vec) (.pcieError p 0) := .error port (counting.alike after.alike after.stands) (.tput_same _ _ _)
  exact .sent (s := (n, .pcieError p 0)) whole keeps out ((ready.alike whole keeps).fires same sends)

theorem tells_msixSignal {b : Block} {n t fn vec : Nat} (ready : Ready b n) (target : sgTarget b n = (t, fn, vec)) (toFn : sgToFn t = true)
    (free : flrActive b fn = false) : Tells b (msixSignal fn vec b) := by
  have ⟨low, high⟩ := ready.source
  have ⟨hfn, hvec⟩ := sgTarget_bounds b (n := n) (by omega)
  rw [target] at hfn hvec
  dsimp only at hfn hvec
  have near : 32 * fn + vec / 64 < 2 ^ 32 := by omega
  cases opened : msixOpen b fn vec with
  | false =>
    have held : msixSignal fn vec b = pbaSet fn vec true b := if_neg (by simp [opened])
    rw [held]
    exact tells_signal _ b rfl (by decide) (by decide) near
  | true =>
    obtain ⟨wake, awake⟩ := tells_hostWake (h := fn / 128) b (by omega)
    let w := pbaSet fn vec false (hostWake (fn / 128) b)
    let m : Msg := .msix fn vec (rget b .hpMsixAddr (2048 * fn + vec)) (fget b F.hpMsixDataData (2048 * fn + vec)) (pasidOf b fn)
    have sends : msixSignal fn vec b = emitSignal (fn / 128) m w := if_pos opened
    have pba : Tells (hostWake (fn / 128) b) w := tells_signal _ _ rfl (by decide) (by decide) near
    have before : Tells b w := wake.trans pba
    obtain ⟨alike, stands, out, counting⟩ := emitSignal_tells (fn / 128) m w
    let c := emitSignal (fn / 128) m w
    have whole : Alike b c := before.alike.trans alike
    have keeps : ∀ k, Stands b.regs k → Stands c.regs k := fun k s => stands k (before.stands k s)
    have here : 2048 * fn + vec < 2 ^ 32 := by omega
    have message : m = .msix fn vec (rget c .hpMsixAddr (2048 * fn + vec)) (fget c F.hpMsixDataData (2048 * fn + vec)) (pasidOf c fn) := by
      rw [whole.regs .hpMsixAddr _ rfl here, whole.fget (f := F.hpMsixDataData) rfl here, whole.pasid (fn := fn) (by omega)]
    have clear : flrActive c fn = false := by
      rw [flrActive, whole.flr]
      exact free
    have up : Awake c (fn / 128) := alike.awake _ (by omega) (pba.alike.awake _ (by omega) awake)
    have same : sgTarget c n = (t, fn, vec) := (whole.target (by omega)).trans target
    have sends' : Sends (Stands c.regs) c n (t, fn, vec) m := by
      rw [message]
      exact .msix toFn clear ((whole.msixOpen here).trans opened) up counting (stands _ (.tput_same _ _ _))
    rw [sends]
    have quiet : w.out = b.out := by
      show (hostWake (fn / 128) b).out = b.out
      unfold hostWake
      split <;> rfl
    exact .sent (s := (n, m)) whole keeps (out.trans (congrArg (m :: ·) quiet)) ((ready.alike whole keeps).fires same sends')

/-! ### Triggers and counters -/

/-- A trigger of a counter's wrap, of a freeze or of a dump. -/
def Counts (t : Trig) : Prop := ∀ n, t = .assert n → 1810 ≤ n ∧ n ≤ 1822

/-- The signal of a source that an assertion has made eligible. -/
theorem tells_asserted {k n t fn vec : Nat} {b : Block} (ih : ∀ t b, Counts t → Tells b (sgAct k t b)) (ready : Ready b n)
    (target : sgTarget b n = (t, fn, vec)) (free : (sgToFn t && flrActive b fn) = false) :
    Tells b (if sgToFn t then msixSignal fn vec b
      else if t < 10 || t == 16 then emit (.irq t) b
      else if t == 14 || t == 15 then
        sgSetCount n 0 (sgSetPending n false (errorSend (t - 14) (if 1024 ≤ n && n < 1536 && 2 ≤ fget b F.fhSrcStatusClass (n - 1024) then 1 else 0) b))
      else if t == 17 then sgAct k (.freeze 3 b.now) (sgSetCount n 0 (sgSetPending n false b))
      else if t == 18 then sgAct k (.dump 2) (sgSetCount n 0 (sgSetPending n false b))
      else b) := by
  have ⟨low, high⟩ := ready.source
  have small : n < 2048 := by omega
  have off : Tells b (sgSetCount n 0 (sgSetPending n false b)) := (tells_setPending false b small).trans (tells_setCount 0 _ small)
  split
  · next toFn => exact tells_msixSignal ready target toFn (by simpa [toFn] using free)
  · split
    · next own => exact tells_irq ready target (by simpa using own)
    · split
      · next err =>
        have benign : ¬(1024 ≤ n && n < 1536 && 2 ≤ fget b F.fhSrcStatusClass (n - 1024)) = true := by
          simp
          omega
        rw [if_neg benign]
        have which : t = 14 ∨ t = 15 := by simpa using err
        have port : t - 14 < 2 := by omega
        have at_ : 14 + (t - 14) = t := by omega
        exact tells_errorSend ready (by rw [at_, target]) port
      · exact .ite (off.trans (ih _ _ fun _ h => by cases h)) (.ite (off.trans (ih _ _ fun _ h => by cases h)) (.refl b))

theorem tells_sgAct (k : Nat) : ∀ (t : Trig) (b : Block), Counts t → Tells b (sgAct k t b) := by
  induction k with
  | zero => exact fun _ b _ => .refl b
  | succ k ih =>
    intro t b counts
    cases t with
    | freeze cause at_ =>
      have extra : Tells b (fbump F.tcFreezeExtra 0 1 b) := tells_freezeField _ b rfl (by decide)
      have stamp : ∀ c, Tells c (rput .tcFreezeTime 0 (BitVec.ofNat 64 at_) c) := fun c => tells_signal _ c rfl (by decide) (by decide) (by decide)
      have freezes := (tells_frozen b).trans ((tells_freezeField (f := F.tcFreezeCause) cause _ rfl (by decide)).trans (stamp _))
      exact .ite extra (freezes.trans (ih _ _ fun n h => by cases h; decide))
    | dump reason =>
      simp only [sgAct]
      refine .ite (tells_dumpRefused b) ?_
      split
      · exact tells_dumpRefused b
      · next slot found => exact (tells_dumpBegin _ _ (by have := dumpSlot_lt found; omega)).trans (ih _ _ fun _ h => by cases h)
    | assert n =>
      have ⟨low, high⟩ := counts n rfl
      have small : n < 2048 := by omega
      generalize target : sgTarget b n = x
      obtain ⟨t, fn, vec⟩ := x
      have open_ : ¬((1863 ≤ n && n < 1984) || 2048 ≤ n) = true := by
        simp
        omega
      simp only [sgAct, target, if_neg open_]
      cases free : sgToFn t && flrActive b fn with
      | true => exact .refl b
      | false =>
        let c := sgSetCount n (satAdd 255 (sgCount b n) 1) (sgSetPending n true b)
        have pends : Tells b c := (tells_setPending true b small).trans (tells_setCount _ _ small)
        rw [if_neg (by simp)]
        refine pends.trans ?_
        split
        · exact .refl c
        · next now_ =>
          have eligible : sgEligible c n = true := by
            have := now_
            simp at this
            exact this.2
          obtain ⟨⟨_, mask⟩, serving⟩ : (sgPendingBit c n = true ∧ sgMaskBit c n = false) ∧ sgInService c n = false := by
            simpa [sgEligible] using eligible
          have ready : Ready c n := ⟨⟨low, high⟩, mask, serving, (tells_setCount _ _ small).stands _ (.tput_same _ _ _)⟩
          have same : sgTarget c n = (t, fn, vec) := (pends.alike.target (by omega)).trans target
          have free' : (sgToFn t && flrActive c fn) = false := by
            rw [flrActive, pends.alike.flr]
            exact free
          exact tells_asserted ih ready same free'

theorem tells_counterAdd {c n : Nat} (b : Block) (hc : c < 6144) : Tells b (counterAdd c n b) := by
  have field : ∀ (f : Fld) v d, f.reg = .tcCntVal → Tells d (fput f c v d) := fun f v d at_ =>
    tells_field f v d (by rw [at_]; rfl) (by rw [at_]; decide) (by rw [at_]; decide) (by omega)
  have source : ∀ d, Tells d (sgAssert (1810 + c / 512) d) := fun d => tells_sgAct _ _ _ fun m h => by
    cases h
    omega
  have freeze : ∀ d, Tells d (freezeAt 4 d.now d) := fun d => tells_sgAct _ _ _ fun _ h => by cases h
  refine (field F.tcCntValCount _ b rfl).trans (.ite (.refl _) ?_)
  refine (field F.tcCntValOvf 1 _ rfl).trans ?_
  generalize fput F.tcCntValOvf c 1 (fput F.tcCntValCount c (fget b F.tcCntValCount c + n) b) = d
  have interrupts : Tells d (if fon d F.tcCntCfgInt c then sgAssert (1810 + c / 512) d else d) := .ite (source d) (.refl d)
  exact interrupts.trans (.ite (freeze _) (.refl _))

/-- What the counting of an event at one of the twelve tiles tells. -/
theorem tells_tcCount {tile : Nat} (event : Nat) (part : Option Nat) (n : Nat) (b : Block) (ht : tile < 12) : Tells b (tcCount tile event part n b) := by
  refine .ite (.refl b) (Tells.each (fun k listed c => .ite (tells_counterAdd c ?_) (.refl c)) b)
  have ⟨e, inside, at_⟩ := List.mem_map.mp listed
  have keep := (List.mem_filter.mp inside).2
  simp only [Bool.and_eq_true, beq_iff_eq] at keep
  omega

/-- A block that has counted an event goes on as one that has sent none of the messages of that, and whose receive queue sends them. -/
theorem settle_uncounted {b y : Block} (tells : Tells b y) :
    ∃ c, settle c = settle y ∧ ∃ h q, c = { y with out := b.out, halves := h, hp := { y.hp with queue := q } } := by
  obtain ⟨_, _, l, out, fires⟩ := tells
  exact settle_resounded y fires out

end Sys2Proof.Laws

/-!
Frames at a port: those that are lost or discarded, those that wait for their QP, and those that pass to the management core.
-/
namespace Sys2Proof.Laws

open Sys2Proof Sys2Proof.Machine Sys2Proof.Safety

/-! ### Frames that are discarded -/

theorem rxFrame_discarded {f : Frame} {b c : Block} (discards : rxChecks f b = (none, c)) : rxFrame f b = c := by simp [rxFrame, discards]

theorem rxFrame_down {f : Frame} {b : Block} (down : portUp b f.port = false) : rxFrame f b = b := rxFrame_discarded (by simp [rxChecks, down])

theorem port_lt {b : Block} {p : Nat} (up : portUp b p = true) : p < 24 := by
  have most : ∀ code, (variantOf code).fabPorts ≤ 24 := by
    intro code
    unfold variantOf
    split <;> decide
  have here : p < (variantOf b.fuses.variant).fabPorts := of_decide_eq_true (Bool.and_eq_true_iff.mp up).1
  have := most b.fuses.variant
  omega

/-- What replay makes of a frame without a number: a bad FCS asks for the number expected where replay runs on the port (R369). -/
def replayed (f : Frame) (b : Block) : Block := (llrRx f.port f.shim f.fcsOk b).2

theorem llrRx_accepts {f : Frame} (b : Block) (shim : f.shim = none) : llrRx f.port f.shim f.fcsOk b = (true, replayed f b) := by
  cases fcs : f.fcsOk <;> simp [replayed, llrRx, shim, fcs]

theorem replayed_quiet {f : Frame} {b : Block} (shim : f.shim = none) (quiet : fon b F.ftPortStatusLlr f.port = false ∨ f.fcsOk = true) : replayed f b = b := by
  cases fcs : f.fcsOk with
  | true => simp [replayed, llrRx, shim, fcs]
  | false => simp [replayed, llrRx, fcs, quiet.resolve_right (by simp [fcs])]

theorem replayed_naks {f : Frame} {b : Block} (llr : fon b F.ftPortStatusLlr f.port = true) (fcs : f.fcsOk = false) :
    replayed f b = modPort f.port (fun p => { p with rxSkip := true }) (llrPut f.port true (portOf b f.port).rxNext b) := by
  simp [replayed, llrRx, fcs, llr]

/-- Replay changes the port and the messages alone. -/
theorem replayed_rest {f : Frame} (b : Block) (shim : f.shim = none) :
    { replayed f b with ft := b.ft, out := b.out } = b ∧ { (replayed f b).ft with ports := b.ft.ports } = b.ft := by
  by_cases quiet : fon b F.ftPortStatusLlr f.port = false ∨ f.fcsOk = true
  · rw [replayed_quiet shim quiet]
    exact ⟨rfl, rfl⟩
  · rw [not_or, Bool.not_eq_false, Bool.not_eq_true] at quiet
    rw [replayed_naks quiet.1 quiet.2]
    exact ⟨rfl, rfl⟩

theorem rxChecks_bad {f : Frame} {b : Block} (up : portUp b f.port = true) (shim : f.shim = none)
    (bad : f.fcsOk = false ∨ f.udpOk = false ∨ f.crc ≠ packetCrc f.hdr f.payload f.tag) : rxChecks f b = (none, rxError F.ftRxErrorsCrc f (replayed f b)) := by
  have fails : (!f.fcsOk || !f.udpOk || f.crc != packetCrc f.hdr f.payload f.tag) = true := by
    rcases bad with h | h | h <;> simp [h]
  simp only [rxChecks, up, llrRx_accepts b shim, fails, Bool.not_true, Bool.false_eq_true, if_false, if_true]

theorem rxError_sig (f : Frame) (b : Block) : SigOnly b (tcCount (f.port / 2) 0x044 none 1 b) := sigOnly_tcCount _ _ _ _ _

theorem fget_rxError {fl : Fld} (f : Frame) (b : Block) (at_ : fl.reg = .ftRxErrors) (hi : fl.hi < 64) :
    fget (rxError fl f b) fl 0 = satAdd fl.max (fget b fl 0) 1 := by
  rw [rxError, fget_fbump_same _ _ _ _ hi, (rxError_sig f b).fget (f := fl) (by rw [at_]; rfl) (by decide)]

theorem tells_rxError {fl : Fld} {f : Frame} {b : Block} (at_ : fl.reg = .ftRxErrors) (port : f.port < 24) : Tells b (rxError fl f b) :=
  (tells_tcCount 0x044 none 1 b (by omega)).trans (tells_field fl _ _ (by rw [at_]; rfl) (by rw [at_]; decide) (by rw [at_]; decide) (by decide))

/-- A frame that fails a check is counted. Work then goes on as from a block that has sent nothing but what replay asks for: what the trace counters
send of the discarded frame is sent by a request that waits in its receive queue, which the statement leaves open. -/
theorem rxFrame_bad {f : Frame} {b : Block} (up : portUp b f.port = true) (shim : f.shim = none)
    (bad : f.fcsOk = false ∨ f.udpOk = false ∨ f.crc ≠ packetCrc f.hdr f.payload f.tag) :
    ∃ c, settle (rxFrame f b) = settle c ∧ { c.ft with ports := b.ft.ports } = b.ft ∧ c.he = b.he ∧ c.txns = b.txns ∧
      (fon b F.ftPortStatusLlr f.port = false ∨ f.fcsOk = true → c.ft = b.ft ∧ c.out = b.out) ∧
      (fon b F.ftPortStatusLlr f.port = true → f.fcsOk = false → ∃ wire, c.out = .llr f.port true (portOf b f.port).rxNext wire :: b.out) ∧
      fget c F.ftRxErrorsCrc 0 = satAdd F.ftRxErrorsCrc.max (fget b F.ftRxErrorsCrc 0) 1 := by
  have sig := rxError_sig f (replayed f b)
  obtain ⟨rest, ports⟩ := replayed_rest b shim
  obtain ⟨c, goes, h, q, at_⟩ := settle_uncounted (tells_rxError (f := f) (b := replayed f b) (fl := F.ftRxErrorsCrc) rfl (port_lt up))
  have ft : c.ft = (replayed f b).ft := (congrArg Block.ft at_).trans sig.ft
  have he : c.he = b.he := (congrArg Block.he at_).trans (sig.he.trans (congrArg Block.he rest :))
  have txns : c.txns = b.txns := (congrArg Block.txns at_).trans (sig.txns.trans (congrArg Block.txns rest :))
  have out : c.out = (replayed f b).out := by rw [at_]
  have regs : (replayed f b).regs = b.regs := (congrArg Block.regs rest :)
  refine ⟨c, by rw [rxFrame_discarded (rxChecks_bad up shim bad), goes], (congrArg (fun t : Ft => { t with ports := b.ft.ports }) ft).trans ports, he, txns,
    fun quiet => ?_, fun llr fcs => ?_, ?_⟩
  · have same := replayed_quiet shim quiet
    exact ⟨ft.trans (by rw [same]), out.trans (by rw [same])⟩
  · exact ⟨llrBytes b f.port true (portOf b f.port).rxNext, out.trans (by rw [replayed_naks llr fcs]; rfl)⟩
  · have kept : fget c F.ftRxErrorsCrc 0 = fget (rxError F.ftRxErrorsCrc f (replayed f b)) F.ftRxErrorsCrc 0 := by
      rw [at_]
      rfl
    refine kept.trans ((fget_rxError f (replayed f b) rfl (by decide)).trans ?_)
    simp only [fget, rget, regs]

theorem rxChecks_away {f : Frame} {b : Block} (whole : FrameWhole b f)
    (away : f.hdr.srcNode = selfNode b ∨ f.ifaceId ≠ selfNode b ∨ f.hdr.dstNode ≠ selfNode b) : rxChecks f b = (none,
      if f.hdr.srcNode = selfNode b then fhRaise 234 .none none false (rxError F.ftRxErrorsMisdirected f b) else rxError F.ftRxErrorsMisdirected f b) := by
  obtain ⟨up, shim, fcs, udp, crc, running⟩ := whole
  have llr : llrRx f.port f.shim f.fcsOk b = (true, b) := by simp [llrRx, shim, fcs]
  have sound : (!f.fcsOk || !f.udpOk || f.crc != packetCrc f.hdr f.payload f.tag) = false := by simp [fcs, udp, crc]
  have runs : (stopped b && f.hdr.cls != clsMg) = false := by simp [running]
  by_cases own : f.hdr.srcNode = selfNode b
  · simp only [rxChecks, up, llr, sound, runs, own, Bool.not_true, Bool.false_eq_true, if_false, if_true]
  · have foreign : (f.ifaceId != selfNode b || f.hdr.dstNode != selfNode b) = true := by
      rcases away.resolve_left own with h | h <;> simp [h]
    simp only [rxChecks, up, llr, sound, runs, own, foreign, Bool.not_true, Bool.false_eq_true, if_false, if_true]

/-- A frame of this node's own, or for another, is counted, and touches no QP, item or exchange. -/
theorem rxFrame_away {f : Frame} {b : Block} (whole : FrameWhole b f)
    (away : f.hdr.srcNode = selfNode b ∨ f.ifaceId ≠ selfNode b ∨ f.hdr.dstNode ≠ selfNode b) :
    (rxFrame f b).ft = b.ft ∧ (rxFrame f b).he = b.he ∧ (rxFrame f b).txns = b.txns ∧
      fget (rxFrame f b) F.ftRxErrorsMisdirected 0 = satAdd F.ftRxErrorsMisdirected.max (fget b F.ftRxErrorsMisdirected 0) 1 := by
  have sig := rxError_sig f b
  have count := fget_rxError (fl := F.ftRxErrorsMisdirected) f b rfl (by decide)
  have raise := raiseOnly_fhRaise 234 .none none false (rxError F.ftRxErrorsMisdirected f b)
  have kept := (raiseRegs_fhRaise 234 .none none false (rxError F.ftRxErrorsMisdirected f b)).fget (f := F.ftRxErrorsMisdirected) (i := 0) rfl (by decide)
  rw [rxFrame_discarded (rxChecks_away whole away)]
  split
  · exact ⟨raise.ft.trans sig.ft, raise.he.trans sig.he, (congrArg Block.txns raise.rest :).trans sig.txns, kept.trans count⟩
  · exact ⟨sig.ft, sig.he, sig.txns, count⟩

/-! ### Frames that are sound -/

theorem rxPool_counted (b : Block) (f : Frame) (t cls : Nat) : rxPool (counted b f) t cls = rxPool b t cls := by
  simp only [rxPool, (counted_sigOnly b f).ft]

/-- A sound frame of a QP that is not resident waits for the QP's load. -/
theorem rxFrame_waits {b : Block} {f : Frame} {k : Nat} {q : Qp} (for_ : FrameFor b f k q) (away : q.resident = false) :
    rxFrame f b = (rxOpen (rxNewCtx (counted b f) k .load f [] none none) (qpLoad k (counted b f))).2 := by
  obtain ⟨sound, rfl, room, at_, node, qp, present, healthy⟩ := for_
  have ft := (counted_sigOnly b f).ft
  have pool : (rxPool (counted b f) (homeTile f.hdr.dstQp) f.hdr.cls).isNone = false := by
    rw [rxPool_counted]
    exact (by simpa using room)
  have knows : (q.peerNode != f.hdr.srcNode || q.peerQp != f.hdr.srcQp || !partPresent (counted b f) q.part ||
      linePoisoned (counted b f) 0 f.hdr.dstQp) = false := by
    rw [partPresent_counted, linePoisoned_counted]
    simp [node, qp, present, healthy]
  simp [rxFrame, rxChecks_sound sound, pool, ft, at_, knows, away]

theorem allFenced_counted (b : Block) (f : Frame) : allFenced (counted b f) = allFenced b := by
  have engine : ∀ t ∈ List.range 12, fon (counted b f) F.ceEngineStatusFenced t = fon b F.ceEngineStatusFenced t := fun t ht =>
    congrArg (· == 1) ((counted_sigOnly b f).fget rfl (by have := List.mem_range.mp ht; omega))
  rw [allFenced, allFenced, Bool.eq_iff_iff, List.all_eq_true, List.all_eq_true]
  exact ⟨fun h t ht => (engine t ht).symm.trans (h t ht), fun h t ht => (engine t ht).trans (h t ht)⟩

/-- A sound frame whose QP does not exist. -/
theorem rxFrame_unknown {b : Block} {f : Frame} (sound : FrameSound b f) (room : (rxPool b (homeTile f.hdr.dstQp) f.hdr.cls).isSome = true)
    (gone : tfind b.ft.qps f.hdr.dstQp = none) : rxFrame f b = if f.hdr.type ≤ 4 then sendNakUnknown f (counted b f) else counted b f := by
  have pool : (rxPool (counted b f) (homeTile f.hdr.dstQp) f.hdr.cls).isNone = false := by
    rw [rxPool_counted]
    exact (by simpa using room)
  simp [rxFrame, rxChecks_sound sound, pool, (counted_sigOnly b f).ft, gone]

/-! ### Probes of labels -/

/-- The header of a PROBE in clear of a label. -/
def probeHdr (b : Block) (q : Qp) (l k : Nat) : Hdr :=
  { hdrZero with cls := clsFr, type := tyProbe, epoch := epochNow b % 2, enc := false, path := l, dstQp := q.peerQp, srcQp := k,
                 srcNode := selfNode b, dstNode := q.peerNode }

section
variable {b : Block} {set l k : Nat} {q : Qp} (at_ : tfind b.ft.qps k = some q) (path : q.pathSet = set)
include at_ path

theorem labelProbe_up (up : (labelState b set l).down = false) : labelProbe set l k b = b := by
  simp [labelProbe, probeSend, at_, path, up]

variable (valid : entValid b (pathEntry b (epochNow b % 2) set l) = true) (down : (labelState b set l).down = true)
  (up : portUp b (entPort (pathEntry b (epochNow b % 2) set l)) = true) (free : (portOf b (entPort (pathEntry b (epochNow b % 2) set l))).held = false)
include valid down up free

theorem labelProbe_loads (away : q.resident = false) :
    labelProbe set l k b = qpLoad k (modQp k (fun q => { q with dues := q.dues ++ [.probe set l] }) b) := by
  simp [labelProbe, probeSend, at_, path, valid, down, up, free, away]

theorem labelProbe_sends (plain : q.enc = false) (here : q.resident = true) (healthy : linePoisoned b 0 k = false) :
    labelProbe set l k b = frameOut (mkFrame (entPort (pathEntry b (epochNow b % 2) set l)) (entFlow (pathEntry b (epochNow b % 2) set l))
      (entUdp (pathEntry b (epochNow b % 2) set l)) (probeHdr b q l k) [] []) b := by
  simp [labelProbe, probeSend, at_, path, valid, down, up, free, here, healthy, plain, release, mkFrame, probeHdr]

end

/-! ### Messages of PTP and of class MG -/

theorem ptpRx_passes {f : PtpFrame} {b : Block} (up : portUp b f.port = true) (shim : f.shim = none) (mine : (f.udpDst = 319 ∨ f.udpDst = 320) ∧ f.toSelf = true)
    (fcs : f.fcsOk = true) (udp : f.udpOk = true) :
    ptpRx f b = emit (.ptp f.port f.kind f.payload (if PtpKind.isEvent f.kind then some (b.now - dict b 0x2104 f.port) else none)) b := by
  simp only [ptpRx, up, mine, shim, fcs, udp, llrRx]
  rfl

theorem ptpRx_bad {f : PtpFrame} {b : Block} (up : portUp b f.port = true) (shim : f.shim = none) (mine : (f.udpDst = 319 ∨ f.udpDst = 320) ∧ f.toSelf = true)
    (bad : f.fcsOk = false ∨ f.udpOk = false) : (ptpRx f b).he = b.he ∧
      fget (ptpRx f b) F.ftRxErrorsCrc 0 = satAdd F.ftRxErrorsCrc.max (fget b F.ftRxErrorsCrc 0) 1 := by
  let c := (llrRx f.port f.shim f.fcsOk b).2
  have accepts : llrRx f.port f.shim f.fcsOk b = (true, c) := by
    cases fcs : f.fcsOk <;> simp [c, llrRx, shim, fcs]
  have rest : c.he = b.he ∧ c.regs = b.regs := by
    cases fcs : f.fcsOk with
    | true => simp [c, llrRx, shim, fcs]
    | false => cases llr : fon b F.ftPortStatusLlr f.port <;> simp [c, llrRx, fcs, llr, llrPut, emit, modPort]
  have fails : (!f.fcsOk || !f.udpOk) = true := by rcases bad with h | h <;> simp [h]
  have counts : ptpRx f b = fbump F.ftRxErrorsCrc 0 1 (tcCount (f.port / 2) 0x044 none 1 c) := by
    simp only [ptpRx, up, if_pos mine, accepts, fails, Bool.not_true, Bool.false_eq_true, if_false, if_true]
  have sig := sigOnly_tcCount (f.port / 2) 0x044 none 1 c
  rw [counts, fget_fbump_same _ _ _ _ (by decide), sig.fget (f := F.ftRxErrorsCrc) rfl (by decide)]
  exact ⟨sig.he.trans rest.1, by simp only [fget, rget, rest.2]⟩

theorem ptpRx_away {f : PtpFrame} {b : Block} (up : portUp b f.port = true) (away : f.toSelf = false ∨ (f.udpDst ≠ 319 ∧ f.udpDst ≠ 320)) :
    ptpRx f b = badFrame f.port f.shim b := by
  have other : ¬((f.udpDst = 319 ∨ f.udpDst = 320) ∧ f.toSelf = true) := by
    rcases away with h | ⟨h, g⟩
    · simp [h]
    · simp [h, g]
  simp only [ptpRx, up, if_neg other, Bool.not_true, Bool.false_eq_true, if_false]

theorem mgSend_qp0 {p : Nat} {b : Block} (up : portUp b p = true) (node : Nat) (payload : List (BitVec 8)) : ∃ f, mgSend p (.qp0 node payload) b = frameOut f b ∧
    f.port = p ∧ f.hdr.cls = clsMg ∧ f.hdr.type = tyMgmt ∧ f.hdr.epoch = epochNow b % 2 ∧ f.hdr.srcNode = selfNode b ∧ f.hdr.dstNode = node ∧
    f.payload = payload ∧ f.crc = packetCrc f.hdr payload [] := by
  simp only [mgSend, up, Bool.not_true, Bool.false_eq_true, if_false]
  exact ⟨_, rfl, rfl, rfl, rfl, rfl, rfl, rfl, rfl, rfl⟩

theorem mgSend_ptp {p : Nat} {b : Block} (up : portUp b p = true) (k : PtpKind) (node : Nat) (payload : List (BitVec 8)) :
    mgSend p (.ptp k node payload) b = linkOut (.ptp ⟨p, k, node, payload, none⟩) b := by
  simp only [mgSend, up, Bool.not_true, Bool.false_eq_true, if_false]

theorem linkOut_bare {f : LinkFrame} {b : Block} (bare : llrCovers b f.port f.cls = false) : linkOut f b = linkEmit f b := by simp [linkOut, bare]

theorem mgmtRx_qp0 {f : Frame} {b : Block} (sound : FrameSound b f) (qp : f.hdr.dstQp = 0) :
    mgmtRx f b = emit (.qp0 f.port f.hdr.srcNode f.payload) (counted b f) := by
  simp [mgmtRx, rxChecks_sound sound, qp]

/-! ### The statement -/

/-- Settles O40. For a frame that fails a check the statement asks for some block, with the items, QPs and messages of the one before, from which
work goes on as it does here. The trace counters may have sent messages meanwhile, so that block holds the requests that send them. -/
theorem framesAreCheckedAndMessagesPass : Obligations.FramesAreCheckedAndMessagesPass := by
  unfold Obligations.FramesAreCheckedAndMessagesPass
  refine ⟨fun c s f => ⟨fun brings => ?_, fun sound qp => run_eq (mgmtRx_qp0 sound qp)⟩, fun s p => ⟨?_, ?_, ?_, ?_, ?_⟩⟩
  · have runs : ∀ b, settle (rxFrame f s.blk) = settle b → exec c s = .next { s with blk := settle b } := fun b same => by
      rw [exec_frame brings, same]
    refine ⟨fun down => runs _ (by rw [rxFrame_down down]), fun up shim bad => ?_, fun k q for_ away => ?_, fun whole away => ?_, fun k q for_ here => ⟨fun plain => ?_, fun enc fenced => ?_⟩,
      fun sound room gone => runs _ (by rw [rxFrame_unknown sound room gone])⟩
    · obtain ⟨b, goes, rest⟩ := rxFrame_bad up shim bad
      exact ⟨b, runs b goes, rest⟩
    · have ⟨_, _, _, at_, _⟩ := for_
      have ft := (counted_sigOnly s.blk f).ft
      refine ⟨_, rxNewCtx (counted s.blk f) k .load f [] none none, { q with loading := true }, runs _ (congrArg settle (rxFrame_waits for_ away)), ?_, rfl, rfl, rfl, ?_, rfl, rfl⟩
      · have next : (qpLoad k (counted s.blk f)).ft.nextRx = s.blk.ft.nextRx := (congrArg Ft.nextRx ft :)
        rw [rxOpen, next]
        exact tfind_tput_same _ _ _
      · have found : tfind (qpLoad k (counted s.blk f)).ft.qps k = (tfind s.blk.ft.qps k).map (fun q => if q.resident then q else { q with loading := true }) := by
          rw [← ft]
          exact tfind_tmod_same _ _ _
        refine found.trans ?_
        rw [at_, Option.map_some, away]
        rfl
    · exact ⟨_, runs _ rfl, rxFrame_away whole away⟩
    · exact runs _ (by rw [rxFrame_for for_ here, rxResident, plain]; rfl)
    · exact runs _ (by rw [rxFrame_for for_ here, rxResident, enc, allFenced_counted, fenced]; rfl)
  · intro set l k q at_ path plain
    refine ⟨fun valid down up free => ⟨fun here healthy => ?_, fun away => ?_⟩, fun up => ?_⟩
    · exact run_eq (labelProbe_sends at_ path valid down up free plain here healthy)
    · exact run_eq (labelProbe_loads at_ path valid down up free away)
    · exact run_eq (labelProbe_up at_ path up)
  · intro f up shim udp self
    exact ⟨fun fcs ok => run_eq (ptpRx_passes up shim ⟨udp, self⟩ fcs ok), fun bad => ⟨_, run_eq rfl, ptpRx_bad up shim ⟨udp, self⟩ bad⟩⟩
  · exact fun f up away => run_eq (ptpRx_away up away)
  · intro up
    refine ⟨fun k node payload => ⟨run_eq (mgSend_ptp up k node payload), fun bare => linkOut_bare bare⟩, fun node payload => ?_⟩
    obtain ⟨f, sends, rest⟩ := mgSend_qp0 up node payload
    exact ⟨f, run_eq sends, rest⟩
  · exact fun down m => run_eq (by simp [mgSend, down])

end Sys2Proof.Laws

/-!
Accesses of the windows of BAR4: those that begin, those that are refused, and the reads that time out; and the writes of their registers.
-/
namespace Sys2Proof.Laws

open Sys2Proof Sys2Proof.Machine Sys2Proof.Safety

/-! ### Accesses of BAR4 -/

/-- An access of a function whose port has nothing waiting, and whose landing buffer takes it, is taken. -/
theorem barAccess_taken {fn off len : Nat} {data : Option (List (BitVec 8))} {b : Block} (empty : postQueue b (fn / 128) = [])
    (fits : postFits b (fn / 128) (.bar4 fn off len data) = true) : barAccess fn off len data b = barTake fn off len data b := by
  rw [barAccess, postHold_none empty fits]

/-- A write that the landing buffer does not take waits. -/
theorem barAccess_waits {fn off : Nat} {data : List (BitVec 8)} {b : Block} (up : hostUp b (fn / 128) = true)
    (full : landingSize < landingBytes b (fn / 128) + data.length) : barAccess fn off data.length (some data) b =
      modHp (fun p => { p with queue := tput p.queue (fn / 128) (postQueue b (fn / 128) ++ [.bar4 fn off data.length (some data)]) }) b := by
  have fits : postFits b (fn / 128) (.bar4 fn off data.length (some data)) = false := by
    simp only [postFits, decide_eq_false_iff_not]
    omega
  simp [barAccess, postHold, up, fits]

/-- The access that a request of `len` bytes begins through the window `w`. -/
def winAccess (b : Block) (fn off len : Nat) (data : Option (List (BitVec 8))) (w : Window) : WinAcc :=
  let va := w.base + off % 2 ^ winBits b fn
  ⟨fn, off / 2 ^ winBits b fn, data.isNone, off, len, va, if fn % 128 = 0 then qbits w.ctl 31 28 else (vfPart b fn).getD 0, qbits w.ctl 27 16,
    qbits w.ctl 55 32, qbits w.ctl 2 1 * 2, data.getD [], ⟨va, len, if data.isNone then .read else .write, [], 0, none⟩, none, 0, [], [], none,
    if data.isNone then tkeys (fun _ a => a.fn == fn && !a.read) b.hp.wins else [], false, false⟩

/-- The block in which that access is in progress. -/
def winOpened (b : Block) (a : WinAcc) : Block := modHp (fun p => { p with nextWin := b.hp.nextWin + 1, wins := tput p.wins b.hp.nextWin a }) b

section
variable {b0 b : Block} {fn : Nat} (hears : BarHears b0 fn b)
include hears

/-- A function that hears BAR4 lets the window decide. -/
theorem barTake_heard (off len : Nat) (data : Option (List (BitVec 8))) : barTake fn off len data b0 =
    match tfind b.hp.windows (64 * fn + off / 2 ^ winBits b fn) with
    | none => winUr fn data.isNone false b
    | some w =>
      if !w.ctl.getLsbD 63 || (if w.len < 2 ^ winBits b fn then w.len else 2 ^ winBits b fn) < off % 2 ^ winBits b fn + (if len = 0 then 1 else len)
      then winUr fn data.isNone false b
      else if !(w.ctl.getLsbD (if data.isNone then 1 else 2)) then
        winFail b.hp.nextWin 0x10 (w.base + off % 2 ^ winBits b fn) (winOpened b (winAccess b fn off len data w))
      else winOpened b (winAccess b fn off len data w) := by
  obtain ⟨up, sealed, -, rfl, running, memory, awake, mapped⟩ := hears
  have open_ : (!hostUp b0 (fn / 128) || ideOff b0 fn) = false := by simp [up, sealed]
  have takes : (!mseOn (hostTlp (fn / 128) b0) fn || inD3 (hostTlp (fn / 128) b0) (fn / 128)) = false := by simp [memory, awake]
  have partition : ¬(fn % 128 ≠ 0 ∧ (vfPart (hostTlp (fn / 128) b0) fn).isNone = true) := fun ⟨vf, none_⟩ => by
    have some_ := mapped vf
    rw [Option.isNone_iff_eq_none] at none_
    rw [none_] at some_
    cases some_
  simp only [barTake, open_, running, takes, if_neg partition, Bool.false_eq_true, if_false]
  rfl

/-- With no window, an invalid one or an access past its end, the access is refused. -/
theorem barTake_refused {off len : Nat} {data : Option (List (BitVec 8))} (none_ : tfind b.hp.windows (64 * fn + off / 2 ^ winBits b fn) = none ∨
      ∃ w, tfind b.hp.windows (64 * fn + off / 2 ^ winBits b fn) = some w ∧
        (w.ctl.getLsbD 63 = false ∨ (if w.len < 2 ^ winBits b fn then w.len else 2 ^ winBits b fn) < off % 2 ^ winBits b fn + (if len = 0 then 1 else len))) :
    barTake fn off len data b0 = winUr fn data.isNone false b := by
  rw [barTake_heard hears]
  rcases none_ with none_ | ⟨w, some_, bad⟩
  · rw [none_]
  · rw [some_]
    refine if_pos ?_
    rcases bad with invalid | past
    · rw [invalid, Bool.not_false, Bool.true_or]
    · rw [decide_eq_true past, Bool.or_true]

/-- A valid window that holds the access begins it, and it fails at once where the window lacks the right. -/
theorem barTake_begins {off len : Nat} {data : Option (List (BitVec 8))} {w : Window} (some_ : tfind b.hp.windows (64 * fn + off / 2 ^ winBits b fn) = some w)
    (valid : w.ctl.getLsbD 63 = true)
    (within : off % 2 ^ winBits b fn + (if len = 0 then 1 else len) ≤ (if w.len < 2 ^ winBits b fn then w.len else 2 ^ winBits b fn)) :
    barTake fn off len data b0 = if w.ctl.getLsbD (if data.isNone then 1 else 2) then winOpened b (winAccess b fn off len data w)
      else winFail b.hp.nextWin 0x10 (w.base + off % 2 ^ winBits b fn) (winOpened b (winAccess b fn off len data w)) := by
  have good : ¬(!w.ctl.getLsbD 63 || (if w.len < 2 ^ winBits b fn then w.len else 2 ^ winBits b fn) < off % 2 ^ winBits b fn + (if len = 0 then 1 else len)) = true := by
    simp only [valid, Bool.not_true, Bool.false_or, decide_eq_true_eq]
    omega
  rw [barTake_heard hears, some_]
  refine (if_neg good).trans ?_
  cases w.ctl.getLsbD (if data.isNone then 1 else 2) <;> rfl

theorem barRead_taken (off len : Nat) : barAccess fn off len none b0 = barTake fn off len none b0 := by
  have ⟨_, _, empty, _⟩ := hears
  exact barAccess_taken empty rfl

theorem barWrite_taken (off : Nat) {data : List (BitVec 8)} (room : landingBytes b0 (fn / 128) + data.length ≤ landingSize) :
    barAccess fn off data.length (some data) b0 = barTake fn off data.length (some data) b0 := by
  have ⟨_, _, empty, _⟩ := hears
  exact barAccess_taken empty (decide_eq_true room)

end

theorem wins_opened (b : Block) (a : WinAcc) : tfind (winOpened b a).hp.wins b.hp.nextWin = some a := tfind_tput_same _ _ _

/-! ### Reads that time out -/

/-- What the timeout of a read answers and counts. -/
def winTimedOut (fn : Nat) (b : Block) : Block := fbump F.hpEventsWinTimeout (fn / 128) 1 (cplAbort fn b)

theorem winExpire_open {m : Nat} {a : WinAcc} {b : Block} (at_ : tfind b.hp.wins m = some a) (read : a.read = true) (waits : a.answered = false) :
    winExpire m b = winDrop m (fhRaise (32 * (a.fn / 128) + 37) (.fn a.fn) (vfPart (winTimedOut a.fn b) a.fn) false (winTimedOut a.fn b)) := by
  simp [winExpire, at_, read, waits, winTimedOut]

theorem winTimedOut_answers (fn : Nat) (b : Block) : .completion fn .ca ∈ (winTimedOut fn b).out := List.mem_cons_self

theorem winTimedOut_he (fn : Nat) (b : Block) : (winTimedOut fn b).he = b.he := by
  have sig : SigOnly (statusSet fn 27 b) (cplAbort fn b) := sigOnly_emitTlp _ _ _
  exact sig.he

/-- On a port of the register table the timeout is counted as it should. -/
theorem winTimedOut_counts {fn : Nat} (small : fn / 128 < 2 ^ 32) (b : Block) : fget (winTimedOut fn b) F.hpEventsWinTimeout (fn / 128) =
    satAdd F.hpEventsWinTimeout.max (fget b F.hpEventsWinTimeout (fn / 128)) 1 := by
  have sig : SigOnly (statusSet fn 27 b) (cplAbort fn b) := sigOnly_emitTlp _ _ _
  rw [winTimedOut, fget_fbump_same _ _ _ _ (by decide), sig.fget (f := F.hpEventsWinTimeout) rfl small]
  rfl

/-- Sources beyond the fault hub's tables raise nothing. -/
theorem fhRaise_none {n : Nat} (beyond : 512 ≤ n) (o : Obj) (part : Option Nat) (secondary : Bool) (b : Block) : fhRaise n o part secondary b = b := by
  have none_ : fhClass n = none := by
    unfold fhClass
    repeat' (rw [if_neg (by omega)])
  have records : fhRecord n o part secondary b = b := by simp [fhRecord, none_]
  have still : ¬(fon b F.fhSrcStatusCaptured n && (if fon b F.fhSrcStatusCaptured n then fget b F.fhSrcStatusRung n else 0) < fget b F.fhSrcStatusRung n &&
      2 ≤ fget b F.fhSrcStatusRung n) = true := by
    cases captured : fon b F.fhSrcStatusCaptured n <;> simp
  simp only [fhRaise, records]
  exact if_neg still

/-- What an access that goes takes with it stands in neither the registers nor the receive queues. -/
theorem winDrop_moved (m : Nat) (b : Block) (t : Tbl (BitVec 64)) (halves : Tbl (Nat × Half × BitVec 64)) (queue : Tbl (List Posted)) :
    winDrop m { b with regs := t, halves := halves, hp := { b.hp with queue := queue } } =
      { winDrop m b with regs := t, halves := halves, hp := { (winDrop m b).hp with queue := queue } } := by
  simp only [winDrop, closeTxns, modHp, modFt, modTu]
  cases tfind b.hp.wins m with
  | none => rfl
  | some a => cases acc : a.acc <;> simp only [acc]

theorem winDrop_regs (m : Nat) (b : Block) : (winDrop m b).regs = b.regs := by
  have moved := congrArg Block.regs (winDrop_moved m b b.regs b.halves b.hp.queue)
  exact moved

theorem winDrop_halves (m : Nat) (b : Block) : (winDrop m b).halves = b.halves := by
  have moved := congrArg Block.halves (winDrop_moved m b b.regs b.halves b.hp.queue)
  exact moved

/-- The count that the statement asks for, in a block that has it and goes on as `b` does: a write that waits in its receive queue brings back the
register of `b`. Only the number of a port beyond the two of R429, with which the key of HP_EVENTS may be that of another register, needs it. -/
theorem exists_counted (m h v : Nat) (fits : v < 2 ^ 16) {b : Block} (stands : Stands b.regs (regKey .hpEvents h)) :
    ∃ c, settle (winDrop m c) = settle (winDrop m b) ∧ fget c F.hpEventsWinTimeout h = v ∧ c.out = b.out ∧ c.he = b.he := by
  have high : ∀ k ∈ [regKey .hpEvents h], regKey .ftXport 0 ≤ k := fun k listed => by
    rw [List.mem_singleton.mp listed]
    simp only [regKey, Reg.code]
    omega
  obtain ⟨q, goes⟩ := settle_restored (winDrop m b) (by simp) high
  let word := qset (rget b .hpEvents h) F.hpEventsWinTimeout.hi F.hpEventsWinTimeout.lo v
  let t := tput b.regs (regKey .hpEvents h) word
  let c : Block := { b with regs := t, halves := spare 1 b.halves, hp := { b.hp with queue := q } }
  have back : restored (winDrop m b).regs [regKey .hpEvents h] t = (winDrop m b).regs := by
    rw [winDrop_regs]
    exact (tput_tput _ _ _ _).trans stands
  have drops : winDrop m c = { winDrop m b with regs := t, halves := spare 1 (winDrop m b).halves, hp := { (winDrop m b).hp with queue := q } } := by
    rw [winDrop_halves]
    exact winDrop_moved m b t (spare 1 b.halves) q
  refine ⟨c, by rw [drops]; exact goes t back, ?_, rfl, rfl⟩
  have put : rget c .hpEvents h = word := rget_tput_same b.regs word { b with halves := spare 1 b.halves, hp := { b.hp with queue := q } }
  rw [fget, show F.hpEventsWinTimeout.reg = .hpEvents from rfl, put, qbits_qset_same _ _ _ _ (by decide)]
  exact Nat.mod_eq_of_lt fits

/-- A read that times out, on whatever port its number names. -/
theorem winExpire_answers {m : Nat} {a : WinAcc} {b : Block} (at_ : tfind b.hp.wins m = some a) (read : a.read = true) (waits : a.answered = false) :
    ∃ c, settle (winExpire m b) = settle (winDrop m (fhRaise (32 * (a.fn / 128) + 37) (.fn a.fn) (vfPart c a.fn) false c)) ∧
      fget c F.hpEventsWinTimeout (a.fn / 128) = satAdd F.hpEventsWinTimeout.max (fget b F.hpEventsWinTimeout (a.fn / 128)) 1 ∧
      .completion a.fn .ca ∈ c.out ∧ c.he = b.he := by
  rw [winExpire_open at_ read waits]
  rcases Nat.lt_or_ge (a.fn / 128) 16 with near | far
  · exact ⟨winTimedOut a.fn b, rfl, winTimedOut_counts (by omega) b, winTimedOut_answers a.fn b, winTimedOut_he a.fn b⟩
  · have fits : satAdd F.hpEventsWinTimeout.max (fget b F.hpEventsWinTimeout (a.fn / 128)) 1 < 2 ^ 16 := by
      have most : F.hpEventsWinTimeout.max = 65535 := by decide
      rw [satAdd]
      split <;> omega
    obtain ⟨c, goes, counted, out, he⟩ := exists_counted m (a.fn / 128) _ fits (b := winTimedOut a.fn b) (Stands.tput_same _ _ _)
    rw [fhRaise_none (by omega)]
    refine ⟨c, ?_, counted, out ▸ winTimedOut_answers a.fn b, he.trans (winTimedOut_he a.fn b)⟩
    rw [fhRaise_none (by omega), goes]

/-! ### Writes of the register of a window -/

theorem hp_tdi {b0 b : Block} {w : Agent} {r : Reg} {c i : Nat} (lands : Lands b0 w r c i b) : b.hp.tdi = b0.hp.tdi := by
  have ⟨_, reach, _, _, found, _⟩ := lands
  have tlp {h : Nat} (small : h < 2 ^ 32) : (hostTlp h b0).hp.tdi = b0.hp.tdi := congrArg (fun c => c.hp.tdi) (sigOnly_hostTlp h b0 small).rest
  have bank := bankOf_lt reach
  rw [← found]
  unfold accessArrive
  split
  · rfl
  · dsimp only
    split
    · rfl
    · split <;> exact tlp (by omega)

/-- The window of a register that a write has put into effect. -/
theorem winCtl_windows (fn win : Nat) (pf : Bool) (ctl : BitVec 64) {b : Block} (unlocked : pf = false ∨ b.hp.tdi = []) :
    (winCtl fn win pf ctl b).regs = b.regs ∧ tfind (winCtl fn win pf ctl b).hp.windows (64 * fn + win) =
      some ⟨(rget b .hpWinBase (64 * fn + win)).toNat, (rget b .hpWinLen (64 * fn + win)).toNat, ctl⟩ := by
  let c := winCtl fn win false ctl b
  have same : winCtl fn win pf ctl b = c := by
    rcases unlocked with rfl | none_
    · rfl
    · exact ite_eq_right_iff.mpr fun _ => tdiError_unlocked (b := c) none_ fn
  rw [same]
  exact ⟨rfl, tfind_tput_same _ _ _⟩

/-- What a write of the register puts into effect: its word, with the staged base and length. -/
theorem winCtl_written (i : Nat) (pf : Bool) (new : BitVec 64) {b : Block} (unlocked : pf = false ∨ b.hp.tdi = []) :
    let d := winCtl (i / 64) (i % 64) pf new (rput .hpWinCtl i new b)
    rget d .hpWinCtl i = new ∧ tfind d.hp.windows (64 * (i / 64) + i % 64) = some ⟨(rget b .hpWinBase i).toNat, (rget b .hpWinLen i).toNat, new⟩ := by
  obtain ⟨regs, window⟩ := winCtl_windows (i / 64) (i % 64) pf new (b := rput .hpWinCtl i new b) unlocked
  have staged (r : Reg) (other : r.code ≠ Reg.code .hpWinCtl) : rget (rput .hpWinCtl i new b) r (64 * (i / 64) + i % 64) = rget b r i := by
    rw [Nat.div_add_mod]
    refine rget_rput_other _ _ _ _ _ _ fun same => other ?_
    simp only [regKey] at same
    omega
  have stored : rget (winCtl (i / 64) (i % 64) pf new (rput .hpWinCtl i new b)) .hpWinCtl i = rget (rput .hpWinCtl i new b) .hpWinCtl i := by
    simp only [rget, regs]
  refine ⟨stored.trans (rget_rput_same _ _ _ _), ?_⟩
  rw [window, staged .hpWinBase (by decide), staged .hpWinLen (by decide)]

/-- The word that a masked value writes is the one that the value writes. -/
theorem written_masked (b : Block) (r : Reg) (i : Nat) (val mask : BitVec 64) : written b r i (val &&& mask) mask = written b r i val mask := by
  simp only [written]
  congr 1
  rw [BitVec.and_assoc, BitVec.and_comm mask, BitVec.and_assoc, BitVec.and_self]

/-- The test of R32, as the model makes it. -/
def qpMine (b : Block) (w : Agent) (q : Nat) : Bool :=
  match tfind b.ft.qps q with
  | some x => owns b w x.part
  | none => true

theorem qpMine_iff (b : Block) (w : Agent) (q : Nat) : qpMine b w q = true ↔ QpMine b w q := by
  unfold qpMine QpMine
  cases tfind b.ft.qps q <;> simp

section
variable (i : Nat) (val mask : BitVec 64) {b : Block}

/-- A write of a PF or of the management core names the partition that the window is to act for. -/
theorem winWrite_eq {w : Agent} (own : ∀ p v, w ≠ .vf p v) : regApply w .hpWinCtl i val mask b =
    if owns b w (F.hpWinCtlPartition.of (written b .hpWinCtl i val mask)) &&
      qpMine b w (F.hpWinCtlQp.of (written b .hpWinCtl i val mask))
    then some (winCtl (i / 64) (i % 64) true (written b .hpWinCtl i val mask) (rput .hpWinCtl i (written b .hpWinCtl i val mask) b)) else none := by
  have applied : regApply w .hpWinCtl i val mask b = winWrite w (i / 64) (i % 64) (val &&& mask) mask b := rfl
  rw [applied]
  cases w with
  | vf p v => exact absurd rfl (own p v)
  | pf h =>
    simp only [winWrite, Nat.div_add_mod, written_masked]
    rfl
  | mgmt =>
    simp only [winWrite, Nat.div_add_mod, written_masked]
    rfl

/-- A write of a VF acts for the partition that the VF is mapped to. -/
theorem winWrite_vf (p v : Nat) :
    let new := fset F.hpWinCtlPartition ((vfPart b (128 * p + v)).getD 0) (written b .hpWinCtl i val mask)
    regApply (.vf p v) .hpWinCtl i val mask b =
      if !qpMine b (.vf p v) (F.hpWinCtlQp.of new) then none else some (winCtl (i / 64) (i % 64) false new (rput .hpWinCtl i new b)) := by
  have applied : regApply (.vf p v) .hpWinCtl i val mask b = winWrite (.vf p v) (i / 64) (i % 64) (val &&& mask) mask b := rfl
  rw [applied]
  simp only [winWrite, Nat.div_add_mod, written_masked]
  rfl

end

section
variable {c : Instr} {s : State} {k i : Nat} {half : Half} {val : BitVec 64} {b : Block}

/-- WINDOW_CONTROL_WRITE of a PF or of the management core. -/
theorem windowControl_own {w : Agent} (own : ∀ p v, w ≠ .vf p v) (lands : Lands s.blk w .hpWinCtl k i b) :
    let new := written b .hpWinCtl i val (halfMask half)
    (owns b w (F.hpWinCtlPartition.of new) = false ∨ ¬ QpMine b w (F.hpWinCtlQp.of new) →
      exec (.windowControlWrite w k half val) s = .next { s with blk := regIgnored w .hpWinCtl b }) ∧
    (owns b w (F.hpWinCtlPartition.of new) = true → QpMine b w (F.hpWinCtlQp.of new) → s.blk.hp.tdi = [] →
      ∃ d, exec (.windowControlWrite w k half val) s = .next { s with blk := d } ∧ rget d .hpWinCtl i = new ∧
        tfind d.hp.windows (64 * (i / 64) + i % 64) = some ⟨(rget b .hpWinBase i).toNat, (rget b .hpWinLen i).toNat, new⟩) := by
  intro new
  have does := winWrite_eq i val (halfMask half) (b := b) own
  refine ⟨fun foreign => exec_write_ignored rfl lands (by decide) rfl ?_, fun owner mine unlocked =>
    ⟨_, exec_write_applies rfl lands (by decide) rfl (does.trans (if_pos ?_)), winCtl_written i true new (.inr ((hp_tdi lands).trans unlocked))⟩⟩
  · rw [does]
    refine if_neg ?_
    rw [Bool.and_eq_true, qpMine_iff]
    rintro ⟨owner, mine⟩
    rcases foreign with other | other
    · rw [other] at owner
      cases owner
    · exact other mine
  · rw [Bool.and_eq_true, qpMine_iff]
    exact ⟨owner, mine⟩

/-- WINDOW_CONTROL_WRITE of a VF. -/
theorem windowControl_vf {p v : Nat} (lands : Lands s.blk (.vf p v) .hpWinCtl k i b) :
    let new := fset F.hpWinCtlPartition ((vfPart b (128 * p + v)).getD 0) (written b .hpWinCtl i val (halfMask half))
    (¬ QpMine b (.vf p v) (F.hpWinCtlQp.of new) → exec (.windowControlWrite (.vf p v) k half val) s =
      .next { s with blk := regIgnored (.vf p v) .hpWinCtl b }) ∧
    (QpMine b (.vf p v) (F.hpWinCtlQp.of new) → ∃ d, exec (.windowControlWrite (.vf p v) k half val) s = .next { s with blk := d } ∧
      rget d .hpWinCtl i = new ∧
      tfind d.hp.windows (64 * (i / 64) + i % 64) = some ⟨(rget b .hpWinBase i).toNat, (rget b .hpWinLen i).toNat, new⟩) := by
  intro new
  have does := winWrite_vf i val (halfMask half) (b := b) p v
  refine ⟨fun other => exec_write_ignored rfl lands (by decide) rfl (does.trans (if_pos ?_)), fun mine =>
    ⟨_, exec_write_applies rfl lands (by decide) rfl (does.trans (if_neg ?_)), winCtl_written i false new (.inl rfl)⟩⟩
  · rw [Bool.not_eq_true', ← Bool.not_eq_true, qpMine_iff]
    exact other
  · rw [Bool.not_eq_true', ← Bool.not_eq_true, not_not, qpMine_iff]
    exact mine

end

/-! ### The obligation -/

/-- Settles O49. An access that begins opens the access of its window. The clause on the timeout asks for some block `c` with the count: it is
the block as the timeout leaves it, but for an access of a port numbered from 16 on. No variant has such a port, so no run makes that access;
there `c` holds in its receive queue a write that restores a register. -/
theorem windowAccessesBeginOrAreRefused : Obligations.WindowAccessesBeginOrAreRefused := by
  unfold Obligations.WindowAccessesBeginOrAreRefused
  intro s h fn off data b f k n
  have empty : ∀ m, tfind s.blk.hp.wins m = none → winExpire m s.blk = s.blk := fun m none_ => by rw [winExpire, none_]
  refine ⟨fun hears none_ => ⟨?_, fun room => ?_⟩, fun up full => run_settle_eq (barAccess_waits up full), fun w hears some_ valid within =>
    ⟨winOpened b (winAccess b f off data.length none w), winOpened b (winAccess b f off data.length (some data) w),
      winAccess b f off data.length none w, winAccess b f off data.length (some data) w, ?_, fun room => ?_, wins_opened b _, wins_opened b _,
      rfl, rfl, rfl, rfl, rfl, rfl, rfl, rfl, rfl, rfl, rfl, rfl, rfl, rfl, rfl, rfl⟩,
    fun a m at_ read waits => ?_, fun m none_ => run_settle_eq (empty m none_), fun w half val win i lands own => windowControl_own own lands,
    fun p v half val win i lands => windowControl_vf lands⟩
  · exact run_settle_eq ((barRead_taken hears off data.length).trans (barTake_refused hears none_))
  · exact run_settle_eq ((barWrite_taken hears off room).trans (barTake_refused hears none_))
  · exact run_settle_eq ((barRead_taken hears off data.length).trans (barTake_begins hears some_ valid within))
  · exact run_settle_eq ((barWrite_taken hears off room).trans (barTake_begins hears some_ valid within))
  · obtain ⟨c, goes, counted, answered, he⟩ := winExpire_answers at_ read waits
    have ran : exec (.windowReadTimeout m) s = .next { s with blk := settle (winExpire m s.blk) } := run_settle_eq rfl
    rw [ran, goes]
    exact ⟨c, rfl, counted, answered, he⟩

end Sys2Proof.Laws
